-- ==== Sys2Proof/Word.lean ====
section
/-! DEFINITION. The word types of the P9 (spec/00_scope.md R6 to R11): a word is 16 bits, a device address is a word
address, a general register holds 64 bits. Only the types and the plainest arithmetic stand here. -/

namespace Sys2Proof

/-- A device word (R6). -/
abbrev Word := BitVec 16
/-- A byte; byte 0 of a word is its bits [7:0] (R9). -/
abbrev Byte := BitVec 8
/-- A control register or an FP32 pattern (R41, R60). -/
abbrev W32 := BitVec 32
/-- A general or control register of a strand (R88). -/
abbrev W64 := BitVec 64
/-- A vector register (R173). -/
abbrev VReg := BitVec 2048

/-- Bits [hi:lo] of a natural number (R11), as a number. -/
def natBits (n hi lo : Nat) : Nat := (n / 2 ^ lo) % 2 ^ (hi + 1 - lo)

/-- Bit b of a natural number. -/
def natBit (n b : Nat) : Bool := (n / 2 ^ b) % 2 == 1

/-- n with bits [hi:lo] replaced by the low bits of v. -/
def natSetBits (n hi lo v : Nat) : Nat :=
  n - natBits n hi lo * 2 ^ lo + (v % 2 ^ (hi + 1 - lo)) * 2 ^ lo

/-- A number read as a two's-complement value of w bits. -/
def natSigned (n w : Nat) : Int :=
  if 2 ^ (w - 1) ≤ n % 2 ^ w then (n % 2 ^ w : Nat) - (2 ^ w : Nat) else ((n % 2 ^ w : Nat) : Int)

end Sys2Proof
end

