-- ==== Sys2Proof/Syntax.lean ====
section
/-! DEFINITION. The commands of the block: one constructor per row of spec/opcode_table.json, in the table's
order. A strand's instruction names its strand and the fields of its encoding (spec/03_scalar_core.md R110,
spec/05_long_vectors.md R184, spec/06_tiles_and_matrix_arrays.md R218). An event names the unit it happens at
and, where the spec leaves the matter to the world outside the model (a received frame, a measured value, an
error found in a memory cell, how long a result takes), that matter as an operand. -/

namespace Sys2Proof

/-- A strand: core number and strand number, written core.strand (R19). -/
structure StrandId where
  core : Fin 1024
  strand : Fin 8
  deriving DecidableEq, Repr

/-- The addressing modes of the M format (R119). -/
inductive AMode where
  /-- Offset: ra + imm14 sign-extended. -/
  | off (imm : BitVec 14)
  /-- Post-increment: ra, then ra := ra + imm14 sign-extended. -/
  | postInc (imm : BitVec 14)
  /-- Pre-decrement: ra - imm14 zero-extended, and ra := EA. -/
  | preDec (imm : BitVec 14)
  /-- Indexed: ra + rb x scale; scale code 0 to 3 is 1, 2, 4 or 8 words. -/
  | indexed (rb : Fin 32) (scale : Fin 4)
  deriving DecidableEq, Repr

/-- A configurable block of the control space (R40). -/
inductive BlockId where
  | cls (n : Fin 64) | dma (n : Fin 64) | mesh (n : Fin 4) | eth (n : Fin 16) | pci (n : Fin 2)
  | hmc (n : Fin 8) | pmp (n : Fin 8) | syl (n : Fin 8) | bel
  deriving DecidableEq, Repr

/-- What the SECDED decoder meets in one group of four words of a classroom line (R292). -/
inductive GroupErr where
  /-- A single-bit error: corrected and written back. -/
  | single
  /-- Two bits, or more that the code detects: the group is poisoned. -/
  | uncorrectable
  /-- Three or more bits, miscorrected as a single-bit error: these words result, and the error counts as corrected. -/
  | miscorrected (w0 w1 w2 w3 : Word)
  /-- Three or more bits, not detected: these words result. -/
  | undetected (w0 w1 w2 w3 : Word)
  deriving DecidableEq, Repr

/-- What the Reed-Solomon decoder meets in one HBM line (R337). -/
inductive LineErr where
  | none
  /-- One or two symbols: corrected and written back. -/
  | corrected
  /-- More than two symbols, detected. -/
  | uncorrectable
  /-- More than two symbols, taken for another codeword: these words result. -/
  | miscorrected (ws : List Word)
  deriving DecidableEq, Repr

/-- The originator of a ring transaction (R30). -/
inductive RingOrigin where
  | warden
  | reeve (die : Fin 4)
  deriving DecidableEq, Repr

/-- A school frame as a port receives it (R439, R440): its fields as the decrypted data hold them, the 16
bytes of its ICV, `udpErr` what its UDP checksum differs by from the right one (exclusive or, 0 when it is
right), `sci` the MAC address in its SCI, the first byte on the wire least significant. The packet number is
the whole one. WID of a DONE or NAK is the window that it is about (log entry 58). -/
structure Frame where
  icv : List Byte
  sci : Nat
  pn : Nat
  udpErr : Nat
  ver : Nat
  poison : Bool
  last : Bool
  src : Nat
  dst : Nat
  job : W32
  step : W32
  period : Nat
  wid : Nat
  frame : Nat
  op : Nat
  aux : Nat
  payload : List Word
  deriving DecidableEq, Repr

/-- What a RoCEv2 responder answered (R455). -/
inductive RoceAnswer where
  /-- Every packet up to this sequence number is acknowledged. -/
  | ack (psn : Nat)
  /-- A NAK with this syndrome. -/
  | nak (syndrome : Nat)
  /-- RDMA READ response data. -/
  | readData (psn : Nat) (data : List Byte)
  deriving DecidableEq, Repr

/-- One measurement of the module (R555, R562, R592): powers in mW, voltage in 10 mV, current in 10 mA,
coolant in 0.1 C, sensors in C. -/
structure Sample where
  p1 : Nat
  a10 : Nat
  a1s : Nat
  vin : Nat
  iin : Nat
  inlet : Int
  outlet : Int
  cd : List Int
  io : List Int
  base : List Int
  deriving DecidableEq, Repr

/-- A PLL that can lock (R568). -/
inductive PllId where
  | classroom (n : Fin 64) | mesh (n : Fin 4) | stack (n : Fin 8) | ethTx (n : Fin 16) | pcie (n : Fin 2)
  deriving DecidableEq, Repr

/-- How a PCIe port is reset (R484). -/
inductive PcieResetKind where
  | flr | hot | perst
  deriving DecidableEq, Repr

/-- A PCIe link in L0 (R481): speed 0 to 5 for 64, 32, 16, 8, 5 and 2.5 GT/s, width 0 to 3 for x8, x4, x2 and
x1, whether the host supports FLIT mode below 64 GT/s. -/
structure PcieLink where
  speed : Fin 6
  width : Fin 4
  flit : Bool
  deriving DecidableEq, Repr

/-- What the host configures of a port's function (R481, R483): Memory Space Enable, bits [63:24] of BAR0's
base, Bus Master Enable, MSI-X Enable and Function Mask, D3hot, ASPM L1, Max Payload Size as 128, 256 or 512
bytes. -/
structure PcieCfg where
  memEn : Bool
  bar0 : BitVec 40
  bme : Bool
  msixOn : Bool
  msixMask : Bool
  d3hot : Bool
  aspmL1 : Bool
  mps : Fin 3
  deriving DecidableEq, Repr

/-- What a host's write to a port addresses, PH_FLAG apart (R486, log entry 60): the window of a pigeonhole,
the MSI-X table, or the function's configuration, given as what it holds afterwards and the AER status bits
that are cleared (it has no offset and no bytes of its own). -/
inductive HostSpace where
  | window (h : Fin 8)
  | table
  | config (c : PcieCfg) (clear : W32)
  deriving DecidableEq, Repr

/-- Why a port drops a received frame (R433, R436, R442): its ICV fails, and how many of its FEC codewords could not be
corrected. -/
structure DropCause where
  icvFail : Bool
  fec : Nat
  deriving DecidableEq, Repr

/-- The commands, one per row of spec/opcode_table.json. -/
inductive Instr where
  | nop (u : StrandId)
  | wait (u : StrandId)
  | isync (u : StrandId)
  | cinv (u : StrandId)
  | xret (u : StrandId)
  | pmask (u : StrandId) (rd : Fin 32)
  | trap (u : StrandId) (n : Fin 32)
  | brk (u : StrandId)
  | add (u : StrandId) (rd ra rb : Fin 32)
  | sub (u : StrandId) (rd ra rb : Fin 32)
  | and (u : StrandId) (rd ra rb : Fin 32)
  | or (u : StrandId) (rd ra rb : Fin 32)
  | xor (u : StrandId) (rd ra rb : Fin 32)
  | shl (u : StrandId) (rd ra rb : Fin 32)
  | shr (u : StrandId) (rd ra rb : Fin 32)
  | sar (u : StrandId) (rd ra rb : Fin 32)
  | cmpeq (u : StrandId) (rd ra rb : Fin 32)
  | cmpne (u : StrandId) (rd ra rb : Fin 32)
  | cmplt (u : StrandId) (rd ra rb : Fin 32)
  | cmpltu (u : StrandId) (rd ra rb : Fin 32)
  | min (u : StrandId) (rd ra rb : Fin 32)
  | max (u : StrandId) (rd ra rb : Fin 32)
  | minu (u : StrandId) (rd ra rb : Fin 32)
  | maxu (u : StrandId) (rd ra rb : Fin 32)
  | addi (u : StrandId) (rd ra : Fin 32) (imm : BitVec 16)
  | andi (u : StrandId) (rd ra : Fin 32) (imm : BitVec 16)
  | ori (u : StrandId) (rd ra : Fin 32) (imm : BitVec 16)
  | xori (u : StrandId) (rd ra : Fin 32) (imm : BitVec 16)
  | shli (u : StrandId) (rd ra : Fin 32) (sh : Fin 64)
  | shri (u : StrandId) (rd ra : Fin 32) (sh : Fin 64)
  | sari (u : StrandId) (rd ra : Fin 32) (sh : Fin 64)
  | movi (u : StrandId) (rd : Fin 32) (imm : BitVec 16)
  | movk (u : StrandId) (rd : Fin 32) (hw : Fin 4) (imm : BitVec 16)
  | cmpeqi (u : StrandId) (rd ra : Fin 32) (imm : BitVec 16)
  | cmplti (u : StrandId) (rd ra : Fin 32) (imm : BitVec 16)
  | bfx (u : StrandId) (rd ra : Fin 32) (pos len1 : Fin 64)
  | bfxs (u : StrandId) (rd ra : Fin 32) (pos len1 : Fin 64)
  | bfi (u : StrandId) (rd ra : Fin 32) (pos len1 : Fin 64)
  | clz (u : StrandId) (rd ra : Fin 32)
  | bperm (u : StrandId) (rd ra rb : Fin 32)
  | mul (u : StrandId) (rd ra rb : Fin 32)
  | mulh (u : StrandId) (rd ra rb : Fin 32)
  | mulhu (u : StrandId) (rd ra rb : Fin 32)
  | div (u : StrandId) (rd ra rb : Fin 32) (late : Bool)
  | divu (u : StrandId) (rd ra rb : Fin 32) (late : Bool)
  | rem (u : StrandId) (rd ra rb : Fin 32) (late : Bool)
  | remu (u : StrandId) (rd ra rb : Fin 32) (late : Bool)
  | ldw (u : StrandId) (rt ra : Fin 32) (m : AMode) (late : Bool)
  | ldws (u : StrandId) (rt ra : Fin 32) (m : AMode) (late : Bool)
  | ldd (u : StrandId) (rt ra : Fin 32) (m : AMode) (late : Bool)
  | ldds (u : StrandId) (rt ra : Fin 32) (m : AMode) (late : Bool)
  | ldq (u : StrandId) (rt ra : Fin 32) (m : AMode) (late : Bool)
  | ldf (u : StrandId) (ft ra : Fin 32) (m : AMode) (late : Bool)
  | stw (u : StrandId) (rt ra : Fin 32) (m : AMode)
  | std (u : StrandId) (rt ra : Fin 32) (m : AMode)
  | stq (u : StrandId) (rt ra : Fin 32) (m : AMode)
  | stf (u : StrandId) (ft ra : Fin 32) (m : AMode)
  | bc (u : StrandId) (ra : Fin 32) (cond : Fin 8) (off : BitVec 18)
  | b (u : StrandId) (off : BitVec 26)
  | call (u : StrandId) (gl : Fin 32) (off : BitVec 21)
  | jr (u : StrandId) (ra : Fin 32)
  | callr (u : StrandId) (gl ra : Fin 32)
  | loop (u : StrandId) (n : BitVec 11) (ra : Fin 32)
  | loopi (u : StrandId) (n : BitVec 11) (count : BitVec 10)
  | mfc (u : StrandId) (g : Fin 32) (c : Fin 64)
  | mtc (u : StrandId) (g : Fin 32) (c : Fin 64)
  | fadd (u : StrandId) (fd fa fb : Fin 32)
  | fsub (u : StrandId) (fd fa fb : Fin 32)
  | fmul (u : StrandId) (fd fa fb : Fin 32)
  | fmin (u : StrandId) (fd fa fb : Fin 32)
  | fmax (u : StrandId) (fd fa fb : Fin 32)
  | fabs (u : StrandId) (fd fa : Fin 32)
  | fneg (u : StrandId) (fd fa : Fin 32)
  | fcmpeq (u : StrandId) (gd fa fb : Fin 32)
  | fcmplt (u : StrandId) (gd fa fb : Fin 32)
  | fcmple (u : StrandId) (gd fa fb : Fin 32)
  | fmvgf (u : StrandId) (fd ra : Fin 32)
  | fmvfg (u : StrandId) (gd fa : Fin 32)
  | fma (u : StrandId) (fd fa fb fc : Fin 32)
  | fdiv (u : StrandId) (fd fa fb : Fin 32) (late : Bool)
  | fsqrt (u : StrandId) (fd fa : Fin 32) (late : Bool)
  | fcvtFp32Bf16 (u : StrandId) (fd fa : Fin 32)
  | fcvtFp32Fp16 (u : StrandId) (fd fa : Fin 32)
  | fcvtBf16Fp32 (u : StrandId) (fd fa : Fin 32)
  | fcvtFp16Fp32 (u : StrandId) (fd fa : Fin 32)
  | fcvtFp32I16 (u : StrandId) (gd fa : Fin 32)
  | fcvtI16Fp32 (u : StrandId) (fd ga : Fin 32)
  | resultComputed (u : StrandId) (reg : Fin 136)
  | exceptionEntry (u : StrandId) (insn : W32)
  | vlset (u : StrandId) (gd ra : Fin 32) (sew : Fin 4) (fmt : Bool)
  | vlseti (u : StrandId) (gd : Fin 32) (sew : Fin 4) (fmt : Bool) (imm : BitVec 12)
  | vmfc (u : StrandId) (g : Fin 32) (vc : Fin 8)
  | vmtc (u : StrandId) (g : Fin 32) (vc : Fin 8)
  | vld (u : StrandId) (vd ra : Fin 32) (m late : Bool)
  | vst (u : StrandId) (vs ra : Fin 32) (m : Bool)
  | vlds (u : StrandId) (vd ra rb : Fin 32) (m late : Bool)
  | vsts (u : StrandId) (vs ra rb : Fin 32) (m : Bool)
  | vldx (u : StrandId) (vd ra vi : Fin 32) (m : Bool) (iw sc : Fin 4) (late : Bool)
  | vstx (u : StrandId) (vs ra vi : Fin 32) (m : Bool) (iw sc : Fin 4)
  | vlseg (u : StrandId) (vd ra : Fin 32) (m : Bool) (nf1 : Fin 4) (late : Bool)
  | vsseg (u : StrandId) (vs ra : Fin 32) (m : Bool) (nf1 : Fin 4)
  | vadd (u : StrandId) (vd va vb : Fin 32) (m : Bool)
  | vsub (u : StrandId) (vd va vb : Fin 32) (m : Bool)
  | vand (u : StrandId) (vd va vb : Fin 32) (m : Bool)
  | vor (u : StrandId) (vd va vb : Fin 32) (m : Bool)
  | vxor (u : StrandId) (vd va vb : Fin 32) (m : Bool)
  | vshl (u : StrandId) (vd va vb : Fin 32) (m : Bool)
  | vshr (u : StrandId) (vd va vb : Fin 32) (m : Bool)
  | vsar (u : StrandId) (vd va vb : Fin 32) (m : Bool)
  | vmin (u : StrandId) (vd va vb : Fin 32) (m : Bool)
  | vmax (u : StrandId) (vd va vb : Fin 32) (m : Bool)
  | vminu (u : StrandId) (vd va vb : Fin 32) (m : Bool)
  | vmaxu (u : StrandId) (vd va vb : Fin 32) (m : Bool)
  | vmul (u : StrandId) (vd va vb : Fin 32) (m : Bool)
  | vcmpeq (u : StrandId) (vd va vb : Fin 32) (m : Bool)
  | vcmplt (u : StrandId) (vd va vb : Fin 32) (m : Bool)
  | vcmpltu (u : StrandId) (vd va vb : Fin 32) (m : Bool)
  | vmv (u : StrandId) (vd va : Fin 32) (m : Bool)
  | vsplat (u : StrandId) (vd gb : Fin 32) (m : Bool)
  | vmvxs (u : StrandId) (gd va : Fin 32) (m : Bool)
  | vsadd (u : StrandId) (vd va vb : Fin 32) (m : Bool)
  | vssub (u : StrandId) (vd va vb : Fin 32) (m : Bool)
  | vsmulr (u : StrandId) (vd va vb : Fin 32) (m : Bool)
  | vsshr (u : StrandId) (vd va vb : Fin 32) (m : Bool)
  | vsshl (u : StrandId) (vd va vb : Fin 32) (m : Bool)
  | vfadd (u : StrandId) (vd va vb : Fin 32) (m : Bool)
  | vfsub (u : StrandId) (vd va vb : Fin 32) (m : Bool)
  | vfmul (u : StrandId) (vd va vb : Fin 32) (m : Bool)
  | vfmin (u : StrandId) (vd va vb : Fin 32) (m : Bool)
  | vfmax (u : StrandId) (vd va vb : Fin 32) (m : Bool)
  | vfabs (u : StrandId) (vd va : Fin 32) (m : Bool)
  | vfneg (u : StrandId) (vd va : Fin 32) (m : Bool)
  | vfcmpeq (u : StrandId) (vd va vb : Fin 32) (m : Bool)
  | vfcmplt (u : StrandId) (vd va vb : Fin 32) (m : Bool)
  | vfcmple (u : StrandId) (vd va vb : Fin 32) (m : Bool)
  | vfredsum (u : StrandId) (fd va : Fin 32) (m late : Bool)
  | vfredmax (u : StrandId) (fd va : Fin 32) (m late : Bool)
  | vfma (u : StrandId) (vd va vb vc : Fin 32) (m : Bool)
  | vcvtFp32Bf16 (u : StrandId) (vd va : Fin 32) (m : Bool) (rm : Fin 8)
  | vcvtFp32Fp16 (u : StrandId) (vd va : Fin 32) (m : Bool) (rm : Fin 8)
  | vcvtBf16Fp32 (u : StrandId) (vd va : Fin 32) (m : Bool) (rm : Fin 8)
  | vcvtFp16Fp32 (u : StrandId) (vd va : Fin 32) (m : Bool) (rm : Fin 8)
  | vcvtFp32I16 (u : StrandId) (vd va : Fin 32) (m : Bool) (rm : Fin 8)
  | vcvtI16Fp32 (u : StrandId) (vd va : Fin 32) (m : Bool) (rm : Fin 8)
  | vcvtFp32Q8 (u : StrandId) (vd va vb : Fin 32) (m : Bool) (rm : Fin 8)
  | vcvtFp32Q6 (u : StrandId) (vd va vb : Fin 32) (m : Bool) (rm : Fin 8)
  | vcvtFp32Q4 (u : StrandId) (vd va vb : Fin 32) (m : Bool) (rm : Fin 8)
  | vcvtFp32I8 (u : StrandId) (vd va vb : Fin 32) (m : Bool) (rm : Fin 8)
  | vcvtQ8Fp32 (u : StrandId) (vd va vb : Fin 32) (m : Bool) (rm : Fin 8)
  | vcvtQ6Fp32 (u : StrandId) (vd va vb : Fin 32) (m : Bool) (rm : Fin 8)
  | vcvtQ4Fp32 (u : StrandId) (vd va vb : Fin 32) (m : Bool) (rm : Fin 8)
  | vcvtI8Fp32 (u : StrandId) (vd va vb : Fin 32) (m : Bool) (rm : Fin 8)
  | tshape (u : StrandId) (g : Fin 32)
  | tmfc (u : StrandId) (g : Fin 32) (tc : Fin 8)
  | tmtc (u : StrandId) (g : Fin 32) (tc : Fin 8)
  | tqdrop (u : StrandId)
  | tfence (u : StrandId)
  | tld (u : StrandId) (t : Fin 8) (ra rb : Fin 32)
  | tldT (u : StrandId) (t : Fin 8) (ra rb : Fin 32)
  | tst (u : StrandId) (t : Fin 8) (ra rb : Fin 32)
  | twld (u : StrandId) (a : Fin 2) (ra rb : Fin 32)
  | twldT (u : StrandId) (a : Fin 2) (ra rb : Fin 32)
  | tmac (u : StrandId) (sl : Fin 32) (a : Fin 2) (t : Fin 8) (b : Fin 8) (swap sr : Bool)
  | taccZero (u : StrandId) (sl : Fin 32) (a : Fin 2) (ra rb : Fin 32)
  | taccRead (u : StrandId) (sl : Fin 32) (a : Fin 2) (t : Fin 8) (fmt rm b : Fin 8)
  | taccSpill (u : StrandId) (sl : Fin 32) (a : Fin 2) (ra : Fin 32) (z : Bool)
  | tileCommit (u : StrandId)
  | bankAccess (cl : Fin 64) (bank : Fin 16) (errs : List (Fin 8 × GroupErr))
  | cacheFill (core : Fin 1024)
  | dmaActivate (cl : Fin 64)
  | dmaPieceIssue (cl : Fin 64)
  | dmaPieceWrite (cl : Fin 64) (n : Nat)
  | hbmRequest (k : Fin 8) (src : Nat) (line : BitVec 30) (wr : Bool) (mask : BitVec 32) (ws : List Word)
  | ticketRecall (k : Fin 8) (bank : Fin 4096)
  | dramAccess (k : Fin 8) (bank : Fin 4096) (err : LineErr)
  | refresh (k : Fin 8) (bank : Fin 4096)
  | patrolScrub (k : Fin 8) (err : LineErr)
  | refreshBandChange (k : Fin 8) (temp : BitVec 8)
  | wipe (k : Fin 8)
  | wipeEnd (k : Fin 8)
  | hmcKeyClear (k : Fin 8)
  | hmcKeyWrite (k : Fin 8) (n : Fin 16) (v : W32)
  | ethKeyClear (n : Fin 16)
  | ethKeyWrite (p : Fin 16) (n : Fin 13) (v : W32)
  | scacheInv (cl : Fin 64) (mask : BitVec 16)
  | padHold (blk : BlockId)
  | plReq (cl : Fin 64) (lvl : Fin 8)
  | levelChangeDone (cl : Fin 64)
  | clk (cl : Fin 64)
  | run (blk : BlockId) (v : Bool)
  | agreementCheck (blk : BlockId)
  | blockDrained (blk : BlockId)
  | stopHung (blk : BlockId)
  | registerWrite (blk : BlockId) (off : BitVec 10) (v : W32)
  | rcRead (blk : BlockId) (off : BitVec 10)
  | ringRequest (o : RingOrigin) (node : Fin 128) (off : BitVec 16) (wr : Option W32)
  | ringResponse (o : RingOrigin)
  | report (node : Fin 128)
  | classroomRelease (cl : Fin 64)
  | lessonEnd (u : StrandId)
  | pumpRelease (k : Fin 8)
  | pass1Complete (k : Fin 8)
  | pass2Complete (k : Fin 8)
  | deviceReady
  | bellRing (ns : Nat)
  | haltStop
  | periodHang
  | peerSilent (rank : Fin 1024)
  | readyRepeat
  | windowStart (w : Nat)
  | frameTransmit (p : Fin 16)
  | data (p : Fin 16) (f : Frame) (lateNs : Nat)
  | done (p : Fin 16) (f : Frame)
  | nak (p : Fin 16) (f : Frame)
  | nakTimer (p : Fin 16) (w : Nat)
  | doneTimeout (p : Fin 16) (w : Nat)
  | ready (p : Fin 16) (f : Frame)
  | ring (p : Fin 16) (f : Frame)
  | halt (p : Fin 16) (f : Frame)
  | agree (p : Fin 16) (f : Frame)
  | probe (p : Fin 16) (f : Frame)
  | probeReply (p : Fin 16) (f : Frame) (rttNs : Nat)
  | wake (p : Fin 16) (dstMatch : Bool)
  | linkDown (p : Fin 16)
  | linkUp (p : Fin 16)
  | roceRequestIn (p : Fin 16)
  | roceCnp (p : Fin 16)
  | roceRateRise (p : Fin 16)
  | phFlag (p : Fin 2) (h : Fin 8) (v : W32)
  | commandAccept
  | longCommandDone
  | ident (p : Fin 2) (h : Fin 8)
  | heartbeat (p : Fin 2) (h : Fin 8)
  | roleHandover (p : Fin 2) (h : Fin 8)
  | roleClaim (p : Fin 2) (h : Fin 8)
  | eventRead (p : Fin 2) (h : Fin 8)
  | settingsRead (p : Fin 2) (h : Fin 8)
  | settingsWrite (p : Fin 2) (h : Fin 8)
  | regRead (p : Fin 2) (h : Fin 8)
  | regWrite (p : Fin 2) (h : Fin 8)
  | powerStateRun (p : Fin 2) (h : Fin 8)
  | powerStatePause (p : Fin 2) (h : Fin 8)
  | powerStateRecess (p : Fin 2) (h : Fin 8)
  | powerStateClosed (p : Fin 2) (h : Fin 8)
  | powerStateSleep (p : Fin 2) (h : Fin 8)
  | attest (p : Fin 2) (h : Fin 8)
  | ideKeyx (p : Fin 2) (h : Fin 8)
  | ideStart (p : Fin 2) (h : Fin 8)
  | ideFail (p : Fin 2)
  | fwBlock (p : Fin 2) (h : Fin 8)
  | fwCommit (p : Fin 2) (h : Fin 8)
  | fwAbort (p : Fin 2) (h : Fin 8)
  | jobBlock (p : Fin 2) (h : Fin 8)
  | jobLoad (p : Fin 2) (h : Fin 8)
  | jobStart (p : Fin 2) (h : Fin 8)
  | jobAbort (p : Fin 2) (h : Fin 8)
  | jobStatus (p : Fin 2) (h : Fin 8)
  | jobUnload (p : Fin 2) (h : Fin 8)
  | schoolRejoin (p : Fin 2) (h : Fin 8)
  | roceQp (p : Fin 2) (h : Fin 8)
  | stageInput (p : Fin 2) (h : Fin 8)
  | stepResync (p : Fin 2) (h : Fin 8)
  | retiredRows (p : Fin 2) (h : Fin 8)
  | sleeperStatus (p : Fin 2) (h : Fin 8)
  | shardRefill (p : Fin 2) (h : Fin 8)
  | shardResume (p : Fin 2) (h : Fin 8)
  | shardRebuild (p : Fin 2) (h : Fin 8)
  | checkpointSave (p : Fin 2) (h : Fin 8)
  | checkpointLoad (p : Fin 2) (h : Fin 8)
  | replay (p : Fin 2) (h : Fin 8)
  | corePigeonMessage (core : Fin 1024)
  | log (core : Fin 1024)
  | query (core : Fin 1024)
  | corePigeonReply (core : Fin 1024)
  | ownerTimeout
  | pcieLinkChange (p : Fin 2) (link : Option PcieLink)
  | pcieReset (p : Fin 2) (kind : PcieResetKind)
  | coldReset
  | computeReset
  | classroomReset (mask : BitVec 64)
  | coreReset (core : Fin 1024)
  | stackReset (mask : BitVec 8)
  | portReset (mask : BitVec 18)
  | romWatchdog
  | inputInRange
  | inputOutOfRange
  | moduleRstFall
  | moduleRstRise
  | fuseSense
  | settingsMount
  | hbmBringup
  | computeBringup
  | stagingErase
  | dstateReady
  | flashRefresh (worn : Bool)
  | flashBad (blk : Fin 512)
  | eventLogFlush
  | refusalStore
  | pllLock (x : PllId)
  | spillwayTick (m : Sample)
  | floorTick
  | pl0ResidencyTick
  | sluiceDroop (cl : Fin 64)
  | sluiceRelease (cl : Fin 64)
  | breach (node : Fin 128) (temp : Nat)
  | breachClear
  | corePause (core : Fin 1024)
  | coreWake (core : Fin 1024)
  | recessEntry (cl : Fin 64)
  | recessWake (cl : Fin 64) (code : Fin 16)
  | powerStateTimeout
  | deviceWake (code : Fin 16)
  | getTid
  | getPldmVersion (ty : Fin 256)
  | getPldmTypes
  | getPldmCommands (ty : Fin 256)
  | getPdrRepositoryInfo
  | getPdr (handle : Nat)
  | getSensorReading (id : Nat)
  | getStateSensorReadings (id : Nat)
  | pldmUnsupported (ty cmd : Fin 256)
  | setEndpointId (eid : Fin 256)
  | getEndpointId
  | getMctpVersionSupport
  | getMessageTypeSupport
  | setaasa
  | entdaa (addr : Fin 128)
  | droppedFrame (p : Fin 16) (why : DropCause)
  | priorityFlowControl (p : Fin 16) (prio : Fin 8) (pause : Bool)
  | roceResponse (p : Fin 16) (qp : Nat) (a : RoceAnswer)
  | roceRetry (p : Fin 16) (qp : Nat)
  | commandBlockWrite (p : Fin 2) (sp : HostSpace) (off : BitVec 20) (bs : List Byte)
  | rcCounterSweep
  deriving DecidableEq, Repr

end Sys2Proof
end

