-- ==== Sys2Proof/Decode.lean ====
section
/-! DEFINITION. The commands carry no bits in spec/opcode_table.json, so `decodeTableWord` reads none. Below
it stands the encoding of a strand's instructions (spec/03 R110 to R112, spec/05 R184, spec/06 R218), which an
exception frame records (R161), and the check of a fetched word that R112 makes. -/

namespace Sys2Proof

/-- The command that a word spells by the table's bits: no row of the table has bits. -/
def decodeTableWord (_nbits _w : Nat) : Option Instr := none

/-- A word from its major opcode and the fields below it, given as (lowest bit, value). -/
def encFields (major : Nat) (fs : List (Nat × Nat)) : W32 :=
  BitVec.ofNat 32 (fs.foldl (fun a f => a + f.2 * 2 ^ f.1) (major * 2 ^ 26))

/-- R format (R110). -/
def encR (major rd ra rb func : Nat) : W32 := encFields major [(21, rd), (16, ra), (11, rb), (0, func)]
/-- I format. -/
def encI (major rd ra imm : Nat) : W32 := encFields major [(21, rd), (16, ra), (0, imm)]
/-- M format (R119). -/
def encM (major rt ra : Nat) (m : AMode) : W32 :=
  match m with
  | .off i => encFields major [(21, rt), (16, ra), (14, 0), (0, i.toNat)]
  | .postInc i => encFields major [(21, rt), (16, ra), (14, 1), (0, i.toNat)]
  | .preDec i => encFields major [(21, rt), (16, ra), (14, 2), (0, i.toNat)]
  | .indexed rb s => encFields major [(21, rt), (16, ra), (14, 3), (9, rb.val), (7, s.val)]
/-- VR format (R184). -/
def encVR (major vd va vb : Nat) (m : Bool) (func : Nat) : W32 :=
  encFields major [(21, vd), (16, va), (11, vb), (10, m.toNat), (0, func)]
/-- VM format (R184). -/
def encVM (vd ra rb : Nat) (m : Bool) (nf1 iw sc func : Nat) : W32 :=
  encFields 0x32 [(21, vd), (16, ra), (11, rb), (10, m.toNat), (8, nf1), (6, iw), (4, sc), (0, func)]
/-- VC format (R184). -/
def encVC (vd va vb : Nat) (m : Bool) (rm code : Nat) : W32 :=
  encFields 0x37 [(21, vd), (16, va), (11, vb), (10, m.toNat), (7, rm), (0, code)]

/-- The instruction word of a strand's command; 0 for a command that is no instruction. -/
def insnWord : Instr → W32
  | .nop _ => encR 0x01 0 0 0 0x000
  | .wait _ => encR 0x01 0 0 0 0x001
  | .isync _ => encR 0x01 0 0 0 0x002
  | .cinv _ => encR 0x01 0 0 0 0x003
  | .xret _ => encR 0x01 0 0 0 0x011
  | .pmask _ rd => encR 0x01 rd 0 0 0x012
  | .trap _ n => encR 0x01 n 0 0 0x013
  | .brk _ => encR 0x01 0 0 0 0x014
  | .add _ rd ra rb => encR 0x02 rd ra rb 0
  | .sub _ rd ra rb => encR 0x02 rd ra rb 1
  | .and _ rd ra rb => encR 0x02 rd ra rb 2
  | .or _ rd ra rb => encR 0x02 rd ra rb 3
  | .xor _ rd ra rb => encR 0x02 rd ra rb 4
  | .shl _ rd ra rb => encR 0x02 rd ra rb 5
  | .shr _ rd ra rb => encR 0x02 rd ra rb 6
  | .sar _ rd ra rb => encR 0x02 rd ra rb 7
  | .cmpeq _ rd ra rb => encR 0x02 rd ra rb 8
  | .cmpne _ rd ra rb => encR 0x02 rd ra rb 9
  | .cmplt _ rd ra rb => encR 0x02 rd ra rb 10
  | .cmpltu _ rd ra rb => encR 0x02 rd ra rb 11
  | .min _ rd ra rb => encR 0x02 rd ra rb 12
  | .max _ rd ra rb => encR 0x02 rd ra rb 13
  | .minu _ rd ra rb => encR 0x02 rd ra rb 14
  | .maxu _ rd ra rb => encR 0x02 rd ra rb 15
  | .addi _ rd ra imm => encI 0x03 rd ra imm.toNat
  | .andi _ rd ra imm => encI 0x04 rd ra imm.toNat
  | .ori _ rd ra imm => encI 0x05 rd ra imm.toNat
  | .xori _ rd ra imm => encI 0x06 rd ra imm.toNat
  | .shli _ rd ra sh => encI 0x07 rd ra sh.val
  | .shri _ rd ra sh => encI 0x07 rd ra (0x40 + sh.val)
  | .sari _ rd ra sh => encI 0x07 rd ra (0x80 + sh.val)
  | .movi _ rd imm => encI 0x08 rd 0 imm.toNat
  | .movk _ rd hw imm => encI 0x09 rd hw.val imm.toNat
  | .cmpeqi _ rd ra imm => encI 0x0A rd ra imm.toNat
  | .cmplti _ rd ra imm => encI 0x0B rd ra imm.toNat
  | .bfx _ rd ra pos len1 => encFields 0x0C [(21, rd), (16, ra), (10, pos), (4, len1), (0, 0)]
  | .bfxs _ rd ra pos len1 => encFields 0x0C [(21, rd), (16, ra), (10, pos), (4, len1), (0, 1)]
  | .bfi _ rd ra pos len1 => encFields 0x0C [(21, rd), (16, ra), (10, pos), (4, len1), (0, 2)]
  | .clz _ rd ra => encR 0x0D rd ra 0 0
  | .bperm _ rd ra rb => encR 0x0D rd ra rb 1
  | .mul _ rd ra rb => encR 0x0E rd ra rb 0
  | .mulh _ rd ra rb => encR 0x0E rd ra rb 1
  | .mulhu _ rd ra rb => encR 0x0E rd ra rb 2
  | .div _ rd ra rb _ => encR 0x0F rd ra rb 0
  | .divu _ rd ra rb _ => encR 0x0F rd ra rb 1
  | .rem _ rd ra rb _ => encR 0x0F rd ra rb 2
  | .remu _ rd ra rb _ => encR 0x0F rd ra rb 3
  | .ldw _ rt ra m _ => encM 0x10 rt ra m
  | .ldws _ rt ra m _ => encM 0x11 rt ra m
  | .ldd _ rt ra m _ => encM 0x12 rt ra m
  | .ldds _ rt ra m _ => encM 0x13 rt ra m
  | .ldq _ rt ra m _ => encM 0x14 rt ra m
  | .ldf _ ft ra m _ => encM 0x15 ft ra m
  | .stw _ rt ra m => encM 0x18 rt ra m
  | .std _ rt ra m => encM 0x19 rt ra m
  | .stq _ rt ra m => encM 0x1A rt ra m
  | .stf _ ft ra m => encM 0x1B ft ra m
  | .bc _ ra cond off => encFields 0x20 [(21, ra), (18, cond), (0, off.toNat)]
  | .b _ off => encFields 0x21 [(0, off.toNat)]
  | .call _ gl off => encFields 0x22 [(21, gl), (0, off.toNat)]
  | .jr _ ra => encR 0x23 0 ra 0 0
  | .callr _ gl ra => encR 0x23 gl ra 0 1
  | .loop _ n ra => encFields 0x24 [(25, 0), (10, n.toNat), (5, ra)]
  | .loopi _ n count => encFields 0x24 [(25, 1), (10, n.toNat), (0, count.toNat)]
  | .mfc _ g c => encFields 0x25 [(21, g), (15, c), (0, 0)]
  | .mtc _ g c => encFields 0x25 [(21, g), (15, c), (0, 1)]
  | .fadd _ fd fa fb => encR 0x28 fd fa fb 0
  | .fsub _ fd fa fb => encR 0x28 fd fa fb 1
  | .fmul _ fd fa fb => encR 0x28 fd fa fb 2
  | .fmin _ fd fa fb => encR 0x28 fd fa fb 3
  | .fmax _ fd fa fb => encR 0x28 fd fa fb 4
  | .fabs _ fd fa => encR 0x28 fd fa 0 5
  | .fneg _ fd fa => encR 0x28 fd fa 0 6
  | .fcmpeq _ gd fa fb => encR 0x28 gd fa fb 8
  | .fcmplt _ gd fa fb => encR 0x28 gd fa fb 9
  | .fcmple _ gd fa fb => encR 0x28 gd fa fb 10
  | .fmvgf _ fd ra => encR 0x28 fd ra 0 12
  | .fmvfg _ gd fa => encR 0x28 gd fa 0 13
  | .fma _ fd fa fb fc => encFields 0x29 [(21, fd), (16, fa), (11, fb), (6, fc), (0, 0)]
  | .fdiv _ fd fa fb _ => encR 0x2A fd fa fb 0
  | .fsqrt _ fd fa _ => encR 0x2A fd fa 0 1
  | .fcvtFp32Bf16 _ fd fa => encR 0x2B fd fa 0 0
  | .fcvtFp32Fp16 _ fd fa => encR 0x2B fd fa 0 1
  | .fcvtBf16Fp32 _ fd fa => encR 0x2B fd fa 0 2
  | .fcvtFp16Fp32 _ fd fa => encR 0x2B fd fa 0 3
  | .fcvtFp32I16 _ gd fa => encR 0x2B gd fa 0 4
  | .fcvtI16Fp32 _ fd ga => encR 0x2B fd ga 0 5
  | .vlset _ gd ra sew fmt => encFields 0x30 [(21, gd), (16, ra), (14, sew), (13, fmt.toNat), (12, 0)]
  | .vlseti _ gd sew fmt imm => encFields 0x30 [(21, gd), (14, sew), (13, fmt.toNat), (12, 1), (0, imm.toNat)]
  | .vmfc _ g vc => encFields 0x31 [(21, g), (18, vc), (0, 0)]
  | .vmtc _ g vc => encFields 0x31 [(21, g), (18, vc), (0, 1)]
  | .vld _ vd ra m _ => encVM vd ra 0 m 0 0 0 0
  | .vst _ vs ra m => encVM vs ra 0 m 0 0 0 1
  | .vlds _ vd ra rb m _ => encVM vd ra rb m 0 0 0 2
  | .vsts _ vs ra rb m => encVM vs ra rb m 0 0 0 3
  | .vldx _ vd ra vi m iw sc _ => encVM vd ra vi m 0 iw sc 4
  | .vstx _ vs ra vi m iw sc => encVM vs ra vi m 0 iw sc 5
  | .vlseg _ vd ra m nf1 _ => encVM vd ra 0 m nf1 0 0 6
  | .vsseg _ vs ra m nf1 => encVM vs ra 0 m nf1 0 0 7
  | .vadd _ vd va vb m => encVR 0x33 vd va vb m 0
  | .vsub _ vd va vb m => encVR 0x33 vd va vb m 1
  | .vand _ vd va vb m => encVR 0x33 vd va vb m 2
  | .vor _ vd va vb m => encVR 0x33 vd va vb m 3
  | .vxor _ vd va vb m => encVR 0x33 vd va vb m 4
  | .vshl _ vd va vb m => encVR 0x33 vd va vb m 5
  | .vshr _ vd va vb m => encVR 0x33 vd va vb m 6
  | .vsar _ vd va vb m => encVR 0x33 vd va vb m 7
  | .vmin _ vd va vb m => encVR 0x33 vd va vb m 8
  | .vmax _ vd va vb m => encVR 0x33 vd va vb m 9
  | .vminu _ vd va vb m => encVR 0x33 vd va vb m 10
  | .vmaxu _ vd va vb m => encVR 0x33 vd va vb m 11
  | .vmul _ vd va vb m => encVR 0x33 vd va vb m 12
  | .vcmpeq _ vd va vb m => encVR 0x33 vd va vb m 13
  | .vcmplt _ vd va vb m => encVR 0x33 vd va vb m 14
  | .vcmpltu _ vd va vb m => encVR 0x33 vd va vb m 15
  | .vmv _ vd va m => encVR 0x33 vd va 0 m 16
  | .vsplat _ vd gb m => encVR 0x33 vd 0 gb m 17
  | .vmvxs _ gd va m => encVR 0x33 gd va 0 m 18
  | .vsadd _ vd va vb m => encVR 0x34 vd va vb m 0
  | .vssub _ vd va vb m => encVR 0x34 vd va vb m 1
  | .vsmulr _ vd va vb m => encVR 0x34 vd va vb m 2
  | .vsshr _ vd va vb m => encVR 0x34 vd va vb m 3
  | .vsshl _ vd va vb m => encVR 0x34 vd va vb m 4
  | .vfadd _ vd va vb m => encVR 0x35 vd va vb m 0
  | .vfsub _ vd va vb m => encVR 0x35 vd va vb m 1
  | .vfmul _ vd va vb m => encVR 0x35 vd va vb m 2
  | .vfmin _ vd va vb m => encVR 0x35 vd va vb m 3
  | .vfmax _ vd va vb m => encVR 0x35 vd va vb m 4
  | .vfabs _ vd va m => encVR 0x35 vd va 0 m 5
  | .vfneg _ vd va m => encVR 0x35 vd va 0 m 6
  | .vfcmpeq _ vd va vb m => encVR 0x35 vd va vb m 8
  | .vfcmplt _ vd va vb m => encVR 0x35 vd va vb m 9
  | .vfcmple _ vd va vb m => encVR 0x35 vd va vb m 10
  | .vfredsum _ fd va m _ => encVR 0x35 fd va 0 m 12
  | .vfredmax _ fd va m _ => encVR 0x35 fd va 0 m 13
  | .vfma _ vd va vb vc m => encFields 0x36 [(21, vd), (16, va), (11, vb), (6, vc), (5, m.toNat), (0, 0)]
  | .vcvtFp32Bf16 _ vd va m rm => encVC vd va 0 m rm 0
  | .vcvtFp32Fp16 _ vd va m rm => encVC vd va 0 m rm 1
  | .vcvtBf16Fp32 _ vd va m rm => encVC vd va 0 m rm 2
  | .vcvtFp16Fp32 _ vd va m rm => encVC vd va 0 m rm 3
  | .vcvtFp32I16 _ vd va m rm => encVC vd va 0 m rm 4
  | .vcvtI16Fp32 _ vd va m rm => encVC vd va 0 m rm 5
  | .vcvtFp32Q8 _ vd va vb m rm => encVC vd va vb m rm 6
  | .vcvtFp32Q6 _ vd va vb m rm => encVC vd va vb m rm 7
  | .vcvtFp32Q4 _ vd va vb m rm => encVC vd va vb m rm 8
  | .vcvtFp32I8 _ vd va vb m rm => encVC vd va vb m rm 9
  | .vcvtQ8Fp32 _ vd va vb m rm => encVC vd va vb m rm 10
  | .vcvtQ6Fp32 _ vd va vb m rm => encVC vd va vb m rm 11
  | .vcvtQ4Fp32 _ vd va vb m rm => encVC vd va vb m rm 12
  | .vcvtI8Fp32 _ vd va vb m rm => encVC vd va vb m rm 13
  | .tshape _ g => encFields 0x38 [(21, g), (18, 0), (0, 0)]
  | .tmfc _ g tc => encFields 0x38 [(21, g), (18, tc), (0, 1)]
  | .tmtc _ g tc => encFields 0x38 [(21, g), (18, tc), (0, 2)]
  | .tqdrop _ => encFields 0x38 [(0, 3)]
  | .tfence _ => encFields 0x38 [(0, 4)]
  | .tld _ t ra rb => encFields 0x39 [(23, t), (18, ra), (13, rb), (0, 0)]
  | .tldT _ t ra rb => encFields 0x39 [(23, t), (18, ra), (13, rb), (0, 1)]
  | .tst _ t ra rb => encFields 0x39 [(23, t), (18, ra), (13, rb), (0, 2)]
  | .twld _ a ra rb => encFields 0x3A [(25, 0), (24, a), (19, ra), (14, rb)]
  | .twldT _ a ra rb => encFields 0x3A [(25, 1), (24, a), (19, ra), (14, rb)]
  | .tmac _ sl a t b swap sr =>
    encFields 0x3B [(21, sl), (20, a), (17, t), (14, b), (13, swap.toNat), (12, sr.toNat)]
  | .taccZero _ sl a ra rb => encFields 0x3C [(21, sl), (20, a), (15, ra), (10, rb), (0, 0)]
  | .taccRead _ sl a t fmt rm b => encFields 0x3C [(21, sl), (20, a), (17, t), (14, fmt), (11, rm), (8, b), (0, 1)]
  | .taccSpill _ sl a ra z => encFields 0x3C [(21, sl), (20, a), (15, ra), (14, z.toNat), (0, 2)]
  | _ => 0

/-- Whether a masked vector instruction of this word names v0 as its vd (R183). -/
def masksV0 (w mbit : Nat) : Bool := natBit w mbit && natBits w 25 21 == 0

/-- Whether a control register can be read by MFC (R90, R142). -/
def mfcReg (n : Nat) : Bool := decide (n < 8) || (decide (16 ≤ n) && decide (n ≤ 30))
/-- Whether MTC may name it: not reserved and not RO. -/
def mtcReg (n : Nat) : Bool := mfcReg n && !(n == 3 || n == 4 || n == 6 || n == 7 || n == 16 || n == 30)

/-- Whether the encoding of an instruction word is defined (R111, R112, R116, R119, R122, R125, R128, R133, R159, R179,
R181, R183, R184, R190, R212, R218): no reserved opcode, function, mode, condition or register, no nonzero reserved
field. -/
def legalWord (x : W32) : Bool :=
  let w := x.toNat
  let f := natBits w 10 0
  let rd := natBits w 25 21
  let ra := natBits w 20 16
  let rb := natBits w 15 11
  match natBits w 31 26 with
  | 0x01 =>
    if f = 0x012 ∨ f = 0x013 then ra == 0 && rb == 0
    else (f == 0 || f == 1 || f == 2 || f == 3 || f == 0x011 || f == 0x014) && rd == 0 && ra == 0 && rb == 0
  | 0x02 => decide (f ≤ 15)
  | 0x03 | 0x04 | 0x05 | 0x06 | 0x0A | 0x0B => true
  | 0x07 => natBits w 15 8 == 0 && natBits w 7 6 != 3
  | 0x08 => ra == 0
  | 0x09 => natBits w 20 18 == 0
  | 0x0C => decide (natBits w 3 0 ≤ 2) && decide (natBits w 15 10 + natBits w 9 4 + 1 ≤ 64)
  | 0x0D => (f == 0 && rb == 0) || f == 1
  | 0x0E => decide (f ≤ 2)
  | 0x0F => decide (f ≤ 3)
  | 0x10 | 0x11 | 0x12 | 0x13 | 0x14 =>
    (match natBits w 15 14 with | 3 => natBits w 6 0 == 0 | 0 => true | _ => rd != ra)
  | 0x15 | 0x18 | 0x19 | 0x1A | 0x1B => natBits w 15 14 != 3 || natBits w 6 0 == 0
  | 0x20 => decide (natBits w 20 18 ≤ 5)
  | 0x21 | 0x22 => true
  | 0x23 => (f == 0 && rd == 0 && rb == 0) || (f == 1 && rb == 0)
  | 0x24 => natBits w 24 21 == 0 && natBits w 20 10 != 0 && (natBit w 25 || natBits w 4 0 == 0)
  | 0x25 => natBits w 14 1 == 0 && (if natBit w 0 then mtcReg (natBits w 20 15) else mfcReg (natBits w 20 15))
  | 0x28 =>
    if f = 5 ∨ f = 6 ∨ f = 12 ∨ f = 13 then rb == 0
    else f == 0 || f == 1 || f == 2 || f == 3 || f == 4 || f == 8 || f == 9 || f == 10
  | 0x29 => natBits w 5 0 == 0
  | 0x2A => f == 0 || (f == 1 && rb == 0)
  | 0x2B => decide (f ≤ 5) && rb == 0
  | 0x30 => natBits w 15 14 != 3 && (if natBit w 12 then ra == 0 else natBits w 11 0 == 0)
  | 0x31 =>
    natBits w 17 1 == 0 && (!natBit w 0 || (decide (2 ≤ natBits w 20 18) && decide (natBits w 20 18 ≤ 6)))
  | 0x32 =>
    let fn := natBits w 3 0
    decide (fn ≤ 7) &&
      (if fn = 6 ∨ fn = 7 then natBits w 9 8 != 0 else natBits w 9 8 == 0) &&
      (if fn = 4 ∨ fn = 5 then natBits w 7 6 != 3 else natBits w 7 4 == 0) &&
      (decide (2 ≤ fn ∧ fn ≤ 5) || rb == 0) && (natBit w 0 || !masksV0 w 10)
  | 0x33 =>
    let fn := natBits w 9 0
    decide (fn ≤ 18) && (decide (fn ≠ 16 ∧ fn ≠ 18) || rb == 0) && (decide (fn ≠ 17) || ra == 0) &&
      (decide (fn = 18) || !masksV0 w 10)
  | 0x34 => decide (natBits w 9 0 ≤ 4) && !masksV0 w 10
  | 0x35 =>
    let fn := natBits w 9 0
    if fn = 12 ∨ fn = 13 then rb == 0
    else if fn = 5 ∨ fn = 6 then rb == 0 && !masksV0 w 10
    else (fn == 0 || fn == 1 || fn == 2 || fn == 3 || fn == 4 || fn == 8 || fn == 9 || fn == 10) && !masksV0 w 10
  | 0x36 => natBits w 4 0 == 0 && !masksV0 w 5
  | 0x37 =>
    decide (natBits w 6 0 ≤ 13) && decide (natBits w 9 7 ≤ 5) && (decide (6 ≤ natBits w 6 0) || rb == 0) &&
      !masksV0 w 10
  | 0x38 =>
    let fn := natBits w 2 0
    let tc := natBits w 20 18
    natBits w 17 3 == 0 &&
      (if fn = 0 then tc == 0
       else if fn = 1 then true
       else if fn = 2 then tc != 0 && tc != 5 && tc != 7
       else (fn == 3 || fn == 4) && rd == 0 && tc == 0)
  | 0x39 => natBits w 12 2 == 0 && natBits w 1 0 != 3 && (natBits w 1 0 != 1 || natBits w 17 13 == 0)
  | 0x3A => natBits w 13 0 == 0
  | 0x3B => natBits w 11 0 == 0
  | 0x3C =>
    match natBits w 1 0 with
    | 0 => natBits w 9 2 == 0
    | 1 => natBits w 7 2 == 0 && natBits w 16 14 != 7 && decide (natBits w 13 11 ≤ 5)
    | 2 => natBits w 13 2 == 0
    | _ => false
  | _ => false

end Sys2Proof
end

