-- ==== Sys2Proof/Machine/Flags.lean ====
section
/-! DEFINITION. The number formats of spec/02_number_formats.md: exact values, the rounding modes, the flag set of R79,
the block exponent of R77, conversions and the stochastic-rounding bits of R86. Every rounding of the machine goes
through `roundGrid`. -/

namespace Sys2Proof.Machine

/-- The flag bits of R79. -/
abbrev fNX : Nat := 1
abbrev fUF : Nat := 2
abbrev fOF : Nat := 4
abbrev fSAT : Nat := 8
abbrev fNV : Nat := 16

/-- Both flag sets (a sticky OR, R80). -/
def forr (a b : Nat) : Nat := a ||| b

/-- An exact value: a NaN (signalling or not), an infinity, or (-1)^neg x m x 2^e. -/
inductive FV where
  | nan (sig : Bool)
  | inf (neg : Bool)
  | fin (neg : Bool) (m : Nat) (e : Int)
  deriving DecidableEq, Repr

/-- An IEEE format: p significand bits with the hidden one, eb exponent bits (R59, R61). -/
structure Fmt where
  p : Nat
  eb : Nat
  deriving DecidableEq, Repr

abbrev fmtFP32 : Fmt := ⟨24, 8⟩
abbrev fmtBF16 : Fmt := ⟨8, 8⟩
abbrev fmtFP16 : Fmt := ⟨11, 5⟩

/-- The exponent bias of R61. -/
def fbias (f : Fmt) : Int := (2 ^ (f.eb - 1) : Nat) - 1
/-- Exponent of the smallest normal value. -/
def femin (f : Fmt) : Int := 1 - fbias f

/-- The canonical quiet NaN (R62). -/
def qnan (f : Fmt) : Nat := (2 ^ f.eb - 1) * 2 ^ (f.p - 1) + 2 ^ (f.p - 2)
/-- An infinity. -/
def finf (f : Fmt) (neg : Bool) : Nat := (if neg then 2 ^ (f.eb + f.p - 1) else 0) + (2 ^ f.eb - 1) * 2 ^ (f.p - 1)
/-- A zero with a sign. -/
def fzero (f : Fmt) (neg : Bool) : Nat := if neg then 2 ^ (f.eb + f.p - 1) else 0
/-- The largest finite value. -/
def fmaxfin (f : Fmt) (neg : Bool) : Nat := finf f neg - 1

/-- The value a bit pattern encodes (R61); a NaN with the top fraction bit clear is signalling (R62). -/
def fdec (f : Fmt) (w : Nat) : FV :=
  let fb := f.p - 1
  let frac := w % 2 ^ fb
  let ex := (w / 2 ^ fb) % 2 ^ f.eb
  let neg := natBit w (fb + f.eb)
  if ex = 2 ^ f.eb - 1 then
    if frac = 0 then .inf neg else .nan (decide (frac < 2 ^ (fb - 1)))
  else if ex = 0 then .fin neg frac (femin f - fb)
  else .fin neg (frac + 2 ^ fb) ((ex : Int) - fbias f - fb)

/-- Round the magnitude m x 2^e (a little more than that when sticky) to a multiple of 2^q under mode rm (R73, R75):
the multiple, and whether the result differs from the exact value. u is the 16 random bits of SR. -/
def roundGrid (rm : Nat) (neg : Bool) (m : Nat) (e q : Int) (sticky : Bool) (u : Nat) : Nat × Bool :=
  if q ≤ e then (m * 2 ^ (e - q).toNat, sticky)
  else
    let d := (q - e).toNat
    let lo := m / 2 ^ d
    let r := m % 2 ^ d
    if r = 0 ∧ sticky = false then (lo, false)
    else
      let half := 2 ^ (d - 1)
      let t := if 16 ≤ d then r / 2 ^ (d - 16) else r * 2 ^ (16 - d)
      let up : Bool :=
        match rm with
        | 0 => decide (half < r) || (decide (r = half) && (sticky || decide (lo % 2 = 1)))
        | 1 => false
        | 2 => neg
        | 3 => !neg
        | 4 => decide (half ≤ r)
        | 5 => decide (65536 ≤ t + u)
        | _ => false
      (if up then lo + 1 else lo, true)

/-- What a finite value above the range of an IEEE target becomes (R81). -/
def foverflow (f : Fmt) (rm : Nat) (neg : Bool) : Nat :=
  match rm with
  | 1 => fmaxfin f neg
  | 2 => if neg then finf f true else fmaxfin f false
  | 3 => if neg then fmaxfin f true else finf f false
  | _ => finf f neg

/-- Round an exact finite value into an IEEE format: pattern and flags (R61, R76, R79, R81). Overflow is judged at
unbounded exponent. -/
def froundFin (f : Fmt) (rm u : Nat) (neg : Bool) (m : Nat) (e : Int) (sticky : Bool) : Nat × Nat :=
  if m = 0 then (fzero f neg, 0)
  else
    let q := max ((Nat.log2 m : Int) + e) (femin f) - (f.p - 1 : Nat)
    let r := roundGrid rm neg m e q sticky u
    let n := r.1
    let top := (Nat.log2 n : Int) + q
    if n ≠ 0 ∧ fbias f < top then (foverflow f rm neg, forr fOF fNX)
    else
      let flags := if r.2 then (if n = 0 ∨ top < femin f then forr fNX fUF else fNX) else 0
      if n = 0 then (fzero f neg, flags)
      else if top < femin f then (fzero f neg + n, flags)
      else
        let sig := if Nat.log2 n = f.p then n / 2 else n
        (fzero f neg + (top + fbias f).toNat * 2 ^ (f.p - 1) + (sig - 2 ^ (f.p - 1)), flags)

/-- A value into an IEEE format (R81). A signalling NaN sets NV in every conversion, as R62, R79 and the table
of R81 have it; R83's sentence that class E sets no flag is read as one about numbers (DEDUCED, log entry 17).
-/
def fenc (f : Fmt) (rm u : Nat) : FV → Nat × Nat
  | .nan sig => (qnan f, if sig then fNV else 0)
  | .inf neg => (finf f neg, 0)
  | .fin neg m e => froundFin f rm u neg m e false

def FV.isNan : FV → Bool
  | .nan _ => true
  | _ => false

def FV.isSnan : FV → Bool
  | .nan s => s
  | _ => false

def FV.negate : FV → FV
  | .nan s => .nan s
  | .inf n => .inf (!n)
  | .fin n m e => .fin (!n) m e

/-- NV when an operand is a signalling NaN (R62, R79). -/
def nvOf (l : List FV) : Nat := if l.any FV.isSnan then fNV else 0

/-- The signed integer a finite value is at exponent e0 at or below its own. -/
def fscale (neg : Bool) (m : Nat) (e e0 : Int) : Int :=
  let n : Int := ((m * 2 ^ (e - e0).toNat : Nat) : Int)
  if neg then -n else n

/-- The exact sum. The sign of a zero sum is that of IEEE 754 (PRESUMED, log entry 17). -/
def fvAdd (rm : Nat) : FV → FV → FV
  | .fin na ma ea, .fin nb mb eb =>
    let e0 := min ea eb
    let s := fscale na ma ea e0 + fscale nb mb eb e0
    if s = 0 then .fin (if ma = 0 ∧ mb = 0 ∧ na = nb then na else decide (rm = 2)) 0 0
    else .fin (decide (s < 0)) s.natAbs e0
  | .inf na, .inf nb => if na = nb then .inf na else .nan false
  | .inf na, .fin _ _ _ => .inf na
  | .fin _ _ _, .inf nb => .inf nb
  | _, _ => .nan false

/-- The exact product. -/
def fvMul : FV → FV → FV
  | .fin na ma ea, .fin nb mb eb => .fin (na != nb) (ma * mb) (ea + eb)
  | .inf na, .inf nb => .inf (na != nb)
  | .inf na, .fin nb mb _ => if mb = 0 then .nan false else .inf (na != nb)
  | .fin na ma _, .inf nb => if ma = 0 then .nan false else .inf (na != nb)
  | _, _ => .nan false

/-- FADD, FSUB, FMUL, FMA on patterns of one format (R115, R186): result and flags. -/
def fadd (f : Fmt) (rm a b : Nat) : Nat × Nat :=
  let x := fdec f a; let y := fdec f b
  let r := fenc f rm 0 (fvAdd rm x y)
  (r.1, forr r.2 (nvOf [x, y]))
def fsub (f : Fmt) (rm a b : Nat) : Nat × Nat :=
  let x := fdec f a; let y := fdec f b
  let r := fenc f rm 0 (fvAdd rm x y.negate)
  (r.1, forr r.2 (nvOf [x, y]))
def fmul (f : Fmt) (rm a b : Nat) : Nat × Nat :=
  let x := fdec f a; let y := fdec f b
  let r := fenc f rm 0 (fvMul x y)
  (r.1, forr r.2 (nvOf [x, y]))
def ffma (f : Fmt) (rm a b c : Nat) : Nat × Nat :=
  let x := fdec f a; let y := fdec f b; let z := fdec f c
  let r := fenc f rm 0 (fvAdd rm (fvMul x y) z)
  (r.1, forr r.2 (nvOf [x, y, z]))

/-- FDIV. A nonzero number over zero is an infinity with no flag: R79 has no flag for it (log entry 17). -/
def fdivide (f : Fmt) (rm a b : Nat) : Nat × Nat :=
  let x := fdec f a; let y := fdec f b
  let r : Nat × Nat :=
    match x, y with
    | .fin na ma ea, .fin nb mb eb =>
      if mb = 0 then (if ma = 0 then (qnan f, 0) else (finf f (na != nb), 0))
      else
        let k := 64 + Nat.log2 mb
        froundFin f rm 0 (na != nb) (ma * 2 ^ k / mb) (ea - eb - k) (decide (ma * 2 ^ k % mb ≠ 0))
    | .inf na, .fin nb _ _ => (finf f (na != nb), 0)
    | .fin na _ _, .inf nb => (fzero f (na != nb), 0)
    | _, _ => (qnan f, 0)
  (r.1, forr r.2 (nvOf [x, y]))

/-- Integer square root, bit by bit from bit i - 1 down. -/
def isqrtFrom (n : Nat) : Nat → Nat → Nat
  | 0, r => r
  | i + 1, r => isqrtFrom n i (if (r + 2 ^ i) * (r + 2 ^ i) ≤ n then r + 2 ^ i else r)

/-- FSQRT. -/
def fsqrtOp (f : Fmt) (rm a : Nat) : Nat × Nat :=
  let x := fdec f a
  let r : Nat × Nat :=
    match x with
    | .fin neg m e =>
      if m = 0 then (fzero f neg, 0)
      else if neg then (qnan f, 0)
      else
        -- make the exponent even and leave at least 64 root bits
        let m' := if e % 2 = 0 then m * 2 ^ 128 else m * 2 ^ 129
        let e' := if e % 2 = 0 then e - 128 else e - 129
        let s := isqrtFrom m' 100 0
        froundFin f rm 0 false s (e' / 2) (decide (s * s ≠ m'))
    | .inf neg => if neg then (qnan f, 0) else (finf f false, 0)
    | .nan _ => (qnan f, 0)
  (r.1, forr r.2 (nvOf [x]))

/-- Whether the number x is below y; false for a NaN. -/
def fvLt : FV → FV → Bool
  | .fin na ma ea, .fin nb mb eb =>
    let e0 := min ea eb
    decide (fscale na ma ea e0 < fscale nb mb eb e0)
  | .inf na, .inf nb => na && !nb
  | .inf na, .fin _ _ _ => na
  | .fin _ _ _, .inf nb => !nb
  | _, _ => false

def fvEq : FV → FV → Bool
  | .fin na ma ea, .fin nb mb eb =>
    let e0 := min ea eb
    decide (fscale na ma ea e0 = fscale nb mb eb e0)
  | .inf na, .inf nb => na == nb
  | _, _ => false

/-- -0 stands below +0 in FMIN and FMAX (R115). -/
def fvBelow (x y : FV) : Bool :=
  fvLt x y || (fvEq x y && (match x, y with | .fin true 0 _, .fin false 0 _ => true | _, _ => false))

/-- FMIN, FMAX (R115). -/
def fmin (f : Fmt) (a b : Nat) : Nat × Nat :=
  let x := fdec f a; let y := fdec f b
  (if x.isNan then (if y.isNan then qnan f else b) else if y.isNan then a else if fvBelow y x then b else a, nvOf [x, y])
def fmax (f : Fmt) (a b : Nat) : Nat × Nat :=
  let x := fdec f a; let y := fdec f b
  (if x.isNan then (if y.isNan then qnan f else b) else if y.isNan then a else if fvBelow x y then b else a, nvOf [x, y])

/-- FABS, FNEG: a NaN gives the canonical NaN (R62). -/
def fabs (f : Fmt) (a : Nat) : Nat × Nat :=
  let x := fdec f a
  (if x.isNan then qnan f else a % 2 ^ (f.p + f.eb - 1), nvOf [x])
def fneg (f : Fmt) (a : Nat) : Nat × Nat :=
  let x := fdec f a
  (if x.isNan then qnan f else (a + 2 ^ (f.p + f.eb - 1)) % 2 ^ (f.p + f.eb), nvOf [x])

/-- The float compares: 0 when either is a NaN; NV only for a signalling NaN (R115). -/
def fcmpEq (f : Fmt) (a b : Nat) : Bool × Nat := (fvEq (fdec f a) (fdec f b), nvOf [fdec f a, fdec f b])
def fcmpLt (f : Fmt) (a b : Nat) : Bool × Nat := (fvLt (fdec f a) (fdec f b), nvOf [fdec f a, fdec f b])
def fcmpLe (f : Fmt) (a b : Nat) : Bool × Nat :=
  (fvLt (fdec f a) (fdec f b) || fvEq (fdec f a) (fdec f b), nvOf [fdec f a, fdec f b])

/-- x combined with y under R258: the FP32 sum rounded with RNE. -/
def fplus (a b : Nat) : Nat × Nat := fadd fmtFP32 0 a b

/-- A value into I16 (R81): a 16-bit pattern and flags. -/
def toI16 (rm u : Nat) : FV → Nat × Nat
  | .nan _ => (0, fNV)
  | .inf neg => (if neg then 0x8000 else 0x7FFF, fSAT)
  | .fin neg m e =>
    let r := roundGrid rm neg m e 0 false u
    let lim := if neg then 0x8000 else 0x7FFF
    if lim < r.1 then (lim, forr fSAT fNX)
    else ((if neg then 0x10000 - r.1 else r.1) % 0x10000, if r.2 then fNX else 0)

/-- An I16 pattern as a value. -/
def ofI16 (w : Nat) : FV :=
  let n := natSigned w 16
  .fin (decide (n < 0)) n.natAbs 0

/-- The element formats with a block exponent (R64, R67). -/
inductive QFmt where
  | q8 | q6 | q4 | i8
  deriving DecidableEq, Repr

/-- Mantissa bits M of R64 (0 for I8). -/
def QFmt.M : QFmt → Nat
  | .q8 => 4 | .q6 => 3 | .q4 => 2 | .i8 => 0
/-- Largest element exponent; 2 to this bounds the element magnitude. -/
def QFmt.ec : QFmt → Nat
  | .q8 => 7 | .q6 => 3 | .q4 => 1 | .i8 => 7
/-- emax of R65 and R67. -/
def QFmt.emax : QFmt → Nat
  | .q8 => 6 | .q6 => 2 | .q4 => 0 | .i8 => 6
/-- Bits per element. -/
def QFmt.bits : QFmt → Nat
  | .q8 => 8 | .q6 => 6 | .q4 => 4 | .i8 => 8
/-- Words per block (R70). -/
def QFmt.words : QFmt → Nat
  | .q8 => 16 | .q6 => 12 | .q4 => 8 | .i8 => 16

/-- The value of an element code under block exponent X (R64, R66 to R68). -/
def qdec (f : QFmt) (x code : Nat) : FV :=
  match f with
  | .i8 =>
    let n := natSigned code 8
    .fin (decide (n < 0)) n.natAbs ((x : Int) - 127)
  | _ =>
    let m := code % 2 ^ f.M
    let e := (code / 2 ^ f.M) % 2 ^ (f.bits - 1 - f.M)
    let neg := natBit code (f.bits - 1)
    if e = 0 then .fin (neg && decide (m ≠ 0)) m ((x : Int) - 127 - f.M)
    else .fin neg (2 ^ f.M + m) ((x : Int) - 127 + e - 1 - f.M)

/-- One source value rounded to the element grid at exponent X: n and q with magnitude n x 2^q, and whether inexact. -/
def qround (f : QFmt) (rm u x : Nat) (neg : Bool) (m : Nat) (e : Int) : Nat × Int × Bool :=
  if m = 0 then (0, 0, false)
  else
    let e' := e - ((x : Int) - 127)
    let q : Int :=
      match f with
      | .i8 => 0
      | _ => max ((Nat.log2 m : Int) + e') 0 - f.M
    let r := roundGrid rm neg m e' q false u
    (r.1, q, r.2)

/-- Whether a rounded element exceeds the element range (R77). -/
def qexceeds (f : QFmt) (neg : Bool) (n : Nat) (q : Int) : Bool :=
  match f with
  | .i8 => decide ((if neg then 128 else 127) < n)
  | _ => decide (n ≠ 0) && decide ((f.ec : Int) ≤ (Nat.log2 n : Int) + q)

/-- The code of magnitude n x 2^q; a zero has s = 0 (R66). -/
def qcode (f : QFmt) (neg : Bool) (n : Nat) (q : Int) : Nat :=
  match f with
  | .i8 => (if neg then 256 - n else n) % 256
  | _ =>
    if n = 0 then 0
    else
      let l := (Nat.log2 n : Int) + q
      let s := if neg then 2 ^ (f.bits - 1) else 0
      if l < 0 then s + n
      else
        let sig := if Nat.log2 n = f.M + 1 then n / 2 else n
        s + (l.toNat + 1) * 2 ^ f.M + (sig - 2 ^ f.M)

/-- The element of largest magnitude. -/
def qmaxCode (f : QFmt) (neg : Bool) : Nat :=
  match f with
  | .i8 => if neg then 0x80 else 0x7F
  | _ => (if neg then 2 ^ (f.bits - 1) else 0) + (2 ^ (f.bits - 1) - 1)

/-- floor(log2) of a nonzero finite magnitude. -/
def fvTop : FV → Option Int
  | .fin _ m e => if m = 0 then none else some ((Nat.log2 m : Int) + e)
  | _ => none

def optMax : Option Int → Option Int → Option Int
  | none, b => b
  | a, none => a
  | some a, some b => some (max a b)

/-- The block exponent before the increment of R77. -/
def qExp0 (f : QFmt) (xs : List FV) : Nat :=
  if xs.any (fun x => match x with | .inf _ => true | _ => false) then 255
  else
    match xs.foldl (fun a x => optMax a (fvTop x)) none with
    | none => 0
    | some t => min 255 (t - f.emax + 127).toNat

/-- One element of a block at exponent X: its code and flags (R77, R79, R81). -/
def qelem (f : QFmt) (rm x : Nat) (v : FV × Nat) : Nat × Nat :=
  match v.1 with
  | .nan _ => (0, fNV)
  | .inf neg => (qmaxCode f neg, fSAT)
  | .fin neg m e =>
    let r := qround f rm v.2 x neg m e
    if qexceeds f neg r.1 r.2.1 then (qmaxCode f neg, forr fSAT fNX)
    else
      (qcode f neg r.1 r.2.1,
        if r.2.2 then (if r.1 = 0 then forr fNX fUF else fNX) else 0)

/-- A conversion of one block (R77): 32 exact values, each with its 16 random bits; the exponent, the codes,
the flags. -/
def qblock (f : QFmt) (rm : Nat) (vs : List (FV × Nat)) : Nat × List Nat × Nat :=
  let x0 := qExp0 f (vs.map Prod.fst)
  let past := vs.any (fun v =>
    match v.1 with
    | .fin neg m e => let r := qround f rm v.2 x0 neg m e; qexceeds f neg r.1 r.2.1
    | _ => false)
  let x := if past && decide (x0 < 255) then x0 + 1 else x0
  let es := vs.map (qelem f rm x)
  (x, es.map Prod.fst, es.foldl (fun a e => forr a e.2) 0)

/-- The mixing function of R86. -/
def srMix (z : W64) : W64 :=
  let z := (z ^^^ (z >>> 31)) * 0x8F1B3C5D2E47A9B3#64
  let z := (z ^^^ (z >>> 29)) * 0xC4E596A17D3B0F27#64
  z ^^^ (z >>> 32)

/-- The 16 random bits of an SR rounding (R85, R86). -/
def srBits (seed : W64) (tensor element chunk c : Nat) : Nat :=
  let w0 := BitVec.ofNat 64 (element % 2 ^ 40 + tensor % 2 ^ 24 * 2 ^ 40)
  let w1 := BitVec.ofNat 64 (chunk % 2 ^ 16 + c * 2 ^ 16)
  (srMix (srMix (seed ^^^ w0) ^^^ w1)).toNat / 2 ^ 48

/-- The fixed-point rounding of R188: x / 2^s by mode, saturated to I16; the pattern and the SAT flag. -/
def fixRound (x : Int) (s mode : Nat) : Nat × Nat :=
  let q := x / (2 ^ s : Nat)
  let r := (x - q * (2 ^ s : Nat)).toNat
  let h := 2 ^ (s - 1)
  let q' : Int :=
    if s = 0 then q
    else
      match mode with
      | 0 => if h ≤ r then q + 1 else q
      | 1 => if h < r ∨ (r = h ∧ q % 2 = 1) then q + 1 else q
      | 2 => q
      | _ => if r ≠ 0 ∧ q % 2 = 0 then q + 1 else q
  if 32767 < q' then (0x7FFF, fSAT)
  else if q' < -32768 then (0x8000, fSAT)
  else ((q' % 65536).toNat, 0)

end Sys2Proof.Machine
end

