-- ==== Sys2Proof/Config.lean ====
section
/-! DEFINITION. What the spec leaves open: values it does not give (free values, applied to a counter of the state so
that each use is a fresh one), and constants that manufacture, the supplier or an implementation fixes. Each is opaque:
nothing in Lean can evaluate it, so a statement about one holds for every value of it. -/

namespace Sys2Proof.Config

/-- Free 32-bit values: results the spec does not specify (spec/06_tiles_and_matrix_arrays.md R600; log entry 1). -/
opaque freeW32 : Nat → W32
/-- Free words: memory the spec leaves unspecified (spec/08 R309, spec/16 R543; log entry 1). -/
opaque freeWord : Nat → Word
/-- Contents of a slot that nothing has written since power-up: unit number and element (R242; log entry 1). -/
opaque freeSlot : Nat → Nat → W32
/-- Free flag sets (R600; log entry 1): only bits [4:0] are used. -/
opaque freeFlags : Nat → BitVec 5
/-- Free choices: whether an abandoned wipe or pass had written a line (R356, R392; log entry 1). -/
opaque freeBool : Nat → Nat → Bool
/-- Free numbers: what the spec says is supplied by the world or the firmware without giving it (log entry 1). -/
opaque freeNat : Nat → Nat

/-- FLAGS[1:0] of an event by its CODE (spec/15 R535): the spec gives no event its severity. -/
opaque severity : Nat → Nat

/-! Cryptography (spec/15; log entry 9): standards that the spec names and does not restate. -/

/-- The field polynomial of the Reed-Solomon code of an HBM line, its x^16 apart (R336 gives the code but not
its field's representation). -/
opaque rsField : Word
/-- The element whose powers are the roots of that code's generator, the power of the first root, and whether
word 0 of the line is the symbol of the highest power. -/
opaque rsRoot : Word
opaque rsFirst : Nat
opaque rsHigh : Bool
/-- ML-DSA-65: public key of a seed; signature by a seed of a message under a context; whether, for a public key,
a message and a context, a signature verifies. -/
opaque dsaPub : List Byte → List Byte
opaque dsaSign : List Byte → List Byte → List Byte → List Byte
opaque dsaVerify : List Byte → List Byte → List Byte → List Byte → Bool
/-- ML-KEM-1024: encapsulation key of a seed; the input check; encapsulation with random bytes (ciphertext, secret);
decapsulation by a seed. -/
opaque kemPub : List Byte → List Byte
opaque kemCheck : List Byte → Bool
opaque kemEncap : List Byte → List Byte → List Byte × List Byte
opaque kemDecap : List Byte → List Byte → List Byte
/-- Byte i of the n-th draw of the CTR_DRBG (R510). -/
opaque drbg : Nat → Nat → Byte

/-! What manufacture fixed (log entry 15). -/

/-- The fuses (spec/15 R508): UDS, SERIAL, digests of the two signing keys, the SVN floor at manufacture; and
the per-core fuses of spec/01 R56 (CORE_OK of a classroom) and spec/16 R541 (code of a core). -/
opaque uds : List Byte
opaque serial : W64
opaque vfk : Nat → List Byte
opaque svnFloor0 : Nat
opaque coreOk : Nat → BitVec 16
opaque fmax : Nat → BitVec 4
/-- Whether the ROM's self-test passes and the two copies of the fuses agree at a start (R511). -/
opaque selfTest : Nat → Bool
opaque fusesAgree : Nat → Bool
/-- Contents of the boot ROM and its revision (R511, R513). -/
opaque rom : List Byte
opaque romVersion : Nat
/-- The image in slot A, its length and its digest, as manufacture left them. -/
opaque imageA : List (Nat × Byte)
opaque imageLen : Nat
opaque imageDigest : List Byte
/-- Whether the flash read of a slot fails at a start (R511). -/
opaque unreadable : Nat → Bool
/-- The certificate region (R514, R529): CA_ID and the DIK certificate; Volzon's PCI Vendor ID (R482). -/
opaque caId : W64
opaque dikCert : List Byte
opaque vendorId : BitVec 16
/-- The straps addr_sel[1:0] of the baseboard (spec/18 R585). -/
opaque addrSel : BitVec 2

/-! Layouts the spec does not give (log entry 38). -/

/-- Register writes of the Pump setup at PUMP_OFF (spec/11 R404): from the image's words, pairs of (Pump, register
number, value) and of (Syllabus, register number, value). -/
opaque pumpSetup : List Word → List (Nat × Nat × W32)
opaque syllabusSetup : List Word → List (Nat × Nat × W32)
/-- Input buffers that a job bundle names (spec/12 R456): word address and words of buffer i. -/
opaque inputBuf : List Word → Nat → Option (Nat × Nat)
/-- RULE, COUNT and COLS of the segments of a rank's shard in image order, by job tag and rank, as its partner
knows them for a recovery schedule (spec/13 R466, R475; log entry 42). -/
opaque shardLayout : Nat → Nat → List (Nat × Nat × Nat)
/-- Ports outside the school that a job bundle uses for RoCEv2 (spec/12 R438), from the image's words. -/
opaque rocePorts : List Word → List Nat
/-- The fields of a queue-pair record (spec/14 R501): port and path MTU; none when the record is not one. -/
opaque qpPort : List Byte → Option Nat
opaque qpMtu : List Byte → Nat
/-- CODE of the entry that holds the bell unit's counters (spec/11 R428): spec/15 R536 lists none for it. -/
opaque sweepCode : Nat
/-- VER of the event-log blocks that a firmware VERSION defines (spec/15 R534). -/
opaque logVer : Nat → Nat
/-- The KEY that SETTINGS_MIGRATE gives for an event-log block (spec/15 R534 names none). -/
opaque logKey : Nat
/-- How fast a long command works beyond the least that R495 of spec/14 asks, by its opcode: in bytes a second
where its total work is known, else in thousandths a second. -/
opaque workRate : Nat → Nat
/-- The reason word of a halt that no event names (spec/12 R441), by the code of the command or 256 + the reset kind. -/
opaque haltReason : Nat → Nat
/-- A migrated value (spec/15 R534): key, old VER, value. -/
opaque migrate : Nat → Nat → List Byte → List Byte
/-- Contents of sideband answers that DSP0236, DSP0240 and DSP0248 fix (spec/18 R590, R591), by message type,
command and arguments. -/
opaque sideband : List Nat → List Nat
/-- The sensor that a PDR handle's record describes (spec/18 R592); none for another record, and for a handle
of none. -/
opaque pdrSensor : Nat → Option Nat

end Sys2Proof.Config
end

