-- ==== Sys2Proof/Machine/Aes.lean ====
section
/-! DEFINITION. AES-256 and its XTS mode as the memory controllers use them (spec/09_hbm_memory.md R347). The
spec names the cipher and does not restate it: the rounds are those of FIPS 197, the mode that of IEEE 1619
(PRESUMED, log entry 9). A block is its 16 bytes in order; byte r + 4 k is row r of column k. -/

namespace Sys2Proof.Machine

/-! ### The field of AES -/

/-- Twice a byte in GF(2^8). -/
def aesDouble (a : Nat) : Nat := if 128 ≤ a then (2 * a) ^^^ 0x11B else 2 * a

/-- The product of a and the low n bits of b in GF(2^8). -/
def aesMulN : Nat → Nat → Nat → Nat
  | 0, _, _ => 0
  | n + 1, a, b => (if b % 2 = 1 then a else 0) ^^^ aesMulN n (aesDouble a) (b / 2)

def aesMul (a b : Nat) : Nat := aesMulN 8 a b

/-- The inverse, 0 for 0: the 254th power. -/
def aesInv (a : Nat) : Nat :=
  let a3 := aesMul (aesMul a a) a
  let a6 := aesMul a3 a3
  let a15 := aesMul (aesMul a6 a6) a3
  let a30 := aesMul a15 a15
  let a60 := aesMul a30 a30
  let a126 := aesMul (aesMul a60 a60) a6
  let a127 := aesMul a126 a
  aesMul a127 a127

/-- A byte turned left by k bits. -/
def rotByte (b k : Nat) : Nat := b * 2 ^ k % 256 + b / 2 ^ (8 - k)

def aesSub (a : Nat) : Nat :=
  let b := aesInv a
  b ^^^ rotByte b 1 ^^^ rotByte b 2 ^^^ rotByte b 3 ^^^ rotByte b 4 ^^^ 0x63

def aesSubInv (a : Nat) : Nat := aesInv (rotByte a 1 ^^^ rotByte a 3 ^^^ rotByte a 6 ^^^ 0x05)

def xorBytes (a b : List Nat) : List Nat := a.zipWith (fun x y => x ^^^ y) b

/-! ### Keys and rounds -/

/-- The eight words of the key schedule after w, the round constant rc; a word is four bytes. -/
def keyNext (rc : Nat) (w : List (List Nat)) : List (List Nat) :=
  let g := fun i => w.getD i []
  let t := ((g 7).drop 1 ++ (g 7).take 1).map aesSub
  let n0 := xorBytes (xorBytes (g 0) t) [rc, 0, 0, 0]
  let n1 := xorBytes (g 1) n0
  let n2 := xorBytes (g 2) n1
  let n3 := xorBytes (g 3) n2
  let n4 := xorBytes (g 4) (n3.map aesSub)
  let n5 := xorBytes (g 5) n4
  let n6 := xorBytes (g 6) n5
  [n0, n1, n2, n3, n4, n5, n6, xorBytes (g 7) n6]

/-- The schedule from window w on, n windows long. -/
def keyWindows : Nat → Nat → List (List Nat) → List (List Nat)
  | 0, _, _ => []
  | n + 1, rc, w => w ++ keyWindows n (2 * rc) (keyNext rc w)

/-- Bytes 4 by 4. -/
def words4 : List Nat → List (List Nat)
  | a :: b :: c :: d :: r => [a, b, c, d] :: words4 r
  | _ => []

/-- Round key i of a key of 32 bytes. -/
def roundKeys (key : List Nat) : List (List Nat) :=
  let ws := keyWindows 8 1 (words4 key)
  (List.range 15).map (fun i => ((ws.drop (4 * i)).take 4).flatten)

/-- Byte r of column k comes from column k + s r. -/
def shiftBy (s : Nat) (b : List Nat) : List Nat :=
  (List.range 16).map (fun i => b.getD (i % 4 + 4 * ((i / 4 + s * (i % 4)) % 4)) 0)

/-- Each column times the circulant matrix whose first row is m. -/
def mixBy (m : List Nat) (b : List Nat) : List Nat :=
  (List.range 16).map (fun i =>
    (List.range 4).foldl (fun a j => a ^^^ aesMul (b.getD (i / 4 * 4 + j) 0) (m.getD ((j + 4 - i % 4) % 4) 0)) 0)

/-- The rounds after the first key addition; the last has no column mixing. -/
def encRounds : List (List Nat) → List Nat → List Nat
  | [], b => b
  | [k], b => xorBytes (shiftBy 1 (b.map aesSub)) k
  | k :: r, b => encRounds r (xorBytes (mixBy [2, 3, 1, 1] (shiftBy 1 (b.map aesSub))) k)

def aesEnc (key b : List Nat) : List Nat :=
  match roundKeys key with
  | [] => b
  | k :: r => encRounds r (xorBytes b k)

/-- The same backwards: round keys last first. -/
def decRounds : List (List Nat) → List Nat → List Nat
  | [], b => b
  | [k], b => xorBytes ((shiftBy 3 b).map aesSubInv) k
  | k :: r, b => decRounds r (mixBy [14, 11, 13, 9] (xorBytes ((shiftBy 3 b).map aesSubInv) k))

def aesDec (key b : List Nat) : List Nat :=
  match (roundKeys key).reverse with
  | [] => b
  | k :: r => decRounds r (xorBytes b k)

/-! ### XTS over one line (R347) -/

/-- The n bytes of a number, least significant first, and back. -/
def natBytesLE (v : Nat) : Nat → List Nat
  | 0 => []
  | n + 1 => v % 256 :: natBytesLE (v / 256) n

def bytesNatLE : List Nat → Nat
  | [] => 0
  | b :: r => b + 256 * bytesNatLE r

/-- The tweak of the next block: times x in GF(2^128). -/
def tweakNext (t : Nat) : Nat := if t < 2 ^ 127 then 2 * t else (2 * t - 2 ^ 128) ^^^ 0x87

/-- n blocks of the line as one number v from the first on, each masked with its tweak before and after f. -/
def xtsBlocks (f : List Nat → List Nat) : Nat → Nat → Nat → Nat
  | 0, _, _ => 0
  | n + 1, t, v =>
    (bytesNatLE (f (natBytesLE (v % 2 ^ 128 ^^^ t) 16)) ^^^ t) + 2 ^ 128 * xtsBlocks f n (tweakNext t) (v / 2 ^ 128)

/-- Keys 1 and 2 of a stack, each as a number of 256 bits with its least significant byte first. -/
def xtsKey1 (keys : Nat) : List Nat := natBytesLE (keys % 2 ^ 256) 32
def xtsKey2 (keys : Nat) : List Nat := natBytesLE (keys / 2 ^ 256 % 2 ^ 256) 32

/-- The first tweak of a line: its line number of 43 bits, enciphered under key 2. -/
def xtsTweak (keys line : Nat) : Nat := bytesNatLE (aesEnc (xtsKey2 keys) (natBytesLE (line % 2 ^ 43) 16))

/-- A line of 64 bytes, one data unit of four blocks, enciphered and deciphered; the line and its words as one number,
least significant first (R9). -/
def xtsEnc (keys line v : Nat) : Nat := xtsBlocks (aesEnc (xtsKey1 keys)) 4 (xtsTweak keys line) v
def xtsDec (keys line v : Nat) : Nat := xtsBlocks (aesDec (xtsKey1 keys)) 4 (xtsTweak keys line) v

end Sys2Proof.Machine
end

