-- ==== Sys2Proof/Machine/Table.lean ====
section
/-! DEFINITION. A sparse table: the machine holds many copies of one thing (strands, registers, bytes of memory), nearly
all of them at their reset value. A table is a list of (number, value) pairs in one canonical form: numbers strictly
rising, and no entry equal to what an unlisted number reads as. Equal contents are therefore equal lists. -/

namespace Sys2Proof.Machine

/-- A sparse table of values of type α by number. -/
abbrev Table (α : Type) := List (Nat × α)

/-- What number k holds: its entry, or d k when it has none. -/
def tget {α : Type} (d : Nat → α) : Table α → Nat → α
  | [], k => d k
  | (j, v) :: t, k => if j = k then v else tget d t k

/-- The table without an entry for k. -/
def terase {α : Type} (t : Table α) (k : Nat) : Table α := t.filter (fun e => decide (e.1 ≠ k))

/-- Insert an entry for k before the first larger number. -/
def tins {α : Type} (k : Nat) (v : α) : Table α → Table α
  | [] => [(k, v)]
  | (j, w) :: t => if k < j then (k, v) :: (j, w) :: t else (j, w) :: tins k v t

/-- Set number k to v, keeping the canonical form: an entry equal to the default is removed. -/
def tput {α : Type} [DecidableEq α] (d : Nat → α) (t : Table α) (k : Nat) (v : α) : Table α :=
  if v = d k then terase t k else tins k v (terase t k)

/-- Change number k by f. -/
def tmod {α : Type} [DecidableEq α] (d : Nat → α) (t : Table α) (k : Nat) (f : α → α) : Table α :=
  tput d t k (f (tget d t k))

/-- Remove every entry whose number p holds of: those numbers read as their default again. -/
def tclear {α : Type} (t : Table α) (p : Nat → Bool) : Table α := t.filter (fun e => !p e.1)

/-- Set several numbers in order. -/
def tputs {α : Type} [DecidableEq α] (d : Nat → α) (t : Table α) : List (Nat × α) → Table α
  | [] => t
  | (k, v) :: r => tputs d (tput d t k v) r

/-- Change what every number holds by f; f leaves the default values as they are, so unlisted numbers need no change. -/
def tmap {α : Type} [DecidableEq α] (d : Nat → α) (f : Nat → α → α) (t : Table α) : Table α :=
  tputs d [] (t.map (fun e => (e.1, f e.1 (tget d t e.1))))

/-- The canonical form: numbers strictly rise and no entry equals its default. -/
abbrev TableWf {α : Type} (d : Nat → α) (t : Table α) : Prop :=
  List.Pairwise (fun a b => a.1 < b.1) t ∧ ∀ e ∈ t, e.2 ≠ d e.1

end Sys2Proof.Machine
end

