-- ==== Sys2Proof/Machine/Chip.lean ====
section
/-! DEFINITION. The state of the package's data side and of its control space: strands, cores, classrooms, HBM
stacks with their Pumps, registers, memory, reports under way. Machine/State.lean adds the module's agents
(Warden, ports, bell unit, power). Everything is plain data. -/

namespace Sys2Proof.Machine

/-! ### Strands (spec/03, 04, 05, 06) -/

/-- A pending scalar write (R98): REG as R107 encodes it (tile control registers are 200 + number), its value and poison
bit, k = visibility slot minus the strand's next slot, and what its computation still waits for: `late` a unit that
reports with RESULT_COMPUTED, `waits` requests not yet served, `fillw` an outstanding cache fill (R96). `aux` is the
region-map entry that RMSEL named at an MTC's slot (R144). -/
structure PendW where
  reg : Nat
  val : W64
  pois : Bool
  k : Nat
  late : Bool
  waits : Nat
  fillw : Bool
  id : Nat
  aux : Nat
  deriving DecidableEq, Repr

/-- A pending vector-register write (R202). -/
structure PendV where
  reg : Nat
  val : VReg
  pois : Bool
  k : Nat
  late : Bool
  waits : Nat
  id : Nat
  deriving DecidableEq, Repr

/-- A pending flag update of FFLAGS (REG 66) or VFLAGS (REG 132) (R93, R180). -/
structure PendF where
  reg : Nat
  flags : Nat
  k : Nat
  deriving DecidableEq, Repr

/-- An exception: cause, DETAIL and FADDR (R150). -/
structure Exc where
  cause : Nat
  detail : Nat
  faddr : Nat
  deriving DecidableEq, Repr

/-- An exception whose entry is in progress (R96, R106), with the frame's INSN. -/
structure Entering where
  exc : Exc
  insn : W32
  deriving DecidableEq, Repr

/-- What a strand does (R94, R419, R544). -/
inductive RunState where
  /-- Runs no lesson. -/
  | idle
  /-- Runs a lesson. -/
  | active
  /-- WAIT took it out of issue in the sleep state 1 pause or 2 recess, until a wake event. -/
  | waiting (sleep : Nat)
  /-- WAIT ended its lesson; its stores and tile instructions still complete. -/
  | ending
  deriving DecidableEq, Repr

/-- A tile instruction with its fields (R218) and the g operands it latched (R222). -/
inductive TileKind where
  | tld (t : Nat) (ra rb : W64)
  | tldT (t : Nat) (ra rb : W64)
  | tst (t : Nat) (ra rb : W64)
  | twld (a : Nat) (ra rb : W64)
  | twldT (a : Nat) (ra rb : W64)
  | tmac (sl a t b : Nat) (swap sr : Bool)
  | taccZero (sl a : Nat) (desc buf : W64)
  | taccRead (sl a t fmt rm b : Nat)
  | taccSpill (sl a : Nat) (ra : W64) (z : Bool)
  deriving DecidableEq, Repr

/-- A tile instruction in flight or parked: operands latched at issue (R222) and the memory words it reaches,
lowest to highest (R224; lo > hi when it reaches none); `id` names its requests, `asked` tells that they have
been made; `got` holds, by address, the words that its requests returned where they are not those of memory
now, with their marks (the load buffer of R229). -/
structure TileOp where
  kind : TileKind
  shape : W64
  tebase : W64
  testride : W64
  tstr : W64
  lo : Nat
  hi : Nat
  id : Nat
  asked : Bool
  got : Table (Word × Bool)
  deriving DecidableEq, Repr

/-- One strand (R88). Tables hold register values by number; an unlisted register is 0. -/
structure Strand where
  g : Table W64
  c : Table W64
  vc : Table W64
  tc : Table W64
  /-- Poison bits of g (REG 0-31) and control registers (REG 64-127). -/
  pois : Table Bool
  pc : Nat
  /-- Branch outcome and delay slots still to issue (R123, R127). -/
  pb : Option (Nat × Nat)
  pend : List PendW
  pendV : List PendV
  pendF : List PendF
  /-- Exceptions owed at the next slots, one at each, oldest first (order 0 of R152, R158, R270). -/
  owed : List Exc
  entering : Option Entering
  /-- The frame that an XRET has asked for (R169, R286). -/
  ret : Option Nat
  /-- Cause that led to the double-fault state (CLS_TRIPLE.CAUSE1, R168). -/
  dfCause : Nat
  lesson : Option Nat
  run : RunState
  /-- Speculative (R317). -/
  spec : Bool
  flight : List TileOp
  parked : List TileOp
  nextId : Nat
  deriving DecidableEq, Repr

/-- A strand after core reset (R90, R142, R178, R211, R598). -/
def strandReset (s : Nat) : Strand where
  g := []
  c := [(16, 2)]
  vc := if s = 0 then [(6, 0xFFFFFFFF)] else []
  tc := if s = 0 then [(1, 0x3FF)] else []
  pois := []
  pc := 0
  pb := none
  pend := []
  pendV := []
  pendF := []
  owed := []
  entering := none
  ret := none
  dfCause := 0
  lesson := none
  run := .idle
  spec := false
  flight := []
  parked := []
  nextId := 0

/-! ### Cores (spec/05, 06, 07, 08) -/

/-- A tile register (R206): data words, exponent words, poison bit (R208). -/
structure Tile where
  data : Table Word
  exps : Table Word
  pois : Bool
  deriving DecidableEq, Repr

def tileReset : Tile := ⟨[], [], false⟩

/-- A cell of a weight bank (R231, R600): the format it was loaded under, element code, block exponent, poison mark. -/
structure Cell where
  wf : Nat
  code : Nat
  exp : Nat
  pois : Bool
  deriving DecidableEq, Repr

/-- A weight bank: its cells by 32 k + n; an unlisted cell is not specified (R600). -/
abbrev Bank := Table (Option Cell)

def bankReset : Bank := []

/-- An accumulator slot (R238). Elements by 32 r + n; an unlisted element is +0, or, while `unspec` names a free unit,
not specified (R242, R270). -/
structure Slot where
  opened : Bool
  amode : Nat
  cblk : Nat
  j0 : Nat
  bcount : Nat
  tensor : Nat
  ebase : Nat
  estride : Nat
  buf : Nat
  promoted : Bool
  vals : Table W32
  unspec : Option Nat
  /-- Something else wrote a word of the slot's buffer while it was OPEN (R271). -/
  spoiled : Bool
  deriving DecidableEq, Repr

/-- Slot k of core n at power-up. -/
def slotReset (n k : Nat) : Slot := ⟨false, 0, 0, 0, 0, 0, 0, 0, 0, false, [], some (n * 64 + k), false⟩

/-- A line of the scalar data cache (R321). -/
structure CLine where
  line : Nat
  ws : List Word
  deriving DecidableEq, Repr

/-- The outstanding cache fill (R322): its line, the strand and load it serves, whether it installs an entry,
and whether it returns a poisoned word. -/
structure Fill where
  line : Nat
  strand : Nat
  id : Nat
  install : Bool
  pois : Bool
  deriving DecidableEq, Repr

/-- One core (R89, R142). -/
structure Core where
  strands : Table Strand
  v : Table VReg
  vpois : Table Bool
  rmBase : Table W64
  rmLim : Table W64
  rmctl : W64
  tiles : Table Tile
  /-- Bank b of array a at 2 a + b. -/
  banks : Table Bank
  /-- Whether bank 1 of array a is the active one. -/
  active : Table Bool
  /-- Slot s of array a at 32 a + s. -/
  slots : Table Slot
  /-- Most recently used first. -/
  cache : List CLine
  fill : Option Fill
  paused : Bool
  /-- The strand that issued last, and those found withheld since by their instruction (R94). -/
  last : Nat
  skip : List Nat
  /-- A reset cut a lesson of the core short, which stays unended (R427). -/
  cut : Bool
  deriving DecidableEq, Repr

/-- A core at power-up. -/
def corePower : Core where
  strands := []
  v := []
  vpois := []
  rmBase := []
  rmLim := []
  rmctl := 0
  tiles := []
  banks := []
  active := []
  slots := []
  cache := []
  fill := none
  paused := false
  last := 7
  skip := []
  cut := false

/-! ### Classrooms (spec/08, 16) -/

/-- Who waits for a request, or made it: a load of a strand by its number, a store, a tile instruction by its
number, the exception entry or return of a strand, a DMA piece by its tag, the next descriptor of a DMA list,
a frame of a window that a port sends. -/
inductive Reader where
  | none
  | load (core strand id : Nat)
  | store (core strand : Nat)
  | tile (core strand id : Nat)
  | entry (core strand : Nat)
  | desc (room list : Nat)
  | piece (room tag : Nat)
  | frame (port key : Nat)
  deriving DecidableEq, Repr

/-- A request at a classroom bank (R284): requester 0-15 a core, 16 the mesh port; the core whose tracker
holds it, if one does; its line; who made it, and whether its load extends the sign; the words of the line it
writes or reads, each read word with the register of a group and the word of that register (or of the piece)
it goes to. -/
structure BankReq where
  rq : Nat
  core : Option Nat
  line : Nat
  wr : Bool
  who : Reader
  sgn : Bool
  ws : List (Nat × Nat × Nat)
  deriving DecidableEq, Repr

/-- One bank: requests in age order, and the requester served last (R285). -/
structure BankQ where
  q : List BankReq
  last : Nat
  deriving DecidableEq, Repr

def bankQReset : BankQ := ⟨[], 16⟩

/-- A descriptor list that is waiting or running (R295): where the next descriptor lies and how many are left. -/
structure DmaList where
  id : Nat
  next : Nat
  left : Nat
  stopped : Bool
  /-- The read of its next descriptor has been asked for (R286). -/
  asked : Bool
  deriving DecidableEq, Repr

/-- An active descriptor (R296, R299) with its cursor: next row and word within the row, and pieces in flight. -/
structure DmaDesc where
  id : Nat
  list : Nat
  addr : Nat
  kind : Nat
  spec : Bool
  irq : Bool
  icores : Nat
  istrands : Nat
  src : Nat
  dst : Nat
  rowlen : Nat
  rows : Nat
  sstride : Int
  dstride : Int
  row : Nat
  col : Nat
  pieces : Nat
  pois : Bool
  err : Option Nat
  deriving DecidableEq, Repr

/-- A piece that holds a tag (R298): the tag, its descriptor, destination, words with their poison marks, the HBM DRAM
banks of its source and destination (R300), and whether its destination write has been refused with a ticket (R332). -/
structure DmaPiece where
  tag : Nat
  desc : Nat
  dst : Nat
  ws : List (Word × Bool)
  banks : List Nat
  sent : Bool
  deriving DecidableEq, Repr

/-- A DMA engine. -/
structure Dma where
  lists : List DmaList
  active : List DmaDesc
  pieces : List DmaPiece
  /-- The descriptor that issued last (R299). -/
  last : Nat
  nextId : Nat
  deriving DecidableEq, Repr

def dmaReset : Dma := ⟨[], [], [], 0, 1⟩

/-- The power state of a classroom polder (R543, R552). -/
inductive RoomPower where
  | run | entering | recess | closed
  deriving DecidableEq, Repr

/-- One classroom, its Prefect's bookkeeping among it. -/
structure Room where
  banks : Table BankQ
  /-- SEL of each home-range line by its distance from HOME: true names the shadow copy (R318). -/
  sel : Table Bool
  dirty : Table Bool
  dma : Dma
  power : RoomPower
  /-- A level change in progress, to this level (R542). -/
  levelTo : Option Nat
  droop : Bool
  /-- The state a POWER_STATE command asked for, and the pigeonhole that asked (R547). -/
  asked : Option (Nat × Nat)
  /-- PLL locked (R568). -/
  pll : Bool
  deriving DecidableEq, Repr

def roomReset : Room where
  banks := []
  sel := []
  dirty := []
  dma := dmaReset
  power := .run
  levelTo := none
  droop := false
  asked := none
  pll := false

/-! ### HBM stacks (spec/09, 10) -/

/-- A line request at a memory controller (R329): its source, its line within the stack, a write's mask of
words, who waits for it with the places its words go to, whether an agent of the model made it (HBM_REQUEST
makes the others), and its words: those that a write stores when it is accepted, each with its address and
mark, and those that a read of HBM_REQUEST returns, of its acceptance (R330). -/
structure HReq where
  src : Nat
  line : Nat
  wr : Bool
  mask : BitVec 32
  who : Reader
  sgn : Bool
  ws : List (Nat × Nat × Nat)
  auto : Bool
  data : List (Nat × Word × Bool)
  deriving DecidableEq, Repr

/-- A line that a controller returned (R329, R338): source, line, words, whether they are marked poisoned. -/
structure LineOut where
  src : Nat
  line : Nat
  ws : List Word
  pois : Bool
  deriving DecidableEq, Repr

/-- One DRAM bank (R332, R342): admitted requests oldest first, refused ones in ticket order, recalled ones, and the row
its next refresh starts at. -/
structure DramQ where
  q : List HReq
  tickets : List HReq
  recalled : List HReq
  refRow : Nat
  deriving DecidableEq, Repr

def dramReset : DramQ := ⟨[], [], [], 0⟩

/-- A Pump's pass (R368, R376, R393): `pass` is 0 idle, 1 pass 1, 2 pass 2 under GO, 3 pass 2 under SKIP;
`step` the step number of the running pass; `done` whether the pass of this period has been reported complete
(R421). -/
structure Pump where
  pass : Nat
  step : W32
  done : Bool
  deriving DecidableEq, Repr

def pumpReset : Pump := ⟨0, 0, false⟩

/-- One HBM stack with its controller, Pump and Syllabus. -/
structure Stack where
  dram : Table DramQ
  /-- Requests that wait for room in their pseudo-channel's queue (R332), oldest first. -/
  stalled : List HReq
  /-- The line returned last. -/
  out : Option LineOut
  /-- XTS key registers written since the last clear (R348), bit i for register i. -/
  keysSet : Nat
  scrubLine : Nat
  /-- Rows that patrol scrub corrected in the last pass and in this one (R341). -/
  weakLast : List Nat
  weakNow : List Nat
  wiping : Bool
  /-- The Warden clears the keys at the end of the wipe (R357, R520). -/
  clearAfter : Bool
  powered : Bool
  selfRefresh : Bool
  failed : Bool
  /-- The UCIe and HBM PLL has locked (R568). -/
  pll : Bool
  pump : Pump
  /-- The shard is TORN in this stack (R472): a pass 2 was abandoned, or left elements unwritten. -/
  torn : Bool
  /-- Syllabus rates by curve (R388). -/
  rates : Table W32
  deriving DecidableEq, Repr

def stackReset : Stack where
  dram := []
  stalled := []
  out := none
  keysSet := 0
  scrubLine := 0
  weakLast := []
  weakNow := []
  wiping := false
  clearAfter := false
  powered := false
  selfRefresh := false
  failed := false
  pll := false
  pump := pumpReset
  torn := false
  rates := []

/-! ### Control space and reports -/

/-- A report on its way to the Warden (R35): the node that raised it, its event code (spec/15 R536, spec/16
R566) and the items that the raising rule names. -/
structure Report where
  node : Nat
  code : Nat
  items : List Nat
  deriving DecidableEq, Repr

/-- The package: counter of free values (the model's own), memory, poison, units, registers, reports. -/
structure Chip where
  /-- Counter that the free values of Config are applied to (log entry 1). -/
  fresh : Nat
  /-- Bytes of memory; byte b of word a lies at 2 a + b (R9). An unlisted byte reads 0 (log entry 4). -/
  mem : List Host.Cell
  /-- Poisoned units: first word of a group of four (classroom memory, R292) or of a line (HBM, R338). -/
  pois : Table Bool
  /-- What each HBM line was last written under (R347), by line number: 0 plain, else 1 + the stack's two XTS keys. -/
  crypt : Table Nat
  /-- Classrooms whose memory was lost (R543), with the free values it reads as, and the words written since. -/
  lost : Table Nat
  since : Table Bool
  cores : Table Core
  rooms : Table Room
  /-- Requests that wait at their requester for a bank's entry or a tracker entry (R284), oldest first, each
  with its classroom and bank. -/
  waiting : List (Nat × Nat × BankReq)
  stk : Table Stack
  /-- Control registers by block and register number (Machine/Registers.lean); unlisted: the reset value. -/
  regs : Table (Table W32)
  /-- PLLs locked (R568): mesh n at n, Ethernet transmit n at 8 + n, PCIe n at 24 + n. -/
  plls : Table Bool
  /-- Mesh polders powered, and port polders switched off (R537). -/
  meshOn : Table Bool
  portOff : Table Bool
  /-- Key registers of each port written since the last clear (R460), bit i for register i. -/
  ethKeys : Table Nat
  /-- Floor of each compute die, and dies held at PL1 by the wear rule (R542, R557, R558). -/
  floors : Table Nat
  plHold : Table Bool
  /-- Microseconds since the Warden started (R535, log entry 8), and when each block entered STOPPING (R48). -/
  nowUs : Nat
  stopAt : Table Nat
  /-- Blocks that were reported hung in STOPPING: they stay there until a reset (R48). -/
  hung : Table Bool
  /-- The value that the last register read returned. -/
  readOut : W32
  reports : List Report
  /-- JOB_SEED of the loaded job (R85). -/
  seed : W64
  deriving DecidableEq, Repr

def chipReset : Chip where
  fresh := 0
  mem := []
  pois := []
  crypt := []
  lost := []
  since := []
  cores := []
  rooms := []
  waiting := []
  stk := []
  regs := []
  plls := []
  meshOn := []
  portOff := []
  ethKeys := []
  floors := []
  plHold := []
  nowUs := 0
  stopAt := []
  hung := []
  readOut := 0
  reports := []
  seed := 0

end Sys2Proof.Machine
end

