-- ==== Sys2Proof/Machine/Regs.lean ====
section
/-! DEFINITION. The control space (spec/01_organisation.md R39 to R51, spec/00_scope.md R14 to R18): the blocks, their
register fields with access codes and reset values, reading and writing a register, the states of a block. -/

namespace Sys2Proof.Machine

/-- The access codes of R14. -/
inductive Acc where
  | rw | ro | w1c | rc | wo | rws
  deriving DecidableEq, Repr

/-- A field of a register: word offset in the block region, bits [hi:lo], access code, reset value. -/
structure FieldRow where
  off : Nat
  hi : Nat
  lo : Nat
  acc : Acc
  reset : Nat
  deriving DecidableEq, Repr

/-- The kinds of block (R40). -/
inductive BKind where
  | cls | dma | mesh | eth | pci | hmc | pmp | syl | bel
  deriving DecidableEq, Repr

/-- The kind of a block. -/
def blockKind : BlockId → BKind
  | .cls _ => .cls | .dma _ => .dma | .mesh _ => .mesh | .eth _ => .eth | .pci _ => .pci
  | .hmc _ => .hmc | .pmp _ => .pmp | .syl _ => .syl | .bel => .bel

/-- Blocks by number, for the table of their registers. -/
def blockKey : BlockId → Nat
  | .cls n => n.val | .dma n => 64 + n.val | .mesh n => 128 + n.val | .eth n => 132 + n.val | .pci n => 148 + n.val
  | .hmc n => 150 + n.val | .pmp n => 158 + n.val | .syl n => 166 + n.val | .bel => 174

/-- The node whose window holds a block's registers (R39, R40). -/
def blockNode : BlockId → Nat
  | .cls n => 0x40 + n.val | .dma n => 0x40 + n.val | .mesh n => 0x04 + n.val
  | .eth n => 0x01 + n.val / 8 | .pci n => 0x01 + n.val
  | .hmc n => 0x08 + n.val | .pmp n => 0x08 + n.val | .syl n => 0x08 + n.val | .bel => 0

/-- The block of region b of node k (R40); none for a reserved region. -/
def blockAt (k b : Nat) : Option BlockId :=
  if k = 0 then (if b = 0 then some .bel else none)
  else if k = 1 ∨ k = 2 then
    (if b < 8 then some (.eth (Fin.ofNat 16 ((k - 1) * 8 + b))) else if b = 8 then some (.pci (Fin.ofNat 2 (k - 1))) else none)
  else if 4 ≤ k ∧ k ≤ 7 then (if b = 0 then some (.mesh (Fin.ofNat 4 (k - 4))) else none)
  else if 8 ≤ k ∧ k ≤ 15 then
    (if b = 0 then some (.hmc (Fin.ofNat 8 (k - 8))) else if b = 1 then some (.pmp (Fin.ofNat 8 (k - 8)))
     else if b = 2 then some (.syl (Fin.ofNat 8 (k - 8))) else none)
  else if 0x40 ≤ k ∧ k ≤ 0x7F then
    (if b = 0 then some (.cls (Fin.ofNat 64 (k - 0x40))) else if b = 1 then some (.dma (Fin.ofNat 64 (k - 0x40))) else none)
  else none

/-- The common registers (R42 to R46). -/
def fieldsCommon : List FieldRow :=
  [⟨0x000, 0, 0, .rw, 0⟩, ⟨0x002, 9, 9, .w1c, 0⟩, ⟨0x002, 8, 8, .w1c, 0⟩, ⟨0x002, 5, 5, .w1c, 0⟩, ⟨0x002, 4, 4, .w1c, 0⟩] ++
  [⟨0x002, 1, 0, .ro, 0⟩, ⟨0x004, 31, 24, .rc, 0⟩, ⟨0x004, 15, 0, .ro, 0⟩, ⟨0x006, 31, 16, .ro, 0⟩, ⟨0x006, 15, 0, .ro, 0⟩]

/-- The block-specific fields of CLS (R55, R56, R166, R167, R168, R293, R294, R312, R313, R314, R316, R324, R541, R552,
R553). -/
def fieldsCls : List FieldRow :=
  [⟨0x010, 31, 16, .rws, 0x0⟩, ⟨0x010, 15, 0, .rws, 0x0⟩, ⟨0x012, 15, 0, .ro, 0⟩, ⟨0x014, 31, 1, .rws, 0x0⟩, ⟨0x016, 15, 0, .rws, 0x0⟩] ++
  [⟨0x018, 31, 24, .ro, 0x0⟩, ⟨0x018, 23, 16, .ro, 0x0⟩, ⟨0x018, 7, 7, .w1c, 0x0⟩, ⟨0x018, 6, 3, .ro, 0x0⟩, ⟨0x018, 2, 0, .ro, 0x0⟩] ++
  [⟨0x01A, 16, 0, .rws, 0x0⟩, ⟨0x01C, 16, 0, .rws, 0x0⟩, ⟨0x01E, 14, 0, .rws, 0x0⟩, ⟨0x020, 31, 31, .ro, 0x0⟩, ⟨0x020, 16, 0, .ro, 0x0⟩] ++
  [⟨0x022, 31, 16, .rc, 0x0⟩, ⟨0x022, 7, 0, .rc, 0x0⟩, ⟨0x024, 31, 31, .w1c, 0x0⟩, ⟨0x024, 21, 0, .ro, 0x0⟩, ⟨0x026, 31, 16, .wo, 0x0⟩] ++
  [⟨0x026, 15, 0, .rw, 0x0⟩, ⟨0x028, 31, 24, .rc, 0x0⟩, ⟨0x028, 23, 20, .ro, 0x1⟩, ⟨0x028, 19, 18, .ro, 0x0⟩, ⟨0x028, 17, 17, .rw, 0x0⟩] ++
  [⟨0x028, 13, 8, .ro, 0x0⟩, ⟨0x028, 6, 4, .ro, 0x7⟩, ⟨0x028, 2, 0, .rw, 0x7⟩, ⟨0x02A, 31, 0, .ro, 0x11111111⟩, ⟨0x02C, 31, 0, .ro, 0x11111111⟩] ++
  [⟨0x02E, 31, 0, .ro, 0⟩, ⟨0x030, 31, 0, .ro, 0⟩]

/-- The block-specific fields of DMA (R303, R305, R306, R307, R308). -/
def fieldsDma : List FieldRow :=
  [⟨0x010, 25, 16, .rws, 0x200⟩, ⟨0x010, 14, 8, .rws, 0x40⟩, ⟨0x012, 25, 16, .ro, 0x0⟩, ⟨0x012, 5, 0, .ro, 0x0⟩, ⟨0x014, 31, 31, .w1c, 0x0⟩] ++
  [⟨0x014, 7, 0, .ro, 0x0⟩, ⟨0x016, 31, 0, .ro, 0x0⟩, ⟨0x018, 15, 0, .ro, 0x0⟩, ⟨0x01A, 31, 0, .rc, 0x0⟩]

/-- The block-specific fields of MESH (R539). -/
def fieldsMesh : List FieldRow :=
  [⟨0x010, 0, 0, .w1c, 0x0⟩]

/-- The block-specific fields of HMC (R349, R351, R352, R353, R354, R355, R356, R358). -/
def fieldsHmc : List FieldRow :=
  [⟨0x010, 23, 16, .rws, 0x18⟩, ⟨0x010, 2, 2, .ro, 0x0⟩, ⟨0x010, 1, 1, .rws, 0x0⟩, ⟨0x010, 0, 0, .rws, 0x1⟩, ⟨0x012, 17, 16, .ro, 0x0⟩] ++
  [⟨0x012, 7, 0, .ro, 0x0⟩, ⟨0x014, 31, 16, .rc, 0x0⟩, ⟨0x014, 7, 0, .rc, 0x0⟩, ⟨0x016, 31, 0, .ro, 0x0⟩, ⟨0x018, 31, 31, .w1c, 0x0⟩] ++
  [⟨0x018, 15, 0, .ro, 0x0⟩, ⟨0x01A, 31, 0, .rc, 0x0⟩, ⟨0x01C, 31, 16, .ro, 0⟩, ⟨0x01C, 15, 0, .ro, 0⟩, ⟨0x01E, 2, 2, .ro, 0x0⟩] ++
  [⟨0x01E, 1, 1, .wo, 0x0⟩, ⟨0x01E, 0, 0, .wo, 0x0⟩, ⟨0x020, 31, 0, .wo, 0x0⟩, ⟨0x022, 31, 0, .wo, 0x0⟩, ⟨0x024, 31, 0, .wo, 0x0⟩] ++
  [⟨0x026, 31, 0, .wo, 0x0⟩, ⟨0x028, 31, 0, .wo, 0x0⟩, ⟨0x02A, 31, 0, .wo, 0x0⟩, ⟨0x02C, 31, 0, .wo, 0x0⟩, ⟨0x02E, 31, 0, .wo, 0x0⟩] ++
  [⟨0x030, 31, 0, .wo, 0x0⟩, ⟨0x032, 31, 0, .wo, 0x0⟩, ⟨0x034, 31, 0, .wo, 0x0⟩, ⟨0x036, 31, 0, .wo, 0x0⟩, ⟨0x038, 31, 0, .wo, 0x0⟩] ++
  [⟨0x03A, 31, 0, .wo, 0x0⟩, ⟨0x03C, 31, 0, .wo, 0x0⟩, ⟨0x03E, 31, 0, .wo, 0x0⟩]

/-- The block-specific fields of PMP (R365, R394, R395, R397, R398, R399, R400, R401, R402). -/
def fieldsPmp : List FieldRow :=
  [⟨0x010, 31, 0, .rws, 0x0⟩, ⟨0x012, 31, 0, .rws, 0x0⟩, ⟨0x014, 15, 0, .rws, 0x0⟩, ⟨0x016, 31, 0, .rws, 0x0⟩, ⟨0x018, 15, 0, .rws, 0x0⟩] ++
  [⟨0x01A, 31, 30, .ro, 0x3⟩, ⟨0x01A, 27, 16, .ro, 0x0⟩, ⟨0x01A, 15, 12, .ro, 0x0⟩, ⟨0x01C, 31, 0, .ro, 0x0⟩, ⟨0x01E, 31, 30, .ro, 0x0⟩] ++
  [⟨0x01E, 11, 0, .ro, 0x0⟩, ⟨0x020, 4, 0, .w1c, 0x0⟩, ⟨0x022, 31, 16, .rc, 0x0⟩, ⟨0x022, 15, 0, .rc, 0x0⟩, ⟨0x024, 11, 0, .rw, 0x0⟩] ++
  [⟨0x030, 31, 31, .rws, 0x0⟩, ⟨0x030, 30, 30, .rws, 0x0⟩, ⟨0x030, 29, 29, .rws, 0x0⟩, ⟨0x030, 28, 28, .rws, 0x0⟩, ⟨0x030, 27, 27, .rws, 0x0⟩] ++
  [⟨0x030, 26, 26, .rws, 0x0⟩, ⟨0x030, 25, 24, .rws, 0x0⟩, ⟨0x030, 23, 18, .rws, 0x0⟩, ⟨0x032, 31, 0, .rws, 0x0⟩, ⟨0x034, 31, 0, .rws, 0x0⟩] ++
  [⟨0x036, 31, 16, .rws, 0x0⟩, ⟨0x036, 15, 0, .rws, 0x0⟩, ⟨0x038, 31, 0, .rws, 0x0⟩, ⟨0x03A, 31, 0, .rws, 0x0⟩, ⟨0x03C, 31, 0, .rws, 0x0⟩] ++
  [⟨0x03E, 31, 0, .rws, 0x0⟩, ⟨0x040, 31, 0, .rws, 0x0⟩, ⟨0x042, 31, 0, .rws, 0x0⟩, ⟨0x044, 23, 0, .rws, 0x0⟩, ⟨0x046, 31, 0, .rws, 0x0⟩] ++
  [⟨0x048, 7, 0, .rws, 0x0⟩]

/-- The block-specific fields of SYL (R388). -/
def fieldsSyl : List FieldRow :=
  [⟨0x010, 5, 0, .rw, 0x0⟩, ⟨0x012, 31, 0, .ro, 0x0⟩, ⟨0x020, 31, 31, .rws, 0x0⟩, ⟨0x020, 30, 30, .rws, 0x0⟩, ⟨0x020, 29, 28, .rws, 0x0⟩] ++
  [⟨0x022, 31, 0, .rws, 0x0⟩, ⟨0x024, 31, 0, .rws, 0x0⟩, ⟨0x026, 31, 0, .rws, 0x0⟩, ⟨0x028, 31, 0, .rws, 0x0⟩, ⟨0x02A, 31, 0, .rws, 0x0⟩] ++
  [⟨0x02C, 31, 0, .rws, 0x0⟩, ⟨0x02E, 31, 0, .rws, 0x0⟩, ⟨0x030, 31, 0, .rws, 0x0⟩]

/-- The block-specific fields of BEL (R428). -/
def fieldsBel : List FieldRow :=
  [⟨0x010, 1, 0, .rws, 0x0⟩, ⟨0x012, 31, 0, .ro, 0x0⟩, ⟨0x014, 31, 30, .ro, 0x3⟩, ⟨0x014, 11, 0, .ro, 0x0⟩, ⟨0x016, 31, 16, .rc, 0x0⟩] ++
  [⟨0x016, 15, 0, .rc, 0x0⟩, ⟨0x018, 31, 0, .rc, 0x0⟩, ⟨0x01A, 31, 0, .rc, 0x0⟩, ⟨0x01C, 31, 31, .w1c, 0x0⟩, ⟨0x01C, 19, 0, .ro, 0x0⟩] ++
  [⟨0x01E, 31, 31, .w1c, 0x0⟩, ⟨0x01E, 19, 0, .ro, 0x0⟩]

/-- The block-specific fields of ETH (R458, R460, R539). -/
def fieldsEth : List FieldRow :=
  [⟨0x010, 27, 16, .rws, 0x0⟩, ⟨0x010, 15, 13, .rws, 0x0⟩, ⟨0x010, 12, 12, .rws, 0x0⟩, ⟨0x010, 11, 11, .rws, 0x0⟩, ⟨0x010, 10, 10, .rws, 0x0⟩] ++
  [⟨0x010, 9, 9, .rws, 0x0⟩, ⟨0x010, 8, 8, .rws, 0x0⟩, ⟨0x010, 7, 6, .rws, 0x0⟩, ⟨0x010, 5, 5, .rws, 0x1⟩, ⟨0x012, 0, 0, .ro, 0x0⟩] ++
  [⟨0x014, 0, 0, .wo, 0x0⟩, ⟨0x016, 31, 0, .rws, 0x0⟩, ⟨0x018, 15, 0, .rws, 0x0⟩, ⟨0x01A, 31, 31, .ro, 0x0⟩, ⟨0x01A, 23, 0, .rc, 0x0⟩] ++
  [⟨0x01C, 31, 0, .rc, 0x0⟩, ⟨0x01E, 31, 16, .rc, 0x0⟩, ⟨0x01E, 15, 0, .rc, 0x0⟩, ⟨0x020, 4, 0, .w1c, 0x0⟩, ⟨0x022, 0, 0, .w1c, 0x0⟩] ++
  [⟨0x030, 31, 0, .wo, 0x0⟩, ⟨0x032, 31, 0, .wo, 0x0⟩, ⟨0x034, 31, 0, .wo, 0x0⟩, ⟨0x036, 31, 0, .wo, 0x0⟩, ⟨0x038, 31, 0, .wo, 0x0⟩] ++
  [⟨0x03A, 31, 0, .wo, 0x0⟩, ⟨0x03C, 31, 0, .wo, 0x0⟩, ⟨0x03E, 31, 0, .wo, 0x0⟩, ⟨0x040, 31, 0, .wo, 0x0⟩, ⟨0x042, 31, 0, .wo, 0x0⟩] ++
  [⟨0x044, 31, 0, .wo, 0x0⟩, ⟨0x046, 31, 0, .wo, 0x0⟩, ⟨0x048, 31, 0, .wo, 0x0⟩]

/-- The block-specific fields of PCI (none). -/
def fieldsPci : List FieldRow := []


/-- Every field of a block kind. -/
def fieldsOf : BKind → List FieldRow
  | .cls => fieldsCommon ++ fieldsCls | .dma => fieldsCommon ++ fieldsDma | .mesh => fieldsCommon ++ fieldsMesh
  | .eth => fieldsCommon ++ fieldsEth | .pci => fieldsCommon ++ fieldsPci | .hmc => fieldsCommon ++ fieldsHmc
  | .pmp => fieldsCommon ++ fieldsPmp | .syl => fieldsCommon ++ fieldsSyl | .bel => fieldsCommon ++ fieldsBel

/-- The fields of one register. -/
def fieldsAt (k : BKind) (off : Nat) : List FieldRow := (fieldsOf k).filter (fun f => f.off == off)

/-- The reset value of a register (R18). A register with several copies has number off + 0x400 x entry. -/
def regReset (k : BKind) (n : Nat) : W32 :=
  BitVec.ofNat 32 ((fieldsAt k (n % 0x400)).foldl (fun a f => a + f.reset * 2 ^ f.lo) 0)

/-- The registers of a block. -/
def blkRegs (c : Chip) (b : BlockId) : Table W32 := tget (fun _ => []) c.regs (blockKey b)

/-- What register n of a block holds. -/
def rawReg (c : Chip) (b : BlockId) (n : Nat) : W32 := tget (regReset (blockKind b)) (blkRegs c b) n

/-- Set register n of a block. -/
def setRaw (c : Chip) (b : BlockId) (n : Nat) (v : W32) : Chip :=
  { c with regs := tput (fun _ => []) c.regs (blockKey b) (tput (regReset (blockKind b)) (blkRegs c b) n v) }

/-- Bits [hi:lo] of register n. -/
def getF (c : Chip) (b : BlockId) (n hi lo : Nat) : Nat := natBits (rawReg c b n).toNat hi lo

/-- Set bits [hi:lo] of register n. -/
def setF (c : Chip) (b : BlockId) (n hi lo v : Nat) : Chip :=
  setRaw c b n (BitVec.ofNat 32 (natSetBits (rawReg c b n).toNat hi lo v))

/-- Count d more in a field that stops counting at its largest value. -/
def bumpF (c : Chip) (b : BlockId) (n hi lo d : Nat) : Chip :=
  setF c b n hi lo (min (2 ^ (hi + 1 - lo) - 1) (getF c b n hi lo + d))

/-- OR into a field. -/
def orF (c : Chip) (b : BlockId) (n hi lo v : Nat) : Chip := setF c b n hi lo (getF c b n hi lo ||| v)

/-- The number of the register at an offset: PMP_D0 to D15 show the entry PMP_DSEL names (R365, R402), SYL_C0 to C8 the
curve SYL_CSEL names (R388). -/
def regKey (c : Chip) (b : BlockId) (off : Nat) : Nat :=
  match blockKind b with
  | .pmp => if 0x030 ≤ off ∧ off ≤ 0x04E then off + 0x400 * getF c b 0x024 11 0 else off
  | .syl => if 0x020 ≤ off ∧ off ≤ 0x030 then off + 0x400 * getF c b 0x010 5 0 else off
  | _ => off

/-- The state of a block (R44): 0 STOPPED, 1 STARTING, 2 RUNNING, 3 STOPPING. -/
def bState (c : Chip) (b : BlockId) : Nat := getF c b 0x002 1 0
def setState (c : Chip) (b : BlockId) (v : Nat) : Chip := setF c b 0x002 1 0 v
/-- The RUN request (R43). -/
def bRun (c : Chip) (b : BlockId) : Bool := getF c b 0x000 0 0 == 1

/-- Field code of R41. -/
def fieldCode (f : FieldRow) : Nat := f.off * 64 + f.lo

/-- What a register holds, read-only views computed (R305, R388). -/
def regHeld (c : Chip) (b : BlockId) (off : Nat) : W32 :=
  match b with
  | .dma n =>
    if off = 0x012 then
      let e := (tget (fun _ => roomReset) c.rooms n.val).dma
      BitVec.ofNat 32 (e.pieces.length % 1024 * 2 ^ 16 + e.active.length % 64)
    else rawReg c b off
  | .syl n =>
    if off = 0x012 then tget (fun _ => 0) (tget (fun _ => stackReset) c.stk n.val).rates (getF c b 0x010 5 0)
    else rawReg c b (regKey c b off)
  | _ => rawReg c b (regKey c b off)

/-- What a read returns: write-only fields read 0 (R14). -/
def regRead (c : Chip) (b : BlockId) (off : Nat) : W32 :=
  BitVec.ofNat 32 ((fieldsAt (blockKind b) off).foldl
    (fun a f => if f.acc = .wo then a else a + natBits (regHeld c b off).toNat f.hi f.lo * 2 ^ f.lo) 0)

/-- The read's effect: RC fields are cleared (R14). -/
def regReadClear (c : Chip) (b : BlockId) (off : Nat) : Chip :=
  (fieldsAt (blockKind b) off).foldl
    (fun c f => if f.acc = .rc then setF c b (regKey c b off) f.hi f.lo 0 else c) c

/-- The effect of a write on one field that the field's code gives (R14, R50), RWS writes aside when not STOPPED. -/
def fieldWrite (v : Nat) (b : BlockId) (n : Nat) (stopped : Bool) (c : Chip) (f : FieldRow) : Chip :=
  match f.acc with
  | .rw => setF c b n f.hi f.lo (natBits v f.hi f.lo)
  | .w1c => setF c b n f.hi f.lo (getF c b n f.hi f.lo &&& (2 ^ (f.hi + 1 - f.lo) - 1 - natBits v f.hi f.lo))
  | .rws => if stopped then setF c b n f.hi f.lo (natBits v f.hi f.lo) else c
  | _ => c

/-- The field codes of the RWS fields that a write discards with a differing value (R15, R51). -/
def discarded (c : Chip) (b : BlockId) (off v : Nat) : List Nat :=
  ((fieldsAt (blockKind b) off).filter (fun f =>
    f.acc == .rws && natBits v f.hi f.lo != getF c b (regKey c b off) f.hi f.lo)).map fieldCode

/-- Set CFG_REJECT and update xxx_REJECT (R15, R45). -/
def cfgReject (c : Chip) (b : BlockId) (code : Nat) : Chip :=
  let c := if getF c b 0x002 4 4 = 0 then setF c b 0x004 15 0 code else c
  bumpF (setF c b 0x002 4 4 1) b 0x004 31 24 1

/-- A write of a register, field by field under the access codes (R14, R15, R50, R51). -/
def regWrite (c : Chip) (b : BlockId) (off : Nat) (v : W32) : Chip :=
  let stopped := decide (bState c b = 0)
  let n := regKey c b off
  let lost := if stopped then [] else discarded c b off v.toNat
  let c' := (fieldsAt (blockKind b) off).foldl (fieldWrite v.toNat b n stopped) c
  match lost with
  | [] => c'
  | x :: xs => cfgReject c' b (xs.foldl min x)

/-- Send a report to the Warden (R35). -/
def report (c : Chip) (node code : Nat) (items : List Nat) : Chip :=
  { c with reports := c.reports ++ [⟨node, code, items⟩] }

/-- Hardware stops a block (R47 last row, R49): STOPPED, HW_STOP set, RUN cleared. -/
def hwStop (c : Chip) (b : BlockId) : Chip :=
  if bState c b = 0 then c
  else
    let c := { c with hung := tput (fun _ => false) c.hung (blockKey b) false }
    setF (setF (setState c b 0) b 0x002 8 8 1) b 0x000 0 0 0

end Sys2Proof.Machine
end

