-- ==== Sys2Proof/Machine/Memory.lean ====
section
/-! DEFINITION. The named operations on the package's memory: units by number, memory and its poison,
speculative shadows, encryption, the address map and its protection. -/

namespace Sys2Proof.Machine

/-! ### Units -/

def coreOf (c : Chip) (n : Nat) : Core := tget (fun _ => corePower) c.cores n
def setCore (c : Chip) (n : Nat) (k : Core) : Chip := { c with cores := tput (fun _ => corePower) c.cores n k }
def modCore (c : Chip) (n : Nat) (f : Core → Core) : Chip := setCore c n (f (coreOf c n))

def strandOf (c : Chip) (u : StrandId) : Strand := tget strandReset (coreOf c u.core).strands u.strand
def setStrand (c : Chip) (u : StrandId) (st : Strand) : Chip :=
  modCore c u.core (fun k => { k with strands := tput strandReset k.strands u.strand st })
def modStrand (c : Chip) (u : StrandId) (f : Strand → Strand) : Chip := setStrand c u (f (strandOf c u))

def roomOf (c : Chip) (n : Nat) : Room := tget (fun _ => roomReset) c.rooms n
def modRoom (c : Chip) (n : Nat) (f : Room → Room) : Chip :=
  { c with rooms := tput (fun _ => roomReset) c.rooms n (f (roomOf c n)) }

def stackOf (c : Chip) (n : Nat) : Stack := tget (fun _ => stackReset) c.stk n
def modStack (c : Chip) (n : Nat) (f : Stack → Stack) : Chip :=
  { c with stk := tput (fun _ => stackReset) c.stk n (f (stackOf c n)) }

/-- The classroom of a core and its position there (R19). -/
def coreRoom (n : Nat) : Nat := n / 16
def corePos (n : Nat) : Nat := n % 16
/-- The classroom and DMA blocks of classroom r, the controller block of stack k. -/
def clsB (r : Nat) : BlockId := .cls (Fin.ofNat 64 r)
def dmaB (r : Nat) : BlockId := .dma (Fin.ofNat 64 r)
def hmcB (k : Nat) : BlockId := .hmc (Fin.ofNat 8 k)
def pmpB (k : Nat) : BlockId := .pmp (Fin.ofNat 8 k)
def sylB (k : Nat) : BlockId := .syl (Fin.ofNat 8 k)

/-! ### Memory (R6 to R9, R36) -/

/-- The first word address past HBM. -/
abbrev hbmEnd : Nat := 0x4000000000
/-- The first word of classroom memory and the words of one window. -/
abbrev clsBase : Nat := 0x10000000000
abbrev clsWords : Nat := 0x400000
abbrev clsEnd : Nat := clsBase + 64 * clsWords
/-- The first word of the core pigeonholes. -/
abbrev pgnBase : Nat := 0x18000000000
abbrev pgnEnd : Nat := pgnBase + 1024 * 256
/-- The offset of a classroom's reserved area (R37). -/
abbrev resOff : Nat := 0x3F8000

/-- What an unlisted byte of memory reads as (log entry 4). -/
def memDflt : Nat → Byte := fun _ => 0

/-- The word at an address: byte 0 is bits [7:0] (R9). -/
def wordAt (m : List Host.Cell) (a : Nat) : Word := tget memDflt m (2 * a + 1) ++ tget memDflt m (2 * a)

/-- Write the word at an address. -/
def setWord (m : List Host.Cell) (a : Nat) (w : Word) : List Host.Cell :=
  tput memDflt (tput memDflt m (2 * a) (w.setWidth 8)) (2 * a + 1) ((w >>> 8).setWidth 8)

/-- Whether a word of HBM, of classroom memory. -/
def inHbm (a : Nat) : Bool := decide (a < hbmEnd)
def inCls (a : Nat) : Bool := decide (clsBase ≤ a) && decide (a < clsEnd)
/-- The classroom and the window offset of a word of classroom memory. -/
def roomAt (a : Nat) : Nat := (a - clsBase) / clsWords
def offAt (a : Nat) : Nat := (a - clsBase) % clsWords
/-- The word address of an offset in a classroom's window. -/
def clsAddr (r off : Nat) : Nat := clsBase + r * clsWords + off
/-- The stack of a word of HBM (R327). -/
def stackAt (a : Nat) : Nat := a / 2 ^ 35

/-- The unit that carries one poison mark: the line of HBM (R338), the group of classroom memory (R292). -/
def unitSize (a : Nat) : Nat := if inHbm a then 32 else 4
def unitOf (a : Nat) : Option Nat := if inHbm a || inCls a then some (a - a % unitSize a) else none
def poisAt (c : Chip) (a : Nat) : Bool :=
  match unitOf a with
  | none => false
  | some b => tget (fun _ => false) c.pois b
def setPois (c : Chip) (b : Nat) (p : Bool) : Chip := { c with pois := tput (fun _ => false) c.pois b p }

/-! ### Speculative shadows (R312 to R318) -/

def specHome (c : Chip) (r : Nat) : Nat := getF c (clsB r) 0x01A 16 0
def specShadow (c : Chip) (r : Nat) : Nat := getF c (clsB r) 0x01C 16 0
def specSize (c : Chip) (r : Nat) : Nat := getF c (clsB r) 0x01E 14 0

/-- Whether a word lies in a range of lines of its classroom. -/
def lineIn (a first size : Nat) : Bool := decide (first ≤ offAt a / 32) && decide (offAt a / 32 < first + size)
/-- Whether a word lies in its classroom's home range, in its shadow range (reserved while SIZE is not 0, R314). -/
def inHome (c : Chip) (a : Nat) : Bool := inCls a && lineIn a (specHome c (roomAt a)) (specSize c (roomAt a))
def inShadow (c : Chip) (a : Nat) : Bool := inCls a && lineIn a (specShadow c (roomAt a)) (specSize c (roomAt a))

/-- The line of a home-range word counted from HOME. -/
def homeDist (c : Chip) (a : Nat) : Nat := offAt a / 32 - specHome c (roomAt a)
/-- The word of the copy: the home word itself, or the shadow word at the same distance (R318). -/
def copyAddr (c : Chip) (shadow : Bool) (a : Nat) : Nat :=
  if shadow then clsAddr (roomAt a) ((specShadow c (roomAt a) + homeDist c a) * 32 + a % 32) else a

def selOf (c : Chip) (a : Nat) : Bool := tget (fun _ => false) (roomOf c (roomAt a)).sel (homeDist c a)
def dirtyOf (c : Chip) (a : Nat) : Bool := tget (fun _ => false) (roomOf c (roomAt a)).dirty (homeDist c a)

/-- The word that a read reaches (R318). -/
def physRd (c : Chip) (spec : Bool) (a : Nat) : Nat :=
  if inHome c a then copyAddr c (if spec && dirtyOf c a then !selOf c a else selOf c a) a else a

/-- The word that a write reaches (R318). -/
def physWr (c : Chip) (spec : Bool) (a : Nat) : Nat :=
  if inHome c a then copyAddr c (if spec then !selOf c a else selOf c a) a else a

/-- The key registers of stack k as one number, the least significant first (R347). -/
def keyNat (c : Chip) (k : Nat) : Nat → Nat
  | 0 => 0
  | i + 1 => keyNat c k i + (rawReg c (hmcB k) (0x020 + 2 * i)).toNat * 2 ^ (32 * i)

/-- What stack k writes and reads lines under now: 0 plain, else 1 + its keys (R347). -/
def cryptNow (c : Chip) (k : Nat) : Nat := if getF c (hmcB k) 0x010 1 1 = 1 then 1 + keyNat c k 16 else 0

/-- What an HBM line was last written under. -/
def cryptOf (c : Chip) (line : Nat) : Nat := tget (fun _ => 0) c.crypt line

/-- The words of a line as one number. -/
def lineNat (m : List Host.Cell) (a : Nat) : Nat → Nat
  | 0 => 0
  | n + 1 => (wordAt m a).toNat + 65536 * lineNat m (a + 1) n

/-- An HBM line as the DRAM holds it (R336, R347): the ciphertext of a line written under keys, else its words. -/
def storedLine (c : Chip) (line : Nat) : Nat :=
  let p := lineNat c.mem (32 * line) 32
  if cryptOf c line = 0 then p else xtsEnc (cryptOf c line - 1) line p

/-- The words of an HBM line that its stack's keys of now make of what the DRAM holds (R347). -/
def openedLine (c : Chip) (line : Nat) : Nat :=
  let k := cryptNow c (stackAt (32 * line))
  if k = 0 then storedLine c line else xtsDec (k - 1) line (storedLine c line)

/-- Word a of memory as it reads: an HBM line last written under other keys reads as AES-XTS makes of it
(R347); a word of a classroom whose memory was lost is not specified (R543). -/
def physWord (c : Chip) (a : Nat) : Word :=
  if inHbm a ∧ cryptOf c (a / 32) ≠ cryptNow c (stackAt a) then BitVec.ofNat 16 (openedLine c (a / 32) / 2 ^ (16 * (a % 32)))
  else if inCls a ∧ tget (fun _ => 0) c.lost (roomAt a) ≠ 0 ∧ tget (fun _ => false) c.since a = false then
    Config.freeWord (tget (fun _ => 0) c.lost (roomAt a) + offAt a)
  else wordAt c.mem a

/-- Write the word at an address of the package's memory; a word of a classroom whose memory was lost is known again. -/
def setPhys (c : Chip) (a : Nat) (w : Word) : Chip :=
  { c with
    mem := setWord c.mem a w
    since := if inCls a ∧ tget (fun _ => 0) c.lost (roomAt a) ≠ 0 then tput (fun _ => false) c.since a true else c.since }

/-- A read of one word: its value and poison mark. -/
def rdWord (c : Chip) (spec : Bool) (a : Nat) : Word × Bool :=
  (physWord c (physRd c spec a), poisAt c (physRd c spec a))

/-- Consecutive words. -/
def rdWords (c : Chip) (spec : Bool) (a : Nat) : Nat → List (Word × Bool)
  | 0 => []
  | n + 1 => rdWord c spec a :: rdWords c spec (a + 1) n

/-- The words as one number, least significant first (R9). -/
def wordsNat : List Word → Nat
  | [] => 0
  | w :: ws => w.toNat + 65536 * wordsNat ws

/-- A number as n words. -/
def natWords (v : Nat) : Nat → List Word
  | 0 => []
  | n + 1 => BitVec.ofNat 16 v :: natWords (v / 65536) n

/-- A value read from n words, and whether any is poisoned. -/
def rdNat (c : Chip) (spec : Bool) (a n : Nat) : Nat × Bool :=
  (wordsNat ((rdWords c spec a n).map Prod.fst), (rdWords c spec a n).any Prod.snd)

/-- Copy words with no mark. -/
def copyWords (c : Chip) (src dst : Nat) : Nat → Chip
  | 0 => c
  | n + 1 => copyWords (setPhys c dst (physWord c src)) (src + 1) (dst + 1) n

/-- Copy the poison marks of the groups of a line. -/
def copyPois (p : Table Bool) (src dst : Nat) : Nat → Table Bool
  | 0 => p
  | n + 1 => copyPois (tput (fun _ => false) p dst (tget (fun _ => false) p src)) (src + 4) (dst + 4) n

/-- The first speculative write of a line copies the committed copy into the other and marks the line (R318). -/
def specTouch (c : Chip) (a : Nat) : Chip :=
  if dirtyOf c a then c
  else
    let l := a - a % 32
    let src := copyAddr c (selOf c a) l
    let dst := copyAddr c (!selOf c a) l
    let d := homeDist c a
    let r := roomAt a
    let c := copyWords { c with pois := copyPois c.pois src dst 8 } src dst 32
    let c := modRoom c r (fun m => { m with dirty := tput (fun _ => false) m.dirty d true })
    bumpF c (clsB r) 0x020 16 0 1

/-- Set the words of a line from a list. -/
def setRun (m : List Host.Cell) (a : Nat) : List Word → List Host.Cell
  | [] => m
  | w :: ws => setRun (setWord m a w) (a + 1) ws

/-- Before a word of HBM is written, its line takes what it reads as under the stack's keys of now (R347). -/
def recrypt (c : Chip) (a : Nat) : Chip :=
  if inHbm a ∧ cryptOf c (a / 32) ≠ cryptNow c (stackAt a) then
    { c with
      mem := setRun c.mem (a - a % 32) ((List.range 32).map (fun i => physWord c (a - a % 32 + i)))
      crypt := tput (fun _ => 0) c.crypt (a / 32) (cryptNow c (stackAt a)) }
  else c

/-- Write one word without its poison mark; where it landed. -/
def putWord (c : Chip) (spec : Bool) (a : Nat) (w : Word) : Chip × Nat :=
  if inHome c a then
    let c := if spec then specTouch c a else c
    let p := copyAddr c (if spec then !selOf c a else selOf c a) a
    (setPhys c p w, p)
  else (setPhys (recrypt c a) a w, a)

/-- Write words in order; the physical words with their marks. -/
def putWords (c : Chip) (spec : Bool) : List (Nat × Word × Bool) → Chip × List (Nat × Bool)
  | [] => (c, [])
  | (a, w, z) :: r =>
    let x := putWord c spec a w
    let y := putWords x.1 spec r
    (y.1, (x.2, z) :: y.2)

/-- The poison of the units that one write touches (R292, R339): poisoned by a poisoned word, cleared when every word of
the unit is written, else as it was. -/
def markUnits (c : Chip) (ps : List (Nat × Bool)) : Chip :=
  ((ps.filterMap (fun p => unitOf p.1)).eraseDups).foldl
    (fun c b =>
      let mine := ps.filter (fun p => unitOf p.1 == some b)
      if mine.any Prod.snd then setPois c b true
      else if (mine.map Prod.fst).eraseDups.length = unitSize b then setPois c b false
      else c) c

/-- Words of a slot's buffer (R266). -/
def bufLen (sl : Slot) : Nat := if sl.amode = 1 then 2080 else if sl.amode = 2 then 32800 else 0

/-- Whether a word lies in the buffer of an OPEN slot (R271). -/
def bufHit (sl : Slot) (a : Nat) : Bool := sl.opened && decide (sl.buf ≤ a) && decide (a < sl.buf + bufLen sl)

/-- The slots of core n whose buffers these words reach are spoiled, all but the writer's own (R271). -/
def spoilCore (own : Option (Nat × Nat)) (as : List Nat) (n : Nat) (k : Core) : Core :=
  { k with slots := k.slots.map (fun e =>
      if own ≠ some (n, e.1) ∧ as.any (bufHit e.2) = true then (e.1, { e.2 with spoiled := true }) else e) }

def spoil (c : Chip) (own : Option (Nat × Nat)) (as : List Nat) : Chip :=
  { c with cores := c.cores.map (fun e => (e.1, spoilCore own as e.1 e.2)) }

/-- One write of a set of words, each with its poison mark; `own` names the slot (core, slot) whose buffer the tile unit
writes. -/
def wrOwn (own : Option (Nat × Nat)) (c : Chip) (spec : Bool) (l : List (Nat × Word × Bool)) : Chip :=
  let x := putWords c spec l
  spoil (markUnits x.1 x.2) own (l.map Prod.fst)

def wrMarked (c : Chip) (spec : Bool) (l : List (Nat × Word × Bool)) : Chip := wrOwn none c spec l

/-- The words of a list at consecutive addresses. -/
def atRun (a : Nat) : List Word → List (Nat × Word × Bool)
  | [] => []
  | w :: ws => (a, w, false) :: atRun (a + 1) ws

/-- Write consecutive words. -/
def wrWords (c : Chip) (spec : Bool) (a : Nat) (ws : List Word) : Chip := wrMarked c spec (atRun a ws)

/-! ### The address map and protection (R24, R25, R36 to R38, R120, R146 to R148, R314, R317, R538, R539) -/

/-- The compute dies that a transfer between compute dies a and b passes: horizontally first (R25). -/
def dieRoute (a b : Nat) : List Nat :=
  if a = b then [a] else if a % 2 = b % 2 ∨ a / 2 = b / 2 then [a, b] else [a, a ^^^ 1, b]

/-- Whether the meshes of some dies carry data: their polders are on (R538), and where a die-to-die link is
used its ends are not held idle by the pads (R539). -/
def meshesUp (c : Chip) (links : Bool) (ds : List Nat) : Bool :=
  ds.all (fun d => tget (fun _ => false) c.meshOn d && !(links && getF c (.mesh (Fin.ofNat 4 d)) 0x010 0 0 == 1))

/-- Whether data pass from compute die a to compute die b, or through it to a stack, which a die-to-die link
joins to it (R24, R26). -/
def meshPath (c : Chip) (hbm : Bool) (a b : Nat) : Bool := meshesUp c (hbm || a != b) (dieRoute a b)

/-- The compute die of a word of HBM (R23) and of classroom memory. -/
def dieAt (a : Nat) : Nat := if inHbm a then stackAt a / 2 else roomAt a / 16

/-- Whether the polder of a classroom is on (R537). -/
def roomOpen (c : Chip) (r : Nat) : Bool := !((roomOf c r).power == .closed)

/-- What of the data space agents other than the cores reach: HBM while its controller is RUNNING, and classroom memory
whose polder is on, its reserved area (R37) and shadow range (R314) apart. -/
def dataWord (c : Chip) (a : Nat) : Bool :=
  if inHbm a then bState c (hmcB (stackAt a)) == 2
  else inCls a && !inShadow c a && decide (offAt a < resOff) && roomOpen c (roomAt a)

/-- Whether the DMA engine of classroom r reaches a word. -/
def engineReaches (c : Chip) (r a : Nat) : Bool := dataWord c a && meshPath c (inHbm a) (r / 16) (dieAt a)

/-- Whether Ethernet port p reaches a word: its I/O die is linked to the two compute dies of its column (R24, R25). -/
def portReaches (c : Chip) (p a : Nat) : Bool :=
  dataWord c a && meshesUp c true (if dieAt a % 2 = p / 8 then [dieAt a] else [dieAt a ^^^ 1, dieAt a])

/-- Whether a core's access reaches a word (R36, R37, R38, R314, R317, R538; spec/09 for a stack that is not
RUNNING): level 0 pupil, 1 teacher, 2 head. -/
def reaches (c : Chip) (core lvl : Nat) (wr spec : Bool) (a : Nat) : Bool :=
  if inHbm a then !(wr && spec) && bState c (hmcB (stackAt a)) == 2 && meshPath c true (core / 256) (dieAt a)
  else if inCls a then
    !inShadow c a && (decide (offAt a < resOff) || lvl == 2) && roomOpen c (roomAt a) &&
      (roomAt a == coreRoom core || meshPath c false (core / 256) (dieAt a)) &&
      (!(wr && spec) || (inHome c a && roomAt a == coreRoom core))
  else if decide (pgnBase ≤ a) && decide (a < pgnEnd) then
    (a - pgnBase) / 256 == core && decide (1 ≤ lvl) && !(wr && spec) &&
      natBit (getF c (clsB (coreRoom core)) 0x010 31 16) (corePos core)
  else false

/-- The region map of a core (R148): access kind 0 read, 1 write, 2 fetch. The DETAIL of the fault when word a fails. -/
def rmFault (k : Core) (lvl kind a : Nat) : Option Nat :=
  if lvl = 2 ∨ !natBit k.rmctl.toNat 0 then none
  else
    match k.rmBase.find? (fun e => natBit e.2.toNat 63 && decide (natBits e.2.toNat 47 0 ≤ a) &&
        decide (a ≤ natBits (tget (fun _ => 0) k.rmLim e.1).toNat 47 0)) with
    | none => some (kind * 2 ^ 14 + 2 ^ 13)
    | some e =>
      if natBit e.2.toNat ((if lvl = 0 then 62 else 59) - kind) then none else some (kind * 2 ^ 14 + e.1)

/-- The first of n words that fails the region map, with its DETAIL. -/
def rmFirst (k : Core) (lvl kind a : Nat) : Nat → Option (Nat × Nat)
  | 0 => none
  | n + 1 =>
    match rmFault k lvl kind a with
    | some d => some (a, d)
    | none => rmFirst k lvl kind (a + 1) n

/-- Whether n words from a are all reached. -/
def reachAll (c : Chip) (core lvl : Nat) (wr spec : Bool) (a : Nat) : Nat → Bool
  | 0 => true
  | n + 1 => reaches c core lvl wr spec a && reachAll c core lvl wr spec (a + 1) n

end Sys2Proof.Machine
end

