-- ==== Sys2Proof/Machine/Requests.lean ====
section
/-! DEFINITION. Requests for memory: the queues of the classroom banks with their requesters
(spec/08_classroom_memory_and_dma.md R282 to R287), the admission of line requests by the memory controllers
(spec/09_hbm_memory.md R327 to R332). A request leaves its queue when it is served, in the order of the rules.
A classroom access reads or writes memory at the row that makes it, an HBM access when its controller accepts
it (R330); errors that the service finds reach whoever waits for it (log entries 6, 21, 30). -/

namespace Sys2Proof.Machine

/-! ### Classroom banks (R282 to R287) -/

/-- The bank and the bank line of a word of classroom memory (R282). -/
def bankOf (a : Nat) : Nat := (offAt a / 32) % 16
def bankLine (a : Nat) : Nat := offAt a / 32

def bankQ (r : Room) (b : Nat) : BankQ := tget (fun _ => bankQReset) r.banks b

/-- Requests of one requester that hold entries at bank b. -/
def heldAt (r : Room) (rq b : Nat) : Nat := ((bankQ r b).q.filter (fun e => e.rq == rq)).length

/-- How many of a list's requests hold an entry of a core's tracker. -/
def ofCore (core : Nat) (l : List BankReq) : Nat := (l.filter (fun e => e.core == some core)).length

/-- Requests of a core to classroom memory that are not served (R284): those in bank queues and those that
wait. The first 32 hold its tracker's entries; the source of a later one waits. -/
def tracked (c : Chip) (core : Nat) : Nat :=
  ofCore core (c.waiting.map (fun x => x.2.2)) +
    c.rooms.foldl (fun a r => r.2.banks.foldl (fun a b => a + ofCore core b.2.q) a) 0

/-- Whether all tracker entries of a core are taken (R284). -/
def trackerFull (c : Chip) (core : Nat) : Bool := decide (32 ≤ tracked c core)

/-- Entries that a requester owns at a bank (R284). -/
def ownEntries (rq : Nat) : Nat := if rq = 16 then 16 else 3

/-- Whether a new request gets an entry of bank b of classroom r at once: its requester has one free, none of
its requests waits for one there, and its core has a tracker entry free. -/
def bankFree (c : Chip) (r b rq : Nat) (core : Option Nat) : Bool :=
  decide (heldAt (roomOf c r) rq b < ownEntries rq) &&
    !c.waiting.any (fun x => x.1 == r && x.2.1 == b && x.2.2.rq == rq) &&
    (match core with | some n => !trackerFull c n | none => true)

/-- Put a request into its bank's queue, or let it wait at its requester. -/
def offerBank (c : Chip) (r b : Nat) (e : BankReq) : Chip :=
  if bankFree c r b e.rq e.core then
    modRoom c r (fun m => { m with banks := tmod (fun _ => bankQReset) m.banks b (fun q => { q with q := q.q ++ [e] }) })
  else { c with waiting := c.waiting ++ [(r, b, e)] }

/-- Waiting requests take the entries that are free, oldest first. -/
def refillBanks (c : Chip) : Chip := c.waiting.foldl (fun c x => offerBank c x.1 x.2.1 x.2.2) { c with waiting := [] }

/-- Whether a word lies in the core's own classroom. -/
def ownRoom (core a : Nat) : Bool := inCls a && roomAt a == coreRoom core

/-- The requester of a core's access: itself in its own classroom, the mesh port in another (R286). -/
def requester (core a : Nat) : Nat := if ownRoom core a then corePos core else 16

/-- Queue one request at the bank of word a in its classroom. -/
def enqBank (c : Chip) (rq : Nat) (core : Option Nat) (a : Nat) (wr : Bool) (who : Reader) (sgn : Bool)
    (ws : List (Nat × Nat × Nat)) : Chip :=
  offerBank c (roomAt a) (bankOf a) ⟨rq, core, bankLine a, wr, who, sgn, ws⟩

/-- n words of a line from word a on, word j of register 0 each. -/
def runWords (a n : Nat) : List (Nat × Nat × Nat) := (List.range n).map (fun j => (a % 32 + j, 0, j))

/-- A scalar access to classroom memory waits while the core's tracker, or its entries at a bank of its own
classroom, are taken (R284). -/
def bankHold (c : Chip) (core : Nat) (spec : Bool) (a : Nat) : Bool :=
  inCls a && (trackerFull c core ||
    (ownRoom core a && !bankFree c (coreRoom core) (bankOf (physRd c spec a)) (corePos core) (some core)))

/-! ### What a request's service finds (R292, R293, R322, R330, R337, R338) -/

/-- How many words, what a load makes of them. -/
structure LoadForm where
  n : Nat
  sgn : Bool

def ldZero (n : Nat) : LoadForm := ⟨n, false⟩
def ldSign (n : Nat) : LoadForm := ⟨n, true⟩

/-- The register value of n loaded words. -/
def LoadForm.conv (f : LoadForm) (v : Nat) : W64 :=
  if f.sgn then BitVec.ofInt 64 (natSigned v (16 * f.n)) else BitVec.ofNat 64 v

/-- A strand of a core by number. -/
def strandId (core s : Nat) : StrandId := ⟨Fin.ofNat 1024 core, Fin.ofNat 8 s⟩

/-- Words of unit g, of n words, that a request names, with their places. -/
def unitHits (n g : Nat) (ws : List (Nat × Nat × Nat)) : List (Nat × Nat × Nat) := ws.filter (fun w => w.1 / n == g)

/-- Change a tile instruction in flight. -/
def modOp (core s id : Nat) (f : TileOp → TileOp) (c : Chip) : Chip :=
  modStrand c (strandId core s) (fun st => { st with flight := st.flight.map (fun op => if op.id = id then f op else op) })

/-- A word of memory as a tile instruction of a strand reads it: as its request returned it, else as memory holds it. -/
def opWord (c : Chip) (spec : Bool) (op : TileOp) (a : Nat) : Word × Bool := tget (rdWord c spec) op.got a

/-- Whoever waits for a request reads a poisoned unit: its load when it takes a word of it, the fill of its
line, the tile instruction, the words of its DMA piece. -/
def poisonReader (who : Reader) (hits : List (Nat × Nat × Nat)) (c : Chip) : Chip :=
  match who with
  | .load core s id =>
    let c := modCore c core (fun k => { k with
      fill := k.fill.map (fun f => if f.strand = s ∧ f.id = id then { f with pois := true } else f) })
    if hits.isEmpty then c
    else modStrand c (strandId core s) (fun st => { st with
      pend := st.pend.map (fun w => if w.id = id then { w with pois := true } else w),
      pendV := st.pendV.map (fun w => if w.id = id then { w with pois := true } else w) })
  | .tile core s id =>
    let sp := (strandOf c (strandId core s)).spec
    modOp core s id (fun op => hits.foldl (fun op h =>
      { op with got := tput (rdWord c sp) op.got h.2.2 ((opWord c sp op h.2.2).1, true) }) op) c
  | .piece room tag =>
    modRoom c room (fun r => { r with dma := { r.dma with pieces := r.dma.pieces.map (fun p =>
      if p.tag = tag then
        { p with ws := p.ws.zipIdx.map (fun x => if hits.any (fun h => h.2.2 == x.2) then (x.1.1, true) else x.1) }
      else p) } })
  | _ => c

/-- The value of a load of n words in all, with the words that some hits name replaced. -/
def putHits (n : Nat) (ws : List Word) (v : Nat) (hits : List (Nat × Nat × Nat)) : Nat :=
  hits.foldl (fun v w => natSetBits v (16 * w.2.2 + 15) (16 * w.2.2) (ws.getD (w.1 % n) 0).toNat) v

/-- Whoever waits for a request reads these words of a unit of n words instead of what was stored. A load's
scalar write names a g or an f register. -/
def patchReader (who : Reader) (sgn : Bool) (all n : Nat) (hits : List (Nat × Nat × Nat)) (ws : List Word) (c : Chip) : Chip :=
  match who with
  | .load core s id =>
    modStrand c (strandId core s) (fun st => { st with
      pend := st.pend.map (fun w => if w.id = id ∧ w.reg < 64 then
        { w with val := LoadForm.conv ⟨all, sgn⟩ (putHits n ws w.val.toNat hits % 2 ^ (16 * all)) } else w),
      pendV := st.pendV.map (fun w => if w.id = id then
        { w with val := BitVec.ofNat 2048 (putHits n ws w.val.toNat (hits.filter (fun h => h.2.1 == w.reg))) } else w) })
  | .tile core s id =>
    let sp := (strandOf c (strandId core s)).spec
    modOp core s id (fun op => hits.foldl (fun op h =>
      { op with got := tput (rdWord c sp) op.got h.2.2 (ws.getD (h.1 % n) 0, (opWord c sp op h.2.2).2) }) op) c
  | .piece room tag =>
    modRoom c room (fun r => { r with dma := { r.dma with pieces := r.dma.pieces.map (fun p =>
      if p.tag = tag then
        { p with ws := p.ws.zipIdx.map (fun x =>
            match hits.find? (fun h => h.2.2 == x.2) with
            | some h => (ws.getD (h.1 % n) 0, x.1.2)
            | none => x.1) }
      else p) } })
  | _ => c

/-! ### From word address to DRAM bank (R327, R328) -/

/-- The row, and the DRAM bank number within the stack, of a line of a stack. -/
def lineRow (line : Nat) : Nat := natBits line 29 16
def lineBank (line : Nat) : Nat :=
  let row := lineRow line
  (natBits line 5 0 ^^^ natBits row 5 0) * 64 + natBits line 15 14 * 16 + (natBits line 13 10 ^^^ natBits row 9 6)

/-- The device DRAM bank number of a word of HBM. -/
def deviceBank (a : Nat) : Nat := stackAt a * 4096 + lineBank (a % 2 ^ 35 / 32)

/-- The word address of a line of stack k, and the line within its stack of a word of HBM. -/
def lineAddr (k line : Nat) : Nat := k * 2 ^ 35 + line * 32
def stackLine (a : Nat) : Nat := a % 2 ^ 35 / 32

def dramOf (c : Chip) (k b : Nat) : DramQ := tget (fun _ => dramReset) (stackOf c k).dram b
def modDram (c : Chip) (k b : Nat) (f : DramQ → DramQ) : Chip :=
  modStack c k (fun x => { x with dram := tmod (fun _ => dramReset) x.dram b f })

/-! ### Admission (R329 to R332) -/

/-- Requests in the queue of a bank's pseudo-channel. -/
def pcCount (c : Chip) (k b : Nat) : Nat :=
  ((List.range 64).map (fun i => (dramOf c k (b / 64 * 64 + i)).q.length)).foldl (fun a x => a + x) 0

/-- Whether the pseudo-channel's queue is full (R332). -/
def pcFull (c : Chip) (k b : Nat) : Bool := decide (128 ≤ pcCount c k b)

/-- Whether a bank refuses a new request with a ticket: 32 entries are taken or held for recalled requests, or earlier
tickets are out (R332; log entry 30). -/
def bankFull (d : DramQ) : Bool := decide (32 ≤ d.q.length + d.recalled.length) || !d.tickets.isEmpty

/-- A request enters the queue of its bank. -/
def enterQueue (c : Chip) (k b : Nat) (r : HReq) : Chip := modDram c k b (fun d => { d with q := d.q ++ [r] })

/-- A request is refused with a ticket, and counted. -/
def giveTicket (c : Chip) (k b : Nat) (r : HReq) : Chip :=
  bumpF (modDram c k b (fun d => { d with tickets := d.tickets ++ [r] })) (hmcB k) 0x01A 31 0 1

/-- The mark of words as their read at its issue finds it: a word of HBM has it from the read's acceptance (R330). -/
def issueMark (a : Nat) (p : Bool) : Bool := p && !inHbm a

/-- The controller accepts a request (R330): a write is performed; a read will return what its line holds, and
whoever waits for it takes that. -/
def acceptLine (c : Chip) (k b : Nat) (r : HReq) : Chip :=
  if r.wr then wrMarked (enterQueue c k b r) false r.data
  else
    let a := lineAddr k r.line
    let line := rdWords c false a 32
    let hits := unitHits 32 0 r.ws
    let c := patchReader r.who r.sgn r.ws.length 32 hits (line.map Prod.fst)
      (enterQueue c k b { r with data := line.zipIdx.map (fun x => (a + x.2, x.1)) })
    if poisAt c a then poisonReader r.who hits c else c

/-- A request of one of the package's own agents: a ticket from a full bank, a wait for a full pseudo-channel,
or an entry. -/
def askLine (k : Nat) (r : HReq) (c : Chip) : Chip :=
  let b := lineBank r.line
  if bankFull (dramOf c k b) then giveTicket c k b r
  else if pcFull c k b then modStack c k (fun x => { x with stalled := x.stalled ++ [r] })
  else acceptLine c k b r

/-- Requests that waited for room in a pseudo-channel try again, oldest first, while the controller takes requests. -/
def restall (k : Nat) (c : Chip) : Chip :=
  if bState c (hmcB k) ≠ 2 then c
  else
  (stackOf c k).stalled.foldl (fun c r => askLine k r c) (modStack c k (fun x => { x with stalled := [] }))

/-- A read of some words of word a's line by an agent, at the controller of its stack. -/
def askHbm (c : Chip) (src a : Nat) (who : Reader) (sgn : Bool) (ws : List (Nat × Nat × Nat)) : Chip :=
  askLine (stackAt a) ⟨src, stackLine a, false, 0, who, sgn, ws, true, []⟩ c

/-- The mask of some words of a line. -/
def wordMask (as : List Nat) : BitVec 32 := as.foldl (fun m a => m ||| (1 <<< (a % 32))) 0

/-- A write of some words of word a's line by an agent; `l` holds those that it brings with the request. -/
def sendHbm (c : Chip) (src a : Nat) (who : Reader) (as : List Nat) (l : List (Nat × Word × Bool)) : Chip :=
  askLine (stackAt a) ⟨src, stackLine a, true, wordMask as, who, false, [], true, l⟩ c

/-- The source number of a core's requests and of a DMA engine's. -/
def coreSrc (core : Nat) : Nat := core
def engineSrc (room : Nat) : Nat := 1024 + room

/-- Rename the readers of all requests. -/
def mapReaders (f : Reader → Reader) (c : Chip) : Chip :=
  { c with
    rooms := tmap (fun _ => roomReset) (fun _ r => { r with
      banks := tmap (fun _ => bankQReset) (fun _ q => { q with q := q.q.map (fun e => { e with who := f e.who }) }) r.banks }) c.rooms,
    waiting := c.waiting.map (fun x => (x.1, x.2.1, { x.2.2 with who := f x.2.2.who })),
    stk := tmap (fun _ => stackReset) (fun _ x => { x with
      dram := tmap (fun _ => dramReset) (fun _ d => { d with
        q := d.q.map (fun r => { r with who := f r.who }), tickets := d.tickets.map (fun r => { r with who := f r.who }),
        recalled := d.recalled.map (fun r => { r with who := f r.who }) }) x.dram,
      stalled := x.stalled.map (fun r => { r with who := f r.who }) }) c.stk }

/-- The readers of the requests at the banks of a classroom, of those that wait for one, and of all requests
at a stack. -/
def roomReaders (c : Chip) (r : Nat) : List (Reader × Bool × List (Nat × Nat × Nat)) :=
  ((roomOf c r).banks.flatMap (fun b => b.2.q) ++ (c.waiting.filter (fun x => x.1 == r)).map (fun x => x.2.2)).map
    (fun e => (e.who, e.sgn, e.ws))
def stackReaders (c : Chip) (k : Nat) : List (Reader × Bool × List (Nat × Nat × Nat)) :=
  ((stackOf c k).dram.flatMap (fun d => d.2.q ++ d.2.tickets) ++ (stackOf c k).stalled).map (fun e => (e.who, e.sgn, e.ws))

/-- Whether a request that p holds of is still to be served; a write that a controller has accepted is
performed (R330). -/
def unserved (c : Chip) (p : Reader → Bool) : Bool :=
  c.waiting.any (fun x => p x.2.2.who) || c.rooms.any (fun r => r.2.banks.any (fun b => b.2.q.any (fun e => p e.who))) ||
    c.stk.any (fun x => x.2.stalled.any (fun r => p r.who) ||
      x.2.dram.any (fun d => d.2.q.any (fun r => !r.wr && p r.who) || d.2.tickets.any (fun r => p r.who)))
def outstandingReq (c : Chip) (w : Reader) : Bool := unserved c (fun x => x == w)

/-- Whether a request of the package that p holds of has a ticket or waits for its pseudo-channel (R332). -/
def refused (c : Chip) (p : HReq → Bool) : Bool :=
  c.stk.any (fun x => x.2.stalled.any p || x.2.dram.any (fun d => d.2.tickets.any p))

/-- The source numbers of the requests that HBM_REQUEST brings for the agents whose own rows make none: Pump
k, Ethernet port p, the Warden, the bell unit (DESIGN CHOICE, log entry 6). -/
def pumpSrc (k : Nat) : Nat := 1088 + k
def portSrc (p : Nat) : Nat := 1096 + p
abbrev wardenSrc : Nat := 1112
abbrev bellSrc : Nat := 1113

/-- Whether a line request of a source is still to be served: a read, or a write that has not been accepted. -/
def srcBusy (c : Chip) (src : Nat) : Bool :=
  c.stk.any (fun x => x.2.stalled.any (fun r => r.src == src) || x.2.dram.any (fun d =>
    d.2.q.any (fun r => !r.wr && r.src == src) || d.2.tickets.any (fun r => r.src == src) ||
      d.2.recalled.any (fun r => r.src == src)))

/-- The core and strand that made a request. -/
def Reader.strandOf? : Reader → Option (Nat × Nat)
  | .load n s _ | .store n s | .entry n s => some (n, s)
  | _ => Option.none

/-- The core that made a request. -/
def Reader.coreOf? : Reader → Option Nat
  | .load n _ _ | .store n _ | .tile n _ _ | .entry n _ => some n
  | _ => Option.none

/-! ### Requests of a core (R283, R286, R329) -/

/-- A core's request for some words of the line of word a; words outside memory make none. -/
def askWords (c : Chip) (core a : Nat) (who : Reader) (sgn : Bool) (ws : List (Nat × Nat × Nat)) : Chip :=
  if inHbm a then askHbm c (coreSrc core) a who sgn ws
  else if inCls a then enqBank c (requester core a) (some core) a false who sgn ws
  else c

/-- How many requests an access to the line of word a makes. -/
def askCount (a : Nat) : Nat := if inHbm a || inCls a then 1 else 0

/-- Requests for n words of one line from word a on. -/
def askRun (c : Chip) (core a n : Nat) (who : Reader) (sgn : Bool) : Chip := askWords c core a who sgn (runWords a n)

/-- The lines of a run of n words from word a on: the first word of each, and how many. -/
def segLines (a n : Nat) : List (Nat × Nat) :=
  (List.range ((a % 32 + n + 31) / 32)).map (fun i =>
    let lo := if i = 0 then a else a - a % 32 + 32 * i
    (lo, min (a + n) (a - a % 32 + 32 * (i + 1)) - lo))

/-- A core's reads of n words from word a on, one for each line. -/
def askReads (c : Chip) (core : Nat) (spec : Bool) (who : Reader) (a n : Nat) : Chip :=
  (segLines a n).foldl (fun c l => askRun c core (physRd c spec l.1) l.2 who false) c

/-- The distinct lines of some words, the first of each first. -/
def linesOf (as : List Nat) : List Nat := (as.map (fun a => a - a % 32)).eraseDups

/-- A core's requests for words of classroom memory that it writes, one for each line, as physical words. -/
def askClsWrites (c : Chip) (core : Nat) (who : Reader) (as : List Nat) : Chip :=
  (linesOf as).foldl (fun c l => enqBank c (requester core l) (some core) l true who false
    ((as.filter (fun a => a - a % 32 == l)).map (fun a => (a % 32, 0, 0)))) c

/-- A core writes some words, each with its mark: those of classroom memory and of its pigeonhole now, each
line of HBM when its controller accepts it (R330); it makes its requests. -/
def coreWrite (c : Chip) (core : Nat) (spec : Bool) (who : Reader) (l : List (Nat × Word × Bool)) : Chip :=
  let far := l.filter (fun x => inHbm x.1)
  let c := wrMarked c spec (l.filter (fun x => !inHbm x.1))
  let c := askClsWrites c core who (((l.filter (fun x => inCls x.1)).map (fun x => physWr c spec x.1)))
  (linesOf (far.map Prod.fst)).foldl (fun c a =>
    let mine := far.filter (fun x => x.1 - x.1 % 32 == a)
    sendHbm c (coreSrc core) a who (mine.map Prod.fst) mine) c

/-- Stores not performed yet of those that p names: queued at banks, or not accepted by a controller (R330). -/
def storesOf (c : Chip) (p : Nat → Nat → Bool) : Nat :=
  let mine := fun (w : Reader) => match w with | .store n s => p n s | _ => false
  let bank := (c.waiting.filter (fun x => mine x.2.2.who)).length + c.rooms.foldl (fun a r =>
    a + r.2.banks.foldl (fun a q => a + (q.2.q.filter (fun e => mine e.who)).length) 0) 0
  let hbm := c.stk.foldl (fun a x => a + (x.2.stalled.filter (fun r => mine r.who)).length +
    x.2.dram.foldl (fun a d => a + (d.2.tickets.filter (fun r => mine r.who)).length) 0) 0
  bank + hbm

/-- The stores of a core that are not performed yet are its store queue (R96). -/
def storesOut (c : Chip) (core : Nat) : Nat := storesOf c (fun n _ => n == core)

/-- A strand's stores that are not performed yet (R419). -/
def strandStores (c : Chip) (u : StrandId) : Nat := storesOf c (fun n s => n == u.core.val && s == u.strand.val)

/-- Entries of the store queue (DESIGN CHOICE, log entry 50: the spec gives none; those of the request tracker). -/
abbrev storeEntries : Nat := 32

/-- Whether a store finds the core's store queue full (R96). -/
def storeHold (c : Chip) (core : Nat) : Bool := decide (storeEntries ≤ storesOut c core)

end Sys2Proof.Machine
end

