-- ==== Sys2Proof/Machine/TileData.lean ====
section
/-! DEFINITION. What tile registers, weight banks and accumulator slots hold, and the words they move to and from memory
(spec/06_tiles_and_matrix_arrays.md R206, R207, R215, R226 to R231, R241, R242, R600). -/

namespace Sys2Proof.Machine

/-! ### Formats (R207, R215, R230) -/

/-- The block format of an AF, WF or FMT code. -/
def qOf : Nat → Option QFmt
  | 0 => some .q8 | 1 => some .q6 | 2 => some .q4 | 3 => some .i8 | _ => none
/-- The IEEE format of a code. -/
def ieeeOf : Nat → Option Fmt
  | 4 => some fmtBF16 | 5 => some fmtFP16 | 6 => some fmtFP32 | _ => none
/-- Groups per row. -/
def tGroups : Nat → Nat
  | 0 => 4 | 1 => 5 | 2 => 8 | 3 => 4 | 4 => 2 | 5 => 2 | _ => 1
/-- Words per group. -/
def tGroupWords : Nat → Nat
  | 0 => 16 | 1 => 12 | 2 => 8 | 3 => 16 | 4 => 32 | 5 => 32 | _ => 64
/-- Exponent words per row. -/
def tExpWords (af : Nat) : Nat := if (qOf af).isSome then (tGroups af + 1) / 2 else 0
/-- Words of one element outside the block formats. -/
def tElemWords (af : Nat) : Nat := if af = 6 then 2 else 1
/-- Blocks or groups of a stored weight tile, its element and exponent words. -/
def wBlocks (wf : Nat) : Nat := if wf = 2 then 64 else 32
def wElemPlane (wf : Nat) : Nat := wBlocks wf * tGroupWords wf
def wExpPlane (wf : Nat) : Nat := if (qOf wf).isSome then wBlocks wf / 2 else 0

/-- Fields of a shape descriptor (R215). -/
def shAF (sh : W64) : Nat := natBits sh.toNat 2 0
def shWF (sh : W64) : Nat := natBits sh.toNat 5 3
def shM (sh : W64) : Nat := natBits sh.toNat 10 6 + 1
def shN (sh : W64) : Nat := natBits sh.toNat 15 11 + 1

/-- The row strides of TSTR (R211). -/
def tES (tstr : W64) : W64 := (tstr.setWidth 32).signExtend 64
def tXS (tstr : W64) : W64 := ((tstr >>> 32).setWidth 32).signExtend 64

/-- Row r of a plane. -/
def rowAt (base stride : W64) (r : Nat) : W64 := base + BitVec.ofNat 64 r * stride

/-! ### Slots and tile registers by number -/

/-- Slot key s of array a of core n. -/
def slotKey (a sl : Nat) : Nat := 32 * a + sl
def slotOf (c : Chip) (n key : Nat) : Slot := tget (slotReset n) (coreOf c n).slots key
def setSlot (c : Chip) (n key : Nat) (x : Slot) : Chip :=
  modCore c n (fun k => { k with slots := tput (slotReset n) k.slots key x })
def tileOf (c : Chip) (n t : Nat) : Tile := tget (fun _ => tileReset) (coreOf c n).tiles t
def setTile (c : Chip) (n t : Nat) (x : Tile) : Chip :=
  modCore c n (fun k => { k with tiles := tput (fun _ => tileReset) k.tiles t x })

/-! ### Tile registers (R206, R207) -/

/-- The words of group b of row r. -/
def groupWords (t : Tile) (fmt r b : Nat) : List Word :=
  (List.range (tGroupWords fmt)).map (fun i => tget (fun _ => 0) t.data (64 * r + tGroupWords fmt * b + i))

/-- The exponent byte of group b of row r. -/
def tExp (t : Tile) (r b : Nat) : Nat :=
  (tget (fun _ => 0) t.exps (4 * r + b / 2)).toNat / 2 ^ (8 * (b % 2)) % 256

/-- Set an exponent byte. -/
def setTExp (t : Tile) (r b x : Nat) : Tile :=
  { t with exps := tmod (fun _ => 0) t.exps (4 * r + b / 2) (fun w =>
      BitVec.ofNat 16 (natSetBits w.toNat (8 * (b % 2) + 7) (8 * (b % 2)) x)) }

/-- Set consecutive data words. -/
def setTData (t : Tile) (at0 : Nat) (ws : List Word) : Tile :=
  { t with data := tputs (fun _ => 0) t.data (ws.zipIdx.map (fun p => (at0 + p.2, p.1))) }

/-- Element i of a block or group held in the number v. -/
def elemOf (fmt v x i : Nat) : FV :=
  match qOf fmt with
  | some f => qdec f x (v / 2 ^ (f.bits * i) % 2 ^ f.bits)
  | none =>
    let f := (ieeeOf fmt).getD fmtFP32
    fdec f (v / 2 ^ ((f.p + f.eb) * i) % 2 ^ (f.p + f.eb))

/-- The 32 elements of group b of row r. -/
def groupVals (t : Tile) (fmt r b : Nat) : List FV :=
  let v := wordsNat (groupWords t fmt r b)
  (List.range 32).map (elemOf fmt v (tExp t r b))

/-- The words of one row of TST; the high byte of Q6's third exponent word is 0. -/
def tstRow (t : Tile) (op : TileOp) (ra rb : W64) (r : Nat) : List (Nat × Word × Bool) :=
  let af := shAF op.shape
  let ws := (List.range (tGroups af)).flatMap (groupWords t af r)
  let es := (List.range (tGroups af)).foldl (fun a b => a + tExp t r b * 2 ^ (8 * b)) 0
  atRun (rowAt ra (tES op.tstr) r).toNat ws ++
    (if (qOf af).isSome then atRun (rowAt rb (tXS op.tstr) r).toNat (natWords es (tExpWords af)) else [])

/-! ### Weights (R230 to R232, R600) -/

/-- Words of memory as a tile instruction reads them. -/
def opWords (c : Chip) (spec : Bool) (op : TileOp) (a n : Nat) : List (Word × Bool) :=
  (List.range n).map (fun i => opWord c spec op (a + i))
def opNat (c : Chip) (spec : Bool) (op : TileOp) (a n : Nat) : Nat × Bool :=
  (wordsNat ((opWords c spec op a n).map Prod.fst), (opWords c spec op a n).any Prod.snd)

/-- The first and last word, of its plane, that element i of block b takes bits from. -/
def elemSpan (wf b i : Nat) : Nat × Nat :=
  match qOf wf with
  | some f => (b * f.words + f.bits * i / 16, b * f.words + (f.bits * i + f.bits - 1) / 16)
  | none => ((32 * b + i) * tElemWords wf, (32 * b + i) * tElemWords wf + tElemWords wf - 1)

/-- The cell that takes element i of stored block or group b: its code, its exponent, its poison mark. -/
def weightCell (c : Chip) (spec : Bool) (op : TileOp) (ra rb : W64) (b i : Nat) : Cell :=
  let wf := shWF op.shape
  let p := elemSpan wf b i
  let e := opNat c spec op (ra.toNat + p.1) (p.2 + 1 - p.1)
  match qOf wf with
  | some f =>
    let x := opWord c spec op (rb.toNat + b / 2)
    ⟨wf, e.1 / 2 ^ (f.bits * i % 16) % 2 ^ f.bits, x.1.toNat / 2 ^ (8 * (b % 2)) % 256, e.2 || x.2⟩
  | none => ⟨wf, e.1, 0, e.2⟩

/-- The stored block and element of cell (k, n). -/
def cellSource (wf : Nat) (trans : Bool) (k n : Nat) : Nat × Nat :=
  if trans then (k, n) else if wf = 2 then (2 * n + k / 32, k % 32) else (n, k)

/-- The bank a weight load fills. -/
def loadBank (c : Chip) (spec : Bool) (op : TileOp) (ra rb : W64) (trans : Bool) : Bank :=
  let wf := shWF op.shape
  (List.range (32 * (if wf = 2 then 64 else 32))).map (fun j =>
    let s := cellSource wf trans (j / 32) (j % 32)
    (j, some (weightCell c spec op ra rb s.1 s.2)))

def activeBank (k : Core) (a : Nat) : Nat := 2 * a + (if tget (fun _ => false) k.active a then 1 else 0)
def shadowBank (k : Core) (a : Nat) : Nat := 2 * a + (if tget (fun _ => false) k.active a then 0 else 1)
def bankAt (k : Core) (i : Nat) : Bank := tget (fun _ => bankReset) k.banks i

/-! ### The words a tile memory instruction reaches (R224, R226 to R231, R241) -/

/-- A run of words: start, length, whether it must start at a multiple of 16, whether its base register is g31. -/
structure Seg where
  start : W64
  n : Nat
  al : Bool
  base31 : Bool

/-- Rows of an element plane and, for block formats, of an exponent plane. -/
def planeSegs (af m : Nat) (ra rb tstr : W64) (a31 b31 : Bool) : List Seg :=
  (List.range m).flatMap (fun r =>
    ⟨rowAt ra (tES tstr) r, tGroups af * tGroupWords af, true, a31⟩ ::
      (if (qOf af).isSome then [⟨rowAt rb (tXS tstr) r, tExpWords af, false, b31⟩] else []))

/-- The memory rows of TLD.T. -/
def transSegs (af m : Nat) (ra tstr : W64) (a31 : Bool) : List Seg :=
  (List.range (32 * tGroups af)).map (fun i => ⟨rowAt ra (tES tstr) i, m * tElemWords af, true, a31⟩)

/-- A stored weight tile. -/
def weightSegs (wf : Nat) (ra rb : W64) (a31 b31 : Bool) : List Seg :=
  ⟨ra, wElemPlane wf, true, a31⟩ :: (if (qOf wf).isSome then [⟨rb, wExpPlane wf, false, b31⟩] else [])

/-- The rows of a spilled slot. -/
def spillSegs (ra tstr : W64) (a31 : Bool) : List Seg :=
  (List.range 32).map (fun r => ⟨rowAt ra (tES tstr) r, 64, true, a31⟩)

/-- The lowest and highest word of the runs (R224). -/
def segsLo (l : List Seg) : Nat := match l.map (fun s => s.start.toNat) with | [] => 1 | x :: xs => xs.foldl min x
def segsHi (l : List Seg) : Nat := l.foldl (fun a s => max a (s.start.toNat + s.n - 1)) 0

/-- The runs of an instruction with latched operands. -/
def kindSegs (k : TileKind) (shape tstr : W64) : List Seg :=
  let af := shAF shape
  let m := shM shape
  match k with
  | .tld _ ra rb | .tst _ ra rb => planeSegs af m ra rb tstr false false
  | .tldT _ ra _ => transSegs af m ra tstr false
  | .twld _ ra rb | .twldT _ ra rb => weightSegs (shWF shape) ra rb false false
  | .taccSpill _ _ ra _ => spillSegs ra tstr false
  | _ => []

/-- An instruction with the operands it latches (R222, R224). -/
def tileOp (k : TileKind) (shape tebase testride tstr : W64) (id : Nat) : TileOp :=
  ⟨k, shape, tebase, testride, tstr, segsLo (kindSegs k shape tstr), segsHi (kindSegs k shape tstr), id, false, []⟩

def writesMem : TileKind → Bool
  | .tst .. | .taccSpill .. => true
  | _ => false

/-- The tile unit asks for n words from word a on, one request for each line (R283, R329). -/
def askTile (u : StrandId) (id : Nat) (c : Chip) (a n : Nat) : Chip :=
  let sp := (strandOf c u).spec
  (segLines a n).foldl (fun c l => askWords c u.core (physRd c sp l.1) (.tile u.core u.strand id) false
    ((List.range l.2).map (fun i => (physRd c sp l.1 % 32 + i, 0, l.1 + i)))) c

/-- The tile unit asks for the lines that a load reaches. -/
def askOp (u : StrandId) (op : TileOp) (c : Chip) : Chip :=
  (kindSegs op.kind op.shape op.tstr).foldl (fun c g => askTile u op.id c g.start.toNat g.n) c

/-- The requests of a strand's abandoned tile instructions deliver to nothing. -/
def unaskOps (u : StrandId) (ops : List TileOp) (c : Chip) : Chip :=
  mapReaders (fun w => if ops.any (fun op => w == .tile u.core u.strand op.id) then .none else w) c

/-! ### Slot elements (R242) -/

/-- What an unlisted element of a slot holds. -/
def slotDflt (sl : Slot) : Nat → W32 :=
  match sl.unspec with
  | none => fun _ => 0
  | some n => Config.freeSlot n

/-- Element i = 32 r + n of a slot. -/
def slotVal (sl : Slot) (i : Nat) : W32 := tget (slotDflt sl) sl.vals i
def slotAll (sl : Slot) : List Nat := (List.range 1024).map (fun i => (slotVal sl i).toNat)

end Sys2Proof.Machine
end

