-- ==== Sys2Proof/Machine/Ops.lean ====
section
/-! DEFINITION. The named operations on a strand: its registers with their pending writes, taking an exception
and returning from one (spec/04_exceptions_and_privilege.md), and the one way every instruction issues (R152).
-/

namespace Sys2Proof.Machine

/-! ### A strand's registers (R88 to R95, R98 to R101) -/

/-- Control register n as a value of the strand. -/
def creg (st : Strand) (n : Nat) : W64 := tget (fun _ => 0) st.c n
def setCreg (st : Strand) (n : Nat) (v : W64) : Strand := { st with c := tput (fun _ => 0) st.c n v }
def greg (st : Strand) (n : Nat) : W64 := tget (fun _ => 0) st.g n
def vcreg (st : Strand) (n : Nat) : W64 := tget (fun _ => 0) st.vc n
def tcreg (st : Strand) (n : Nat) : W64 := tget (fun _ => 0) st.tc n
def vreg (k : Core) (n : Nat) : VReg := tget (fun _ => 0) k.v n

/-- The privilege level and PRIV.DF (R142). -/
def level (st : Strand) : Nat := natBits (creg st 16).toNat 1 0
def inDf (st : Strand) : Bool := natBit (creg st 16).toNat 2
/-- MODE.FRM in effect (R91). -/
def frm (st : Strand) : Nat := natBits (creg st 0).toNat 2 0

/-- The bits of a control register that its map names, and of a vector control register that a write may set
(R90, R91, R142, R178). -/
def ctlMask (n : Nat) : W64 :=
  match n with
  | 0 => 0x8C07 | 2 => 0x1F | 17 => 0x0000FFFFFFFFFFF0 | 20 | 22 => 0x8000FFFFFFFFFFFF
  | 21 | 23 | 26 => 0x0000FFFFFFFFFFFF | 24 => 0x3F | 25 => 0xFE00FFFFFFFFFFFF | 27 => 1 | 28 | 29 => 0xF
  | _ => 0xFFFFFFFFFFFFFFFF
def vcMask (n : Nat) : W64 :=
  match n with
  | 2 => 0x7F | 3 => 3 | 4 => 0x1F | 5 => 0xFFFFFFFFFFFFFFFF | 6 => 0xFFFFFFFF | _ => 0

/-- The value a register read returns, by REG code (R107; 200 + n names tc n). -/
def regVal (c : Chip) (u : StrandId) (reg : Nat) : W64 :=
  let st := strandOf c u
  let k := coreOf c u.core
  if reg < 32 then greg st reg
  else if reg < 64 then (vreg k (reg - 32)).setWidth 64
  else if reg < 128 then
    match reg - 64 with
    | 6 => BitVec.ofNat 64 (u.core.val * 8 + u.strand.val)
    | 25 => tget (fun _ => 0) k.rmBase (natBits (creg st 24).toNat 5 0)
    | 26 => tget (fun _ => 0) k.rmLim (natBits (creg st 24).toNat 5 0)
    | 27 => k.rmctl
    | n => creg st n
  else if reg < 200 then vcreg st (reg - 128)
  else if reg = 205 then BitVec.ofNat 64 st.parked.length
  else tcreg st (reg - 200)

/-- The poison bit of a register (R88, R175). -/
def regPois (c : Chip) (u : StrandId) (reg : Nat) : Bool :=
  if 32 ≤ reg ∧ reg < 64 then tget (fun _ => false) (coreOf c u.core).vpois (reg - 32)
  else tget (fun _ => false) (strandOf c u).pois reg

/-- Whether a pending write's value is computed. -/
def pendReady (w : PendW) : Bool := !w.late && w.waits == 0 && !w.fillw
def pendVReady (w : PendV) : Bool := !w.late && w.waits == 0

/-- Issue a scalar write of distance d (R98). -/
def putReg (c : Chip) (u : StrandId) (reg d : Nat) (v : W64) : Chip :=
  modStrand c u (fun st => { st with
    pend := st.pend ++ [⟨reg, v, false, d, false, 0, false, st.nextId, 0⟩], nextId := st.nextId + 1 })

/-- Issue a scalar write whose value a unit reports later (R96). -/
def putLate (c : Chip) (u : StrandId) (reg d : Nat) (v : W64) (pois late : Bool) (waits : Nat) (fillw : Bool) : Chip :=
  modStrand c u (fun st => { st with
    pend := st.pend ++ [⟨reg, v, pois, d, late, waits, fillw, st.nextId, 0⟩], nextId := st.nextId + 1 })

/-- Issue a control-register write; a write to RMBASE or RMLIM latches the entry RMSEL names at this slot (R144). -/
def putCtl (c : Chip) (u : StrandId) (n d : Nat) (v : W64) : Chip :=
  modStrand c u (fun st => { st with
    pend := st.pend ++ [⟨64 + n, v, false, d, false, 0, false, st.nextId, natBits (creg st 24).toNat 5 0⟩],
    nextId := st.nextId + 1 })

/-- Issue a vector-register write. -/
def putVec (c : Chip) (u : StrandId) (reg d : Nat) (v : VReg) (pois late : Bool) (waits : Nat) : Chip :=
  modStrand c u (fun st => { st with
    pendV := st.pendV ++ [⟨reg, v, pois, d, late, waits, st.nextId⟩], nextId := st.nextId + 1 })

/-- Issue a flag update of distance d; no flags, no update. -/
def putFlags (c : Chip) (u : StrandId) (reg d flags : Nat) : Chip :=
  if flags = 0 then c else modStrand c u (fun st => { st with pendF := st.pendF ++ [⟨reg, flags, d⟩] })

/-- A pending scalar write becomes visible. DESIGN CHOICE (log entry 62): the poison of a write that names
neither a g nor an f register is dropped, a handler's edit of a record entry for c28 or a vc register among
them: R88 lists no POISON bit there. -/
def commitW (u : StrandId) (c : Chip) (w : PendW) : Chip :=
  if w.reg < 32 then
    modStrand c u (fun st => { st with
      g := tput (fun _ => 0) st.g w.reg w.val, pois := tput (fun _ => false) st.pois w.reg w.pois })
  else if w.reg < 64 then
    modCore c u.core (fun k => { k with
      v := tput (fun _ => 0) k.v (w.reg - 32) (w.val.setWidth 2048),
      vpois := tput (fun _ => false) k.vpois (w.reg - 32) w.pois })
  else if w.reg = 89 then
    modCore c u.core (fun k => { k with rmBase := tput (fun _ => 0) k.rmBase w.aux w.val })
  else if w.reg = 90 then
    modCore c u.core (fun k => { k with rmLim := tput (fun _ => 0) k.rmLim w.aux w.val })
  else if w.reg = 91 then modCore c u.core (fun k => { k with rmctl := w.val })
  else if w.reg = 92 then
    modStrand c u (fun st => setCreg st 28 (creg st 28 &&& ~~~ w.val))
  else if w.reg < 128 then
    modStrand c u (fun st => { setCreg st (w.reg - 64) w.val with pois := tput (fun _ => false) st.pois w.reg w.pois })
  else if w.reg < 200 then
    modStrand c u (fun st => { st with vc := tput (fun _ => 0) st.vc (w.reg - 128) w.val })
  else
    modStrand c u (fun st => { st with tc := tput (fun _ => 0) st.tc (w.reg - 200) w.val })

/-- A pending vector write becomes visible; it sets or clears the poison bit (R175). -/
def commitV (u : StrandId) (c : Chip) (w : PendV) : Chip :=
  modCore c u.core (fun k => { k with
    v := tput (fun _ => 0) k.v w.reg w.val, vpois := tput (fun _ => false) k.vpois w.reg w.pois })

/-- OR flags into FFLAGS (66) or VFLAGS (132). -/
def orFlags (st : Strand) (reg flags : Nat) : Strand :=
  if reg = 66 then setCreg st 2 (creg st 2 ||| BitVec.ofNat 64 flags)
  else { st with vc := tput (fun _ => 0) st.vc 4 (vcreg st 4 ||| BitVec.ofNat 64 flags) }

def commitF (u : StrandId) (c : Chip) (w : PendF) : Chip := modStrand c u (fun st => orFlags st w.reg w.flags)

/-- Everything whose visibility slot is the strand's next slot and whose value is computed becomes visible, in
issue order, flags last (R98, R100). -/
def commitDue (c : Chip) (u : StrandId) : Chip :=
  let st := strandOf c u
  let due := fun (w : PendW) => decide (w.k = 0) && pendReady w
  let dueV := fun (w : PendV) => decide (w.k = 0) && pendVReady w
  let dueF := fun (w : PendF) => decide (w.k = 0)
  let c := setStrand c u { st with
    pend := st.pend.filter (fun w => !due w),
    pendV := st.pendV.filter (fun w => !dueV w),
    pendF := st.pendF.filter (fun w => !dueF w) }
  let c := (st.pend.filter due).foldl (commitW u) c
  let c := (st.pendV.filter dueV).foldl (commitV u) c
  (st.pendF.filter dueF).foldl (commitF u) c

/-- One slot passes for the pending writes. -/
def tickPend (st : Strand) : Strand :=
  { st with
    pend := st.pend.map (fun w => { w with k := w.k - 1 }),
    pendV := st.pendV.map (fun w => { w with k := w.k - 1 }),
    pendF := st.pendF.map (fun w => { w with k := w.k - 1 }) }

/-- SLOTS counts a slot (R95). -/
def countSlot (st : Strand) : Strand := setCreg st 7 (creg st 7 + 1)

/-- Where an instruction sends the strand. -/
inductive Flow where
  /-- The next instruction in sequence, in a delay slot or loop included. -/
  | seq
  /-- A branch with this outcome; two delay slots follow (R123). -/
  | branch (t : Nat)
  /-- The next slot issues here (LOOP with count 0, R128). -/
  | goto (t : Nat)
  /-- XRET has set the place and the pending writes itself (R108). -/
  | restored
  deriving DecidableEq, Repr

/-- Keep an address to 48 bits. -/
def pc48 (n : Nat) : Nat := n % 2 ^ 48

/-- The strand's place after its instruction (R123, R128, R129). DESIGN CHOICE (log entry 62): LSTART may be
odd, since R169 tests it only while LCOUNT is not 0; a loop-back then puts the odd address in PC, whose bit 0
R88 says is 0. -/
def advance (f : Flow) (st : Strand) : Strand :=
  match f with
  | .restored => st
  | .goto t => { st with pc := t }
  | .branch t => { st with pc := pc48 (st.pc + 2), pb := some (t, 2) }
  | .seq =>
    match st.pb with
    | some (t, n) => if 2 ≤ n then { st with pc := pc48 (st.pc + 2), pb := some (t, n - 1) } else { st with pc := t, pb := none }
    | none =>
      if st.pc = (creg st 4).toNat ∧ creg st 5 ≠ 0 then
        (if creg st 5 = 1 then { setCreg st 5 0 with pc := pc48 (st.pc + 2) }
         else { setCreg st 5 (creg st 5 - 1) with pc := (creg st 3).toNat })
      else { st with pc := pc48 (st.pc + 2) }

/-- The core has issued for a strand: the round-robin goes on after it (R94). -/
def tookSlot (c : Chip) (u : StrandId) : Chip := modCore c u.core (fun k => { k with last := u.strand.val, skip := [] })

/-- An instruction's slot ends: the strand moves on, the slot is counted, due writes become visible. -/
def retire (c : Chip) (u : StrandId) (f : Flow) : Chip :=
  let c := tookSlot c u
  match f with
  | .restored => modStrand c u countSlot
  | _ => commitDue (modStrand c u (fun st => tickPend (advance f (countSlot st)))) u

/-! ### Slot buffers, abandoned tile instructions (R223, R229, R243, R244, R266 to R273) -/

/-- The slot of an instruction that uses a buffer, with the buffer's place. -/
def opSlot (c : Chip) (u : StrandId) (op : TileOp) : Option (Nat × Slot) :=
  match op.kind with
  | .tmac sl a _ _ _ _ | .taccRead sl a _ _ _ _ => some (slotKey a sl, slotOf c u.core (slotKey a sl))
  | .taccZero sl a d b =>
    some (slotKey a sl, { slotOf c u.core (slotKey a sl) with
      opened := true, amode := natBits d.toNat 1 0, buf := natBits b.toNat 47 0 })
  | _ => none

/-- Words of the buffer that the tile unit reaches take values that are not specified (R270, R273). -/
def loseBuffer (c : Chip) (u : StrandId) (sl : Slot) : Chip :=
  let st := strandOf c u
  let as := (List.range (bufLen sl)).filter (fun i => ownRoom u.core (sl.buf + i) &&
    reaches c u.core (level st) true st.spec (sl.buf + i))
  let x := putWords c st.spec (as.map (fun i => (sl.buf + i, Config.freeWord (c.fresh + i), false)))
  { x.1 with fresh := c.fresh + bufLen sl }

/-- A core reset or a hardware stop may cut the commit of a strand's oldest tile instruction short while it
writes a slot buffer, whose words are then not specified (R273): a commit that has begun, its accesses to the
buffer asked for. Whether it cuts it is not given (a free choice). -/
def cutCommit (c : Chip) (u : StrandId) : Chip :=
  match (strandOf c u).flight with
  | [] => c
  | op :: _ =>
    match (if op.asked then opSlot c u op else none) with
    | none => c
    | some (_, sl) =>
      if Config.freeBool c.fresh 0 then loseBuffer { c with fresh := c.fresh + 1 } u sl else { c with fresh := c.fresh + 1 }

/-- A bank that a weight load had partly filled: each cell is its old one or the load's (R243); which is not given. -/
def mixBank (n : Nat) (old new : Bank) : Bank := tputs (fun _ => none) old (new.filter (fun e => Config.freeBool n e.1))

/-- The words of a row of a spilled slot (R241). -/
def spillRow (s : Slot) (op : TileOp) (ra : W64) (r : Nat) : List (Nat × Word × Bool) :=
  atRun (rowAt ra (tES op.tstr) r).toNat ((List.range 32).flatMap (fun k => natWords (slotVal s (32 * r + k)).toNat 2))

/-- Rows that an abandoned store or spill has written, the lowest first (R229, R244): how many is not given. -/
def someRows (c : Chip) (u : StrandId) (rows : List (List (Nat × Word × Bool))) : Chip :=
  coreWrite { c with fresh := c.fresh + 1 } u.core (strandOf c u).spec .none
    (rows.take (Config.freeNat c.fresh % (rows.length + 1))).flatten

/-- Whether an earlier instruction in flight writes tile t, writes slot s of array a, exchanges the banks of array a. -/
def writesTile (t : Nat) (op : TileOp) : Bool :=
  match op.kind with | .tld t' _ _ | .tldT t' _ _ => t' == t | .taccRead _ _ t' _ _ _ => t' == t | _ => false
def writesSlot (sl a : Nat) (op : TileOp) : Bool :=
  match op.kind with
  | .tmac s' a' _ _ _ _ | .taccZero s' a' _ _ | .taccRead s' a' _ _ _ _ => s' == sl && a' == a
  | .taccSpill s' a' _ z => s' == sl && a' == a && z
  | _ => false
def swapsBank (a : Nat) (op : TileOp) : Bool :=
  match op.kind with | .tmac _ a' _ _ swap _ => a' == a && swap | .twld a' _ _ | .twldT a' _ _ => a' == a | _ => false

/-- Whether an instruction waits for an earlier one in flight because of memory: their words meet, and one of
them writes (R223). -/
def memWaits (op e : TileOp) : Bool :=
  (writesMem op.kind || writesMem e.kind) && decide (op.lo ≤ op.hi) && decide (e.lo ≤ e.hi) && decide (op.lo ≤ e.hi) &&
    decide (e.lo ≤ op.hi)

/-- What one instruction in flight has done before it is abandoned, the earlier ones of its strand given:
weight loads fill the shadow bank, stores and spills write rows; one that waits for an earlier instruction has
done nothing (R223), and of one that has begun its commit nothing is left to do. -/
def abandonOp (u : StrandId) (before : List TileOp) (op : TileOp) (c : Chip) : Chip :=
  let st := strandOf c u
  let bank := fun (a : Nat) (ra rb : W64) (trans : Bool) =>
    if before.any (swapsBank a) then c
    else
      let new := loadBank c st.spec op ra rb trans
      modCore { c with fresh := c.fresh + 1 } u.core (fun k => { k with
        banks := tmod (fun _ => bankReset) k.banks (shadowBank k a) (fun old => mixBank c.fresh old new) })
  if before.any (memWaits op) then c
  else
    match op.kind with
    | .twld a ra rb => bank a ra rb false
    | .twldT a ra rb => bank a ra rb true
    | .tst t ra rb =>
      if before.any (writesTile t) || op.asked then c
      else someRows c u ((List.range (shM op.shape)).map (tstRow (tileOf c u.core t) op ra rb))
    | .taccSpill sl a ra _ =>
      if before.any (writesSlot sl a) || op.asked then c
      else someRows c u ((List.range 32).map (spillRow (slotOf c u.core (slotKey a sl)) op ra))
    | _ => c

def abandonOps (u : StrandId) (before : List TileOp) : List TileOp → Chip → Chip
  | [], c => c
  | op :: r, c => abandonOps u (before ++ [op]) r (abandonOp u before op c)

/-- What a strand's instructions in flight have done before they are abandoned (R243) or discarded (R247). -/
def abandonAll (c : Chip) (u : StrandId) : Chip := abandonOps u [] (strandOf c u).flight c

/-- What a core reset or a hardware stop leaves behind of the tile instructions of a core that it discards
(R247, R273): rows that stores have written already (DESIGN CHOICE, log entry 19: R247 says only that they are
discarded), a buffer. -/
def cutCommits (c : Chip) (core : Nat) : Chip :=
  (List.range 8).foldl (fun c i => cutCommit (abandonAll c (strandId core i)) (strandId core i)) c

/-! ### Core reset and the third fault (R165, R168, R247, R273, R427, R549, R598) -/

/-- What a core reset leaves (R598, R247): tile registers and slot contents stay, slots are CLOSED, banks are
discarded; a lesson that it cut short stays unended (R427). -/
def coreAfterReset (k : Core) : Core :=
  { corePower with
    tiles := k.tiles,
    active := k.active,
    slots := k.slots.map (fun e => (e.1, { e.2 with opened := false })),
    cut := k.cut || k.strands.any (fun e => e.2.lesson.isSome) }

/-- A core's requests under way deliver to nothing, its stores leave its store queue. -/
def orphanReqs (c : Chip) (n : Nat) : Chip := mapReaders (fun w => if w.coreOf? = some n then .none else w) c

/-- A core records the source of its last wake (R549, R553). -/
def coreWoke (core code : Nat) (c : Chip) : Chip :=
  let p := corePos core
  setF c (clsB (coreRoom core)) (if p < 8 then 0x02A else 0x02C) (4 * (p % 8) + 3) (4 * (p % 8)) code

/-- Reset core n. -/
def coreReset (c : Chip) (n : Nat) : Chip :=
  coreWoke n 1 (orphanReqs (modCore (cutCommits c n) n coreAfterReset) n)

/-- Third fault (R165, R168): the core is reset, CLS_TRIPLE loaded when it is free, CORE_TRIPLE reported with
the core and whether it ran a lesson (R427). -/
def thirdFault (c : Chip) (u : StrandId) (cause1 cause3 : Nat) : Chip :=
  let b := clsB (coreRoom u.core)
  let ran := (coreOf c u.core).strands.any (fun e => e.2.lesson.isSome)
  let c := coreReset c u.core
  let c := if getF c b 0x018 7 7 = 1 then c
    else setRaw c b 0x018 (BitVec.ofNat 32
      (cause1 * 2 ^ 24 + cause3 * 2 ^ 16 + 2 ^ 7 + corePos u.core * 8 + u.strand.val))
  report c (blockNode b) 0x0102 [u.core.val, if ran then 1 else 0]

/-! ### Taking an exception (R106, R107, R157 to R163, R599) -/

/-- The strand's tile instructions in flight are abandoned and parked in issue order (R243 to R245). -/
def tileAbandon (c : Chip) (u : StrandId) : Chip :=
  let fl := (strandOf c u).flight
  modStrand (unaskOps u fl (abandonAll c u)) u (fun st => { st with
    flight := [], parked := st.parked ++ fl.map (fun op => { op with asked := false, got := [] }) })

/-- OR a pending flag update into the latest parked write of its register at or before its slot; none when there is no
such write (R599). -/
def foldFlags (f : PendF) (ws : List PendW) : Option (List PendW) :=
  let fits := fun (w : PendW) => w.reg == f.reg && decide (w.k ≤ f.k)
  match (ws.filter fits).foldl (fun (a : Option PendW) w =>
      match a with
      | none => some w
      | some b => if b.k ≤ w.k then some w else some b) none with
  | none => none
  | some b => some (ws.map (fun w => if w.id = b.id then { w with val := w.val ||| BitVec.ofNat 64 f.flags } else w))

def parkFlags (c : Chip) (u : StrandId) : List PendF → List PendW → Chip × List PendW
  | [], ws => (c, ws)
  | f :: r, ws =>
    match foldFlags f ws with
    | some ws' => parkFlags c u r ws'
    | none => parkFlags (commitF u c f) u r ws

/-- Insert by remaining distance, after entries of the same one (R107). -/
def insK (w : PendW) : List PendW → List PendW
  | [] => [w]
  | x :: r => if w.k < x.k then w :: x :: r else x :: insK w r

def sortK : List PendW → List PendW
  | [] => []
  | w :: r => insK w (sortK r)

/-- Insertion from the right keeps issue order for equal K. -/
def sortPend (ws : List PendW) : List PendW := sortK ws.reverse

/-- Writes that are never parked: c24 to c27 (R144) and tile control registers (R213). -/
def unparked (w : PendW) : Bool := (decide (88 ≤ w.reg) && decide (w.reg ≤ 91)) || decide (200 ≤ w.reg)

/-- Pending writes at entry: what is never parked becomes visible, vector writes complete (R201), flags follow R599; the
rest is the record. -/
def parkPend (c : Chip) (u : StrandId) : Chip × List PendW :=
  let st := strandOf c u
  let c := setStrand c u { st with pend := [], pendV := [], pendF := [] }
  let c := (st.pend.filter unparked).foldl (commitW u) c
  let c := st.pendV.foldl (commitV u) c
  let x := parkFlags c u st.pendF (st.pend.filter (fun w => !unparked w))
  (x.1, sortPend x.2)

/-- One entry of the pending-write record (R107): K counts from the slot of the exception. -/
def recEntry (w : PendW) : List Word :=
  BitVec.ofNat 16 (w.k * 2 ^ 12 + (if w.pois then 2 ^ 11 else 0) + w.reg) :: natWords w.val.toNat 4

/-- The pending-write record: 56 words (R107). More than 11 parked writes, possible only after a handler
edited the record of an earlier return, leave the 11 with the smallest K (DESIGN CHOICE, log entry 51). -/
def recWords (ws : List PendW) : List Word :=
  let es := (ws.take 11).flatMap recEntry
  BitVec.ofNat 16 (min ws.length 11) :: (es ++ List.replicate (55 - es.length) 0)

/-- The exception frame: 96 words (R161). -/
def frameWords (st : Strand) (cause detail faddr : Nat) (async : Bool) (insn : W32) (rec : List Word) : List Word :=
  let pbn := match st.pb with | some (_, n) => n | none => 0
  let pbt := match st.pb with | some (t, _) => t | none => 0
  let status := cause * 2 ^ 8 + (if async then 2 ^ 7 else 0) + (if st.pb.isSome then 2 ^ 6 else 0) + pbn * 2 ^ 4 +
    level st * 4 + (if inDf st then 2 else 0)
  [BitVec.ofNat 16 status, BitVec.ofNat 16 detail] ++ natWords insn.toNat 2 ++ natWords st.pc 3 ++ natWords pbt 3 ++
    natWords faddr 3 ++ natWords (creg st 30).toNat 3 ++ natWords (creg st 0).toNat 4 ++ natWords (greg st 31).toNat 4 ++
    natWords (creg st 1).toNat 4 ++ natWords (creg st 3).toNat 3 ++ natWords (creg st 4).toNat 3 ++
    natWords (creg st 5).toNat 4 ++ [0, 0] ++ rec

/-- Whether a cause is an interrupt (R150). -/
def isAsync (cause : Nat) : Bool := decide (0x40 ≤ cause) && decide (cause ≤ 0x43)

/-- Whether the INSN field is 0 (R161). -/
def noInsn (cause : Nat) : Bool := isAsync cause || cause == 0x0E || cause == 0x0F

/-- A hardware access to n words of the table, a stack or a frame (R149): the first word that fails R36, or, for a read,
is poisoned. -/
def hwFail (c : Chip) (u : StrandId) (wr : Bool) (a : Nat) : Nat → Option Nat
  | 0 => none
  | n + 1 =>
    if !reaches c u.core 2 wr false a || (!wr && (rdWord c (strandOf c u).spec a).2) then some a
    else hwFail c u wr (a + 1) n

/-- Whether the core's scalar data cache is enabled (R324). -/
def cacheOn (c : Chip) (core : Nat) : Bool := natBit (getF c (clsB (coreRoom core)) 0x026 15 0) (corePos core)

/-- A line of the cache with the words that are written to it; it stays where it stands in the order of use
(R323; DESIGN CHOICE for the latter, log entry 61). -/
def lineStore (l : CLine) (ws : List (Nat × Word × Bool)) : CLine :=
  { l with ws := (ws.filter (fun x => x.1 / 32 == l.line)).foldl (fun w x => w.set (x.1 % 32) x.2.1) l.ws }

/-- A store that hits an enabled cache also updates the entry (R323). -/
def cacheStore (c : Chip) (core : Nat) (ws : List (Nat × Word × Bool)) : Chip :=
  if cacheOn c core then modCore c core (fun k => { k with cache := k.cache.map (fun l => lineStore l ws) }) else c

/-- A strand stores consecutive words: through the cache, to memory (R102, R160, R323). -/
def coreStore (c : Chip) (u : StrandId) (a : Nat) (ws : List Word) : Chip :=
  coreWrite (cacheStore c u.core (atRun a ws)) u.core (strandOf c u).spec (.store u.core u.strand) (atRun a ws)

/-- The strand at its handler: what both entries write (R157, R163). The frame's SP field holds no poison bit:
that of g31 is cleared here and at XRET (DESIGN CHOICE, log entry 51). An exception that became owed while
entry was in progress stays owed for the handler's first slot (R270). -/
def atHandler (st : Strand) (frame splim priv mode pc : Nat) : Strand :=
  let st := setCreg st 30 (BitVec.ofNat 64 frame)
  let st := setCreg st 1 (BitVec.ofNat 64 splim)
  let st := setCreg st 16 (BitVec.ofNat 64 priv)
  let st := setCreg st 0 (BitVec.ofNat 64 mode)
  let st := setCreg st 5 0
  { st with
    g := tput (fun _ => 0) st.g 31 (BitVec.ofNat 64 frame),
    pois := tput (fun _ => false) (tput (fun _ => false) st.pois 31 false) 65 false,
    pc := pc, pb := none, entering := none }

/-- The double-fault area of a strand (R163). -/
def dfArea (u : StrandId) : Nat :=
  clsAddr (coreRoom u.core) (resOff + (corePos u.core * 8 + u.strand.val) * 0x100)

/-- CLS_DFVEC (R166, R167). -/
def dfVec (c : Chip) (u : StrandId) : Nat :=
  let b := clsB (coreRoom u.core)
  getF c b 0x016 15 0 * 2 ^ 32 + getF c b 0x014 31 1 * 2

/-- The double fault of an exception (R163). FADDR is that of the failed cause (R150); for reasons 4 and 5 it
is the word of the table or frame that failed (DEDUCED from the example at R163, log entry 53). -/
def doubleFault (c : Chip) (u : StrandId) (e : Exc) (reason : Nat) (fail : Option Nat) (insn : W32) (rec : List Word) : Chip :=
  let st := strandOf c u
  let k := e.cause
  if inDf st then thirdFault c u st.dfCause k
  else
    let a := dfArea u
    if (hwFail c u true (a + 0xA0) 96).isSome then thirdFault c u k 0xFD
    else
      let c := coreStore c u (a + 0xA0)
        (frameWords st 0xFE (k * 2 ^ 8 + reason) (fail.getD e.faddr) (isAsync k) insn rec)
      modStrand c u (fun st => { atHandler st (a + 0xA0) a 6 0 (dfVec c u) with dfCause := k })

/-- Exception entry for one cause, pending writes already handled (R157). -/
def enter (c : Chip) (u : StrandId) (e : Exc) (insn : W32) (rec : List Word) : Chip :=
  let st := strandOf c u
  let k := e.cause
  let tb := (creg st 17).toNat
  let ea := tb + 0x10 + 4 * k
  match hwFail c u false ea 4 with
  | some a => doubleFault c u e 0x04 (some a) insn rec
  | none =>
    let w0 := (rdWord c st.spec ea).1.toNat
    let addr := (rdNat c st.spec (ea + 1) 3).1
    let ep := natBits w0 13 12
    if natBit w0 15 = false ∨ ¬ (ep = 1 ∨ ep = 2) ∨ addr % 2 = 1 then doubleFault c u e 0x01 none insn rec
    else
      let p := max ep (level st)
      let da := tb + (if p = 1 then 0 else 8)
      match hwFail c u false da 8 with
      | some a => doubleFault c u e 0x04 (some a) insn rec
      | none =>
        let top := (rdNat c st.spec da 3).1
        let limit := (rdNat c st.spec (da + 3) 3).1
        let work := (rdWord c st.spec (da + 6)).1.toNat
        let dv := natBit (rdWord c st.spec (da + 7)).1.toNat 15
        let xs := if p = 1 then 18 else 19
        let sp := (creg st xs).toNat
        if dv = false ∨ work % 16 ≠ 0 then doubleFault c u e 0x02 none insn rec
        else if sp % 16 ≠ 0 ∨ top < sp ∨ sp < limit + 96 + work then doubleFault c u e 0x03 none insn rec
        else
          let f := sp - 96
          match hwFail c u true f 96 with
          | some a => doubleFault c u e 0x05 (some a) insn rec
          | none =>
            let c := coreStore c u f (frameWords st k e.detail e.faddr (isAsync k) insn rec)
            modStrand c u (fun st => atHandler (setCreg st xs (BitVec.ofNat 64 (f - work))) f (f - work)
              ((if inDf st then 4 else 0) + p) ((if natBit w0 14 then 1 else 0) * 2 ^ 15) addr)

/-- Whether every pending value is computed, so that entry can complete (R106). -/
def allReady (st : Strand) : Bool := st.pend.all pendReady && st.pendV.all pendVReady

/-- Whether the strand's oldest tile instruction has begun its commit: the requests of a store or spill, or
those for a slot buffer, have been made (R243; DESIGN CHOICE, log entry 6). -/
def committing (st : Strand) : Bool :=
  match st.flight with
  | [] => false
  | op :: _ => op.asked && (match op.kind with | .tld .. | .tldT .. | .twld .. | .twldT .. => false | _ => true)

/-- The words of the tables that entry for a cause reads (R155 to R157): those of its cause entry and, as it
stands, of the stack entry that it leads to. The third fault reads none. -/
def entryReads (c : Chip) (st : Strand) (e : Exc) : List (Nat × Nat) :=
  if inDf st && !isAsync e.cause then []
  else
    let tb := (creg st 17).toNat
    let ea := tb + 0x10 + 4 * e.cause
    let w := (rdWord c st.spec ea).1.toNat
    [(ea, 4), (tb + (if max (natBits w 13 12) (level st) = 1 then 0 else 8), 8)]

/-- Take an exception: entry is in progress from now on, its reads of the tables are asked for (R106, R157, R165, R286);
EXCEPTION_ENTRY completes it. -/
def takeExc (c : Chip) (u : StrandId) (e : Exc) (insn : W32) : Chip :=
  let st := strandOf c u
  let c := modStrand c u (fun st => { st with entering := some ⟨e, if noInsn e.cause then 0 else insn⟩, ret := none })
  (entryReads c st e).foldl (fun c r => askReads c u.core st.spec (.entry u.core u.strand) r.1 r.2) c

/-- An entry completes: pending writes are parked, the frame is written, the strand stands at its handler
(R106, R157, R165). -/
def completeEntry (c : Chip) (u : StrandId) (e : Exc) (insn : W32) : Chip :=
  let st := strandOf c u
  if inDf st && !isAsync e.cause then thirdFault c u st.dfCause e.cause
  else
    let x := parkPend (tileAbandon c u) u
    enter x.1 u e insn (recWords x.2)

/-! ### Issue (R94, R96, R152) -/

/-- Whether a classroom's cores have a clock and power: not in recess, not closed (R543). -/
def roomClocked (c : Chip) (r : Nat) : Bool := (roomOf c r).power == .run || (roomOf c r).power == .entering

/-- Whether a request of the strand waits at its requester (R284), has a ticket or waits for its
pseudo-channel (R332): the strand is withheld meanwhile. -/
def requestHeld (c : Chip) (u : StrandId) : Bool :=
  let mine := fun (w : Reader) => w.strandOf? == some (u.core.val, u.strand.val)
  c.waiting.any (fun x => mine x.2.2.who) || refused c (fun r => mine r.who)

/-- Whether the strand is eligible, the conditions of its instruction aside (R55, R94, R96, R284, R309, R332, R543). -/
def eligible (c : Chip) (u : StrandId) : Bool :=
  let st := strandOf c u
  let b := clsB (coreRoom u.core)
  decide (st.run = .active) && bState c b == 2 && natBit (getF c b 0x010 15 0) (corePos u.core) &&
    roomClocked c (coreRoom u.core) && !(coreOf c u.core).paused && st.entering.isNone && !requestHeld c u &&
    st.pend.all (fun w => decide (w.k ≠ 0)) && st.pendV.all (fun w => decide (w.k ≠ 0))

/-- Whether the round-robin has come to the strand: every strand between the one that issued last and this one
is not eligible, or its instruction was found withheld since (R94; DESIGN CHOICE for the latter, log entry 54:
a command names a strand with its instruction). -/
def turnOf (c : Chip) (u : StrandId) : Bool :=
  let k := coreOf c u.core
  ((List.range ((u.strand.val + 7 - k.last) % 8)).map (fun i => (k.last + 1 + i) % 8)).all (fun s =>
    k.skip.contains s || !eligible c (strandId u.core s))

/-- Whether the strand can use a slot now, the conditions of its instruction aside (R94). -/
def canIssue (c : Chip) (u : StrandId) : Bool := eligible c u && turnOf c u

/-- A strand whose instruction is withheld gives its turn to the next. -/
def passTurn (c : Chip) (u : StrandId) : Chip := modCore c u.core (fun k => { k with skip := u.strand.val :: k.skip })

/-- The enabled interrupt (R153). -/
def interruptOf (st : Strand) : Option Nat :=
  let p := natBits ((creg st 28) &&& (creg st 29)).toNat 3 0
  if !natBit (creg st 0).toNat 15 || p == 0 then none
  else some (if natBit p 0 then 0 else if natBit p 1 then 1 else if natBit p 2 then 2 else 3)

/-- The no-execute region that holds a word (R147). -/
def nxRegion (st : Strand) (a : Nat) : Option Nat :=
  let hit := fun (b l : Nat) => natBit (creg st b).toNat 63 && decide (natBits (creg st b).toNat 47 0 ≤ a) &&
    decide (a ≤ natBits (creg st l).toNat 47 0)
  if hit 20 21 then some 0 else if hit 22 23 then some 1 else none

/-- The fetch checks at the strand's PC (order 2 of R152). -/
def fetchFault (c : Chip) (u : StrandId) : Option Exc :=
  let st := strandOf c u
  let a := st.pc
  if !reachAll c u.core (level st) false st.spec a 2 then some ⟨0x08, 2 ^ 15, a⟩
  else if (rdWords c st.spec a 2).any Prod.snd then some ⟨0x0C, 2 ^ 15, a⟩
  else
    match nxRegion st a, nxRegion st (a + 1) with
    | some k, _ => some ⟨0x0A, k, a⟩
    | none, some k => some ⟨0x0A, k, a + 1⟩
    | none, none =>
      match rmFirst (coreOf c u.core) (level st) 2 a 2 with
      | some (x, d) => some ⟨0x09, d, x⟩
      | none => none

/-- The conditions that come before the instruction itself (orders 0 to 2 of R152). -/
def earlyExc (c : Chip) (u : StrandId) : Option Exc :=
  let st := strandOf c u
  match st.owed with
  | e :: _ => some e
  | [] =>
    match interruptOf st with
    | some i => some ⟨0x40 + i, 0, 0⟩
    | none => fetchFault c u

/-- The slot of an instruction that faults. -/
def faultSlot (c : Chip) (u : StrandId) : Chip := modStrand (tookSlot c u) u countSlot

/-- The slot of a condition of orders 0 to 2, which is owed no longer: of an owed exception and of an interrupt the
instruction does not issue, a fetch fault has used its slot (R95, R106, R152; log entry 10). -/
def earlySlot (c : Chip) (u : StrandId) : Chip :=
  let st := strandOf c u
  if !st.owed.isEmpty then modStrand c u (fun st => { st with owed := st.owed.drop 1 })
  else if (interruptOf st).isSome then c
  else faultSlot c u

/-- An instruction at its slot, as far as R152 looks at it. -/
structure Insn where
  /-- Its encoding, for the frame. -/
  word : W32
  illegal : Bool := false
  priv : Bool := false
  /-- A branch, LOOP, LOOPI or return (R126, R130). -/
  ctl : Bool := false
  /-- LOOP or LOOPI (R130). -/
  loopStart : Bool := false
  /-- An MTC to MODE (R137). -/
  modeWrite : Bool := false
  /-- REG codes it reads, for poison. -/
  srcs : List Nat := []
  /-- REG codes it writes, with their distances. -/
  dsts : List (Nat × Nat) := []
  /-- The float registers it reads or writes, for R176 and R200. -/
  fregs : List Nat := []
  /-- Order 8 of R152. -/
  addr : Option Exc := none
  /-- The rest of order 9. -/
  last : Option Exc := none
  /-- It waits for a unit (R96), and what it asks for while it does. -/
  hold : Bool := false
  ask : Chip → Chip := id
  /-- The exception it takes after its effect: an element of a resumable instruction failed (R196). -/
  after : Option Exc := none
  flow : Flow := .seq
  /-- Its effect at the slot. -/
  act : Chip → Chip := id

/-- The lowest of a list of numbers. -/
def minOf : List Nat → Option Nat
  | [] => none
  | x :: xs => some (xs.foldl min x)

/-- R126, R130 and R137, in this order (order 5 of R152). When several rows of the table of R130 hold, DETAIL names the
first (DESIGN CHOICE, log entry 51). -/
def flowFault (st : Strand) (i : Insn) : Option Exc :=
  let atEnd := decide (st.pc = (creg st 4).toNat) && creg st 5 != 0
  if i.ctl && st.pb.isSome then some ⟨0x04, 0, 0⟩
  else if i.loopStart && creg st 5 != 0 then some ⟨0x05, 1, 0⟩
  else if atEnd && i.ctl then some ⟨0x05, 2, 0⟩
  else if atEnd && st.pb.isSome then some ⟨0x05, 3, 0⟩
  else if decide (st.pc = (creg st 4).toNat) && st.pend.any (fun w => w.reg == 69) then some ⟨0x05, 4, 0⟩
  else if i.modeWrite && st.pend.any (fun w => w.reg == 64) then some ⟨0x06, 0, 0⟩
  else none

/-- The write-order fault of the lowest register concerned (R101). -/
def orderFault (st : Strand) (i : Insn) : Option Exc :=
  match minOf ((i.dsts.filter (fun d => st.pend.any (fun w => w.reg == d.1 && decide (d.2 ≤ w.k)))).map Prod.fst) with
  | some r => some ⟨0x03, r, 0⟩
  | none => none

/-- Vector ownership and hazard of the float registers a scalar instruction names (R176, R200, R203). -/
def fregFault (st : Strand) (i : Insn) : Option Exc :=
  match minOf (i.fregs.filter (fun n => !natBit (vcreg st 6).toNat n)) with
  | some n => some ⟨0x10, n, 0⟩
  | none =>
    match minOf (i.fregs.filter (fun n => st.pendV.any (fun w => w.reg == n))) with
    | some n => some ⟨0x11, n, 0⟩
    | none => none

/-- The first condition of R152 from order 3 on. -/
def insnFault (c : Chip) (u : StrandId) (i : Insn) : Option Exc :=
  let st := strandOf c u
  if i.illegal then some ⟨0x01, 0, 0⟩
  else if i.priv then some ⟨0x02, 0, 0⟩
  else
    match flowFault st i with
    | some e => some e
    | none =>
      match minOf (i.srcs.filter (regPois c u)) with
      | some r => some ⟨0x0C, r, 0⟩
      | none =>
        match orderFault st i with
        | some e => some e
        | none =>
          match i.addr with
          | some e => some e
          | none =>
            match fregFault st i with
            | some e => some e
            | none => i.last

/-- One instruction of a strand: withheld (its turn passes), an earlier condition, its own fault, or its effect. -/
def issue (c : Chip) (u : StrandId) (i : Insn) : Chip :=
  if !canIssue c u then c
  else
    match earlyExc c u with
    | some e => takeExc (earlySlot c u) u e i.word
    | none =>
      if i.hold then passTurn (i.ask c) u
      else
        match insnFault c u i with
        | some e => takeExc (faultSlot c u) u e i.word
        | none =>
          match i.after with
          | some e => takeExc (faultSlot (i.act c) u) u e i.word
          | none => retire (i.act c) u i.flow

end Sys2Proof.Machine
end

