-- ==== Sys2Proof/Machine/Device.lean ====
section
/-! DEFINITION. The module's agents outside the package's data side: the flash and the fuses, the Warden with
its event log and its commands, the loaded job, the bell unit, the Ethernet and PCIe ports, power and
temperature, the management ring, the sideband. Everything is plain data; Machine/State.lean joins it with the
package. -/

namespace Sys2Proof.Machine

/-! ### Flash and fuses (spec/15) -/

/-- An event-log entry (R535): severity 0 information, 1 warning, 2 error; DATA as at most three 32-bit units. -/
structure LogEntry where
  seq : Nat
  boot : Nat
  src : Nat
  code : Nat
  sev : Nat
  time : Nat
  data : List Nat
  deriving DecidableEq, Repr

/-- A record of the settings store (R532). -/
structure Setting where
  key : Nat
  ver : Nat
  seq : Nat
  val : List Byte
  deriving DecidableEq, Repr

/-- A boot record (R527). -/
structure BootRec where
  seq : Nat
  slot : Nat
  len : Nat
  digest : List Byte
  deriving DecidableEq, Repr

/-- The module flash (R529): image slots 0 and 1 by byte (an unlisted byte is erased and reads 0xFF), the two
boot-record blocks, the settings with the first erase block of the store and the bytes in use from there
(R532), the entries of the event log (oldest first) with the VER of each of its blocks, by block of 8,192
sequence numbers (R534), starts since manufacture, bad-block marks, erase counts; and the order in which rows
became repair candidates (R344), each with its stack. -/
structure Flash where
  slotA : Table Byte
  slotB : Table Byte
  rec0 : Option BootRec
  rec1 : Option BootRec
  settings : List Setting
  setFirst : Nat
  setUsed : Nat
  log : List LogEntry
  logVer : Table Nat
  boots : Nat
  bad : List Nat
  wear : Table Nat
  candidates : List (Nat × Nat)
  deriving DecidableEq, Repr

/-- The flash as manufacture left it (log entry 15). -/
def flashReset : Flash where
  slotA := Config.imageA
  slotB := []
  rec0 := some ⟨1, 0, Config.imageLen, Config.imageDigest⟩
  rec1 := none
  settings := []
  setFirst := 0
  setUsed := 0
  log := []
  logVer := []
  boots := 0
  bad := []
  wear := []
  candidates := []

/-- What is fused in the field (R344, R508, R528): SVN_FLOOR positions set, VFK_REVOKE bits, spare rows. The other fuse
values are constants of Config. -/
structure Fuses where
  svnFloor : Nat
  revoke : Nat
  /-- Spare rows fused by post-package repair (R344), by DRAM bank of the device. -/
  spares : Table Nat
  deriving DecidableEq, Repr

def fusesReset : Fuses := ⟨Config.svnFloor0, 0, []⟩

/-! ### Start-up (spec/15 R511, spec/17 R580, spec/18 R586) -/

/-- Start-up. `phase` is the last phase that has ended: 0 none (held in cold reset), 1 rails good, 2 fuses
sensed (or DEAD), 3 firmware started, 4 settings mounted (phase 3a). -/
structure Boot where
  inRange : Bool
  rstN : Bool
  /-- The always-on rails are good: the level of module_pg (R585, R588). -/
  rails : Bool
  phase : Nat
  hbmUp : Bool
  computeUp : Bool
  stagingUp : Bool
  /-- DEAD reason and DETAIL (R513). -/
  dead : Option (Nat × Nat)
  /-- Measurements (R509, R511, R512) and the version, SVN and FLAGS of the running image. -/
  m1 : List Byte
  m2 : List Byte
  version : Nat
  svn : Nat
  advance : Bool
  /-- The fuse read port is locked until the next cold reset (R511). -/
  fuseLock : Bool
  /-- A compute reset runs: COMPUTE_BRINGUP ends it (R576, R579). -/
  compReset : Bool
  /-- Compute resets that arrived meanwhile and follow it (R579). -/
  compNext : Nat
  deriving DecidableEq, Repr

def bootReset : Boot :=
  ⟨false, true, false, 0, false, false, false, none, [], List.replicate 64 0, 0, 0, false, false, false, 0⟩

/-! ### The host's side (spec/14) -/

/-- A pigeonhole (R494 to R497): blocks and data area by byte, an unlisted byte is 0. -/
structure Pigeon where
  state : Nat
  overrun : Bool
  progress : Nat
  cmd : Table Byte
  resp : Table Byte
  data : Table Byte
  /-- The response of the command that is BUSY is discarded (R484). -/
  drop : Bool
  /-- When the command was accepted, in us (R495). -/
  busyAt : Nat
  deriving DecidableEq, Repr

def pigeonReset : Pigeon := ⟨0, false, 0, [], [], [], false, 0⟩

/-- The function's configuration after a reset of the port (PCIe; log entry 60). -/
def pcieCfgReset : PcieCfg := ⟨false, 0, false, false, false, false, false, 0⟩

/-- A PCIe port: the speed and width of its link, the function's configuration, its AER uncorrectable error status;
pigeonholes; MSI-X table by 32-bit unit, pending bits, vectors sent; whether its link is in L0, since
when it has been out of L0, and whether it has been in L0 since DSTATE became 0x1; IDE keys pending and installed (R485,
R517). -/
structure Pcie where
  link : Option PcieLink
  cfg : PcieCfg
  aer : W32
  ph : Table Pigeon
  msix : Table W32
  msixPend : List Nat
  sent : List Nat
  l0 : Bool
  downAt : Nat
  upSince : Bool
  idePending : Option (List Byte)
  ideKeys : Option (List Byte)
  ideSecure : Bool
  ideInsecure : Bool
  deriving DecidableEq, Repr

def pcieReset0 : Pcie := ⟨none, pcieCfgReset, 0, [], [], [], [], false, 0, false, none, none, false, false⟩

/-- A command that was accepted (R498): its pigeonhole (port x 8 + number), opcode, arguments and data. -/
structure Cmd where
  ph : Nat
  op : Nat
  args : List Nat
  data : List Byte
  deriving DecidableEq, Repr

/-- What a command answers (R497). -/
structure Reply where
  status : Nat
  res : List Nat
  data : List Byte
  deriving DecidableEq, Repr

/-- A long command in the background (R498), its result once it is known, and the SHARD_REFILLs queued behind
it (R478). -/
structure Long where
  cmd : Cmd
  reply : Option Reply
  deriving DecidableEq, Repr

/-- A core pigeonhole message on its way to the Warden or back (R504, R505). -/
structure CoreMsg where
  core : Nat
  strand : Nat
  kind : Nat
  payload : List Word
  /-- The reply's STATUS and payload, once known. -/
  reply : Option (Nat × List Word)
  deriving DecidableEq, Repr

/-! ### The job (spec/11, 12, 13, 15) -/

/-- A loaded job: the words of its timetable image, school map and sleeper map, and its key block (R519). -/
structure Job where
  img : List Word
  map : List Word
  smap : List Word
  jms : List Byte
  seed : Nat
  tag : Nat
  rank : Nat
  size : Nat
  /-- Sleeper protection is on (R465), and the LAYOUT digest (R467). -/
  sleeper : Bool
  layout : Nat
  deriving DecidableEq, Repr

/-- A bundle on trial (R521): what was decrypted, waiting for the school. -/
structure Trial where
  job : Job
  signer : List Byte
  digest : List Byte
  deriving DecidableEq, Repr

/-- A vote with its reason, group, rank and Pump (R441, R452): 0 GO, 1 SKIP, 2 ABORT. -/
structure BVote where
  vote : Nat
  reason : Nat
  group : Nat
  rank : Nat
  pump : Nat
  deriving DecidableEq, Repr

/-- The school agreement of a subtree (R418): lowest refusing rank with its record, SCHED_DIGEST, whether all digests
seen are equal, and the XOR of the pair digests. -/
structure Agree where
  refuser : Option (Nat × Nat)
  digest : Nat
  equal : Bool
  sendX : Nat
  recvX : Nat
  deriving DecidableEq, Repr

/-- A snapshot or recovery window (R410): send or receive, port, peer, WID, ADDR, LEN, START, DEADLINE,
LATE_LIMIT, OP. -/
structure Win where
  recv : Bool
  port : Nat
  peer : Nat
  wid : Nat
  addr : Nat
  len : Nat
  start : Nat
  deadline : Nat
  lateLimit : Nat
  op : Nat
  deriving DecidableEq, Repr

/-- A window under way: of a send, eligible, the next unsent frame, how often each frame went out, the frames to send
again; of a receive, the lowest frame missing and those received above it; whether it is complete at this end, or
abandoned. -/
structure WinSt where
  eligible : Bool
  next : Nat
  count : Table Nat
  again : List Nat
  low : Nat
  above : List Nat
  done : Bool
  failed : Bool
  /-- The frame whose words the sending port has asked the classroom banks for (R286). -/
  asked : Option Nat
  deriving DecidableEq, Repr

def winReset : WinSt := ⟨false, 0, [], [], 0, [], false, false, none⟩

/-- An external checkpoint that a command ordered (R480). -/
structure Ckpt where
  step : Nat
  period : Nat
  qp : Nat
  raddr : Nat
  deriving DecidableEq, Repr

/-- The bell unit and what the Warden keeps of the running job (spec/11, 12, 13). -/
structure Bell where
  /-- A period is released and its bell has not rung. -/
  live : Bool
  /-- The period runs in this step (R408). -/
  runs : Bool
  /-- Classrooms and Pumps whose release has not come yet, as masks (R423). -/
  relCls : Nat
  relPmp : Nat
  /-- JOB_START has started the blocks and ordered the level changes; its release waits for them (R601). -/
  first : Bool
  /-- When the period was released, and when this device became ready, in ns. -/
  relAt : Nat
  readyAt : Nat
  ready : Bool
  /-- Readiness received from children for this bell. -/
  kids : Table (Option BVote)
  /-- READY has gone to the parent and is repeated until RING (R454). -/
  sentReady : Bool
  /-- The ring that is set: REMAIN in ns and the outcome (R453). -/
  ringDue : Option (Nat × BVote)
  /-- The bell rung last: step, period, outcome. -/
  rung : Option (Nat × Nat × BVote)
  /-- The Warden's own vote is ABORT (R421). -/
  wardenAbort : Bool
  /-- The school is halted; halts forwarded, by originating rank and step (R454). -/
  halted : Bool
  halts : List (Nat × Nat)
  /-- Lessons are still to end before HALT_STOP. -/
  stopping : Bool
  /-- The last bell of LAST_STEP has rung (R423). -/
  past : Bool
  /-- The shard is TORN (R472), GEN of the last stamp (R467). -/
  torn : Bool
  gen : Nat
  /-- A replay of this step, and lessons that differed (R431). -/
  replay : Option Nat
  diffs : Nat
  /-- Steps whose digests the log holds (R431). -/
  recorded : List Nat
  ckpt : Option Ckpt
  /-- Measured latency h(c) by rank, probes still unanswered (R448). -/
  lat : Table Nat
  probes : Nat
  /-- Agreement of this device and of its children (R418). -/
  mine : Option Agree
  kidAgree : Table (Option Agree)
  /-- The recovery schedule that this device sends (R475). -/
  recov : List Win
  /-- How many recovery schedules this device has begun to send, and the number of the one whose refill and of
  the one whose rebuild it receives (log entry 42). -/
  recovNo : Nat
  refillNo : Nat
  rebuildNo : Nat
  deriving DecidableEq, Repr

def bellReset : Bell :=
  ⟨false, false, 0, 0, false, 0, 0, false, [], false, none, none, false, false, [], false, false, false, 0, none, 0, [],
   none, [], 0, none, [], [], 0, 0, 0⟩

/-! ### Ethernet ports (spec/12) -/

/-- The replay window of one receive channel (R435): highest packet number, and which of the 64 below it were seen. -/
structure Replay where
  hi : Nat
  seen : List Nat
  deriving DecidableEq, Repr

/-- The operations of a RoCEv2 requester (R455). No command starts a SEND (R456). -/
inductive RoceOp where
  | send | write | read
  deriving DecidableEq, Repr

/-- A RoCEv2 transfer under way (R455, R456): its operation, its remote address, its bytes, packets in all, packets
acknowledged, packets sent, retries of the oldest, data read so far or to be written. -/
structure Xfer where
  op : RoceOp
  raddr : Nat
  bytes : Nat
  packets : Nat
  acked : Nat
  sent : Nat
  retries : Nat
  data : List Byte
  deriving DecidableEq, Repr

/-- Whether a transfer reads. -/
def Xfer.read (x : Xfer) : Bool := x.op == .read

/-- A queue pair (R455): number, port, the host's record, path MTU, its transfer. -/
structure Qp where
  num : Nat
  port : Nat
  peer : List Byte
  mtu : Nat
  xfer : Option Xfer
  deriving DecidableEq, Repr

/-- A RoCEv2 packet (R455): the NAK, remote access error, to an incoming request; a request of a queue pair
with its packet number: RDMA READ of some bytes, RDMA WRITE of data, SEND of data with whether it is the
message's last packet. -/
inductive RocePkt where
  | nak
  | read (qp psn raddr bytes : Nat)
  | write (qp psn raddr : Nat) (data : List Byte)
  | send (qp psn : Nat) (last : Bool) (data : List Byte)
  deriving DecidableEq, Repr

/-- An Ethernet port outside its registers: next packet number, receive channels by rank, control frames
waiting and the frame put on the wire last, each with its TYPE (R441), and that frame's bytes (R439); of
RoCEv2 the priority paused, the NAKs waiting, the packet put on the wire last with its C-tag, the rate as a
part of line rate and when a notification last halved it in us, the requests refused (R434, R455). -/
structure EthPort where
  pn : Nat
  rx : Table Replay
  ctl : List (Nat × Frame)
  wire : Option (Nat × Frame)
  bytes : List Byte
  paused : Bool
  naks : Nat
  roce : Option (Option Nat × RocePkt)
  rate : Rat
  cnpAt : Option Nat
  refused : Nat
  retraining : Bool
  deriving DecidableEq, Repr

def ethReset : EthPort := ⟨1, [], [], none, [], false, 0, none, 1, none, 0, false⟩

/-! ### Power, ring, sideband (spec/16, 01, 18) -/

/-- A sample with every value 0. -/
def sampleReset : Sample := ⟨0, 0, 0, 0, 0, 0, 0, [], [], []⟩

/-- A refusal record (R554): REFUSER, REQ, KIND, COUNT. -/
structure Refused where
  refuser : Nat
  req : Nat
  kind : Nat
  count : Nat
  deriving DecidableEq, Repr

/-- Power and temperature: the Spillway's terms (R556), the stretches of the last 30 s above PL_SUS in us
(R555), per die how long the term has stood above 8/64 and how long without bubbles in us (R557), PL0 minutes
per core and hour slot (R558), the Breach (R563), the last measurement, refusal counts and when each refuser
was last logged (R554, R566). -/
structure Power where
  bp : Rat
  bt : Table Rat
  past : List (Nat × Nat)
  bursting : Bool
  edc : Bool
  throttled : Table Bool
  high : Table Nat
  calm : Table Nat
  resid : Table (List Nat)
  minute : Nat
  breach : Bool
  /-- A reset that reaches the compute dies has run since the trip (R564). -/
  breachReset : Bool
  sample : Sample
  refusals : List Refused
  logged : Table (Option Nat)
  deriving DecidableEq, Repr

def powerReset : Power := ⟨0, [], [], false, false, [], [], [], [], 0, false, false, sampleReset, [], []⟩

/-- A ring transaction (R30): originator (0 Warden, 1 + d Reeve of CDd), node, offset, and the value of a write. -/
structure RingReq where
  origin : Nat
  node : Nat
  off : Nat
  wr : Option W32
  deriving DecidableEq, Repr

/-- A ring transaction that went out (R31): its originator, for a read the value of the response on its way,
and whether that is an error (R36); or, while its target is under reset, the transaction, not yet performed
(R579). -/
structure RingTx where
  origin : Nat
  val : Option W32
  err : Bool
  held : Option RingReq
  deriving DecidableEq, Repr

/-- What the sideband runs as (R589). -/
inductive BusMode where
  | i3c | smbus
  deriving DecidableEq, Repr

/-- What a sensor measures (R592): a unit, or the number of states of a state sensor. -/
inductive SensorKind where
  | volt | ampere | watt | celsius
  | states (n : Nat)
  deriving DecidableEq, Repr

/-- A sensor of the PDR repository (R592): id, what it measures, steps of its reading in one unit. -/
structure SensorPdr where
  id : Nat
  kind : SensorKind
  steps : Nat
  deriving DecidableEq, Repr

/-- The sideband (R589 to R592): mode, once a first transaction has chosen it; dynamic address, endpoint id,
the bytes of the last response, the reading that a sensor command returned, in the sensor's resolution, and
the sensor that GetPDR described. -/
structure Side where
  mode : Option BusMode
  dyn : Option Nat
  eid : Nat
  resp : List Nat
  reading : Option Int
  pdr : Option SensorPdr
  deriving DecidableEq, Repr

def sideReset : Side := ⟨none, none, 0, [], none, none⟩

/-! ### The Warden -/

/-- The Warden firmware (spec/14, 15): DSTATE, owner, times in us, the command being performed, the long command,
entries not yet in flash, the loaded job. -/
structure Warden where
  dstate : Nat
  /-- DSTATE before device sleep, the blocks that run and the classrooms that sleep only for it (R548). -/
  before : Nat
  restart : List BlockId
  /-- Pumps that device sleep stopped and whose memory controllers do not run yet (R53). -/
  lateStart : List BlockId
  rested : List Nat
  owner : Option Nat
  ownerAt : Nat
  readyAt : Nat
  lastPh : Nat
  cur : Option Cmd
  long : Option Long
  queued : List Cmd
  waiting : List LogEntry
  seq : Nat
  job : Option Job
  trial : Option Trial
  /-- Bytes of the bundle area and of the staging area written since they were emptied (R502). -/
  bundle : List (Nat × Nat)
  staged : List (Nat × Nat)
  /-- Resets that RESET ordered (R576): kind and ARG1. -/
  resets : List (Nat × Nat)
  msgs : List CoreMsg
  /-- Power-on time of the image in hours (R531). -/
  imageHours : Nat
  /-- A JOB_UNLOAD waits for the wipes it started (R501). -/
  unloading : Bool
  deriving DecidableEq, Repr

def wardenReset : Warden :=
  ⟨0, 0, [], [], [], none, 0, 0, 15, none, none, [], [], 0, none, none, [], [], [], [], 0, false⟩

/-- Everything of the module outside package, flash and fuses. -/
structure Dev where
  boot : Boot
  warden : Warden
  pcie : Table Pcie
  eth : Table EthPort
  qps : List Qp
  bell : Bell
  /-- Windows of the image by step and table index, those of a recovery schedule from 2^21 upward (R444, R475). -/
  wins : Table WinSt
  power : Power
  ring : List RingTx
  /-- Transactions that wait at their originators, and whether the response last taken was an error. -/
  ringWait : List RingReq
  ringErr : Bool
  side : Side
  deriving DecidableEq, Repr

def devReset : Dev := ⟨bootReset, wardenReset, [], [], [], bellReset, [], powerReset, [], [], false, sideReset⟩

end Sys2Proof.Machine
end

