-- ==== Sys2Proof/Machine/State.lean ====
section
/-! DEFINITION. The state of the module, the state after reset, and the reasons a command can stop. -/

namespace Sys2Proof.Machine

/-- No command of the table ends in a fault: the spec gives every row an effect, a strand's faults are exceptions the
machine takes itself. The type has no constructor, so `Outcome.fault` cannot be answered. -/
inductive Fault where
  deriving DecidableEq, Repr

/-- Why a command is refused. -/
inductive Refusal where
  /-- Raised by an arm of exec whose command has no meaning yet; safe: the machine stops. -/
  | notModelled (mnemonic : String)
  deriving DecidableEq, Repr

/-- The machine. -/
structure State where
  /-- Commands that are waiting, first in first out. -/
  pending : List Instr
  flash : Flash
  fuses : Fuses
  chip : Chip
  dev : Dev
  deriving DecidableEq, Repr

/-- The machine right after reset: no input in range, every register at its Reset column (R18, R580). -/
def State.reset : State where
  pending := []
  flash := flashReset
  fuses := fusesReset
  chip := chipReset
  dev := devReset

end Sys2Proof.Machine
end

