-- ==== Sys2Proof/Machine/Operands.lean ====
section
/-! DEFINITION. Operand forms: the answer of a command that acts on the package alone, effective addresses and
their checks (spec/03 R119 to R122), vector elements and masks (spec/05 R173, R182). -/

namespace Sys2Proof.Machine

/-- The answer of a command. -/
abbrev Ans := Host.Outcome State Fault Refusal

/-- A command whose effect is on the package alone. -/
def onChip (s : State) (f : Chip → Chip) : Ans := .next { s with chip := f s.chip }

/-- g, f and control registers by REG code (R107). -/
abbrev gR (n : Nat) : Nat := n
abbrev fR (n : Nat) : Nat := 32 + n
abbrev cR (n : Nat) : Nat := 64 + n
abbrev vcR (n : Nat) : Nat := 128 + n
abbrev tcR (n : Nat) : Nat := 200 + n

/-! ### Effective addresses (R119) -/

/-- The effective address and the base update, if any. -/
def effAddr (c : Chip) (u : StrandId) (ra : Nat) (m : AMode) : W64 × Option W64 :=
  let a := regVal c u ra
  match m with
  | .off i => (a + i.signExtend 64, none)
  | .postInc i => (a, some (a + i.signExtend 64))
  | .preDec i => (a - i.setWidth 64, some (a - i.setWidth 64))
  | .indexed rb s => (a + regVal c u rb * BitVec.ofNat 64 (2 ^ s.val), none)

/-- The registers an addressing mode reads beside its base. -/
def modeSrcs : AMode → List Nat
  | .indexed rb _ => [rb.val]
  | _ => []

/-- The base register as a destination (R103). -/
def modeDsts (ra : Nat) : AMode → List (Nat × Nat)
  | .postInc _ | .preDec _ => [(ra, 1)]
  | _ => []

/-- Address checks of one access of n words at a 64-bit address, in the order of R152: alignment to al words, unmapped,
stack limit, region map (R120, R121, R146, R148). FADDR is the address, or the first failing word for the region map;
`hi` says whether FADDR names the first word that R36 refuses. -/
def addrFault (c : Chip) (u : StrandId) (base31 wr : Bool) (ea : W64) (al n : Nat) : Option Exc :=
  let st := strandOf c u
  let a := ea.toNat
  let w := if wr then 2 ^ 14 else 0
  if a % al ≠ 0 then some ⟨0x07, 0, a % 2 ^ 48⟩
  else if 2 ^ 48 ≤ a then some ⟨0x08, w + 1, a % 2 ^ 48⟩
  else if !reachAll c u.core (level st) wr st.spec a n then some ⟨0x08, w, a⟩
  else if base31 && decide (a < (creg st 1).toNat) then some ⟨0x0B, 0, a⟩
  else
    match rmFirst (coreOf c u.core) (level st) (if wr then 1 else 0) a n with
    | some (x, d) => some ⟨0x09, d, x⟩
    | none => none

/-- Whether an access of words lo to hi meets the bounding range of a tile memory instruction in flight (R224). -/
def tileHold (st : Strand) (lo hi : Nat) : Bool :=
  st.flight.any (fun op => decide (op.lo ≤ op.hi) && decide (op.lo ≤ hi) && decide (lo ≤ op.hi))

/-! ### Vector elements (R173, R182) -/

/-- Element width in bits of a SEW code. -/
def sewBits (code : Nat) : Nat := 16 * 2 ^ code

/-- Element i of width w bits. -/
def velem (v : VReg) (w i : Nat) : Nat := v.toNat / 2 ^ (w * i) % 2 ^ w
/-- Set element i. -/
def vput (v : VReg) (w i x : Nat) : VReg := BitVec.ofNat 2048 (natSetBits v.toNat (w * i + w - 1) (w * i) x)

/-- Set the active elements below n to f. -/
def vfill (w : Nat) (act : Nat → Bool) (f : Nat → Nat) : Nat → VReg → VReg
  | 0, v => v
  | i + 1, v => let v := vfill w act f i v; if act i then vput v w i (f i) else v

/-- The flags of the active elements below n. -/
def vflagsOf (act : Nat → Bool) (f : Nat → Nat) : Nat → Nat
  | 0 => 0
  | i + 1 => if act i then forr (vflagsOf act f i) (f i) else vflagsOf act f i

def vlOf (st : Strand) : Nat := natBits (vcreg st 0).toNat 7 0
def sewOf (st : Strand) : Nat := natBits (vcreg st 1).toNat 1 0
def fmtBit (st : Strand) : Bool := natBit (vcreg st 1).toNat 2

/-- Whether element i is active under the mask bit (R182). -/
def vactive (k : Core) (m : Bool) (i : Nat) : Bool := !m || natBit (vreg k 0).toNat i

/-- The float format of the current SEW and FMT (R186); none at SEW 64. -/
def vfmt (st : Strand) : Option Fmt :=
  match sewOf st with
  | 0 => some (if fmtBit st then fmtBF16 else fmtFP16)
  | 1 => some fmtFP32
  | _ => none

/-- The vector and ownership conditions of order 9 (R203), in table order, for the vector registers an
instruction names: ownership, then the given one, then hazard (R176, R200). -/
def vecFault (st : Strand) (regs : List Nat) (mid : Option Exc) : Option Exc :=
  match minOf (regs.filter (fun n => !natBit (vcreg st 6).toNat n)) with
  | some n => some ⟨0x10, n, 0⟩
  | none =>
    match mid with
    | some e => some e
    | none =>
      match minOf (regs.filter (fun n => st.pendV.any (fun w => w.reg == n) || st.pend.any (fun w => w.reg == 32 + n))) with
      | some n => some ⟨0x11, (if st.pendV.any (fun w => w.reg == n) then 0 else 2 ^ 15) + n, 0⟩
      | none => none

/-- The mask register among the registers a masked instruction reads. -/
def maskReg (m : Bool) : List Nat := if m then [0] else []

end Sys2Proof.Machine
end

