-- ==== Sys2Proof/Machine/ScalarMem.lean ====
section
/-! DEFINITION. The scalar loads and stores (spec/03_scalar_core.md R102, R103, R105, R117 to R122), the
scalar data cache (spec/08_classroom_memory_and_dma.md R321 to R326). A load is computed when its request has
been served, one that misses the cache when its fill returns; a load outside the own classroom that its
command marks late also waits for RESULT_COMPUTED (log entries 6, 7). -/

namespace Sys2Proof.Machine

/-- Whether a scalar load of the word may be cached (R321). -/
def cacheable (core a : Nat) : Bool := (inHbm a || inCls a) && !ownRoom core a

def cacheHit (k : Core) (a : Nat) : Option CLine := k.cache.find? (fun l => l.line == a / 32)

/-- A hit makes its line the most recently used (R321). -/
def cacheTouch (k : Core) (l : CLine) : Core := { k with cache := l :: k.cache.filter (fun x => x.line != l.line) }

/-- Install a line, replacing the least recently used of 48 (R321). -/
def cacheInstall (k : Core) (l : CLine) : Core :=
  { k with cache := (l :: k.cache.filter (fun x => x.line != l.line)).take 48 }

/-- A second miss, or a load of the line being filled, waits for the outstanding fill (R322). -/
def cacheHold (c : Chip) (core a : Nat) : Bool :=
  let k := coreOf c core
  cacheable core a && cacheOn c core && k.fill.isSome &&
    ((cacheHit k a).isNone || (match k.fill with | some f => f.line == a / 32 | none => false))

/-- A load waits for an entry of its core's tracker or of its bank, unless the cache has its words (R284, R321). -/
def loadHold (c : Chip) (core : Nat) (spec : Bool) (a : Nat) : Bool :=
  !(cacheable core a && cacheOn c core && (cacheHit (coreOf c core) a).isSome) && bankHold c core spec a

/-- n words of a cache line. -/
def lineWords (l : CLine) (a n : Nat) : List Word := (l.ws.drop (a % 32)).take n

/-- The effect of a load at its slot: a pending write, and a request unless the cache has the words. -/
def loadAct (u : StrandId) (dst a : Nat) (f : LoadForm) (late : Bool) (c : Chip) : Chip :=
  let st := strandOf c u
  let core := u.core.val
  let r := rdNat c st.spec a f.n
  let cached := cacheable core a && cacheOn c core
  match (if cached then cacheHit (coreOf c core) a else none) with
  | some l => putReg (modCore c core (fun k => cacheTouch k l)) u dst 4 (f.conv (wordsNat (lineWords l a f.n)))
  | none =>
    let pz := issueMark a ((rdWords c st.spec (a - a % 32) 32).any Prod.snd)
    let c := if cached then modCore c core (fun k => { k with fill := some ⟨a / 32, u.strand.val, st.nextId, true, pz⟩ }) else c
    let c := putLate c u dst 4 (f.conv r.1) (issueMark a r.2) (late && !cached && !ownRoom core a) (askCount a) cached
    askRun c core (physRd c st.spec a) f.n (.load core u.strand st.nextId) f.sgn

/-- The base update of a memory instruction (R119). -/
def baseUpdate (u : StrandId) (ra : Nat) (v : Option W64) (c : Chip) : Chip :=
  match v with
  | some v => putReg c u ra 1 v
  | none => c

/-- Whether a mode updates its base. -/
def updates : AMode → Bool
  | .postInc _ | .preDec _ => true
  | _ => false

/-- A load into REG dst. -/
def load (w : W32) (u : StrandId) (dst : Nat) (fregs : List Nat) (ra : Fin 32) (m : AMode) (f : LoadForm) (late : Bool)
    (c : Chip) : Chip :=
  let st := strandOf c u
  let e := effAddr c u ra m
  let a := e.1.toNat
  issue c u { word := w, illegal := updates m && dst == ra.val,
              srcs := ra.val :: modeSrcs m, dsts := (dst, 4) :: modeDsts ra m, fregs := fregs,
              addr := addrFault c u (ra.val == 31) false e.1 f.n f.n,
              hold := tileHold st a (a + f.n - 1) || loadHold c u.core st.spec a || cacheHold c u.core a,
              act := fun c => baseUpdate u ra e.2 (loadAct u dst a f late c) }

def execLdw (u : StrandId) (rt ra : Fin 32) (m : AMode) (late : Bool) (s : State) : Ans :=
  onChip s (load (insnWord (.ldw u rt ra m late)) u rt [] ra m (ldZero 1) late)
def execLdws (u : StrandId) (rt ra : Fin 32) (m : AMode) (late : Bool) (s : State) : Ans :=
  onChip s (load (insnWord (.ldws u rt ra m late)) u rt [] ra m (ldSign 1) late)
def execLdd (u : StrandId) (rt ra : Fin 32) (m : AMode) (late : Bool) (s : State) : Ans :=
  onChip s (load (insnWord (.ldd u rt ra m late)) u rt [] ra m (ldZero 2) late)
def execLdds (u : StrandId) (rt ra : Fin 32) (m : AMode) (late : Bool) (s : State) : Ans :=
  onChip s (load (insnWord (.ldds u rt ra m late)) u rt [] ra m (ldSign 2) late)
def execLdq (u : StrandId) (rt ra : Fin 32) (m : AMode) (late : Bool) (s : State) : Ans :=
  onChip s (load (insnWord (.ldq u rt ra m late)) u rt [] ra m (ldZero 4) late)
def execLdf (u : StrandId) (ft ra : Fin 32) (m : AMode) (late : Bool) (s : State) : Ans :=
  onChip s (load (insnWord (.ldf u ft ra m late)) u (fR ft) [ft.val] ra m (ldZero 2) late)

/-- A store of n words of REG src. -/
def store (w : W32) (u : StrandId) (src : Nat) (fregs : List Nat) (ra : Fin 32) (m : AMode) (n : Nat) (c : Chip) : Chip :=
  let st := strandOf c u
  let e := effAddr c u ra m
  let a := e.1.toNat
  issue c u { word := w, srcs := src :: ra.val :: modeSrcs m, dsts := modeDsts ra m, fregs := fregs,
              addr := addrFault c u (ra.val == 31) true e.1 n n,
              hold := tileHold st a (a + n - 1) || bankHold c u.core st.spec a || storeHold c u.core,
              act := fun c => baseUpdate u ra e.2 (coreStore c u a (natWords (regVal c u src).toNat n)) }

def execStw (u : StrandId) (rt ra : Fin 32) (m : AMode) (s : State) : Ans :=
  onChip s (store (insnWord (.stw u rt ra m)) u rt [] ra m 1)
def execStd (u : StrandId) (rt ra : Fin 32) (m : AMode) (s : State) : Ans :=
  onChip s (store (insnWord (.std u rt ra m)) u rt [] ra m 2)
def execStq (u : StrandId) (rt ra : Fin 32) (m : AMode) (s : State) : Ans :=
  onChip s (store (insnWord (.stq u rt ra m)) u rt [] ra m 4)
def execStf (u : StrandId) (ft ra : Fin 32) (m : AMode) (s : State) : Ans :=
  onChip s (store (insnWord (.stf u ft ra m)) u (fR ft) [ft.val] ra m 2)

/-! ### Service -/

/-- A served request of a load: one wait fewer; a computed value that is due becomes visible (R96). -/
def serveReader (who : Reader) (c : Chip) : Chip :=
  match who with
  | .load core s id =>
    let u := strandId core s
    commitDue (modStrand c u (fun st => { st with
      pend := st.pend.map (fun w => if w.id = id then { w with waits := w.waits - 1 } else w),
      pendV := st.pendV.map (fun w => if w.id = id then { w with waits := w.waits - 1 } else w) })) u
  | _ => c

/-- A request that a reset or a stop has dropped delivers words that are not given; nothing waits for it any longer. -/
def loseReader (c : Chip) (x : Reader × Bool × List (Nat × Nat × Nat)) : Chip :=
  let ws := (List.range 32).map (fun i => Config.freeWord (c.fresh + i))
  serveReader x.1 (patchReader x.1 x.2.1 x.2.2.length 32 (unitHits 32 0 x.2.2) ws { c with fresh := c.fresh + 32 })

/-- A classroom's banks are emptied, and with them what waits for them. -/
def dropRoom (r : Nat) (c : Chip) : Chip :=
  let gone := roomReaders c r
  refillBanks (gone.foldl loseReader
    (modRoom { c with waiting := c.waiting.filter (fun x => x.1 != r) } r (fun m => { m with banks := [] })))

/-- A controller's queues are emptied; a write that it had accepted stays performed. -/
def dropStack (k : Nat) (c : Chip) : Chip :=
  let gone := stackReaders c k
  gone.foldl loseReader (modStack c k (fun x => { x with
    dram := tmap (fun _ => dramReset) (fun _ d => { d with q := [], tickets := [], recalled := [] }) x.dram, stalled := [] }))

/-- CINV (R326): every entry goes; a fill outstanding installs none. -/
def execCinv (u : StrandId) (s : State) : Ans :=
  onChip s (fun c =>
    issue c u { word := insnWord (.cinv u),
                act := fun c => modCore c u.core (fun k => { k with
                  cache := [], fill := k.fill.map (fun f => { f with install := false }) }) })

end Sys2Proof.Machine
end

