-- ==== Sys2Proof/Machine/Classroom.lean ====
section
/-! DEFINITION. The banks of classroom memory and their error code, and the return of a scalar cache fill
(spec/08_classroom_memory_and_dma.md R283 to R286, R292 to R294, R322, R326). -/

namespace Sys2Proof.Machine

/-- The requester a bank serves next: round-robin after the one it served last (R285). -/
def nextRq (q : BankQ) : Option Nat :=
  ((List.range 17).map (fun i => (q.last + 1 + i) % 17)).find? (fun r => q.q.any (fun e => e.rq == r))

/-- A queue without its first entry of a requester, and that entry. -/
def takeRq (r : Nat) : List BankReq → Option (BankReq × List BankReq)
  | [] => none
  | e :: es =>
    if e.rq = r then some (e, es)
    else
      match takeRq r es with
      | none => none
      | some (x, l) => some (x, e :: l)

/-- The words of group g that an entry names. -/
def inGroup (g : Nat) (e : BankReq) : List Nat := (unitHits 4 g e.ws).map (fun w => w.1)

/-- Set the words of a group of line a, those in `keep` apart. -/
def setGroup (c : Chip) (a : Nat) (keep : List Nat) (g : Nat) (ws : List Word) : Chip :=
  ws.zipIdx.foldl (fun c p => if keep.contains (4 * g + p.2) then c else setPhys c (a + 4 * g + p.2) p.1) c

/-- One corrected error counts (R293). -/
def ceCount (c : Chip) (cl : Nat) : Chip := bumpF c (clsB cl) 0x022 31 16 1

/-- One uncorrectable error of the group at window offset off (R292 to R294). -/
def ueRecord (c : Chip) (cl off : Nat) : Chip :=
  let b := clsB cl
  let c := bumpF c b 0x022 7 0 1
  let c := if getF c b 0x024 31 31 = 1 then c else setRaw c b 0x024 (BitVec.ofNat 32 (2 ^ 31 + off))
  report c (blockNode b) 0x0103 [clsAddr cl off]

/-- What one group's error does to an access (R292). Words that a waiting request writes keep their values, and a
group that one of them writes whole keeps its poison as it is, since that write brings new check bits. -/
def groupErr (cl : Nat) (e : BankReq) (later : List BankReq) (c : Chip) (x : Fin 8 × GroupErr) : Chip :=
  let g := x.1.val
  let a := clsAddr cl (32 * e.line)
  let after := (later.filter (fun q => q.wr && q.line == e.line)).map (inGroup g)
  let renewed := after.any (fun l => decide (l.eraseDups.length = 4))
  let hits := if e.wr then [] else unitHits 4 g e.ws
  if e.wr ∧ (inGroup g e).eraseDups.length = 4 then c
  else
    let keep := if e.wr then inGroup g e ++ after.flatten else after.flatten
    match x.2 with
    | .single => ceCount c cl
    | .uncorrectable =>
      ueRecord (poisonReader e.who hits (if renewed then c else setPois c (a + 4 * g) true)) cl (32 * e.line + 4 * g)
    | .miscorrected w0 w1 w2 w3 =>
      ceCount (patchReader e.who e.sgn e.ws.length 4 hits [w0, w1, w2, w3] (setGroup c a keep g [w0, w1, w2, w3])) cl
    | .undetected w0 w1 w2 w3 =>
      patchReader e.who e.sgn e.ws.length 4 hits [w0, w1, w2, w3] (setGroup c a keep g [w0, w1, w2, w3])

/-- What a read delivers of the marks that its line's groups have when it is served (R292, R322). -/
def markGroups (e : BankReq) (a : Nat) (c : Chip) : Chip :=
  if e.wr then c
  else (List.range 8).foldl (fun c g => if poisAt c (a + 4 * g) then poisonReader e.who (unitHits 4 g e.ws) c else c) c

/-- BANK_ACCESS: the bank serves the oldest entry of the next requester (R285); requests that waited take
entries (R284). -/
def bankAccess (cl bank : Nat) (errs : List (Fin 8 × GroupErr)) (c : Chip) : Chip :=
  let q := bankQ (roomOf c cl) bank
  match nextRq q with
  | none => c
  | some r =>
    match takeRq r q.q with
    | none => c
    | some (e, rest) =>
      let later := rest ++ (c.waiting.filter (fun x => x.1 == cl && x.2.1 == bank)).map (fun x => x.2.2)
      let c := modRoom c cl (fun m => { m with banks := tput (fun _ => bankQReset) m.banks bank ⟨rest, r⟩ })
      refillBanks (serveReader e.who
        (errs.foldl (groupErr cl e later) (markGroups e (clsAddr cl (32 * e.line)) c)))

def execBankAccess (cl : Fin 64) (bank : Fin 16) (errs : List (Fin 8 × GroupErr)) (s : State) : Ans :=
  onChip s (bankAccess cl bank errs)

/-- CACHE_FILL: the outstanding fill, whose request has been served, delivers its load and installs its line,
unless a CINV came in between (R326) or a word of the line was poisoned (R322). DESIGN CHOICE (R324 and R325
do not say; log entry 61): CLS_SCACHE.INV keeps it from installing as CINV does, a cleared EN does not. -/
def cacheFill (core : Nat) (c : Chip) : Chip :=
  match (coreOf c core).fill with
  | none => c
  | some f =>
    let u := strandId core f.strand
    if outstandingReq c (.load core f.strand f.id) then c
    else
      let ws := (rdWords c (strandOf c u).spec (32 * f.line) 32).map Prod.fst
      let c := modCore c core (fun k =>
        let k := { k with fill := none }
        if f.install && !f.pois then cacheInstall k ⟨f.line, ws⟩ else k)
      commitDue (modStrand c u (fun st => { st with
        pend := st.pend.map (fun w => if w.id = f.id then { w with fillw := false } else w) })) u

def execCacheFill (core : Fin 1024) (s : State) : Ans := onChip s (cacheFill core)

end Sys2Proof.Machine
end

