-- ==== Sys2Proof/Machine/Hbm.lean ====
section
/-! DEFINITION. The HBM stacks and their memory controllers (spec/09_hbm_memory.md): decoding an address into
a DRAM bank, admission and tickets, ECC and poison, patrol scrub and refresh, wipes and keys. -/

namespace Sys2Proof.Machine

/-! ### Requests (R329 to R332) -/

/-- The words a write's mask names. -/
def maskedWords (a : Nat) (mask : BitVec 32) (ws : List Word) : List (Nat × Word × Bool) :=
  ((List.range 32).filter (fun i => mask.getLsbD i)).map (fun i => (a + i, ws.getD i 0, false))

/-- HBM_REQUEST (R329, R332): refused with an error response while the block is not RUNNING; a recalled
request is admitted in ticket order; a new one is refused with a ticket while 32 entries of the bank are taken
or held for tickets; a request whose pseudo-channel's queue is full waits (log entry 30). -/
def hbmRequest (k src line : Nat) (wr : Bool) (mask : BitVec 32) (ws : List Word) (c : Chip) : Chip :=
  if bState c (hmcB k) ≠ 2 then c
  else
    let b := lineBank line
    let d := dramOf c k b
    let r : HReq := ⟨src, line, wr, if wr then mask else 0, .none, false, [], false,
      if wr then maskedWords (lineAddr k line) mask ws else []⟩
    if r ∈ d.recalled then
      (if d.recalled.head? = some r ∧ pcFull c k b = false then
        acceptLine (modDram c k b (fun d => { d with recalled := d.recalled.drop 1 })) k b r
      else c)
    else if bankFull d then giveTicket c k b r
    else if pcFull c k b then c
    else acceptLine c k b r

def execHbmRequest (k : Fin 8) (src : Nat) (line : BitVec 30) (wr : Bool) (mask : BitVec 32) (ws : List Word) (s : State) :
    Ans := onChip s (hbmRequest k src line.toNat wr mask ws)

/-- TICKET_RECALL (R332): the earliest ticket of a bank comes due when an entry is free for it and the block
is RUNNING. An agent of the model issues its request again at once, once its pseudo-channel has room and no
earlier recalled request is still to come. -/
def ticketRecall (k b : Nat) (c : Chip) : Chip :=
  let d := dramOf c k b
  match d.tickets with
  | [] => c
  | r :: rest =>
    if bState c (hmcB k) ≠ 2 ∨ 32 ≤ d.q.length + d.recalled.length then c
    else if r.auto then
      (if d.recalled.isEmpty ∧ pcFull c k b = false then acceptLine (modDram c k b (fun d => { d with tickets := rest })) k b r
        else c)
    else modDram c k b (fun d => { d with tickets := rest, recalled := d.recalled ++ [r] })

def execTicketRecall (k : Fin 8) (bank : Fin 4096) (s : State) : Ans := onChip s (ticketRecall k bank)

/-! ### ECC (R336 to R341) -/

/-- GF(2^16), its elements as polynomials over GF(2) (R336): one times x, and the product. -/
def gfTwice (a : Word) : Word := (a <<< 1) ^^^ (if a.msb then Config.rsField else 0)
def gfMul (a b : Word) : Word :=
  (List.range 16).foldl (fun p i => gfTwice p ^^^ (if b.getLsbD (15 - i) then a else 0)) 0
def gfPow (a : Word) : Nat → Word
  | 0 => 1
  | n + 1 => gfMul a (gfPow a n)

/-- The generator of RS(36,32): the product of x - r over four successive powers r of the root; coefficients,
the highest first. -/
def rsGen : List Word :=
  (List.range 4).foldl (fun g i =>
    (g ++ [0]).zipWith (fun a b => a ^^^ b) (0 :: g.map (gfMul (gfPow Config.rsRoot (Config.rsFirst + i))))) [1]

/-- One data symbol more: the remainder after it. -/
def rsStep (s : List Word) (d : Word) : List Word :=
  (s.drop 1 ++ [0]).zipWith (fun a b => a ^^^ b) ((rsGen.drop 1).map (gfMul (d ^^^ s.headD 0)))

/-- The four check symbols of 32 data symbols: what the data times x^4 leave on division by the generator. -/
def rsCheck (ws : List Word) : List Word := (if Config.rsHigh then ws else ws.reverse).foldl rsStep (List.replicate 4 0)

/-- The four check symbols of a line: of what the DRAM holds, ciphertext when inline encryption wrote it
(R336); the poison marker is each of them XORed with 0xFFFF (R338). -/
def checkSymbols (c : Chip) (line : Nat) : List Word :=
  let syms := rsCheck (natWords (storedLine c line) 32)
  if poisAt c (32 * line) then syms.map (fun w => w ^^^ 0xFFFF) else syms

/-- The row as the reports name it: DRAM bank x 16,384 + row. -/
def rowId (line : Nat) : Nat := lineBank line * 16384 + lineRow line

/-- A row becomes a repair candidate (R341). -/
def rowWeak (c : Chip) (k line : Nat) : Chip := report c (8 + k) 0x0202 [k, rowId line]

/-- One corrected error. -/
def hbmCorrected (c : Chip) (k : Nat) : Chip := bumpF c (hmcB k) 0x014 31 16 1

/-- An uncorrectable line (R338, R341): poisoned, unless a write of the whole line has been accepted since
(`fresh`, R330, R339), counted, recorded, reported; `wr` says whether the read belonged to a write. -/
def hbmUncorrectable (c : Chip) (k line : Nat) (wr fresh : Bool) : Chip :=
  let b := hmcB k
  let a := lineAddr k line
  let c := bumpF (if fresh then c else setPois c a true) b 0x014 7 0 1
  let c := if getF c b 0x018 31 31 = 1 then c
    else setRaw (setRaw c b 0x016 (BitVec.ofNat 32 a)) b 0x018 (BitVec.ofNat 32 (2 ^ 31 + a / 2 ^ 32))
  rowWeak (report c (8 + k) 0x0201 [k, line, if wr then 1 else 0]) k line

/-- The words of a miscorrected line take their places, those written by a mask of later words apart. -/
def setLine (c : Chip) (a : Nat) (keep : BitVec 32) (ws : List Word) : Chip :=
  let c := recrypt c a
  { c with mem := (List.range 32).foldl (fun m i => if keep.getLsbD i then m else setWord m (a + i) (ws.getD i 0)) c.mem }

/-- What the decoder makes of a line read (R337): `keep` the words of writes accepted meanwhile, `back`
whether a write to the line has been accepted since, so that no write-back happens, `fresh` whether one of the
whole line has. A poisoned line is not counted again. -/
def decodeLine (c : Chip) (k line : Nat) (wr back fresh : Bool) (keep : BitVec 32) (e : LineErr) : Chip :=
  if poisAt c (lineAddr k line) then c
  else
    match e with
    | .none => c
    | .corrected => hbmCorrected c k
    | .uncorrectable => hbmUncorrectable c k line wr fresh
    | .miscorrected ws => hbmCorrected (if back then c else setLine c (lineAddr k line) keep ws) k

/-- What a read of a line returns to its requester (R329, R337, R338): the words of its acceptance, or those
that the decoder found, and whether they are marked; `marked` says that a write accepted since has brought a
marked word. Whoever waits for an agent's read is served. -/
def returnLine (c : Chip) (k : Nat) (r : HReq) (e : LineErr) (marked : Bool) : Chip :=
  let a := lineAddr k r.line
  let hits := unitHits 32 0 r.ws
  let held := r.data.map (fun x => x.2.1)
  let out := fun (c : Chip) (ws : List Word) (p : Bool) => modStack c k (fun x => { x with out := some ⟨r.src, r.line, ws, p⟩ })
  serveReader r.who
    (match poisAt c a && !marked, e with
     | true, _ | _, .uncorrectable => out (poisonReader r.who hits c) held true
     | _, .miscorrected ws => out (patchReader r.who r.sgn r.ws.length 32 hits ws c) ws (r.data.any (fun x => x.2.2))
     | _, _ => out c held (r.data.any (fun x => x.2.2)))

/-- DRAM_ACCESS: the bank performs its oldest entry (R333, R337). A write of all 32 words reads nothing. -/
def dramAccess (k b : Nat) (e : LineErr) (c : Chip) : Chip :=
  let d := dramOf c k b
  match d.q with
  | [] => c
  | r :: rest =>
    let c := modDram c k b (fun d => { d with q := rest })
    let later := rest.filter (fun x => x.wr && x.line == r.line)
    let whole := later.any (fun x => decide (x.mask = BitVec.allOnes 32))
    restall k (
      if r.wr ∧ r.mask = BitVec.allOnes 32 then c
      else
        let c1 := decodeLine c k r.line r.wr (!r.wr && !later.isEmpty) whole (later.foldl (fun m x => m ||| x.mask) r.mask) e
        if r.wr then c1 else returnLine c1 k r e (later.any (fun x => x.data.any (fun w => w.2.2))))

def execDramAccess (k : Fin 8) (bank : Fin 4096) (err : LineErr) (s : State) : Ans := onChip s (dramAccess k bank err)

/-- PATROL_SCRUB (R340, R341): the next line in order, when its bank has an empty queue. A row corrected in two passes
running becomes a candidate. -/
def patrolScrub (k : Nat) (e : LineErr) (c : Chip) : Chip :=
  let st := stackOf c k
  let line := st.scrubLine
  if bState c (hmcB k) ≠ 2 ∨ getF c (hmcB k) 0x010 0 0 = 0 ∨ (dramOf c k (lineBank line)).q ≠ [] then c
  else
    let pz := poisAt c (lineAddr k line)
    let c := decodeLine c k line false false false 0 e
    let fixed := !pz && (match e with | .corrected | .miscorrected _ => true | _ => false)
    let row := rowId line
    let c := if fixed && st.weakLast.contains row && !st.weakNow.contains row then rowWeak c k line else c
    modStack c k (fun x =>
      let now := if fixed && !x.weakNow.contains row then x.weakNow ++ [row] else x.weakNow
      if line + 1 = 2 ^ 30 then { x with scrubLine := 0, weakLast := now, weakNow := [] }
      else { x with scrubLine := line + 1, weakNow := now })

def execPatrolScrub (k : Fin 8) (err : LineErr) (s : State) : Ans := onChip s (patrolScrub k err)

/-- REFRESH (R342, R343): one per-bank command of 8 rows, in every block state, while the stack's polder is powered; in
device sleep the stack refreshes itself. -/
def refresh (k b : Nat) (c : Chip) : Chip :=
  if (stackOf c k).powered ∧ (stackOf c k).selfRefresh = false then
    modDram c k b (fun d => { d with refRow := (d.refRow + 8) % 16384 })
  else c

def execRefresh (k : Fin 8) (bank : Fin 4096) (s : State) : Ans := onChip s (refresh k bank)

/-- Lower bound of a refresh band (R342). -/
def bandLow : Nat → Nat
  | 0 => 0 | 1 => 85 | 2 => 95 | _ => 105

/-- The band after a temperature update: up when a lower bound is reached, down only 3 degrees below it. -/
def bandAt (t : Nat) : Nat → Nat
  | 0 => if 105 ≤ t then 3 else if 95 ≤ t then 2 else if 85 ≤ t then 1 else 0
  | b + 1 =>
    let up := if 105 ≤ t then 3 else if 95 ≤ t then 2 else if 85 ≤ t then 1 else 0
    if b + 1 ≤ up then up else if t + 3 ≤ bandLow (b + 1) then bandAt t b else b + 1

/-- REFRESH_BAND_CHANGE (R342, R351): TEMP and BAND; entering band 3 is reported. -/
def bandChange (k t : Nat) (c : Chip) : Chip :=
  let b := hmcB k
  let old := getF c b 0x012 17 16
  let new := bandAt t old
  let c := setF (setF c b 0x012 7 0 t) b 0x012 17 16 new
  if new = 3 ∧ old ≠ 3 then report c (8 + k) 0x0203 [k, t] else c

def execRefreshBandChange (k : Fin 8) (temp : BitVec 8) (s : State) : Ans := onChip s (bandChange k temp.toNat)

/-! ### Wipes and keys (R347, R348, R356, R357) -/

/-- Whether the PLL of a block's domain has locked (R567, R568); the Warden's own block needs none. -/
def pllLocked (c : Chip) : BlockId → Bool
  | .cls n => (roomOf c n.val).pll
  | .dma n => tget (fun _ => false) c.plls (n.val / 16)
  | .mesh n => tget (fun _ => false) c.plls n.val
  | .eth n => tget (fun _ => false) c.plls (8 + n.val)
  | .pci n => tget (fun _ => false) c.plls (24 + n.val)
  | .hmc n | .pmp n | .syl n => (stackOf c n.val).pll
  | .bel => true

/-- Whether a block's logic has its clock: that of a classroom runs on the FIO while its PLL has not locked,
and stops in recess, and that of its DMA engine, on the mesh clock, loses power with it (R537, R543, R550,
R567, R574). -/
def hasClock (c : Chip) : BlockId → Bool
  | .cls n => roomClocked c n.val
  | .dma n => roomClocked c n.val && pllLocked c (.dma n)
  | b => pllLocked c b

/-- What holds a block in STOPPED although RUN is 1: a PLL that has not locked (R568), a clock that stands
(R573, R574), a wipe (R357). -/
def startHeld (c : Chip) (b : BlockId) : Bool :=
  !pllLocked c b || !hasClock c b || (match b with | .hmc k => (stackOf c k.val).wiping | _ => false)

/-- A start that RUN asks for, and a stop: the levels of RUN (R47), seen once its new value has crossed to the
block's clock (R573). -/
def settle (b : BlockId) (c : Chip) : Chip :=
  if bState c b = 0 ∧ bRun c b = true ∧ startHeld c b = false then setState c b 1
  else if bState c b = 2 ∧ bRun c b = false ∧ hasClock c b = true then
    { setState c b 3 with stopAt := tput (fun _ => 0) c.stopAt (blockKey b) c.nowUs }
  else c

/-- WIPE (R356). -/
def wipe (k : Nat) (c : Chip) : Chip :=
  let b := hmcB k
  if bState c b ≠ 0 then cfgReject c b (0x01E * 64)
  else if getF c b 0x01E 2 2 = 1 then c
  else modStack (setF c b 0x01E 2 2 1) k (fun x => { x with wiping := true })

def execWipe (k : Fin 8) (s : State) : Ans := onChip s (wipe k)

/-- Zero lines of stack k that p holds of, with valid check symbols and no poison, written plain. -/
def zeroLines (k : Nat) (p : Nat → Bool) (c : Chip) : Chip :=
  let hit := fun (line : Nat) => line / 2 ^ 30 == k && p line
  { c with
    mem := c.mem.filter (fun e => !hit (e.1 / 64))
    pois := c.pois.filter (fun e => !(inHbm e.1 && hit (e.1 / 32)))
    crypt := c.crypt.filter (fun e => !hit e.1) }

/-- A reset that reaches the HMC abandons a running wipe: which lines it has written is not given (R356). -/
def wipeAbandon (k : Nat) (c : Chip) : Chip :=
  if (stackOf c k).wiping then
    let n := c.fresh
    let c := zeroLines k (Config.freeBool n) { c with fresh := n + 1 }
    modStack (setF c (hmcB k) 0x01E 2 2 0) k (fun x => { x with wiping := false })
  else c

/-- Both keys and KEY_LOADED zero. -/
def clearKeys (k : Nat) (c : Chip) : Chip :=
  let c := (List.range 16).foldl (fun c i => setRaw c (hmcB k) (0x020 + 2 * i) 0) c
  modStack (setF c (hmcB k) 0x010 2 2 0) k (fun x => { x with keysSet := 0, clearAfter := false })

/-- WIPE_END (R356, R357): the keys of a job that has ended go with it. -/
def wipeEnd (k : Nat) (c : Chip) : Chip :=
  if (stackOf c k).wiping then
    let c := zeroLines k (fun _ => true) c
    let c := if (stackOf c k).clearAfter then clearKeys k c else c
    settle (hmcB k) (modStack (setF c (hmcB k) 0x01E 2 2 0) k (fun x => { x with wiping := false, clearAfter := false }))
  else c

def execWipeEnd (k : Fin 8) (s : State) : Ans := onChip s (wipeEnd k)

/-- HMC_KEY_CLEAR (R348, R356). -/
def hmcKeyClear (k : Nat) (c : Chip) : Chip :=
  if bState c (hmcB k) ≠ 0 then cfgReject c (hmcB k) (0x01E * 64 + 1) else clearKeys k c

def execHmcKeyClear (k : Fin 8) (s : State) : Ans := onChip s (hmcKeyClear k)

/-- A key register written while its block is not STOPPED: as an RWS field (R15, R51). -/
def keyReject (b : BlockId) (off : Nat) (v : W32) (c : Chip) : Chip :=
  if v = rawReg c b off then c else cfgReject c b (off * 64)

/-- HMC_KEY_WRITE (R348): KEY_LOADED after all sixteen. -/
def hmcKeyWrite (k i : Nat) (v : W32) (c : Chip) : Chip :=
  if bState c (hmcB k) ≠ 0 then keyReject (hmcB k) (0x020 + 2 * i) v c
  else
    let c := setRaw c (hmcB k) (0x020 + 2 * i) v
    let c := modStack c k (fun x => { x with keysSet := x.keysSet ||| 2 ^ i })
    if (stackOf c k).keysSet = 2 ^ 16 - 1 then setF c (hmcB k) 0x010 2 2 1 else c

def execHmcKeyWrite (k : Fin 8) (i : Fin 16) (v : W32) (s : State) : Ans := onChip s (hmcKeyWrite k i v)

end Sys2Proof.Machine
end

