-- ==== Sys2Proof/Machine/Dma.lean ====
section
/-! DEFINITION. The DMA engine of a classroom (spec/08_classroom_memory_and_dma.md R295 to R309, R317). -/

namespace Sys2Proof.Machine

def dmaOf (c : Chip) (r : Nat) : Dma := (roomOf c r).dma
def modDma (c : Chip) (r : Nat) (f : Dma → Dma) : Chip := modRoom c r (fun m => { m with dma := f m.dma })

/-- Start a descriptor list (R295). -/
def startList (c : Chip) (r addr n : Nat) : Chip :=
  modDma c r (fun d => { d with lists := d.lists ++ [⟨d.nextId, addr, n, false, false⟩], nextId := d.nextId + 1 })

/-! ### Descriptors (R296, R302) -/

/-- The fields of the 16 words of a descriptor, as a number. -/
def dField (d hi lo : Nat) : Nat := natBits d hi lo

/-- Sixteen-bit word i of a descriptor. -/
def dWord (d i : Nat) : Nat := natBits d (16 * i + 15) (16 * i)

/-- Whether a reserved field of the descriptor is not 0, words 4 and 5 of a FILL among them (R296). -/
def dReserved (d : Nat) : Bool :=
  decide (2 < natBits (dWord d 0) 15 12) || natBit (dWord d 0) 8 || decide (dWord d 2 / 2 ^ 8 ≠ 0) ||
    (natBits (dWord d 0) 15 12 == 2 && (dWord d 4 != 0 || dWord d 5 != 0))

/-- The STATUS a descriptor ends with at its activation, the address checks apart (R302). -/
def dCheck (addr d : Nat) (pois : Bool) : Option Nat :=
  let rowlen := natBits d 175 144
  let rows := dWord d 11
  if addr % 16 ≠ 0 ∨ pois then some 0x86
  else if dReserved d then some 0x83
  else if rowlen = 0 ∨ 4194304 < rowlen ∨ rows = 0 then some 0x84
  else none

/-- Load DMA_ERR and its address when the record is free (R306, R307). -/
def dmaErrLoad (c : Chip) (r addr code : Nat) : Chip :=
  let b := dmaB r
  if getF c b 0x014 31 31 = 1 then c
  else
    let c := setRaw c b 0x014 (BitVec.ofNat 32 (2 ^ 31 + code))
    setRaw (setRaw c b 0x016 (BitVec.ofNat 32 addr)) b 0x018 (BitVec.ofNat 32 (addr / 2 ^ 32 % 2 ^ 16))

/-- A request of the mesh port of a word's classroom (R286). -/
def portAsk (c : Chip) (a n : Nat) (wr : Bool) (who : Reader) : Chip :=
  if inCls a then enqBank c 16 none a wr who false (runWords a n) else c

/-- Accesses that arrive over the mesh from the ports, the Warden and the Prefects make requests of a
classroom's mesh port, one for each line (R286); only a port that sends a frame waits for them (DESIGN CHOICE,
log entry 21). -/
def meshAsk (c : Chip) (wr : Bool) (who : Reader) (as : List Nat) : Chip :=
  (linesOf (as.filter inCls)).foldl (fun c l => enqBank c 16 none l wr who false
    ((as.filter (fun a => a - a % 32 == l)).map (fun a => (a % 32, 0, 0)))) c
def portReads (c : Chip) (who : Reader) (as : List Nat) : Chip := meshAsk c false who (as.map (physRd c false))
def meshRead (c : Chip) (as : List Nat) : Chip := portReads c .none as
def meshWrite (c : Chip) (l : List (Nat × Word × Bool)) : Chip :=
  meshAsk (wrMarked c false l) true .none (l.map (fun x => physWr c false x.1))

/-- The Warden writes words; those that it does not reach are refused (R36, R314). -/
def wardenWrite (c : Chip) (l : List (Nat × Word × Bool)) : Chip := meshWrite c (l.filter (fun x => dataWord c x.1))

/-- An engine writes the words of one line, each with its mark: those of classroom memory now, those of HBM
when the controller accepts them (R330); it makes its request. -/
def engineWrite (c : Chip) (src : Nat) (spec : Bool) (who : Reader) (l : List (Nat × Word × Bool)) : Chip :=
  match l with
  | [] => c
  | x :: _ =>
    if inHbm x.1 then sendHbm c src x.1 who (l.map Prod.fst) l
    else portAsk (wrMarked c spec l) (physWr c spec x.1) l.length true who

/-- Write STATUS into word 0 of a descriptor (R301). -/
def putStatus (c : Chip) (r addr code : Nat) : Chip :=
  engineWrite c (engineSrc r) false .none
    (atRun addr [BitVec.ofNat 16 (natSetBits (rdWord c false addr).1.toNat 7 0 code)])

/-- No further descriptor of a list starts (R302). -/
def stopList (c : Chip) (r list : Nat) : Chip :=
  modDma c r (fun d => { d with lists := d.lists.map (fun l => if l.id = list then { l with stopped := true } else l) })

/-- A descriptor ends with an error (R302). -/
def dmaFail (c : Chip) (r list addr code : Nat) : Chip :=
  report (stopList (dmaErrLoad (putStatus c r addr code) r addr code) r list) (blockNode (dmaB r)) 0x0104 [r, code]

/-- Set IPEND.DMA in the strands that ICORES and ISTRANDS name (R301, R153). -/
def dmaInterrupt (c : Chip) (r icores istrands : Nat) : Chip :=
  (((List.range 16).filter (natBit icores)).flatMap (fun p =>
    ((List.range 8).filter (natBit istrands)).map (fun i => (⟨Fin.ofNat 1024 (16 * r + p), Fin.ofNat 8 i⟩ : StrandId)))).foldl
    (fun c u => modStrand c u (fun st => setCreg st 28 (creg st 28 ||| 4))) c

/-- A descriptor with no piece left and none in flight ends (R301, R302). -/
def dmaFinish (c : Chip) (r : Nat) (d : DmaDesc) : Chip :=
  let c := modDma c r (fun e => { e with active := e.active.filter (fun x => x.id != d.id) })
  match d.err with
  | some code => dmaFail c r d.list d.addr code
  | none =>
    let c := putStatus c r d.addr (if d.pois then 0x02 else 0x01)
    if d.irq then dmaInterrupt c r d.icores d.istrands else c

/-- Whether every piece of a descriptor has been issued, or no more will be. -/
def dmaIssued (d : DmaDesc) : Bool := d.err.isSome || decide (d.rows ≤ d.row)

/-- The list whose next descriptor can be activated: a WAIT descriptor needs every earlier one of its list complete
(R299). -/
def nextList (c : Chip) (e : Dma) : Option DmaList :=
  e.lists.find? (fun l => decide (0 < l.left) && !l.stopped &&
    (!natBit (rdWord c false l.next).1.toNat 9 || e.active.all (fun d => d.list != l.id)))

/-- Read of the 16 words of a descriptor. -/
def readDesc (c : Chip) (addr : Nat) : Nat × Bool := rdNat c false addr 16

/-- DMA_ACTIVATE (R296, R299, R302): the engine asks for the next descriptor (R286), and activates it once its
read has been served. The first SPEC descriptor opens the classroom's speculation epoch (R317). -/
def dmaActivate (r : Nat) (c : Chip) : Chip :=
  let e := dmaOf c r
  if bState c (dmaB r) ≠ 2 ∨ 32 ≤ e.active.length then c
  else
    match nextList c e with
    | none => c
    | some l =>
      let who := Reader.desc r l.id
      let set := fun (f : DmaList → DmaList) (c : Chip) =>
        modDma c r (fun e => { e with lists := e.lists.map (fun m => if m.id = l.id then f m else m) })
      let c := if l.asked then c
        else (segLines l.next 16).foldl (fun c x => portAsk c x.1 x.2 false who) (set (fun m => { m with asked := true }) c)
      if outstandingReq c who then c
      else
      let x := readDesc c l.next
      let d := x.1
      let c := set (fun m => { m with next := m.next + 16, left := m.left - 1, asked := false }) c
      match dCheck l.next d x.2 with
      | some code => dmaFail c r l.id l.next code
      | none =>
        let desc : DmaDesc := ⟨e.nextId, l.id, l.next, natBits (dWord d 0) 15 12, natBit (dWord d 0) 11,
          natBit (dWord d 0) 10, dWord d 1, dWord d 2 % 2 ^ 8, natBits d 95 48, natBits d 143 96, natBits d 175 144,
          dWord d 11, natSigned (natBits d 223 192) 32, natSigned (natBits d 255 224) 32, 0, 0, 0, false, none⟩
        let c := if desc.spec then setF c (clsB r) 0x020 31 31 1 else c
        modDma c r (fun e => { e with active := e.active ++ [desc], nextId := e.nextId + 1 })

def execDmaActivate (cl : Fin 64) (s : State) : Ans := onChip s (dmaActivate cl)

/-! ### Pieces (R298 to R300) -/

/-- Whether the engine of classroom r reaches a word (R36, R297, R314, R538; a stack that is not RUNNING refuses). -/
def dmaReaches (c : Chip) (r : Nat) (a : Int) : Bool := decide (0 ≤ a) && engineReaches c r a.toNat

/-- The source and destination of the next piece, and its length. -/
def pieceAt (d : DmaDesc) : Int × Int × Nat :=
  let s := (d.src : Int) + d.row * d.sstride + d.col
  let t := (d.dst : Int) + d.row * d.dstride + d.col
  let left := d.rowlen - d.col
  let n := min left (32 - (t % 32).toNat)
  (s, t, if d.kind = 2 then n else min n (32 - (s % 32).toNat))

/-- The HBM DRAM banks of a piece (R300). -/
def pieceBanks (d : DmaDesc) (s t : Int) : List Nat :=
  ((if d.kind ≠ 2 ∧ 0 ≤ s ∧ inHbm s.toNat then [deviceBank s.toNat] else []) ++
    (if 0 ≤ t ∧ inHbm t.toNat then [deviceBank t.toNat] else [])).eraseDups

/-- Whether the next piece of a descriptor is held by the bank quota (R300). -/
def pieceHeld (c : Chip) (r : Nat) (d : DmaDesc) : Bool :=
  let p := pieceAt d
  let q := getF c (dmaB r) 0x010 14 8
  (pieceBanks d p.1 p.2.1).any (fun b => decide (q ≤ ((dmaOf c r).pieces.filter (fun x => x.banks.contains b)).length))

/-- Descriptors in the order the engine looks at them: round-robin after the one that issued last (R299). -/
def dmaOrder (e : Dma) : List DmaDesc :=
  (e.active.filter (fun d => decide (e.last < d.id))) ++ e.active.filter (fun d => decide (d.id ≤ e.last))

/-- The error of a piece's addresses (R297, R302, R317). -/
def pieceError (c : Chip) (r : Nat) (d : DmaDesc) : Option Nat :=
  let p := pieceAt d
  if d.kind ≠ 2 ∧ !dmaReaches c r p.1 then some 0x81
  else if !dmaReaches c r p.2.1 then some 0x82
  else if d.spec ∧ ¬ (inHome c p.2.1.toNat ∧ roomAt p.2.1.toNat = r) then some 0x85
  else none

/-- The next place of a descriptor's cursor. -/
def dmaStep (d : DmaDesc) (n : Nat) : DmaDesc :=
  if d.rowlen ≤ d.col + n then { d with row := d.row + 1, col := 0 } else { d with col := d.col + n }

def setDesc (c : Chip) (r : Nat) (d : DmaDesc) : Chip :=
  modDma c r (fun e => { e with active := e.active.map (fun x => if x.id = d.id then d else x) })

/-- A tag that no piece holds (R298). -/
def freeTag (e : Dma) : Nat := ((List.range 512).find? (fun t => e.pieces.all (fun p => p.tag != t))).getD 0

/-- The read of a piece: at the controller of an HBM line, at a bank of classroom memory through its mesh port. -/
def pieceAsk (c : Chip) (r a n : Nat) (who : Reader) : Chip :=
  if inHbm a then askHbm c (engineSrc r) a who false (runWords a n) else portAsk c a n false who

/-- Issue one piece of a descriptor: its source words are read, its read is asked for. An address error ends
the descriptor once its pieces in flight have been written; no further descriptor of the list starts (R302).
-/
def issuePiece (c : Chip) (r : Nat) (d : DmaDesc) : Chip :=
  let p := pieceAt d
  match pieceError c r d with
  | some code =>
    let d := { d with err := some code }
    if d.pieces = 0 then dmaFinish c r d else stopList (setDesc c r d) r d.list
  | none =>
    let ws := if d.kind = 2 then List.replicate p.2.2 (BitVec.ofNat 16 d.src, false)
      else (rdWords c d.spec p.1.toNat p.2.2).map (fun w => (w.1, issueMark p.1.toNat w.2))
    let tag := freeTag (dmaOf c r)
    let c := modDma (setDesc c r (dmaStep { d with pieces := d.pieces + 1 } p.2.2)) r (fun e => { e with
      pieces := e.pieces ++ [⟨tag, d.id, p.2.1.toNat, ws, pieceBanks d p.1 p.2.1, false⟩], last := d.id })
    if d.kind = 2 then c else pieceAsk c r (physRd c d.spec p.1.toNat) p.2.2 (.piece r tag)

/-- DMA_PIECE_ISSUE: one mesh cycle of the engine (R298 to R300, R308). -/
def dmaPieceIssue (r : Nat) (c : Chip) : Chip :=
  let e := dmaOf c r
  if bState c (dmaB r) ≠ 2 then c
  else
    let ready := (dmaOrder e).filter (fun d => !dmaIssued d)
    let c := if ready.any (pieceHeld c r) then bumpF c (dmaB r) 0x01A 31 0 1 else c
    if min 512 (getF c (dmaB r) 0x010 25 16) ≤ e.pieces.length then c
    else
      match ready.find? (fun d => !pieceHeld c r d) with
      | none => c
      | some d => issuePiece c r d

def execDmaPieceIssue (cl : Fin 64) (s : State) : Ans := onChip s (dmaPieceIssue cl)

/-- The words of a piece at their destination, each with its mark (R302). -/
def pieceWords (a : Nat) : List (Word × Bool) → List (Nat × Word × Bool)
  | [] => []
  | w :: ws => (a, w.1, w.2) :: pieceWords (a + 1) ws

/-- The destination write of a piece has been performed and its tag is freed; a refused write ends the
descriptor (R298, R301). -/
def pieceDone (c : Chip) (r i : Nat) (p : DmaPiece) (d : DmaDesc) (ok : Bool) : Chip :=
  let c := mapReaders (fun w => if w = .piece r p.tag then .none else w) c
  let c := modDma c r (fun e => { e with pieces := e.pieces.eraseIdx i })
  let d := { d with pieces := d.pieces - 1, pois := d.pois || p.ws.any Prod.snd,
                    err := if ok || d.err.isSome then d.err else some 0x82 }
  if dmaIssued d ∧ d.pieces = 0 then dmaFinish c r d
  else if ok then setDesc c r d
  else stopList (setDesc c r d) r d.list

/-- DMA_PIECE_WRITE: the source read of piece i has been served: its destination write is made. The piece
keeps its tag until the write has been performed (R298), while a controller holds a ticket for it too (R332).
-/
def dmaPieceWrite (r i : Nat) (c : Chip) : Chip :=
  let e := dmaOf c r
  match e.pieces[i]? with
  | none => c
  | some p =>
    let who := Reader.piece r p.tag
    if outstandingReq c who then c
    else
      match e.active.find? (fun d => d.id == p.desc) with
      | none => modDma c r (fun e => { e with pieces := e.pieces.eraseIdx i })
      | some d =>
        if p.sent then pieceDone c r i p d true
        else if !dmaReaches c r p.dst then pieceDone c r i p d false
        else
          let c := engineWrite c (engineSrc r) d.spec who (pieceWords p.dst p.ws)
          if outstandingReq c who then
            modDma c r (fun e => { e with pieces := e.pieces.map (fun x => if x.tag = p.tag then { x with sent := true } else x) })
          else pieceDone c r i p d true

def execDmaPieceWrite (cl : Fin 64) (i : Nat) (s : State) : Ans := onChip s (dmaPieceWrite cl i)

/-- A hardware stop abandons the pieces in flight: their destination words are not specified (R309). -/
def dmaAbandon (r : Nat) (c : Chip) : Chip :=
  let e := dmaOf c r
  let c := mapReaders (fun w => match w with | .piece m _ => if m = r then .none else w | _ => w) c
  let c := e.pieces.foldl (fun c p =>
    let sp := e.active.any (fun d => d.id == p.desc && d.spec)
    let ws := (List.range p.ws.length).map (fun i => (p.dst + i, Config.freeWord (c.fresh + i), false))
    { wrMarked c sp ws with fresh := c.fresh + p.ws.length }) c
  modDma c r (fun e => { dmaReset with nextId := e.nextId })

end Sys2Proof.Machine
end

