-- ==== Sys2Proof/Machine/Pump.lean ====
section
/-! DEFINITION. The Pump and the Syllabus of a stack (spec/10_pump_update_unit.md). A pass has its effects
when it completes; between its release and its completion another agent may read old values (R393). -/

namespace Sys2Proof.Machine

/-! ### FP32 arithmetic with sticky flags (R380) -/

/-- A computation that ORs flags into a running set. -/
abbrev FM := StateM Nat

def fOp (r : Nat × Nat) : FM Nat := do
  modify (fun f => forr f r.2)
  pure r.1

/-- The operations of R380, each rounded to FP32 with RNE. -/
def pAdd (a b : Nat) : FM Nat := fOp (fadd fmtFP32 0 a b)
def pSub (a b : Nat) : FM Nat := fOp (fsub fmtFP32 0 a b)
def pMul (a b : Nat) : FM Nat := fOp (fmul fmtFP32 0 a b)
def pDiv (a b : Nat) : FM Nat := fOp (fdivide fmtFP32 0 a b)
def pSqrt (a : Nat) : FM Nat := fOp (fsqrtOp fmtFP32 0 a)
/-- fp32(x) of an unsigned integer. -/
def pInt (n : Nat) : FM Nat := fOp (froundFin fmtFP32 0 0 false n 0 false)
/-- A BF16 value widened exactly. -/
def pWiden (w : Nat) : Nat := w * 65536

abbrev fp1 : Nat := 0x3F800000
abbrev fpHalf : Nat := 0x3F000000

/-- Whether a pattern is finite and not negative, a zero, below 1. -/
def fpNonneg (x : Nat) : Bool := match fdec fmtFP32 x with | .fin n m _ => !n || m == 0 | _ => false
def fpZero (x : Nat) : Bool := match fdec fmtFP32 x with | .fin _ m _ => m == 0 | _ => false
def fpBelow1 (x : Nat) : Bool := fvLt (fdec fmtFP32 x) (fdec fmtFP32 fp1)
def fpFinite (x : Nat) : Bool := match fdec fmtFP32 x with | .fin _ _ _ => true | _ => false

/-- An exact sum of squares, rounded once with RNE (R369); a signalling NaN sets NV (R62, R79). -/
def sumSquares (f : Fmt) (l : List Nat) : Nat × Nat :=
  let vs := l.map (fdec f)
  let v : FV :=
    if vs.any FV.isNan then .nan false
    else if vs.any (fun x => match x with | .inf _ => true | _ => false) then .inf false
    else
      let ps := vs.map (fun x => fvMul x x)
      let e0 := ps.foldl (fun a x => match x with | .fin _ _ e => min a e | _ => a) 0
      let t := ps.foldl (fun (a : Int) x => match x with | .fin n m e => a + fscale n m e e0 | _ => a) 0
      .fin false t.natAbs e0
  let r := fenc fmtFP32 0 0 v
  (r.1, forr r.2 (nvOf vs))

/-! ### The Syllabus (R385 to R389) -/

def cosPart0 : List Nat :=
  [0x3F800000, 0x3F7FFFB1, 0x3F7FFEC4, 0x3F7FFD39, 0x3F7FFB11, 0x3F7FF84A, 0x3F7FF4E6, 0x3F7FF0E3,
   0x3F7FEC43, 0x3F7FE705, 0x3F7FE129, 0x3F7FDAAF, 0x3F7FD397, 0x3F7FCBE2, 0x3F7FC38F, 0x3F7FBA9E,
   0x3F7FB10F, 0x3F7FA6E3, 0x3F7F9C18, 0x3F7F90B1, 0x3F7F84AB, 0x3F7F7808, 0x3F7F6AC7, 0x3F7F5CE9,
   0x3F7F4E6D, 0x3F7F3F54, 0x3F7F2F9D, 0x3F7F1F49, 0x3F7F0E58, 0x3F7EFCC9, 0x3F7EEA9D, 0x3F7ED7D4]
def cosPart1 : List Nat :=
  [0x3F7EC46D, 0x3F7EB069, 0x3F7E9BC9, 0x3F7E868B, 0x3F7E70B0, 0x3F7E5A38, 0x3F7E4323, 0x3F7E2B72,
   0x3F7E1324, 0x3F7DFA38, 0x3F7DE0B1, 0x3F7DC68C, 0x3F7DABCC, 0x3F7D906E, 0x3F7D7474, 0x3F7D57DE,
   0x3F7D3AAC, 0x3F7D1CDD, 0x3F7CFE73, 0x3F7CDF6C, 0x3F7CBFC9, 0x3F7C9F8A, 0x3F7C7EB0, 0x3F7C5D3A,
   0x3F7C3B28, 0x3F7C187A, 0x3F7BF531, 0x3F7BD14D, 0x3F7BACCD, 0x3F7B87B2, 0x3F7B61FC, 0x3F7B3BAB]
def cosPart2 : List Nat :=
  [0x3F7B14BE, 0x3F7AED37, 0x3F7AC516, 0x3F7A9C59, 0x3F7A7302, 0x3F7A4910, 0x3F7A1E84, 0x3F79F35E,
   0x3F79C79D, 0x3F799B43, 0x3F796E4E, 0x3F7940C0, 0x3F791298, 0x3F78E3D6, 0x3F78B47B, 0x3F788486,
   0x3F7853F8, 0x3F7822D1, 0x3F77F110, 0x3F77BEB7, 0x3F778BC5, 0x3F77583A, 0x3F772417, 0x3F76EF5B,
   0x3F76BA07, 0x3F76841B, 0x3F764D97, 0x3F76167A, 0x3F75DEC6, 0x3F75A67B, 0x3F756D97, 0x3F75341D]
def cosPart3 : List Nat :=
  [0x3F74FA0B, 0x3F74BF62, 0x3F748422, 0x3F74484B, 0x3F740BDD, 0x3F73CED9, 0x3F73913F, 0x3F73530E,
   0x3F731447, 0x3F72D4EB, 0x3F7294F8, 0x3F725470, 0x3F721352, 0x3F71D19F, 0x3F718F57, 0x3F714C7A,
   0x3F710908, 0x3F70C501, 0x3F708066, 0x3F703B37, 0x3F6FF573, 0x3F6FAF1B, 0x3F6F6830, 0x3F6F20B0,
   0x3F6ED89E, 0x3F6E8FF8, 0x3F6E46BE, 0x3F6DFCF2, 0x3F6DB293, 0x3F6D67A1, 0x3F6D1C1D, 0x3F6CD007]
def cosPart4 : List Nat :=
  [0x3F6C835E, 0x3F6C3624, 0x3F6BE858, 0x3F6B99FB, 0x3F6B4B0C, 0x3F6AFB8C, 0x3F6AAB7B, 0x3F6A5AD9,
   0x3F6A09A7, 0x3F69B7E4, 0x3F696591, 0x3F6912AE, 0x3F68BF3C, 0x3F686B39, 0x3F6816A8, 0x3F67C187,
   0x3F676BD8, 0x3F671599, 0x3F66BECC, 0x3F666771, 0x3F660F88, 0x3F65B710, 0x3F655E0B, 0x3F650479,
   0x3F64AA59, 0x3F644FAC, 0x3F63F473, 0x3F6398AC, 0x3F633C5A, 0x3F62DF7B, 0x3F628210, 0x3F62241A]
def cosPart5 : List Nat :=
  [0x3F61C598, 0x3F61668A, 0x3F6106F2, 0x3F60A6CF, 0x3F604621, 0x3F5FE4E9, 0x3F5F8327, 0x3F5F20DB,
   0x3F5EBE05, 0x3F5E5AA6, 0x3F5DF6BE, 0x3F5D924D, 0x3F5D2D53, 0x3F5CC7D1, 0x3F5C61C7, 0x3F5BFB34,
   0x3F5B941A, 0x3F5B2C79, 0x3F5AC450, 0x3F5A5BA0, 0x3F59F26A, 0x3F5988AD, 0x3F591E6A, 0x3F58B3A1,
   0x3F584853, 0x3F57DC7F, 0x3F577026, 0x3F570348, 0x3F5695E5, 0x3F5627FE, 0x3F55B993, 0x3F554AA4]
def cosPart6 : List Nat :=
  [0x3F54DB31, 0x3F546B3B, 0x3F53FAC3, 0x3F5389C7, 0x3F531849, 0x3F52A649, 0x3F5233C6, 0x3F51C0C2,
   0x3F514D3D, 0x3F50D937, 0x3F5064AF, 0x3F4FEFA8, 0x3F4F7A1F, 0x3F4F0417, 0x3F4E8D90, 0x3F4E1689,
   0x3F4D9F02, 0x3F4D26FD, 0x3F4CAE79, 0x3F4C3578, 0x3F4BBBF8, 0x3F4B41FA, 0x3F4AC77F, 0x3F4A4C87,
   0x3F49D112, 0x3F495521, 0x3F48D8B3, 0x3F485BCA, 0x3F47DE65, 0x3F476085, 0x3F46E22A, 0x3F466354]
def cosPart7 : List Nat :=
  [0x3F45E403, 0x3F456439, 0x3F44E3F5, 0x3F446337, 0x3F43E200, 0x3F436051, 0x3F42DE29, 0x3F425B89,
   0x3F41D870, 0x3F4154E1, 0x3F40D0DA, 0x3F404C5C, 0x3F3FC767, 0x3F3F41FC, 0x3F3EBC1B, 0x3F3E35C5,
   0x3F3DAEF9, 0x3F3D27B8, 0x3F3CA003, 0x3F3C17D9, 0x3F3B8F3B, 0x3F3B0629, 0x3F3A7CA4, 0x3F39F2AC,
   0x3F396842, 0x3F38DD65, 0x3F385216, 0x3F37C655, 0x3F373A23, 0x3F36AD7F, 0x3F36206C, 0x3F3592E7]
def cosPart8 : List Nat :=
  [0x3F3504F3, 0x3F34768F, 0x3F33E7BC, 0x3F33587A, 0x3F32C8C9, 0x3F3238AA, 0x3F31A81D, 0x3F311722,
   0x3F3085BB, 0x3F2FF3E6, 0x3F2F61A5, 0x3F2ECEF7, 0x3F2E3BDE, 0x3F2DA859, 0x3F2D1469, 0x3F2C800F,
   0x3F2BEB4A, 0x3F2B561B, 0x3F2AC082, 0x3F2A2A80, 0x3F299415, 0x3F28FD41, 0x3F286605, 0x3F27CE61,
   0x3F273656, 0x3F269DE3, 0x3F26050A, 0x3F256BCB, 0x3F24D225, 0x3F24381A, 0x3F239DA9, 0x3F2302D3]
def cosPart9 : List Nat :=
  [0x3F226799, 0x3F21CBFB, 0x3F212FF9, 0x3F209393, 0x3F1FF6CB, 0x3F1F599F, 0x3F1EBC12, 0x3F1E1E22,
   0x3F1D7FD1, 0x3F1CE11F, 0x3F1C420C, 0x3F1BA299, 0x3F1B02C6, 0x3F1A6293, 0x3F19C200, 0x3F19210F,
   0x3F187FC0, 0x3F17DE12, 0x3F173C07, 0x3F16999F, 0x3F15F6D9, 0x3F1553B7, 0x3F14B039, 0x3F140C5F,
   0x3F13682A, 0x3F12C39A, 0x3F121EB0, 0x3F11796B, 0x3F10D3CD, 0x3F102DD5, 0x3F0F8784, 0x3F0EE0DB]
def cosPart10 : List Nat :=
  [0x3F0E39DA, 0x3F0D9281, 0x3F0CEAD0, 0x3F0C42C9, 0x3F0B9A6B, 0x3F0AF1B7, 0x3F0A48AD, 0x3F099F4E,
   0x3F08F59B, 0x3F084B92, 0x3F07A136, 0x3F06F686, 0x3F064B82, 0x3F05A02C, 0x3F04F484, 0x3F044889,
   0x3F039C3D, 0x3F02EF9F, 0x3F0242B1, 0x3F019573, 0x3F00E7E4, 0x3F003A06, 0x3EFF17B2, 0x3EFDBABB,
   0x3EFC5D27, 0x3EFAFEF7, 0x3EF9A02D, 0x3EF840C8, 0x3EF6E0CB, 0x3EF58035, 0x3EF41F07, 0x3EF2BD43]
def cosPart11 : List Nat :=
  [0x3EF15AEA, 0x3EEFF7FB, 0x3EEE9479, 0x3EED3063, 0x3EEBCBBB, 0x3EEA6681, 0x3EE900B7, 0x3EE79A5D,
   0x3EE63375, 0x3EE4CBFE, 0x3EE363FA, 0x3EE1FB6A, 0x3EE0924F, 0x3EDF28A9, 0x3EDDBE79, 0x3EDC53C1,
   0x3EDAE880, 0x3ED97CB9, 0x3ED8106B, 0x3ED6A399, 0x3ED53641, 0x3ED3C867, 0x3ED25A09, 0x3ED0EB2A,
   0x3ECF7BCA, 0x3ECE0BEA, 0x3ECC9B8B, 0x3ECB2AAE, 0x3EC9B953, 0x3EC8477C, 0x3EC6D529, 0x3EC5625C]
def cosPart12 : List Nat :=
  [0x3EC3EF15, 0x3EC27B55, 0x3EC1071E, 0x3EBF926F, 0x3EBE1D4A, 0x3EBCA7AF, 0x3EBB31A0, 0x3EB9BB1E,
   0x3EB8442A, 0x3EB6CCC3, 0x3EB554EC, 0x3EB3DCA5, 0x3EB263EF, 0x3EB0EACB, 0x3EAF713A, 0x3EADF73C,
   0x3EAC7CD4, 0x3EAB0201, 0x3EA986C4, 0x3EA80B1F, 0x3EA68F12, 0x3EA5129F, 0x3EA395C5, 0x3EA21887,
   0x3EA09AE5, 0x3E9F1CDF, 0x3E9D9E78, 0x3E9C1FAF, 0x3E9AA086, 0x3E9920FE, 0x3E97A117, 0x3E9620D2]
def cosPart13 : List Nat :=
  [0x3E94A031, 0x3E931F35, 0x3E919DDD, 0x3E901C2C, 0x3E8E9A22, 0x3E8D17C0, 0x3E8B9507, 0x3E8A11F7,
   0x3E888E93, 0x3E870ADA, 0x3E8586CE, 0x3E840270, 0x3E827DC0, 0x3E80F8C0, 0x3E7EE6E1, 0x3E7BDBA4,
   0x3E78CFCC, 0x3E75C35A, 0x3E72B651, 0x3E6FA8B2, 0x3E6C9A7F, 0x3E698BBA, 0x3E667C66, 0x3E636C83,
   0x3E605C13, 0x3E5D4B1A, 0x3E5A3997, 0x3E57278F, 0x3E541501, 0x3E5101F1, 0x3E4DEE60, 0x3E4ADA4F]
def cosPart14 : List Nat :=
  [0x3E47C5C2, 0x3E44B0B9, 0x3E419B37, 0x3E3E853E, 0x3E3B6ECF, 0x3E3857EC, 0x3E354098, 0x3E3228D4,
   0x3E2F10A2, 0x3E2BF804, 0x3E28DEFC, 0x3E25C58C, 0x3E22ABB6, 0x3E1F917B, 0x3E1C76DE, 0x3E195BE0,
   0x3E164083, 0x3E1324CA, 0x3E1008B7, 0x3E0CEC4A, 0x3E09CF86, 0x3E06B26E, 0x3E039502, 0x3E007745,
   0x3DFAB273, 0x3DF475C0, 0x3DEE3876, 0x3DE7FA9A, 0x3DE1BC2E, 0x3DDB7D37, 0x3DD53DB9, 0x3DCEFDB7]
def cosPart15 : List Nat :=
  [0x3DC8BD36, 0x3DC27C39, 0x3DBC3AC3, 0x3DB5F8DA, 0x3DAFB680, 0x3DA973BA, 0x3DA3308C, 0x3D9CECF9,
   0x3D96A905, 0x3D9064B4, 0x3D8A200A, 0x3D83DB0A, 0x3D7B2B74, 0x3D6EA038, 0x3D621469, 0x3D55880E,
   0x3D48FB30, 0x3D3C6DD5, 0x3D2FE007, 0x3D2351CB, 0x3D16C32C, 0x3D0A342F, 0x3CFB49BA, 0x3CE22A7A,
   0x3CC90AB0, 0x3CAFEA69, 0x3C96C9B6, 0x3C7B514B, 0x3C490E90, 0x3C16CB58, 0x3BC90F88, 0x3B490FC6]

/-- cos(pi i / 1024) rounded to FP32 for i from 0 to 511. -/
def cosTable : List Nat :=
  cosPart0 ++ cosPart1 ++ cosPart2 ++ cosPart3 ++ cosPart4 ++ cosPart5 ++ cosPart6 ++ cosPart7 ++
  cosPart8 ++ cosPart9 ++ cosPart10 ++ cosPart11 ++ cosPart12 ++ cosPart13 ++ cosPart14 ++ cosPart15

/-- COSTAB (R387): the second half mirrors the first with the sign turned. -/
def costab (i : Nat) : Nat :=
  if i < 512 then cosTable.getD i 0
  else if i = 512 then 0
  else cosTable.getD (1024 - i) 0 + 0x80000000

/-- The registers of a curve (R388). -/
structure Curve where
  valid : Bool
  warmEach : Bool
  shape : Nat
  peak : Nat
  floor : Nat
  wfrom : Nat
  gamma : Nat
  start : Nat
  warm : Nat
  decay : Nat
  period : Nat

def curveReg (c : Chip) (k n i : Nat) : Nat := (rawReg c (sylB k) (0x020 + 2 * i + 0x400 * n)).toNat
def curveOf (c : Chip) (k n : Nat) : Curve :=
  let r := curveReg c k n
  ⟨natBit (r 0) 31, natBit (r 0) 30, natBits (r 0) 29 28, r 1, r 2, r 3, r 4, r 5, r 6, r 7, r 8⟩

/-- gpow(a, n) over bits b - 1 down to 0. -/
def gpow (a n : Nat) : Nat → Nat → FM Nat
  | 0, r => pure r
  | b + 1, r => do
    let r ← pMul r r
    let r ← if natBit n b then pMul r a else pure r
    gpow a n b r

/-- floor of a finite nonnegative FP32 value. -/
def fpFloor (q : Nat) : Nat :=
  match fdec fmtFP32 q with
  | .fin false m e => if 0 ≤ e then m * 2 ^ e.toNat else m / 2 ^ (-e).toNat
  | _ => 0

/-- rate(cv, s) (R386). -/
def rateOf (cv : Curve) (s : Nat) : FM Nat := do
  let k0 := s - cv.start
  let n := if 0 < cv.period then k0 / cv.period else 0
  let k := if 0 < cv.period then k0 % cv.period else k0
  let p ← pMul cv.peak (← gpow cv.gamma n 32 fp1)
  let wm := if n = 0 ∨ cv.warmEach = true then cv.warm else 0
  if k < wm then
    let x ← pDiv (← pInt k) (← pInt wm)
    let y ← pMul (← pSub p cv.wfrom) x
    pAdd cv.wfrom y
  else
    let x := k - wm
    match cv.shape with
    | 0 => pure p
    | 1 =>
      if cv.decay ≤ x then pure cv.floor
      else
        let q ← pDiv (← pInt x) (← pInt cv.decay)
        let y ← pMul (← pSub p cv.floor) q
        pSub p y
    | 2 =>
      if cv.decay ≤ x then pure cv.floor
      else
        let q ← pMul (← pDiv (← pInt x) (← pInt cv.decay)) 0x44800000
        let i := min (fpFloor q) 1023
        let f ← pSub q (← pInt i)
        let y ← pMul f (← pSub (costab (i + 1)) (costab i))
        let cs ← pAdd (costab i) y
        let z ← pMul fpHalf (← pAdd fp1 cs)
        let t ← pMul (← pSub p cv.floor) z
        pAdd cv.floor t
    | _ =>
      let q ← pDiv (← pInt cv.decay) (← pInt (x + cv.decay))
      pMul p (← pSqrt q)

/-- Every VALID curve evaluated for step s (R385). -/
def evalCurves (c : Chip) (k s : Nat) : Chip :=
  if bState c (sylB k) ≠ 2 then c
  else
    ((List.range 64).filter (fun n => (curveOf c k n).valid)).foldl (fun c n =>
      let r := BitVec.ofNat 32 ((rateOf (curveOf c k n) s).run 0).1
      modStack c k (fun x => { x with rates := tput (fun _ => 0) x.rates n r })) c

/-! ### Descriptors and areas (R361 to R366) -/

/-- Register i of descriptor g of Pump k. -/
def pdReg (c : Chip) (k g i : Nat) : Nat := (rawReg c (pmpB k) (0x030 + 2 * i + 0x400 * g)).toNat

structure PDesc where
  valid : Bool
  frozen : Bool
  strict : Bool
  normFrozen : Bool
  nesterov : Bool
  mrnd : Bool
  rule : Nat
  curve : Nat
  count : Nat
  base : Nat
  cols : Nat
  lrmul : Nat
  wd : Nat
  beta1 : Nat
  beta2 : Nat
  eps : Nat
  trust : Nat
  tensor : Nat
  eidx : Nat
  /-- A reserved field is not 0. -/
  resv : Bool

def pdescOf (c : Chip) (k g : Nat) : PDesc :=
  let r := pdReg c k g
  ⟨natBit (r 0) 31, natBit (r 0) 30, natBit (r 0) 29, natBit (r 0) 28, natBit (r 0) 27, natBit (r 0) 26,
    natBits (r 0) 25 24, natBits (r 0) 23 18, r 1, natBits (r 3) 15 0 * 2 ^ 32 + r 2, natBits (r 3) 31 16 + 1,
    r 4, r 5, r 6, r 7, r 8, r 9, natBits (r 10) 23 0, natBits (r 12) 7 0 * 2 ^ 32 + r 11,
    natBits (r 0) 17 0 != 0 || natBits (r 10) 31 24 != 0 || natBits (r 12) 31 8 != 0 || r 13 != 0 || r 14 != 0 || r 15 != 0⟩

/-- The VALID groups of a Pump, ascending. -/
def validGroups (c : Chip) (k : Nat) : List Nat := (List.range 4096).filter (fun g => natBit (pdReg c k g 0) 31)

/-- Areas of a segment (R362). RULE codes 1 and 2 are rules 2 and 3, code 3 is rule 4. -/
def PDesc.hasV (d : PDesc) : Bool := d.rule == 1 || d.rule == 2
def PDesc.rows (d : PDesc) : Nat := d.count / d.cols
def PDesc.aW (d : PDesc) : Nat := d.base + 32
def PDesc.aM (d : PDesc) : Nat := d.base + 32 + 2 * d.count
def PDesc.aV (d : PDesc) : Nat := d.base + 32 + 3 * d.count
def PDesc.aG (d : PDesc) : Nat := d.base + 32 + (if d.hasV then 4 else 3) * d.count
def PDesc.aQE (d : PDesc) : Nat := d.aG + d.count
def PDesc.aQX (d : PDesc) : Nat := d.aQE + d.count / 2
def PDesc.endQX (d : PDesc) : Nat := d.aQX + (d.count + 63) / 64
def PDesc.aRV (d : PDesc) : Nat := (d.endQX + 31) / 32 * 32
def PDesc.aKV (d : PDesc) : Nat := d.aRV + 2 * d.rows
def PDesc.aRS (d : PDesc) : Nat := d.aKV + 2 * d.cols
def PDesc.aKS (d : PDesc) : Nat := d.aRS + 2 * d.rows
def PDesc.aEnd (d : PDesc) : Nat := if d.rule = 3 then d.aKS + 2 * d.cols else d.endQX

/-- The conditions of R366. -/
def descOk (k : Nat) (d : PDesc) : Bool :=
  d.base % 32 == 0 && decide (k * 2 ^ 35 ≤ d.base) && d.count != 0 && d.count % 32 == 0 &&
    decide (d.aEnd ≤ (k + 1) * 2 ^ 35) &&
    fpNonneg d.lrmul && fpNonneg d.wd && fpNonneg d.eps && fpNonneg d.trust &&
    fpNonneg d.beta1 && fpBelow1 d.beta1 && fpNonneg d.beta2 && fpBelow1 d.beta2 &&
    (d.rule != 2 || !fpZero d.trust) && !d.resv &&
    (d.rule != 3 || (!fpZero d.eps && decide (d.cols ≤ 16384) && d.count % d.cols == 0 && decide (d.rows ≤ 1048576)))

/-- A 32-bit value, a BF16 value in memory, each with its poison mark. -/
def pRd (c : Chip) (a : Nat) : Nat × Bool := rdNat c false a 2
def pRd16 (c : Chip) (a : Nat) : Nat × Bool := let w := rdWord c false a; (w.1.toNat, w.2)

/-- Write a 32-bit value, an unmarked word. -/
def w32 (a v : Nat) : List (Nat × Word × Bool) := atRun a (natWords v 2)
def w16 (a v : Nat) : List (Nat × Word × Bool) := atRun a (natWords v 1)

/-! ### Pass 1 (R367 to R372) -/

/-- The vote so far: 0 GO, 1 SKIP, 2 ABORT; its reason and group (R368). -/
structure Vote where
  vote : Nat
  reason : Nat
  group : Nat
  deriving DecidableEq, Repr

/-- cast: the first cast of the higher rank is kept. -/
def cast (v why g : Nat) (x : Vote) : Vote := if x.vote < v then ⟨v, why, g⟩ else x

/-- An entry of a norm record (R371). -/
structure NormEntry where
  pg : Bool
  pt : Bool
  nf : Bool
  gn2 : Nat
  wn2 : Nat
  dn2 : Nat
  deriving DecidableEq, Repr

def normZero : NormEntry := ⟨false, false, false, 0, 0, 0⟩

def normWords (e : NormEntry) : List Word :=
  [BitVec.ofNat 16 ((if e.pg then 2 ^ 15 else 0) + (if e.pt then 2 ^ 14 else 0) + (if e.nf then 2 ^ 13 else 0)), 0] ++
    natWords e.gn2 2 ++ natWords e.wn2 2 ++ natWords e.dn2 2

/-- Gradient element e as pass 1 and pass 2 use it: a poisoned word counts as a NaN (R390). -/
def gradAt (c : Chip) (d : PDesc) (e : Nat) : Nat :=
  let w := pRd16 c (d.aG + e)
  if w.2 then 0x7FC0 else w.1

/-- Sum of squares in order, each square and addition rounded (R370). -/
def seqSquares (l : List Nat) : FM Nat := l.foldlM (fun a g => do pAdd a (← pMul (pWiden g) (pWiden g))) 0

/-- The row and column sums of a rule-4 segment (R370). -/
def rowColSums (c : Chip) (d : PDesc) : FM (List (Nat × Word × Bool)) := do
  let rs ← (List.range d.rows).mapM (fun i => seqSquares ((List.range d.cols).map (fun j => gradAt c d (i * d.cols + j))))
  let ks ← (List.range d.cols).mapM (fun j => seqSquares ((List.range d.rows).map (fun i => gradAt c d (i * d.cols + j))))
  pure (rs.zipIdx.flatMap (fun x => w32 (d.aRS + 2 * x.2) x.1) ++ ks.zipIdx.flatMap (fun x => w32 (d.aKS + 2 * x.2) x.1))

/-- The flags of a group's roundings in pass 1 (R80): those of GN2, RS and KS. -/
def pass1Flags (c : Chip) (k g : Nat) : Nat :=
  let d := pdescOf c k g
  if !descOk k d || (rdWords c false d.base 32).any Prod.snd || (d.frozen && (d.strict || !d.normFrozen)) then 0
  else forr (sumSquares fmtBF16 ((List.range d.count).map (gradAt c d))).2 (if d.rule = 3 then ((rowColSums c d).run 0).2 else 0)

/-- One group of pass 1: the vote, the entry, the words written. -/
def pass1Group (c : Chip) (k s g : Nat) (x : Vote) : Vote × NormEntry × List (Nat × Word × Bool) :=
  let d := pdescOf c k g
  if !descOk k d then (cast 2 3 g x, normZero, [])
  else if ((rdWords c false d.base 32).any Prod.snd) then (cast 2 4 g x, normZero, [])
  else if d.frozen && d.strict then (cast 2 2 g x, normZero, [])
  else if d.frozen && !d.normFrozen then (x, normZero, [])
  else
    let x := if !d.frozen && (pRd c d.base).1 != s then cast 2 1 g x else x
    let gs := (List.range d.count).map (fun e => pRd16 c (d.aG + e))
    let gn2 := (sumSquares fmtBF16 ((List.range d.count).map (gradAt c d))).1
    let bad := gs.any (fun w => !w.2 && natBits w.1 14 7 == 0xFF) || (gn2 == finf fmtFP32 false)
    let pz := gs.any Prod.snd
    let x := if bad then cast 1 8 g x else x
    let x := if pz then cast 1 9 g x else x
    let pt := d.rule == 2 && !d.frozen
    (x, ⟨true, pt, bad || pz, gn2, if pt then (pRd c (d.base + 8)).1 else 0, if pt then (pRd c (d.base + 10)).1 else 0⟩,
      if d.rule = 3 then ((rowColSums c d).run 0).1 else [])

/-- All groups in order. -/
def pass1Groups (c : Chip) (k s nout : Nat) : List Nat → Vote → List (Nat × Word × Bool) → Vote × List (Nat × Word × Bool)
  | [], x, ws => (x, ws)
  | g :: r, x, ws =>
    let y := pass1Group c k s g x
    pass1Groups c k s nout r y.1 (ws ++ y.2.2 ++ atRun (nout + 32 + 8 * g) (normWords y.2.1))

/-- PMP_NOUT and PMP_NIN (R395). -/
def nOut (c : Chip) (k : Nat) : Nat := getF c (pmpB k) 0x014 15 0 * 2 ^ 32 + (rawReg c (pmpB k) 0x012).toNat
def nIn (c : Chip) (k : Nat) : Nat := getF c (pmpB k) 0x018 15 0 * 2 ^ 32 + (rawReg c (pmpB k) 0x016).toNat

/-- Pass 1's memory: the whole norm-out record, RS and KS; and the vote (R368, R371). -/
def pass1 (c : Chip) (k s : Nat) : Chip × Vote :=
  let nout := nOut c k
  let y := pass1Groups c k s nout (validGroups c k) ⟨0, 0, 0⟩ []
  let head := [BitVec.ofNat 16 y.1.vote, BitVec.ofNat 16 (y.1.reason * 2 ^ 12 + y.1.group)] ++ natWords s 2 ++ [BitVec.ofNat 16 k]
  let c := wrWords c false nout (List.replicate 32800 0)
  (wrMarked c false (atRun nout head ++ y.2), y.1)

/-! ### Pass 2 (R375 to R381, R391) -/

/-- What holds for a whole segment: η, κ, p1, p2, b1, b2, φ. -/
structure SegVals where
  eta : Nat
  kappa : Nat
  p1 : Nat
  p2 : Nat
  b1 : Nat
  b2 : Nat
  phi : Nat

/-- Row and column statistics of rule 4 with rho; `bad` lists name poisoned rows and columns. -/
structure RowCol where
  r : List Nat
  k : List Nat
  rho : Nat
  badR : List Nat
  badK : List Nat

/-- φ of rule 3 from the norm-in entry (R381). -/
def trustRatio (pt : Bool) (wn2 dn2 tmax : Nat) : FM Nat := do
  if !pt || fpZero wn2 || fpZero dn2 then pure fp1
  else
    let q ← pSqrt (← pDiv wn2 dn2)
    fOp (fmin fmtFP32 tmax q)

/-- (β₂ × x) + ((1.0 − β₂) × (((k2 × S) / fp32(n)) + ε)). -/
def statStep (beta2 eps k2 x sum n : Nat) : FM Nat := do
  let a ← pMul beta2 x
  let y ← pAdd (← pDiv (← pMul k2 sum) (← pInt n)) eps
  let b ← pMul (← pSub fp1 beta2) y
  pAdd a b

/-- A poisoned RS or KS word counts as a NaN. -/
def pRdN (c : Chip) (a : Nat) : Nat := let x := pRd c a; if x.2 then qnan fmtFP32 else x.1

/-- The statistics of a rule-4 segment. -/
def rowCol (c : Chip) (d : PDesc) (v : SegVals) : FM RowCol := do
  let k2 ← pMul v.kappa v.kappa
  let rs ← (List.range d.rows).mapM (fun i =>
    statStep d.beta2 d.eps k2 (pRd c (d.aRV + 2 * i)).1 (pRdN c (d.aRS + 2 * i)) d.cols)
  let ks ← (List.range d.cols).mapM (fun j =>
    statStep d.beta2 d.eps k2 (pRd c (d.aKV + 2 * j)).1 (pRdN c (d.aKS + 2 * j)) d.rows)
  let t ← rs.tail.foldlM pAdd (rs.headD 0)
  let rho ← pDiv t (← pInt d.rows)
  pure ⟨rs, ks, rho, (List.range d.rows).filter (fun i => (pRd c (d.aRV + 2 * i)).2),
    (List.range d.cols).filter (fun j => (pRd c (d.aKV + 2 * j)).2)⟩

/-- One element's results: w', m', v' (FP32), d. -/
structure Elem where
  w : Nat
  m : Nat
  v : Nat
  d : Nat

/-- Rules 1 to 4 on one element (R381). -/
def ruleElem (d : PDesc) (x : SegVals) (rc : RowCol) (e w m v g : Nat) : FM Elem := do
  let gh ← pMul x.kappa g
  match d.rule with
  | 0 =>
    let h ← pAdd gh (← pMul d.wd w)
    let m' ← pAdd (← pMul d.beta1 m) h
    let u ← if d.nesterov then pAdd h (← pMul d.beta1 m') else pure m'
    let w' ← pSub w (← pMul x.eta u)
    pure ⟨w', m', 0, 0⟩
  | 3 =>
    let r := rc.r.getD (e / d.cols) 0
    let k := rc.k.getD (e % d.cols) 0
    let vh ← pDiv (← pDiv (← pMul r k) rc.rho) x.b2
    let u ← pDiv gh (← pSqrt vh)
    let m' ← pAdd (← pMul d.beta1 m) (← pMul (← pSub fp1 d.beta1) u)
    let dd ← pAdd (← pDiv m' x.b1) (← pMul d.wd w)
    let w' ← pSub w (← pMul x.eta dd)
    pure ⟨w', m', 0, dd⟩
  | rule =>
    let m' ← pAdd (← pMul d.beta1 m) (← pMul (← pSub fp1 d.beta1) gh)
    let v' ← pAdd (← pMul d.beta2 v) (← pMul (← pSub fp1 d.beta2) (← pMul gh gh))
    let den ← pAdd (← pSqrt (← pDiv v' x.b2)) d.eps
    let dd ← pAdd (← pDiv (← pDiv m' x.b1) den) (← pMul d.wd w)
    let rate ← if rule = 2 then pMul x.eta x.phi else pure x.eta
    let w' ← pSub w (← pMul rate dd)
    pure ⟨w', m', v', dd⟩

/-- The rounding of M and V (R378). -/
def roundMV (c : Chip) (d : PDesc) (s e isV x : Nat) : FM Nat :=
  fOp (fenc fmtBF16 (if d.mrnd then 5 else 0)
    (srBits c.seed ((d.tensor + 2 * s + isV) % 2 ^ 24) ((d.eidx + e) % 2 ^ 40) 0 1) (fdec fmtFP32 x))

/-- One element of pass 2: none when a word it uses is poisoned (R391), else its results and its writes. -/
def pass2Elem (c : Chip) (d : PDesc) (x : SegVals) (rc : RowCol) (s e : Nat) :
    FM (Option (Elem × Nat × List (Nat × Word × Bool))) := do
  let w := pRd c (d.aW + 2 * e)
  let m := pRd16 c (d.aM + e)
  let v := if d.hasV then pRd16 c (d.aV + e) else (0, false)
  if w.2 || m.2 || v.2 || !rc.badR.isEmpty || rc.badK.contains (e % d.cols) then pure none
  else
    let y ← ruleElem d x rc e w.1 (pWiden m.1) (pWiden v.1) (pWiden (gradAt c d e))
    let m' ← roundMV c d s e 0 y.m
    let v' ← if d.hasV then roundMV c d s e 1 y.v else pure 0
    pure (some (y, w.1, w32 (d.aW + 2 * e) y.w ++ w16 (d.aM + e) m' ++ (if d.hasV then w16 (d.aV + e) v' else [])))

/-- The compute copy of block k (R379): its exponent and its element plane; none when an element of it was not
written. -/
def pass2Block (d : PDesc) (es : List (Option (Elem × Nat × List (Nat × Word × Bool)))) (k : Nat) :
    FM (Option Nat × List (Nat × Word × Bool)) := do
  let blk := (es.drop (32 * k)).take 32
  if blk.any Option.isNone then pure (none, [])
  else
    let q := qblock .q8 0 (blk.filterMap (fun o => o.map (fun y => (fdec fmtFP32 y.1.w, 0))))
    modify (fun f => forr f q.2.2)
    let code := q.2.1.zipIdx.foldl (fun a p => a + p.1 * 2 ^ (8 * p.2)) 0
    pure (some q.1, atRun (d.aQE + 16 * k) (natWords code 16))

/-- The words of QX whose bytes changed; the last one of an odd number of blocks has bits [15:8] zero (R71). -/
def qxWords (c : Chip) (d : PDesc) (xs : List (Option Nat)) : List (Nat × Word × Bool) :=
  (List.range ((xs.length + 1) / 2)).flatMap (fun i =>
    let old := if 2 * i + 1 < xs.length then (rdWord c false (d.aQX + i)).1.toNat else 0
    match xs.getD (2 * i) none, xs.getD (2 * i + 1) none with
    | none, none => []
    | some a, none => w16 (d.aQX + i) (natSetBits old 7 0 a)
    | none, some b => w16 (d.aQX + i) (natSetBits old 15 8 b)
    | some a, some b => w16 (d.aQX + i) (a + 256 * b))

/-- The poisoned lines that pass 2 reads of a segment, each with the lowest element it touches (R391). -/
def poisonEvents (c : Chip) (d : PDesc) : List Nat :=
  let line := fun (a i : Nat) => poisAt c (a + 32 * i)
  ((List.range (d.count / 16)).filter (line d.aW)).map (fun i => 16 * i) ++
    ((List.range (d.count / 32)).filter (line d.aM)).map (fun i => 32 * i) ++
    (if d.hasV then ((List.range (d.count / 32)).filter (line d.aV)).map (fun i => 32 * i) else []) ++
    (if d.rule = 3 then
      ((List.range ((2 * d.rows + 2 * d.cols + 31) / 32)).filter (line d.aRV)).map (fun i =>
        if 32 * i < 2 * d.rows then 16 * i * d.cols else 16 * i - d.rows)
     else [])

/-- The values of a segment's update (R376, R381). -/
def segVals (c : Chip) (d : PDesc) (k g kappa : Nat) : FM SegVals := do
  let rate := (tget (fun _ => 0) (stackOf c k).rates d.curve).toNat
  let eta ← pMul rate d.lrmul
  if d.rule = 0 then pure ⟨eta, kappa, 0, 0, 0, 0, fp1⟩
  else
    let p1 ← pMul (pRd c (d.base + 4)).1 d.beta1
    let p2 ← pMul (pRd c (d.base + 6)).1 d.beta2
    let b1 ← pSub fp1 p1
    let b2 ← pSub fp1 p2
    let e := nIn c k + 32 + 8 * g
    let phi ← if d.rule = 2 then
      trustRatio (natBit (rdWord c false e).1.toNat 14) (pRd c (e + 4)).1 (pRd c (e + 6)).1 d.trust else pure fp1
    pure ⟨eta, kappa, p1, p2, b1, b2, phi⟩

/-- The state record after an update (R377). -/
def newRecord (c : Chip) (d : PDesc) (s : Nat) (x : SegVals) (wn2 dn2 : Nat) : List (Nat × Word × Bool) :=
  let old := fun (i : Nat) => (pRd c (d.base + i)).1
  atRun d.base (natWords ((s + 1) % 2 ^ 32) 2 ++ natWords ((old 2 + 1) % 2 ^ 32) 2 ++
    natWords (if d.rule = 0 then old 4 else x.p1) 2 ++ natWords (if d.rule = 0 then old 6 else x.p2) 2 ++
    natWords (if d.rule = 2 then wn2 else old 8) 2 ++ natWords (if d.rule = 2 then dn2 else old 10) 2 ++
    List.replicate 20 0)

/-- The update of one segment: its writes (R377 to R381, R391). -/
def pass2Seg (c : Chip) (k s g kappa : Nat) : FM (List (Nat × Word × Bool)) := do
  let d := pdescOf c k g
  let x ← segVals c d k g kappa
  let rc ← if d.rule = 3 then rowCol c d x else pure ⟨[], [], 0, [], []⟩
  let es ← (List.range d.count).mapM (pass2Elem c d x rc s)
  let bs ← (List.range (d.count / 32)).mapM (pass2Block d es)
  let ok := es.filterMap id
  let wn2 ← if d.rule = 2 then fOp (sumSquares fmtFP32 (ok.map (fun y => y.2.1))) else pure 0
  let dn2 ← if d.rule = 2 then fOp (sumSquares fmtFP32 (ok.map (fun y => y.1.d))) else pure 0
  let stats := ((List.range rc.r.length).filter (fun i => !rc.badR.contains i)).flatMap (fun i =>
      w32 (d.aRV + 2 * i) (rc.r.getD i 0)) ++
    ((List.range rc.k.length).filter (fun j => !rc.badK.contains j)).flatMap (fun j =>
      w32 (d.aKV + 2 * j) (rc.k.getD j 0))
  pure (stats ++ ok.flatMap (fun y => y.2.2) ++ bs.flatMap Prod.snd ++ qxWords c d (bs.map Prod.fst) ++
    newRecord c d s x wn2 dn2)

/-- Whether the norm-in record is stale or a word of it that the Pump reads is poisoned (R374, R376). -/
def normStale (c : Chip) (k s : Nat) : Bool :=
  let a := nIn c k
  (pRd c (a + 2)).1 != s || (rdWords c false a 4).any Prod.snd ||
    (validGroups c k).any (fun g =>
      let d := pdescOf c k g
      d.rule == 2 && !d.frozen && (rdWords c false (a + 32 + 8 * g) 8).any Prod.snd)

/-- The clip factor (R376). -/
def clipFactor (clip n2 : Nat) : FM Nat := do
  if fpZero clip then pure fp1
  else
    let q ← pSqrt n2
    if fvLt (fdec fmtFP32 clip) (fdec fmtFP32 q) then pDiv clip q else pure fp1

/-- The VALID segments that pass 2 updates. -/
def liveGroups (c : Chip) (k : Nat) : List Nat := (validGroups c k).filter (fun g => !(pdescOf c k g).frozen)

/-- STEP := s + 1 in each VALID segment that is not frozen (R375). -/
def pass2Skip (c : Chip) (k s : Nat) : Chip :=
  wrMarked c false ((liveGroups c k).flatMap (fun g => w32 (pdescOf c k g).base ((s + 1) % 2 ^ 32)))

/-- What pass 2 under GO does, or a part of a pass: its writes in order, the flags of its roundings, the
frozen segments it skips, the events of R391 with their elements, and whether the norm-in record is stale, so
that it does nothing else. -/
structure Pass2 where
  ws : List (Nat × Word × Bool)
  flags : Nat
  frozen : Nat
  events : List (Nat × Nat)
  stale : Bool

def pass2None : Pass2 := ⟨[], 0, 0, [], false⟩

/-- One piece of work after another. -/
def Pass2.andThen (x y : Pass2) : Pass2 :=
  ⟨x.ws ++ y.ws, forr x.flags y.flags, x.frozen + y.frozen, x.events ++ y.events, x.stale || y.stale⟩

/-- STEP := s + 1 in the segment of a group that is not frozen (R375). -/
def skipGroup (c : Chip) (k s g : Nat) : Pass2 :=
  if (pdescOf c k g).frozen then pass2None
  else { pass2None with ws := w32 (pdescOf c k g).base ((s + 1) % 2 ^ 32) }

/-- One group of pass 2 under GO with kappa (R377, R382, R391). -/
def pass2Group (c : Chip) (k s kappa g : Nat) : Pass2 :=
  if (pdescOf c k g).frozen then { pass2None with frozen := 1 }
  else
    let r := (pass2Seg c k s g kappa).run 0
    ⟨r.1, r.2, 0, (poisonEvents c (pdescOf c k g)).map (fun e => (g, e)), false⟩

/-- N2 of the norm-in record. -/
def normN2 (c : Chip) (k : Nat) : Nat := (pRd c (nIn c k)).1

/-- Pass 2 under GO, of some groups in order (R376, R377): a norm that is not finite leaves only the step
counters to it. -/
def pass2Groups (c : Chip) (k s : Nat) (l : List Nat) : Pass2 :=
  if !fpFinite (normN2 c k) then l.foldl (fun x g => x.andThen (skipGroup c k s g)) pass2None
  else
    let kappa := (clipFactor (rawReg c (pmpB k) 0x010).toNat (normN2 c k)).run 0
    l.foldl (fun x g => x.andThen (pass2Group c k s kappa.1 g)) { pass2None with flags := kappa.2 }

/-- Pass 2 under GO (R376, R377, R382, R391). -/
def pass2Work (c : Chip) (k s : Nat) : Pass2 :=
  if normStale c k s then { pass2None with stale := true } else pass2Groups c k s (validGroups c k)

/-- Flags, counts and reports of the work of pass 2; elements left unwritten leave the shard TORN (R379, R391,
R400, R401, R472). -/
def pass2Signs (k : Nat) (w : Pass2) (c : Chip) : Chip :=
  let b := pmpB k
  let c := bumpF (bumpF (orF c b 0x020 4 0 w.flags) b 0x022 31 16 w.frozen) b 0x022 15 0 w.events.length
  let c := if w.stale then report c (8 + k) 0x0215 [k] else c
  let c := if w.stale || !w.events.isEmpty then modStack c k (fun x => { x with torn := true }) else c
  w.events.foldl (fun c x => report c (8 + k) 0x0214 [k, x.1, x.2]) c

def pass2Go (c : Chip) (k s : Nat) : Chip := pass2Signs k (pass2Work c k s) (wrMarked c false (pass2Work c k s).ws)

/-! ### Running a pass -/

/-- The group in progress moves on: to which of the VALID groups from the one shown, at a given moment, is not
given (R399). -/
def pumpProgress (k : Nat) (c : Chip) : Chip :=
  if (stackOf c k).pump.pass = 0 then c
  else
    let b := pmpB k
    let l := (validGroups c k).filter (fun g => decide (getF c b 0x01E 11 0 ≤ g))
    { setF c b 0x01E 11 0 (l.getD (Config.freeNat c.fresh % l.length) (getF c b 0x01E 11 0)) with fresh := c.fresh + 1 }

/-- Release Pump k into a pass (R367, R385, R398, R399): it begins with its first VALID group. -/
def pumpStart (c : Chip) (k pass s : Nat) : Chip :=
  let b := pmpB k
  if bState c b ≠ 2 then c
  else
    let c := modStack c k (fun x => { x with pump := ⟨pass, BitVec.ofNat 32 s, false⟩ })
    let c := setF (setF c b 0x01E 31 30 pass) b 0x01E 11 0 ((validGroups c k).headD 0)
    if pass = 1 then evalCurves (setRaw c b 0x01C (BitVec.ofNat 32 s)) k s else c

/-- A pass ends: idle, with its last group shown (R399). -/
def pumpEnd (c : Chip) (k : Nat) : Chip :=
  let c := setF (setF c (pmpB k) 0x01E 31 30 0) (pmpB k) 0x01E 11 0 ((validGroups c k).getLastD 0)
  modStack c k (fun x => { x with pump := { x.pump with pass := 0, done := true } })

/-- Whether Pump k can end its pass: it runs, its memory controller takes its requests, and those that it has
made (HBM_REQUEST rows with its source number) have been served (R329, R332, R359). -/
def pumpRuns (c : Chip) (k : Nat) : Bool := bState c (pmpB k) == 2 && bState c (hmcB k) == 2 && !srcBusy c (pumpSrc k)

/-- The report of an abort reason (R372). -/
def voteReport (c : Chip) (k : Nat) (x : Vote) : Chip :=
  if 1 ≤ x.reason ∧ x.reason ≤ 4 then report c (8 + k) (0x0210 + x.reason) [k, x.group] else c

/-- PASS_1_COMPLETE (R80, R372, R397, R400). -/
def pass1Complete (k : Nat) (c : Chip) : Chip :=
  let p := (stackOf c k).pump
  if p.pass ≠ 1 ∨ pumpRuns c k = false then c
  else
    let y := pass1 c k p.step.toNat
    let fl := (validGroups c k).foldl (fun f g => forr f (pass1Flags c k g)) 0
    let c := setRaw (orF y.1 (pmpB k) 0x020 4 0 fl) (pmpB k) 0x01A (BitVec.ofNat 32 (y.2.vote * 2 ^ 30 + y.2.group * 2 ^ 16 + y.2.reason * 2 ^ 12))
    voteReport (pumpEnd c k) k y.2

def execPass1Complete (k : Fin 8) (s : State) : Host.Outcome State Fault Refusal :=
  .next { s with chip := pass1Complete k s.chip }

/-- PASS_2_COMPLETE (R375 to R377, R393). -/
def pass2Complete (k : Nat) (c : Chip) : Chip :=
  let p := (stackOf c k).pump
  if pumpRuns c k = false then c
  else if p.pass = 2 then pumpEnd (pass2Go c k p.step.toNat) k
  else if p.pass = 3 then pumpEnd (pass2Skip c k p.step.toNat) k
  else c

def execPass2Complete (k : Fin 8) (s : State) : Host.Outcome State Fault Refusal :=
  .next { s with chip := pass2Complete k s.chip }

/-- How much of a piece of work has been done is not given (R392): which of its words are written, which of
its roundings made, which of its events met. -/
def Pass2.part (n : Nat) (w : Pass2) : Pass2 :=
  ⟨((w.ws.zipIdx).filter (fun x => Config.freeBool n x.2)).map Prod.fst, w.flags &&& Config.freeNat n,
    Config.freeNat (n + 1) % (w.frozen + 1), w.events.take (Config.freeNat (n + 2) % (w.events.length + 1)),
    w.stale && Config.freeBool (n + 1) 0⟩

/-- What a pass does before its first group: pass 1 clears the norm-out record, pass 2 reads the norm-in record. -/
def passBase (c : Chip) (k pass s : Nat) : Pass2 :=
  if pass = 1 then { pass2None with ws := atRun (nOut c k) (List.replicate 32800 0) }
  else if pass = 2 then (if normStale c k s then { pass2None with stale := true } else pass2Groups c k s [])
  else pass2None

/-- What a pass does at group g. -/
def passGroup (c : Chip) (k pass s g : Nat) : Pass2 :=
  if pass = 1 then
    let y := pass1Group c k s g ⟨0, 0, 0⟩
    { pass2None with ws := y.2.2 ++ atRun (nOut c k + 32 + 8 * g) (normWords y.2.1), flags := pass1Flags c k g }
  else if pass = 2 then
    (if normStale c k s then pass2None else pass2Groups c k s [g])
  else skipGroup c k s g

/-- What an abandoned pass has done whose group in progress is g: the groups below it, a part of it, nothing
above it (R377, R382, R391). -/
def passPart (c : Chip) (k pass s g n : Nat) : Pass2 :=
  let done := (validGroups c k).filter (fun x => decide (x < g))
  let base := passBase c k pass s
  let x := done.foldl (fun x i => x.andThen (passGroup c k pass s i)) (if done.isEmpty then base.part (n + 4) else base)
  if (validGroups c k).contains g then x.andThen ((passGroup c k pass s g).part n) else x

/-- A pass that is abandoned (R392): no vote, its areas partly written, flags and counts of what it has done
(R80, R379, R400, R401). PMP_PROGRESS keeps the pass and the group. A pass 2 leaves the shard TORN (R472). -/
def pumpAbandon (k : Nat) (c : Chip) : Chip :=
  let p := (stackOf c k).pump
  if p.pass = 0 then c
  else
    let d := pumpProgress k c
    let w := passPart c k p.pass p.step.toNat (getF d (pmpB k) 0x01E 11 0) d.fresh
    let d := wrMarked { d with fresh := d.fresh + 8 } false w.ws
    let d := if p.pass = 1 then orF d (pmpB k) 0x020 4 0 w.flags else pass2Signs k w d
    modStack d k (fun x => { x with pump := { x.pump with pass := 0 }, torn := x.torn || p.pass != 1 })

end Sys2Proof.Machine
end

