-- ==== Sys2Proof/Machine/Tile.lean ====
section
/-! DEFINITION. The tile instructions at their issue slot (spec/06_tiles_and_matrix_arrays.md R209 to R231,
R239 to R245, R247): the tile causes in the order of R219, the address checks of R228, the operands they
latch. What an instruction does when it commits is in Machine/TileCommit.lean. -/

namespace Sys2Proof.Machine

/-! ### Address checks (R228) -/

/-- One word of a run (R120, R36, R146, R148). -/
def wordFault (c : Chip) (u : StrandId) (wr base31 : Bool) (ea : W64) : Option Exc :=
  addrFault c u base31 wr ea 1 1

/-- The words of a run from word i on. -/
def segWords (c : Chip) (u : StrandId) (wr : Bool) (s : Seg) (i : Nat) : Nat → Option Exc
  | 0 => none
  | n + 1 =>
    match wordFault c u wr s.base31 (s.start + BitVec.ofNat 64 i) with
    | some e => some e
    | none => segWords c u wr s (i + 1) n

/-- The first failure of the runs in order (R228). -/
def segsFault (c : Chip) (u : StrandId) (wr : Bool) : List Seg → Option Exc
  | [] => none
  | s :: r =>
    if s.al && s.start.toNat % 16 != 0 then some ⟨0x07, 0, s.start.toNat % 2 ^ 48⟩
    else
      match segWords c u wr s 0 s.n with
      | some e => some e
      | none => segsFault c u wr r

/-! ### The tile causes (R219) -/

/-- The first of several conditions. -/
def firstExc : List (Option Exc) → Option Exc
  | [] => none
  | some e :: _ => some e
  | none :: r => firstExc r

/-- Tile ownership: TMASK bits an instruction needs (R209). -/
def ownFault (st : Strand) (bits : List Nat) : Option Exc :=
  (minOf (bits.filter (fun b => !natBit (tcreg st 1).toNat b))).map (fun b => ⟨0x22, b, 0⟩)

/-- Tile hazard: tc registers with a pending write (R213). -/
def tcHazard (st : Strand) (tcs : List Nat) : Option Exc :=
  (minOf (tcs.filter (fun n => st.pend.any (fun w => w.reg == tcR n)))).map (fun n => ⟨0x29, n, 0⟩)

/-- Tile queue: parked instructions (R245). -/
def parkedFault (st : Strand) : Option Exc := if st.parked.isEmpty then none else some ⟨0x26, 1, 0⟩

/-- The tc registers that a queued tile instruction reads at its slot (R222) or writes: TFLAGS of TMAC and
TACC.READ (R213, R214). -/
def tileTcs : TileKind → List Nat
  | .tmac .. | .taccRead .. => [0, 2, 3, 4, 6]
  | _ => [0, 3, 4, 6]

/-- Slot s of array a as the earlier tile instructions of the strand leave its OPEN (R223). -/
def openAfter (a sl : Nat) (now : Bool) : List TileOp → Bool
  | [] => now
  | op :: r =>
    match op.kind with
    | .taccZero s' a' _ _ => openAfter a sl (if s' = sl ∧ a' = a then true else now) r
    | .taccRead s' a' _ _ _ _ => openAfter a sl (if s' = sl ∧ a' = a then false else now) r
    | _ => openAfter a sl now r

/-- Slot closed (R233). -/
def closedFault (c : Chip) (u : StrandId) (a sl : Nat) : Option Exc :=
  if openAfter a sl (slotOf c u.core (slotKey a sl)).opened (strandOf c u).flight then none
  else some ⟨0x25, 32 * a + sl, 0⟩

/-- Tile poison (R208). -/
def tilePois (c : Chip) (u : StrandId) (t : Nat) : Option Exc :=
  if (tileOf c u.core t).pois then some ⟨0x27, t, 0⟩ else none

/-- A tile load in flight writes t: a reader of t waits for its commit (R208). -/
def loadsTile (st : Strand) (t : Nat) : Bool :=
  st.flight.any (fun op => match op.kind with | .tld t' _ _ | .tldT t' _ _ => t' == t | _ => false)

/-- A fifth tile instruction waits (R221). -/
def queueFull (st : Strand) : Bool := decide (4 ≤ st.flight.length)

/-- Tile operand, with a reason (R220). -/
def operandFault (bad : Bool) (reason : Nat) : Option Exc := if bad then some ⟨0x24, reason, 0⟩ else none

/-- Put a tile instruction in flight with its latched operands. -/
def launch (u : StrandId) (k : TileKind) (c : Chip) : Chip :=
  let st := strandOf c u
  let op := tileOp k (tcreg st 0) (tcreg st 3) (tcreg st 4) (tcreg st 6) st.nextId
  modStrand c u (fun st => { st with flight := st.flight ++ [op], nextId := st.nextId + 1 })

/-! ### The instructions -/

/-- Checks 1 to 5 of R216. -/
def shapeCheck (d : W64) : Option Nat :=
  let af := shAF d
  let wf := shWF d
  if af = 7 ∨ wf = 7 then some 1
  else if d.toNat / 2 ^ 16 ≠ 0 then some 2
  else if (qOf af).isSome ≠ (qOf wf).isSome then some 3
  else if (af = 2) ≠ (wf = 2) then some 4
  else if (ieeeOf af).isSome ∧ af ≠ wf then some 5
  else none

def execTshape (u : StrandId) (g : Fin 32) (s : State) : Ans :=
  onChip s (fun c =>
    let st := strandOf c u
    let d := regVal c u g
    issue c u { word := insnWord (.tshape u g), srcs := [g.val],
                last := firstExc [tcHazard st [0],
                  if st.flight.isEmpty && st.parked.isEmpty then none
                  else some ⟨0x20, st.parked.length * 8 + st.flight.length, 0⟩,
                  (shapeCheck d).map (fun n => ⟨0x21, n, 0⟩)],
                hold := queueFull st, act := fun c => putReg c u (tcR 0) 1 d })

def execTmfc (u : StrandId) (g : Fin 32) (tc : Fin 8) (s : State) : Ans :=
  onChip s (fun c =>
    let st := strandOf c u
    issue c u { word := insnWord (.tmfc u g tc), dsts := [(g.val, 2)], last := tcHazard st [tc.val],
                hold := tc.val == 2 && !st.flight.isEmpty,
                act := fun c => putReg c u g 2 (if tc.val = 7 then 0 else regVal c u (tcR tc)) })

/-- The width of what TMTC may write (R211, R212). -/
def tcWidth : Nat → Nat
  | 1 => 10 | 2 => 5 | 4 => 40 | _ => 64

/-- Bits s of the strands, the writer apart, whose TMASK shares a bit with the new value (R210). -/
def overlaps (c : Chip) (u : StrandId) (v : W64) : Nat :=
  ((List.range 8).filter (fun i => i != u.strand.val &&
    (tcreg (tget strandReset (coreOf c u.core).strands i) 1 &&& v) != 0)).foldl (fun a i => a + 2 ^ i) 0

def execTmtc (u : StrandId) (g : Fin 32) (tc : Fin 8) (s : State) : Ans :=
  onChip s (fun c =>
    let st := strandOf c u
    let v := regVal c u g
    issue c u { word := insnWord (.tmtc u g tc), srcs := [g.val],
                illegal := tc.val == 0 || tc.val == 5 || tc.val == 7 || decide (2 ^ tcWidth tc ≤ v.toNat),
                priv := tc.val == 1 && level st != 2,
                last := firstExc [
                  if tc.val = 1 ∧ overlaps c u v ≠ 0 then some ⟨0x23, overlaps c u v, 0⟩ else none,
                  tcHazard st [tc.val],
                  if tc.val = 1 then
                    (if !st.parked.isEmpty then some ⟨0x26, 1, 0⟩ else if !st.flight.isEmpty then some ⟨0x26, 0, 0⟩ else none)
                  else none],
                hold := tc.val == 2 && !st.flight.isEmpty,
                act := fun c => putReg c u (tcR tc) 3 v })

/-- TQDROP (R247, R218). -/
def execTqdrop (u : StrandId) (s : State) : Ans :=
  onChip s (fun c =>
    let st := strandOf c u
    issue c u { word := insnWord (.tqdrop u), priv := level st == 0, hold := queueFull st,
                act := fun c => modStrand c u (fun st => { st with parked := [] }) })

/-- TFENCE (R225, R245). -/
def execTfence (u : StrandId) (s : State) : Ans :=
  onChip s (fun c =>
    let st := strandOf c u
    issue c u { word := insnWord (.tfence u), last := parkedFault st, hold := !st.flight.isEmpty })

/-- A tile instruction that enters the queue: its TMASK bits, its operand conditions, the tile register it reads, its
memory runs. -/
def tileIssue (w : W32) (u : StrandId) (illegal : Bool) (srcs bits : List Nat) (mid : List (Option Exc)) (rd : Option Nat)
    (wr : Bool) (segs : List Seg) (k : TileKind) (c : Chip) : Chip :=
  let st := strandOf c u
  issue c u { word := w, illegal := illegal, srcs := srcs,
              last := firstExc ([ownFault st bits, tcHazard st (tileTcs k), parkedFault st] ++ mid ++
                [match rd with | some t => tilePois c u t | none => none, segsFault c u wr segs]),
              hold := queueFull st || (match rd with | some t => loadsTile st t | none => false),
              act := launch u k }

def curAF (c : Chip) (u : StrandId) : Nat := shAF (tcreg (strandOf c u) 0)
def curWF (c : Chip) (u : StrandId) : Nat := shWF (tcreg (strandOf c u) 0)

/-- The g registers read: the exponent plane's only for a block format (R226, R231). -/
def planeSrcs (fmt : Nat) (ra rb : Fin 32) : List Nat := if (qOf fmt).isSome then [ra.val, rb.val] else [ra.val]

def execTld (u : StrandId) (t : Fin 8) (ra rb : Fin 32) (s : State) : Ans :=
  onChip s (fun c =>
    let st := strandOf c u
    let x := regVal c u ra
    let y := regVal c u rb
    tileIssue (insnWord (.tld u t ra rb)) u false (planeSrcs (curAF c u) ra rb) [t.val] [] none false
      (planeSegs (curAF c u) (shM (tcreg st 0)) x y (tcreg st 6) (ra.val == 31) (rb.val == 31)) (.tld t x y) c)

def execTldT (u : StrandId) (t : Fin 8) (ra rb : Fin 32) (s : State) : Ans :=
  onChip s (fun c =>
    let st := strandOf c u
    let x := regVal c u ra
    tileIssue (insnWord (.tldT u t ra rb)) u (rb.val != 0) [ra.val] [t.val] [operandFault (qOf (curAF c u)).isSome 3] none false
      (transSegs (curAF c u) (shM (tcreg st 0)) x (tcreg st 6) (ra.val == 31)) (.tldT t x (regVal c u rb)) c)

def execTst (u : StrandId) (t : Fin 8) (ra rb : Fin 32) (s : State) : Ans :=
  onChip s (fun c =>
    let st := strandOf c u
    let x := regVal c u ra
    let y := regVal c u rb
    tileIssue (insnWord (.tst u t ra rb)) u false (planeSrcs (curAF c u) ra rb) [t.val] [] (some t) true
      (planeSegs (curAF c u) (shM (tcreg st 0)) x y (tcreg st 6) (ra.val == 31) (rb.val == 31)) (.tst t x y) c)

def execTwld (u : StrandId) (a : Fin 2) (ra rb : Fin 32) (s : State) : Ans :=
  onChip s (fun c =>
    let x := regVal c u ra
    let y := regVal c u rb
    tileIssue (insnWord (.twld u a ra rb)) u false (planeSrcs (curWF c u) ra rb) [8 + a.val] [] none false
      (weightSegs (curWF c u) x y (ra.val == 31) (rb.val == 31)) (.twld a x y) c)

def execTwldT (u : StrandId) (a : Fin 2) (ra rb : Fin 32) (s : State) : Ans :=
  onChip s (fun c =>
    let x := regVal c u ra
    let y := regVal c u rb
    tileIssue (insnWord (.twldT u a ra rb)) u false (planeSrcs (curWF c u) ra rb) [8 + a.val]
      [operandFault (curWF c u == 2) 4] none false
      (weightSegs (curWF c u) x y (ra.val == 31) (rb.val == 31)) (.twldT a x y) c)

def execTmac (u : StrandId) (sl : Fin 32) (a : Fin 2) (t : Fin 8) (b : Fin 8) (swap sr : Bool) (s : State) : Ans :=
  onChip s (fun c =>
    let af := curAF c u
    tileIssue (insnWord (.tmac u sl a t b swap sr)) u false [] [t.val, 8 + a.val]
      [operandFault (decide (tGroups af ≤ b.val) || (af == 2 && b.val % 2 == 1)) 1, closedFault c u a sl] (some t) false []
      (.tmac sl a t b swap sr) c)

def execTaccZero (u : StrandId) (sl : Fin 32) (a : Fin 2) (ra rb : Fin 32) (s : State) : Ans :=
  onChip s (fun c =>
    let d := regVal c u ra
    let b := regVal c u rb
    let amode := natBits d.toNat 1 0
    tileIssue (insnWord (.taccZero u sl a ra rb)) u false [ra.val, rb.val] [8 + a.val]
      [operandFault (amode == 3 || decide (2 ^ 24 ≤ d.toNat)) 5,
       operandFault (amode != 0 && (!ownRoom u.core b.toNat || b.toNat % 16 != 0)) 6] none false []
      (.taccZero sl a d b) c)

def execTaccRead (u : StrandId) (sl : Fin 32) (a : Fin 2) (t : Fin 8) (fmt rm b : Fin 8) (s : State) : Ans :=
  onChip s (fun c =>
    tileIssue (insnWord (.taccRead u sl a t fmt rm b)) u (fmt.val == 7 || decide (5 < rm.val)) [] [t.val, 8 + a.val]
      [operandFault (decide (tGroups fmt ≤ b.val)) 2] none false [] (.taccRead sl a t fmt rm b) c)

def execTaccSpill (u : StrandId) (sl : Fin 32) (a : Fin 2) (ra : Fin 32) (z : Bool) (s : State) : Ans :=
  onChip s (fun c =>
    let x := regVal c u ra
    tileIssue (insnWord (.taccSpill u sl a ra z)) u false [ra.val] [8 + a.val] [] none true
      (spillSegs x (tcreg (strandOf c u) 6) (ra.val == 31)) (.taccSpill sl a x z) c)

end Sys2Proof.Machine
end

