-- ==== Sys2Proof/Machine/TileCommit.lean ====
section
/-! DEFINITION. The commit of a tile instruction (spec/06_tiles_and_matrix_arrays.md R208, R223, R226 to R243,
R600; spec/07_accumulation_and_reduction.md R256 to R274), and the requests that come before it (R283 to R286,
R329). The oldest instruction in flight of the strand commits, whole. -/

namespace Sys2Proof.Machine

/-! ### Loads and stores -/

/-- One row of TLD: its data words, its exponent bytes; the third exponent word of Q6 gives one byte (R226). -/
def tldRow (c : Chip) (spec : Bool) (op : TileOp) (ra rb : W64) (r : Nat) (x : Tile × Bool) : Tile × Bool :=
  let af := shAF op.shape
  let ws := opWords c spec op (rowAt ra (tES op.tstr) r).toNat (tGroups af * tGroupWords af)
  let es := opNat c spec op (rowAt rb (tXS op.tstr) r).toNat (tExpWords af)
  let t := setTData x.1 (64 * r) (ws.map Prod.fst)
  let t := if (qOf af).isSome then
    (List.range (tGroups af)).foldl (fun t b => setTExp t r b (es.1 / 2 ^ (8 * b) % 256)) t else t
  (t, x.2 || ws.any Prod.snd || es.2)

/-- One row of TLD.T: element i from memory row i (R227). -/
def tldTRow (c : Chip) (spec : Bool) (op : TileOp) (ra : W64) (r : Nat) (x : Tile × Bool) : Tile × Bool :=
  let af := shAF op.shape
  let w := tElemWords af
  let ws := (List.range (32 * tGroups af)).flatMap (fun i =>
    opWords c spec op (rowAt ra (tES op.tstr) i + BitVec.ofNat 64 (r * w)).toNat w)
  (setTData x.1 (64 * r) (ws.map Prod.fst), x.2 || ws.any Prod.snd)

/-- A load's commit: rows below M, then the poison bit (R208). -/
def commitLoad (c : Chip) (u : StrandId) (op : TileOp) (t : Nat) (row : Nat → Tile × Bool → Tile × Bool) : Chip :=
  let m := shM op.shape
  let x := (List.range m).foldl (fun a r => row r a) (tileOf c u.core t, false)
  setTile c u.core t { x.1 with pois := if x.2 then true else if m = 32 then false else x.1.pois }

/-! ### Weights (R231, R232) -/

def commitWeights (c : Chip) (u : StrandId) (op : TileOp) (a : Nat) (ra rb : W64) (trans : Bool) : Chip :=
  let b := loadBank c (strandOf c u).spec op ra rb trans
  modCore c u.core (fun k => { k with banks := tput (fun _ => bankReset) k.banks (shadowBank k a) b })

/-! ### Block sums (R234, R600) -/

/-- A weight as TMAC reads it. -/
def cellVal (wf : Nat) (x : Cell) : FV := elemOf wf x.code x.exp 0

/-- The exact sum of finite values; a zero sum is -0 only when every product of an IEEE pair is -0 (PRESUMED, log
entry 24). -/
def exactSum (ieee : Bool) (l : List FV) : FV :=
  let e0 := l.foldl (fun a x => match x with | .fin _ _ e => min a e | _ => a) 0
  let s := l.foldl (fun (a : Int) x => match x with | .fin n m e => a + fscale n m e e0 | _ => a) 0
  if s = 0 then
    .fin (ieee && l.all (fun x => match x with | .fin n m _ => n && m == 0 | _ => false)) 0 0
  else .fin (decide (s < 0)) s.natAbs e0

/-- The block sum of one row and column: the products in k, a marked cell makes it the canonical NaN; flags. -/
def blockSum (ieee : Bool) (as : List FV) (ws : List (FV × Bool)) : FV × Nat :=
  if ws.any Prod.snd then (.nan false, fNV)
  else
    let ps := as.zipWith (fun a w => fvMul a w.1) ws
    if ps.any FV.isNan || (ps.contains (.inf true) && ps.contains (.inf false)) then (.nan false, fNV)
    else if ps.contains (.inf true) then (.inf true, 0)
    else if ps.contains (.inf false) then (.inf false, 0)
    else (exactSum ieee ps, 0)

/-- round(s + B) (R235). -/
def addBlock (rm bits s : Nat) (b : FV × Nat) : Nat × Nat :=
  let x := fdec fmtFP32 s
  let r := fenc fmtFP32 rm bits (fvAdd rm x b.1)
  (r.1, forr (forr r.2 b.2) (nvOf [x]))

/-! ### Slots -/

/-- Every element +0. -/
def slotZero (sl : Slot) : Slot := { sl with vals := [], unspec := none }
/-- Set every element. -/
def slotSet (sl : Slot) (l : List Nat) : Slot :=
  { slotZero sl with vals := tputs (fun _ => 0) [] (l.zipIdx.map (fun p => (p.2, BitVec.ofNat 32 p.1))) }

/-- The output element index of R235 and R240. -/
def outIndex (sl : Slot) (r n : Nat) : Nat := (sl.ebase + r * sl.estride + n) % 2 ^ 40

/-- The chunk index of block q (R256) and the key of R257. -/
def chunkOf (sl : Slot) (q : Nat) : Nat := sl.j0 + q / sl.cblk
def chunkKey (sl : Slot) (q : Nat) : Nat := if sl.amode = 2 then min (chunkOf sl q) 65535 else chunkOf sl q % 2 ^ 16

/-! ### The slot buffer (R266 to R273) -/

/-- Who reaches a buffer: the committing strand and its slot. -/
structure BufAt where
  u : StrandId
  key : Nat

/-- An access to a buffer: its first word, how many, whether it writes. -/
structure BufAcc where
  addr : Nat
  n : Nat
  wr : Bool
  deriving DecidableEq, Repr

/-- Work at a slot buffer: it notes its accesses, or ends at a failed one with the kind bits of DETAIL and the
failing word (R270). -/
abbrev Buf (α : Type) := StateT (List BufAcc) (Except (Nat × Nat)) α

/-- The first of n words that the spill path does not reach (R270). -/
def bufBad (x : BufAt) (c : Chip) (wr : Bool) (a : Nat) : Nat → Option Nat
  | 0 => none
  | n + 1 =>
    let st := strandOf c x.u
    if ownRoom x.u.core a && reaches c x.u.core (level st) wr st.spec a then bufBad x c wr (a + 1) n else some a

/-- A read of n words. -/
def bufRd (x : BufAt) (c : Chip) (a n : Nat) : Buf (List (Word × Bool)) := fun l =>
  match bufBad x c false a n with
  | some f => .error (0, f)
  | none => .ok (rdWords c (strandOf c x.u).spec a n, l ++ [⟨a, n, false⟩])

/-- A write of words. -/
def bufWr (x : BufAt) (c : Chip) (a : Nat) (ws : List Word) : Buf Chip := fun l =>
  match bufBad x c true a ws.length with
  | some f => .error (2 ^ 14, f)
  | none => .ok (wrOwn (some (x.u.core.val, x.key)) c (strandOf c x.u).spec (atRun a ws), l ++ [⟨a, ws.length, true⟩])

/-- Word 0 and entry words of a buffer. -/
def levelAt (buf e : Nat) : Nat := buf + 0x010 + e
def entryAt (buf e : Nat) : Nat := buf + 0x020 + e * 0x800

/-- DEPTH, taken at its maximum when above it, and whether its word is poisoned (R272). -/
def rdDepth (x : BufAt) (c : Chip) (sl : Slot) : Buf (Nat × Bool) := do
  let w ← bufRd x c sl.buf 1
  let v := match w with | (w, p) :: _ => (w.toNat % 32, p) | [] => (0, false)
  pure (min v.1 (if sl.amode = 1 then 1 else 16), v.2)

/-- LEVEL of entry e (R272). -/
def rdLevel (x : BufAt) (c : Chip) (sl : Slot) (e : Nat) : Buf (Nat × Bool) := do
  let w ← bufRd x c (levelAt sl.buf e) 1
  let v := match w with | (w, p) :: _ => (w.toNat % 32, p) | [] => (0, false)
  pure (min v.1 16, v.2)

/-- Pairs of words as FP32 totals with their poison. -/
def totalsOf : List (Word × Bool) → List (Nat × Bool)
  | a :: b :: r => (a.1.toNat + 65536 * b.1.toNat, a.2 || b.2) :: totalsOf r
  | _ => []

/-- The totals of entry e. -/
def rdEntry (x : BufAt) (c : Chip) (sl : Slot) (e : Nat) : Buf (List (Nat × Bool)) := do
  let ws ← bufRd x c (entryAt sl.buf e) 2048
  pure (totalsOf ws)

def wrEntry (x : BufAt) (c : Chip) (sl : Slot) (e : Nat) (v : List Nat) : Buf Chip :=
  bufWr x c (entryAt sl.buf e) (v.flatMap (fun n => natWords n 2))

/-- entry ⊕ v by element: a poisoned total becomes the canonical NaN (R258, R272). -/
def combine (es : List (Nat × Bool)) (v : List Nat) : List Nat × Nat :=
  let r := es.zipWith (fun e y => if e.2 then (qnan fmtFP32, fNV) else fplus e.1 y) v
  (r.map Prod.fst, r.foldl (fun a e => forr a e.2) 0)

/-- Every total the canonical NaN, NV set, when a header word was poisoned (R272). -/
def nanIf (p : Bool) (v : List Nat) (flags : Nat) : List Nat × Nat :=
  if p then (v.map (fun _ => qnan fmtFP32), forr flags fNV) else (v, flags)

/-- The climb of a TREE promotion (R268): value, level, node number, depth, flags, poison of header words. -/
def climb (x : BufAt) (c : Chip) (sl : Slot) : Nat → List Nat → Nat → Nat → Nat → Nat → Bool →
    Buf (List Nat × Nat × Nat × Nat × Bool)
  | 0, v, l, _, d, fl, p => pure (v, l, d, fl, p)
  | fuel + 1, v, l, m, d, fl, p =>
    if m % 2 = 0 then pure (v, l, d, fl, p)
    else if d = 0 then climb x c sl fuel v (l + 1) (m / 2) d fl p
    else do
      let lv ← rdLevel x c sl (d - 1)
      if lv.1 = l then
        let e ← rdEntry x c sl (d - 1)
        let r := combine e v
        climb x c sl fuel r.1 (l + 1) (m / 2) (d - 1) (forr fl r.2) (p || lv.2)
      else climb x c sl fuel v (l + 1) (m / 2) d fl (p || lv.2)

/-- Write DEPTH with the rest of the buffer's header, which the tile unit writes 0 (R266; log entry 55). -/
def wrDepth (x : BufAt) (c : Chip) (sl : Slot) (d : Nat) : Buf Chip := bufWr x c sl.buf (BitVec.ofNat 16 d :: List.replicate 15 0)

/-- Write the chunk total, level and depth. A stack that a foreign write has left with 16 entries in use takes the total
in its last entry (R271). -/
def pushEntry (x : BufAt) (c : Chip) (sl : Slot) (d l : Nat) (v : List Nat) : Buf Chip := do
  let e := min d 15
  let c ← wrEntry x c sl e v
  let c ← bufWr x c (levelAt sl.buf e) [BitVec.ofNat 16 l]
  wrDepth x c sl (e + 1)

/-- A promotion of chunk j (R268): the buffer, the slot at +0, the flags. -/
def promote (x : BufAt) (c : Chip) (sl : Slot) (j : Nat) : Buf (Chip × Slot × Nat) := do
  let a := slotAll sl
  let d ← rdDepth x c sl
  if sl.amode = 1 then
    if d.1 = 0 then
      let v := nanIf d.2 a 0
      let c ← pushEntry x c sl 0 0 v.1
      pure (c, { slotZero sl with promoted := true }, v.2)
    else
      let e ← rdEntry x c sl 0
      let r := combine e a
      let v := nanIf d.2 r.1 r.2
      let c ← wrEntry x c sl 0 v.1
      pure (c, { slotZero sl with promoted := true }, v.2)
  else
    let r ← climb x c sl 17 a 0 j d.1 0 d.2
    let v := nanIf r.2.2.2.2 r.1 r.2.2.2.1
    let c ← pushEntry x c sl r.2.2.1 r.2.1 v.1
    pure (c, { slotZero sl with promoted := true }, v.2)

/-- The fold of a TREE close from the top of the stack down (R269). -/
def foldStack (x : BufAt) (c : Chip) (sl : Slot) : Nat → Option (List Nat) → Nat → Buf (Option (List Nat) × Nat)
  | 0, v, fl => pure (v, fl)
  | e + 1, v, fl => do
    let es ← rdEntry x c sl e
    match v with
    | none =>
      let r := es.map (fun t => if t.2 then (qnan fmtFP32, fNV) else (t.1, 0))
      foldStack x c sl e (some (r.map Prod.fst)) (r.foldl (fun a t => forr a t.2) fl)
    | some y =>
      let r := combine es y
      foldStack x c sl e (some r.1) (forr fl r.2)

/-- The close of an OPEN CHUNK or TREE slot (R263, R269): the buffer, the slot with its result, the flags. A slot whose
buffer something else wrote has a result that is not specified (R271). -/
def closeSlot (x : BufAt) (c : Chip) (sl : Slot) : Buf (Chip × Slot × Nat) := do
  let p := slotAll sl
  let part := decide (sl.bcount % sl.cblk ≠ 0) || (decide (0 < sl.bcount) && !sl.promoted)
  let d ← rdDepth x c sl
  let r ←
    if sl.amode = 1 then
      if d.1 = 0 then pure (p, 0)
      else do
        let e ← rdEntry x c sl 0
        if part then pure (combine e p)
        else
          let r := e.map (fun t => if t.2 then (qnan fmtFP32, fNV) else (t.1, 0))
          pure (r.map Prod.fst, r.foldl (fun a t => forr a t.2) 0)
    else do
      let last := decide (0 < sl.bcount) && decide (65535 ≤ chunkOf sl (sl.bcount - 1))
      let f ← foldStack x c sl d.1 (if part || last then some p else none) 0
      pure (f.1.getD (p.map (fun _ => 0)), f.2)
  let v := nanIf d.2 r.1 r.2
  let c ← wrDepth x c sl 0
  if sl.spoiled then
    pure ({ c with fresh := c.fresh + 1 }, { sl with vals := [], unspec := some (65536 + c.fresh) }, v.2)
  else pure (c, slotSet sl v.1, v.2)

/-! ### TMAC (R232 to R237) -/

/-- The rows below m and columns below n of a slot. -/
def cellsBelow (m n : Nat) : List (Nat × Nat) :=
  (List.range m).flatMap (fun r => (List.range n).map (fun k => (r, k)))

/-- One block sum added into the slot's elements: the new elements and the flags. -/
def addBlocks (c : Chip) (op : TileOp) (t : Tile) (bk : Bank) (sl : Slot) (g k0 : Nat) (sr : Bool) : Slot × Nat :=
  let af := shAF op.shape
  let wf := shWF op.shape
  let rm := if sr then 5 else 0
  let rows := (List.range (shM op.shape)).map (fun r => groupVals t af r g)
  let cols := (List.range (shN op.shape)).map (fun n => (List.range 32).map (fun k =>
    match tget (fun _ => none) bk (32 * (k0 + k) + n) with
    | some x => (cellVal wf x, x.pois)
    | none => (.nan false, false)))
  let res := (cellsBelow (shM op.shape) (shN op.shape)).map (fun p =>
    let b := blockSum (ieeeOf af).isSome (rows.getD p.1 []) (cols.getD p.2 [])
    let bits := srBits c.seed sl.tensor (outIndex sl p.1 p.2) (chunkKey sl sl.bcount) 0
    (32 * p.1 + p.2, addBlock rm bits (slotVal sl (32 * p.1 + p.2)).toNat b))
  ({ sl with vals := tputs (slotDflt sl) sl.vals (res.map (fun e => (e.1, BitVec.ofNat 32 e.2.1))) },
    res.foldl (fun a e => forr a e.2.2) 0)

/-- Whether every cell that a block sum uses is specified: loaded, under the weight format of the shape (R600). -/
def cellsKnown (op : TileOp) (bk : Bank) (k0 : Nat) : Bool :=
  (List.range 32).all (fun k => (List.range (shN op.shape)).all (fun n =>
    match tget (fun _ => none) bk (32 * (k0 + k) + n) with
    | some x => x.wf == shWF op.shape
    | none => false))

/-- The same with cells that are not specified (R600): the elements and the flags are free. -/
def addFree (c : Chip) (op : TileOp) (sl : Slot) : Slot × Nat :=
  ({ sl with vals := tputs (slotDflt sl) sl.vals ((cellsBelow (shM op.shape) (shN op.shape)).map (fun p =>
      (32 * p.1 + p.2, Config.freeW32 (c.fresh + 32 * p.1 + p.2)))) }, (Config.freeFlags c.fresh).toNat)

/-- The blocks of a TMAC in order: add, count, promote at the end of a chunk (R256, R264, R265). -/
def macBlocks (x : BufAt) (op : TileOp) (t : Tile) (bk : Bank) (sr : Bool) :
    List (Nat × Nat) → Chip → Slot → Nat → Buf (Chip × Slot × Nat)
  | [], c, sl, fl => pure (c, sl, fl)
  | (g, k0) :: r, c, sl, fl => do
    let y : Slot × Nat := if cellsKnown op bk k0 then addBlocks c op t bk sl g k0 sr else addFree c op sl
    let c := { c with fresh := c.fresh + 1024 }
    let j := chunkOf sl sl.bcount
    let sl : Slot := { y.1 with bcount := (sl.bcount + 1) % 2 ^ 32 }
    let fl := forr fl y.2
    if sl.amode ≠ 0 ∧ sl.bcount % sl.cblk = 0 ∧ ¬ (sl.amode = 2 ∧ 65535 ≤ j) then
      let p ← promote x c sl j
      macBlocks x op t bk sr r p.1 p.2.1 (forr fl p.2.2)
    else macBlocks x op t bk sr r c sl fl

/-- OR flags into TFLAGS (R214). -/
def orTflags (c : Chip) (u : StrandId) (fl : Nat) : Chip :=
  modStrand c u (fun st => { st with tc := tput (fun _ => 0) st.tc 2 (tcreg st 2 ||| BitVec.ofNat 64 fl) })

/-- A multiply-accumulate at its commit. DESIGN CHOICE (log entry 62): one in flight, or parked and restarted,
when a buffer fault closes its slot (R270) acts as on an OPEN slot, since R233 tests OPEN at issue only. -/
def commitMac (c : Chip) (u : StrandId) (op : TileOp) (sl a t b : Nat) (swap sr : Bool) : Buf Chip := do
  let n := u.core.val
  let key := slotKey a sl
  let k := coreOf c n
  let bk := bankAt k (if swap then shadowBank k a else activeBank k a)
  let gs := if shAF op.shape = 2 then [(b, 0), (b + 1, 32)] else [(b, 0)]
  let r ← macBlocks ⟨u, key⟩ op (tileOf c n t) bk sr gs c (slotOf c n key) 0
  let c := setSlot r.1 n key { r.2.1 with spoiled := (slotOf r.1 n key).spoiled }
  let c := if swap then
    modCore c n (fun k => { k with active := tput (fun _ => false) k.active a (!tget (fun _ => false) k.active a) }) else c
  pure (orTflags c u r.2.2)

/-! ### TACC.ZERO, TACC.READ, TACC.SPILL (R239 to R242, R267, R274) -/

def commitZero (c : Chip) (u : StrandId) (op : TileOp) (sl a : Nat) (desc buf : W64) : Buf Chip := do
  let n := u.core.val
  let key := slotKey a sl
  let x : Slot := ⟨true, natBits desc.toNat 1 0, natBits desc.toNat 7 2 + 1, natBits desc.toNat 23 8, 0,
    natBits op.tebase.toNat 63 40, natBits op.tebase.toNat 39 0, natBits op.testride.toNat 39 0,
    natBits buf.toNat 47 0, false, [], none, false⟩
  let c ← if x.amode = 0 then pure c else bufWr ⟨u, key⟩ c x.buf [0]
  pure (setSlot c n key x)

/-- The conversion of one slot row into group b of tile row r. -/
def readRow (c : Chip) (sl : Slot) (fmt rm b r : Nat) (x : Tile × Nat) : Tile × Nat :=
  let vs := (List.range 32).map (fun n =>
    (fdec fmtFP32 (slotVal sl (32 * r + n)).toNat, srBits c.seed sl.tensor (outIndex sl r n) 0 1))
  let at0 := 64 * r + tGroupWords fmt * b
  match qOf fmt with
  | some f =>
    let q := qblock f rm vs
    let v := q.2.1.zipIdx.foldl (fun a e => a + e.1 * 2 ^ (f.bits * e.2)) 0
    (setTExp (setTData x.1 at0 (natWords v f.words)) r b q.1, forr x.2 q.2.2)
  | none =>
    let f := (ieeeOf fmt).getD fmtFP32
    let es := vs.map (fun v => fenc f rm v.2 v.1)
    (setTData x.1 at0 (es.flatMap (fun e => natWords e.1 (tElemWords fmt))), es.foldl (fun a e => forr a e.2) x.2)

def commitRead (c : Chip) (u : StrandId) (sl a t fmt rm b : Nat) : Buf Chip := do
  let n := u.core.val
  let key := slotKey a sl
  let s := slotOf c n key
  let r ← if s.opened && s.amode != 0 then closeSlot ⟨u, key⟩ c s else pure (c, s, 0)
  let c := setSlot r.1 n key { r.2.1 with opened := false }
  let y := (List.range 32).foldl (fun a i => readRow c r.2.1 fmt rm b i a) (tileOf c n t, r.2.2)
  pure (orTflags (setTile c n t y.1) u y.2)

def commitSpill (c : Chip) (u : StrandId) (op : TileOp) (sl a : Nat) (ra : W64) (z : Bool) : Chip :=
  let n := u.core.val
  let key := slotKey a sl
  let s := slotOf c n key
  let c := coreWrite c n (strandOf c u).spec (.tile n u.strand op.id) ((List.range 32).flatMap (spillRow s op ra))
  if z then setSlot c n key { slotZero s with spoiled := (slotOf c n key).spoiled } else c

/-! ### The commit -/

/-- A commit of one instruction. -/
def commitOp (c : Chip) (u : StrandId) (op : TileOp) : Buf Chip :=
  let sp := (strandOf c u).spec
  match op.kind with
  | .tld t ra rb => pure (commitLoad c u op t (tldRow c sp op ra rb))
  | .tldT t ra _ => pure (commitLoad c u op t (tldTRow c sp op ra))
  | .tst t ra rb =>
    pure (coreWrite c u.core sp (.tile u.core u.strand op.id)
      ((List.range (shM op.shape)).flatMap (tstRow (tileOf c u.core t) op ra rb)))
  | .twld a ra rb => pure (commitWeights c u op a ra rb false)
  | .twldT a ra rb => pure (commitWeights c u op a ra rb true)
  | .tmac sl a t b swap sr => commitMac c u op sl a t b swap sr
  | .taccZero sl a d b => commitZero c u op sl a d b
  | .taccRead sl a t fmt rm b => commitRead c u sl a t fmt rm b
  | .taccSpill sl a ra z => pure (commitSpill c u op sl a ra z)

/-- A commit with its accesses to the slot's buffer. -/
def commitRun (c : Chip) (u : StrandId) (op : TileOp) : Except (Nat × Nat) (Chip × List BufAcc) := (commitOp c u op).run []

/-- A fault at the slot buffer (R270): the commit writes nothing; the slot is CLOSED, its contents and its buffer not
specified; the strand owes the fault at its next slot, or at the WAIT that ended its lesson. -/
def bufferFault (c : Chip) (u : StrandId) (op : TileOp) (f : Nat × Nat) : Chip :=
  let c := match opSlot c u op with
    | some (key, sl) =>
      let c := loseBuffer c u sl
      setSlot { c with fresh := c.fresh + 1 } u.core key
        { slotOf c u.core key with opened := false, vals := [], unspec := some (65536 + c.fresh) }
    | none => c
  modStrand c u (fun st => { st with
    owed := st.owed ++ [⟨0x08, f.1, f.2⟩],
    run := if st.run = .ending then .active else st.run })

/-- The spill path asks for the lines of accesses to a slot's buffer (R275, R286). -/
def askBuf (u : StrandId) (op : TileOp) (l : List BufAcc) (c : Chip) : Chip :=
  l.foldl (fun c x =>
    if x.wr then askClsWrites c u.core (.tile u.core u.strand op.id)
      ((List.range x.n).map (fun i => physWr c (strandOf c u).spec (x.addr + i)))
    else askTile u op.id c x.addr x.n) c

/-- The strand's oldest tile instruction has made its requests. -/
def setAsked (u : StrandId) (op : TileOp) (c : Chip) : Chip := modOp u.core u.strand op.id (fun op => { op with asked := true }) c

/-- The strand's oldest tile instruction has committed. -/
def landOp (u : StrandId) (c : Chip) : Chip := modStrand c u (fun st => { st with flight := st.flight.drop 1 })

/-- What an instruction begins with: a load asks for its lines, a store or a spill writes its rows with their
requests, one that uses its slot's buffer asks for the words of it that it is going to read and write. A
buffer it does not reach ends it (R270). -/
def beginOp (u : StrandId) (op : TileOp) (c : Chip) : Chip :=
  match commitRun c u op with
  | .error f => bufferFault (landOp u c) u op f
  | .ok (c', l) => setAsked u op (if writesMem op.kind then c' else askBuf u op l (askOp u op c))

/-- It ends once its requests have been served: a store and a spill have written. -/
def endOp (u : StrandId) (op : TileOp) (c : Chip) : Chip :=
  if writesMem op.kind then landOp u c
  else
    match commitRun c u op with
    | .error f => bufferFault (landOp u c) u op f
    | .ok (c', _) => landOp u c'

/-- TILE_COMMIT: the oldest instruction in flight of the strand (R223, R237) makes its requests; when none is
outstanding, it commits, whole (DESIGN CHOICE, log entry 6: when the tile unit makes them is not given). -/
def tileCommit (u : StrandId) (c : Chip) : Chip :=
  match (strandOf c u).flight with
  | [] => c
  | op :: _ =>
    let c := if op.asked then c else beginOp u op c
    match (strandOf c u).flight with
    | [] => c
    | op' :: _ =>
      if op'.id ≠ op.id ∨ outstandingReq c (.tile u.core u.strand op.id) then c else endOp u op' c

def execTileCommit (u : StrandId) (s : State) : Ans := onChip s (tileCommit u)

end Sys2Proof.Machine
end

