-- ==== Sys2Proof/Machine/Registers.lean ====
section
/-! DEFINITION. The control space at work (spec/01_organisation.md R42 to R57, spec/00_scope.md R14 to R17): a register
write with everything it sets off, a read, and the states of a block from the RUN request to STOPPED. -/

namespace Sys2Proof.Machine

/-! ### Agreement checks (R52, R57, R304, R315, R350, R389, R396, R459) -/

/-- The first pair of a list whose rule does not hold. -/
def firstBad : List (Nat × Nat × Bool) → Option (Nat × Nat)
  | [] => none
  | (a, b, ok) :: r => if ok then firstBad r else some (a, b)

/-- The pairs of the classroom (R57, R315). -/
def pairsCls (c : Chip) (b : BlockId) : List (Nat × Nat × Bool) :=
  let en := getF c b 0x010 15 0
  let pg := getF c b 0x010 31 16
  let home := getF c b 0x01A 16 0
  let sh := getF c b 0x01C 16 0
  let sz := getF c b 0x01E 14 0
  [(0x0400, 0x0480, en &&& getF c b 0x012 15 0 == en), (0x0410, 0x0400, pg &&& en == pg),
   (0x0680, 0x0700, sz == 0 || decide (home + sz ≤ sh) || decide (sh + sz ≤ home)),
   (0x0680, 0x0780, decide (sz ≤ 16384) && decide (home + sz ≤ 0x1FC00)),
   (0x0700, 0x0780, decide (sh + sz ≤ 0x1FC00))]

/-- The pair of the DMA engine (R304). -/
def pairsDma (c : Chip) (b : BlockId) : List (Nat × Nat × Bool) :=
  let tags := getF c b 0x010 25 16
  let quota := getF c b 0x010 14 8
  [(0x0408, 0x0410, decide (1 ≤ tags) && decide (tags ≤ 512) && decide (1 ≤ quota) && decide (quota ≤ min 64 tags))]

/-- The pairs of the memory controller (R350). -/
def pairsHmc (c : Chip) (b : BlockId) : List (Nat × Nat × Bool) :=
  [(0x0400, 0x0410, getF c b 0x010 0 0 == 0 || decide (1 ≤ getF c b 0x010 23 16)),
   (0x0401, 0x0402, getF c b 0x010 1 1 == 0 || getF c b 0x010 2 2 == 1)]

/-- The pairs of the Pump (R396): a record is 32,800 words (R374). -/
def pairsPmp (c : Chip) (k : Nat) : List (Nat × Nat × Bool) :=
  let clip := (rawReg c (pmpB k) 0x010).toNat
  let o := nOut c k
  let i := nIn c k
  let inK := fun (a : Nat) => decide (k * 2 ^ 35 ≤ a) && decide (a + 32800 ≤ (k + 1) * 2 ^ 35)
  [(0x0400, 0x0400, fpZero clip || (fpFinite clip && fpNonneg clip)),
   (0x0480, 0x0580, o % 32 == 0 && i % 32 == 0 && inK o && inK i && (decide (o + 32800 ≤ i) || decide (i + 32800 ≤ o)))]

/-- The VALID curves of a Syllabus for which a rule fails. -/
def badCurves (c : Chip) (k : Nat) (ok : Curve → Bool) : List Nat :=
  (List.range 64).filter (fun n => natBit (curveReg c k n 0) 31 && !ok (curveOf c k n))

/-- The pairs of the Syllabus, with the first curve that fails each (R389). -/
def pairsSyl (c : Chip) (k : Nat) : List (Nat × Nat × List Nat) :=
  [(0x081C, 0x0B80, badCurves c k (fun v => v.shape == 0 || decide (1 ≤ v.decay))),
   (0x0B00, 0x0C00, badCurves c k (fun v => v.period == 0 || decide (v.warm < v.period)))]

/-- The pairs of a port (R459). -/
def pairsEth (c : Chip) (b : BlockId) : List (Nat × Nat × Bool) :=
  let f := fun (i : Nat) => getF c b 0x010 i i == 1
  let id := getF c b 0x010 27 16
  [(0x0409, 0x040A, !(f 9 && f 10)), (0x0409, 0x040B, !(f 9 && f 11)), (0x040A, 0x040B, !f 10 || f 11),
   (0x040B, 0x0480, !f 11 || getF c b 0x012 0 0 == 1),
   (0x040C, 0x0410, (!f 12 || (decide (1 ≤ id) && decide (id ≤ 4094))) && getF c b 0x010 7 6 != 3)]

/-- The first disagreeing pair of a block; a Syllabus shows the failing curve (R389). -/
def disagreement (c : Chip) (b : BlockId) : Option (Nat × Nat) × Chip :=
  match b with
  | .cls _ => (firstBad (pairsCls c b), c)
  | .dma _ => (firstBad (pairsDma c b), c)
  | .hmc _ => (firstBad (pairsHmc c b), c)
  | .pmp k => (firstBad (pairsPmp c k), c)
  | .eth _ => (firstBad (pairsEth c b), c)
  | .syl k =>
    match (pairsSyl c k).find? (fun p => !p.2.2.isEmpty) with
    | some (x, y, l) => (some (x, y), setF c b 0x010 5 0 (l.headD 0))
    | none => (none, c)
  | .mesh _ | .pci _ | .bel => (none, c)

/-- AGREEMENT_CHECK (R16, R46, R47), in cycles of the block's clock (R48, R574). -/
def agreementCheck (b : BlockId) (c : Chip) : Chip :=
  if bState c b ≠ 1 ∨ hasClock c b = false then c
  else
    let x := disagreement c b
    match x.1 with
    | some (fa, fb) =>
      let c := setF (setF (setState x.2 b 0) b 0x000 0 0 0) b 0x002 5 5 1
      setRaw c b 0x006 (BitVec.ofNat 32 (fa * 2 ^ 16 + fb))
    | none => settle b (setState c b 2)

/-! ### Stopping (R48, R49, R309, R319, R392) -/

/-- Close a classroom's speculation epoch; `commit` toggles SEL of every dirty line (R319). -/
def specClose (commit : Bool) (r : Nat) (c : Chip) : Chip :=
  let c := modRoom c r (fun m => { m with
    sel := if commit then m.dirty.foldl (fun t e =>
      tput (fun _ => false) t e.1 (e.2 != tget (fun _ => false) t e.1)) m.sel else m.sel,
    dirty := [] })
  setF (setF c (clsB r) 0x020 31 31 0) (clsB r) 0x020 16 0 0

/-- The strands of a classroom. -/
def roomStrands (r : Nat) : List StrandId :=
  (List.range 16).flatMap (fun p => (List.range 8).map (fun i => strandId (16 * r + p) i))

/-- What a core loses when its classroom stops without draining (R247, R273). -/
def tileDiscard (n : Nat) (c : Chip) : Chip :=
  modCore (cutCommits c n) n (fun k => { k with
    strands := tmap strandReset (fun _ st => { st with flight := [], parked := [] }) k.strands
    banks := [] })

/-- What a block loses at a hardware stop (R49, R247, R309, R319, R392). -/
def stopLoss (b : BlockId) (c : Chip) : Chip :=
  match b with
  | .cls r => specClose false r.val ((List.range 16).foldl (fun c p => tileDiscard (16 * r.val + p) c) c)
  | .dma r => dmaAbandon r.val c
  | .pmp k => pumpAbandon k.val c
  | .hmc k => dropStack k.val c
  | .mesh _ | .eth _ | .pci _ | .syl _ | .bel => c

/-- Hardware stops a block without draining it (R47, R49). -/
def stopHard (b : BlockId) (c : Chip) : Chip := if bState c b = 0 then c else hwStop (stopLoss b c) b

/-- Whether every value a strand's issued instructions owe is there, and no exception entry is in progress. -/
def strandQuiet (st : Strand) : Bool := st.flight.isEmpty && st.entering.isNone && allReady st

/-- Whether the operations a STOPPING block has accepted are finished (R48, R309). -/
def blockDry (c : Chip) (b : BlockId) : Bool :=
  match b with
  | .cls r => (roomStrands r.val).all (fun u => strandQuiet (strandOf c u)) &&
      (List.range 16).all (fun p => storesOut c (16 * r.val + p) == 0)
  | .dma r => (dmaOf c r.val).pieces.isEmpty
  | .hmc k => (stackOf c k.val).dram.all (fun e => e.2.q.isEmpty)
  | .mesh _ | .eth _ | .pci _ | .pmp _ | .syl _ | .bel => true

/-- The stop bound of a block in microseconds, where its chapter gives one. -/
def stopBound : BKind → Option Nat
  | .cls => some 50 | .dma => some 10 | .hmc => some 20 | .pmp => some 10 | .syl => some 2 | .eth => some 20
  | .bel => some 5 | .mesh => none | .pci => none

/-- What ends with a drained block: a DMA engine's unfinished descriptors (R309), a Pump's pass (R392). -/
def drainLoss (b : BlockId) (c : Chip) : Chip :=
  match b with
  | .dma r => modDma c r.val (fun e => { dmaReset with nextId := e.nextId })
  | .pmp k => pumpAbandon k.val c
  | _ => c

/-- BLOCK_DRAINED (R47, R48): STOPPED, and at once STARTING when RUN is 1 again. A block without its clock
does not drain (R574), and a hung one stays in STOPPING. -/
def blockDrained (b : BlockId) (c : Chip) : Chip :=
  if bState c b ≠ 3 ∨ blockDry c b = false ∨ hasClock c b = false ∨
      tget (fun _ => false) c.hung (blockKey b) = true then c
  else
    let took := c.nowUs - tget (fun _ => 0) c.stopAt (blockKey b)
    let late := match stopBound (blockKind b) with | some n => decide (n < took) | none => false
    let c := setState (drainLoss b c) b 0
    settle b (if late then setF c b 0x002 9 9 1 else c)

def execBlockDrained (blk : BlockId) (s : State) : Ans := onChip s (blockDrained blk)

/-- The Reeve of a block (R28, R40): of a classroom or its DMA engine that of its compute die. -/
def blockReeve : BlockId → Nat
  | .cls n => 4 + n.val / 16 | .dma n => 4 + n.val / 16 | b => blockNode b

/-- STOP_HUNG (R48): 1 ms is longer than every stop bound that a chapter gives. The block stays in STOPPING
until a reset. How the report's DATA names the block is not given: the model's own number of the block stands
there (DESIGN CHOICE, log entry 56). -/
def stopHung (b : BlockId) (c : Chip) : Chip :=
  if bState c b ≠ 3 then c
  else
    let c := if (stopBound (blockKind b)).isSome then setF c b 0x002 9 9 1 else c
    report { c with hung := tput (fun _ => false) c.hung (blockKey b) true } (blockReeve b) 0x0101 [blockKey b]

def execStopHung (blk : BlockId) (s : State) : Ans := onChip s (stopHung blk)

/-! ### Performance levels (R542) -/

/-- The level a classroom is to run: the highest-numbered of its request, its die's floor and the wear hold. -/
def levelAim (c : Chip) (r : Nat) : Nat :=
  max (max (getF c (clsB r) 0x028 2 0) (tget (fun _ => 0) c.floors (r / 16)))
    (if tget (fun _ => false) c.plHold (r / 16) then 1 else 0)

/-- Start a level change when the level in effect is another. -/
def aimLevel (r : Nat) (c : Chip) : Chip :=
  let t := levelAim c r
  modRoom c r (fun m => { m with levelTo := if t = getF c (clsB r) 0x028 6 4 then none else some t })

/-- LEVEL_CHANGE_DONE (R542). -/
def levelChangeDone (r : Nat) (c : Chip) : Chip :=
  match (roomOf c r).levelTo with
  | none => c
  | some t => modRoom (setF c (clsB r) 0x028 6 4 t) r (fun m => { m with levelTo := none })

def execLevelChangeDone (cl : Fin 64) (s : State) : Ans := onChip s (levelChangeDone cl.val)

/-! ### Writes with an effect of their own -/

/-- SCACHE_INV (R324): drop every cache entry of the cores the mask names. DESIGN CHOICE (log entry 61): a
fill under way installs nothing, as R326 says of CINV. -/
def scacheInv (r mask : Nat) (c : Chip) : Chip :=
  ((List.range 16).filter (natBit mask)).foldl (fun c p =>
    modCore c (16 * r + p) (fun k => { k with
      cache := [], fill := k.fill.map (fun f => { f with install := false }) })) c

def execScacheInv (cl : Fin 64) (mask : BitVec 16) (s : State) : Ans := onChip s (scacheInv cl.val mask.toNat)

/-- PAD_HOLD (R539): release the latched pads, unless the polder is off. -/
def padHold (b : BlockId) (c : Chip) : Chip :=
  match b with
  | .eth n => if tget (fun _ => false) c.portOff n.val then c else setF c b 0x022 0 0 0
  | .mesh n => if tget (fun _ => false) c.meshOn n.val then setF c b 0x010 0 0 0 else c
  | _ => c

def execPadHold (blk : BlockId) (s : State) : Ans := onChip s (padHold blk)

/-- PL_REQ (R542). -/
def plReq (r lvl : Nat) (c : Chip) : Chip := aimLevel r (setF c (clsB r) 0x028 2 0 lvl)

def execPlReq (cl : Fin 64) (lvl : Fin 8) (s : State) : Ans := onChip s (plReq cl.val lvl.val)

/-- CLK (R550): the cores leave the FIO. -/
def clkOn (r : Nat) (c : Chip) : Chip := setF c (clsB r) 0x028 17 17 1

def execClk (cl : Fin 64) (s : State) : Ans := onChip s (clkOn cl.val)

/-- The block of port n. -/
def ethB (n : Nat) : BlockId := .eth (Fin.ofNat 16 n)

/-- Key, salt, both SSCIs and KEY_LOADED of a port become 0. -/
def ethClear (n : Nat) (c : Chip) : Chip :=
  let c := (List.range 13).foldl (fun c i => setRaw c (ethB n) (0x030 + 2 * i) 0) c
  setF { c with ethKeys := tput (fun _ => 0) c.ethKeys n 0 } (ethB n) 0x012 0 0 0

/-- ETH_KEY_CLEAR (R460, R461). -/
def ethKeyClear (n : Nat) (c : Chip) : Chip :=
  if bState c (ethB n) ≠ 0 then cfgReject c (ethB n) (0x014 * 64) else ethClear n c

def execEthKeyClear (n : Fin 16) (s : State) : Ans := onChip s (ethKeyClear n.val)

/-- ETH_KEY_WRITE (R460, R461): register i of SAK0 to 7, SALT0 to 2, SSCI_TX, SSCI_RX; KEY_LOADED after all thirteen. -/
def ethKeyWrite (n i : Nat) (v : W32) (c : Chip) : Chip :=
  if bState c (ethB n) ≠ 0 then keyReject (ethB n) (0x030 + 2 * i) v c
  else
    let m := tget (fun _ => 0) c.ethKeys n ||| 2 ^ i
    let c := setRaw { c with ethKeys := tput (fun _ => 0) c.ethKeys n m } (ethB n) (0x030 + 2 * i) v
    if m = 2 ^ 13 - 1 then setF c (ethB n) 0x012 0 0 1 else c

def execEthKeyWrite (n : Fin 16) (i : Fin 13) (v : W32) (s : State) : Ans := onChip s (ethKeyWrite n.val i.val v)

/-- A write of HMC_CMD (R356): one discarded write counts once. -/
def hmcCmd (k v : Nat) (c : Chip) : Chip :=
  let b := hmcB k
  if bState c b ≠ 0 then
    (if natBit v 0 then cfgReject c b (0x01E * 64) else if natBit v 1 then cfgReject c b (0x01E * 64 + 1) else c)
  else
    let c := if natBit v 0 then wipe k c else c
    if natBit v 1 then hmcKeyClear k c else c

/-- A write of one register, with all it sets off. An odd offset names no register (R41). -/
def busWrite (b : BlockId) (off : Nat) (v : W32) (c : Chip) : Chip :=
  if off % 2 = 1 then c
  else if off = 0 then settle b (regWrite c b 0 v)
  else
    match b with
    | .cls n =>
      if off = 0x026 then scacheInv n.val (natBits v.toNat 31 16) (regWrite c b off v)
      else if off = 0x028 then aimLevel n.val (regWrite c b off v)
      else regWrite c b off v
    | .hmc n =>
      if off = 0x01E then hmcCmd n.val v.toNat c
      else if 0x020 ≤ off ∧ off ≤ 0x03E then hmcKeyWrite n.val ((off - 0x020) / 2) v c
      else regWrite c b off v
    | .eth n =>
      if off = 0x014 then (if natBit v.toNat 0 then ethKeyClear n.val c else c)
      else if off = 0x022 then (if natBit v.toNat 0 then padHold b c else c)
      else if 0x030 ≤ off ∧ off ≤ 0x048 then ethKeyWrite n.val ((off - 0x030) / 2) v c
      else regWrite c b off v
    | .mesh _ => if off = 0x010 then (if natBit v.toNat 0 then padHold b c else c) else regWrite c b off v
    | _ => regWrite c b off v

def execRegisterWrite (blk : BlockId) (off : BitVec 10) (v : W32) (s : State) : Ans :=
  onChip s (busWrite blk off.toNat v)

/-- RUN (R43, R47). -/
def setRun1 (b : BlockId) (v : Bool) (c : Chip) : Chip := busWrite b 0 (if v then 1 else 0) c

def execRun (blk : BlockId) (v : Bool) (s : State) : Ans := onChip s (setRun1 blk v)

/-- A read of one register: a Pump's progress moves on first (R399); its value is shown, its RC fields are
cleared (R14). -/
def busRead (b : BlockId) (off : Nat) (c : Chip) : Chip :=
  if off % 2 = 1 then { c with readOut := 0 }
  else
    let c := match b with | .pmp k => if off = 0x01E then pumpProgress k.val c else c | _ => c
    regReadClear { c with readOut := regRead c b off } b off

def execRcRead (blk : BlockId) (off : BitVec 10) (s : State) : Ans := onChip s (busRead blk off.toNat)

/-! ### The accumulator view (R36, R242) -/

/-- What a Prefect reads at a word of the accumulator view: a slot of a core whose classroom is STOPPED; none
where the view is not reached. -/
def accView (c : Chip) (a : Nat) : Option Word :=
  let o := a - 0x010010000000
  let core := o / 0x20000
  let w := slotVal (slotOf c core (slotKey (o / 0x10000 % 2) (o / 0x800 % 32))) (o % 0x800 / 2)
  if a < 0x010010000000 ∨ 1024 ≤ core ∨ bState c (clsB (coreRoom core)) ≠ 0 then none
  else some (if o % 2 = 0 then w.setWidth 16 else (w >>> 16).setWidth 16)

end Sys2Proof.Machine
end

