-- ==== Sys2Proof/Machine/Job.lean ====
section
/-! DEFINITION. The timetable image, the school map and the sleeper map as tables of words
(spec/11_timetables_and_bells.md R404 to R410, spec/12_network.md R438, spec/13_sleeper_copies_and_recovery.md
R463). -/

namespace Sys2Proof.Machine

/-- Word i of a map, and k words from i as one number, least significant first (R9). -/
def imgW (l : List Word) (i : Nat) : Nat := (l.getD i 0).toNat
def imgN (l : List Word) (i k : Nat) : Nat := wordsNat ((l.drop i).take k)

/-! ### The header (R404) -/

def Job.w (j : Job) (i : Nat) : Nat := imgW j.img i
def Job.n (j : Job) (i k : Nat) : Nat := imgN j.img i k
def Job.nper (j : Job) : Nat := j.w 5
def Job.firstStep (j : Job) : Nat := j.n 6 2
def Job.lastStep (j : Job) : Nat := j.n 8 2
def Job.schedDigest (j : Job) : Nat := j.n 10 4
def Job.linkLat (j : Job) : Nat := j.n 14 2
def Job.nles (j : Job) : Nat := j.n 37 2
def Job.nrng (j : Job) : Nat := j.n 39 2
def Job.ndma (j : Job) : Nat := j.n 41 2
def Job.nwin (j : Job) : Nat := j.n 43 2
def Job.nseg (j : Job) : Nat := j.n 45 2
def Job.dlog (j : Job) : Nat := j.n 47 3

/-! ### Periods (R408) -/

structure Per where
  vote : Bool
  pump : Nat
  every : Nat
  phase : Nat
  lfirst : Nat
  nl : Nat
  dfirst : Nat
  nd : Nat
  wfirst : Nat
  nw : Nat
  budget : Nat
  hang : Nat
  deriving DecidableEq, Repr

/-- Period entry p. -/
def Job.per (j : Job) (p : Nat) : Per :=
  let b := j.n 16 3 + 16 * p
  ⟨natBit (j.w b) 15, natBits (j.w b) 14 13, j.w (b + 1), j.w (b + 2), j.n (b + 3) 2, j.w (b + 5), j.n (b + 6) 2, j.w (b + 8),
   j.n (b + 9) 2, j.w (b + 11), j.n (b + 12) 2, j.n (b + 14) 2⟩

/-- Whether a period runs in step s. -/
def Per.runsIn (p : Per) (s : Nat) : Bool := decide (p.every ≤ 1) || s % p.every == p.phase

/-! ### Lessons and ranges (R409) -/

structure Les where
  cl : Nat
  pos : Nat
  strand : Nat
  spec : Bool
  mode : Nat
  entry : Nat
  arg : Nat
  vmask : Nat
  tmask : Nat
  rfirst : Nat
  nr : Nat
  deriving DecidableEq, Repr

/-- Lesson entry i. -/
def Job.les (j : Job) (i : Nat) : Les :=
  let b := j.n 19 3 + 16 * i
  ⟨natBits (j.w b) 15 10, natBits (j.w b) 9 6, natBits (j.w b) 5 3, natBit (j.w b) 2, j.w (b + 1), j.n (b + 2) 3,
   j.n (b + 5) 4, j.n (b + 9) 2, natBits (j.w (b + 11)) 9 0, j.n (b + 12) 2, j.w (b + 14)⟩

/-- The lessons of a period, by table index. -/
def Job.lessons (j : Job) (p : Nat) : List (Nat × Les) :=
  (List.range (j.per p).nl).map (fun i => ((j.per p).lfirst + i, j.les ((j.per p).lfirst + i)))

/-- The strand a lesson names. -/
def Les.id (l : Les) : StrandId := ⟨Fin.ofNat 1024 (16 * l.cl + l.pos), Fin.ofNat 8 l.strand⟩

structure Rng where
  first : Nat
  count : Nat
  wr : Bool
  dyn : Bool
  out : Bool
  deriving DecidableEq, Repr

/-- Range entry i. -/
def Job.rng (j : Job) (i : Nat) : Rng :=
  let b := j.n 22 3 + 8 * i
  ⟨j.n b 3, j.n (b + 3) 3, natBit (j.w (b + 6)) 15, natBit (j.w (b + 6)) 14, natBit (j.w (b + 6)) 13⟩

/-- The ranges of a lesson. -/
def Job.ranges (j : Job) (l : Les) : List Rng := (List.range l.nr).map (fun i => j.rng (l.rfirst + i))

/-! ### DMA entries, windows, segments (R407, R410) -/

structure DmaEnt where
  cl : Nat
  list : Nat
  ndesc : Nat
  deadline : Nat
  deriving DecidableEq, Repr

/-- DMA entry i. -/
def Job.dmaEnt (j : Job) (i : Nat) : DmaEnt :=
  let b := j.n 25 3 + 8 * i
  ⟨natBits (j.w b) 15 10, j.n (b + 1) 3, j.w (b + 4), j.n (b + 5) 2⟩

/-- The DMA entries of a period, by table index. -/
def Job.dmas (j : Job) (p : Nat) : List (Nat × DmaEnt) :=
  (List.range (j.per p).nd).map (fun i => ((j.per p).dfirst + i, j.dmaEnt ((j.per p).dfirst + i)))

/-- Window entry i. -/
def Job.win (j : Job) (i : Nat) : Win :=
  let b := j.n 28 3 + 16 * i
  ⟨natBit (j.w b) 15, natBits (j.w b) 14 11, natBits (j.w (b + 1)) 9 0, j.n (b + 2) 2, j.n (b + 4) 3, j.n (b + 7) 2,
   j.n (b + 9) 2, j.n (b + 11) 2, j.n (b + 13) 2, j.w (b + 15)⟩

/-- The windows of a period, by table index. -/
def Job.windows (j : Job) (p : Nat) : List (Nat × Win) :=
  (List.range (j.per p).nw).map (fun i => ((j.per p).wfirst + i, j.win ((j.per p).wfirst + i)))

structure SegEnt where
  dest : Nat
  len : Nat
  off : Nat
  deriving DecidableEq, Repr

/-- Segment entry i. -/
def Job.seg (j : Job) (i : Nat) : SegEnt :=
  let b := j.n 31 3 + 12 * i
  ⟨j.n b 3, j.n (b + 3) 3, j.n (b + 6) 3⟩

/-- The words of protection entry n (R405). -/
def Job.prot (j : Job) (n i : Nat) : Nat := j.w (j.n 55 3 + 544 * n + i)
def Job.protN (j : Job) (n i k : Nat) : Nat := j.n (j.n 55 3 + 544 * n + i) k

/-! ### School map and sleeper map (R438, R463) -/

/-- Whether SCHOOL_PORTS marks a port. -/
def Job.schoolPort (j : Job) (p : Nat) : Bool := natBit (imgW j.map 0) p
/-- MAC address of port p of rank q, the first byte on the wire least significant. -/
def Job.mac (j : Job) (q p : Nat) : Nat := imgN j.map (16 + 176 * q + 11 * p) 3

/-- IPv6 address of port p of rank q, the first byte on the wire least significant. -/
def Job.ipv6 (j : Job) (q p : Nat) : Nat := imgN j.map (16 + 176 * q + 11 * p + 3) 8

def Job.interval (j : Job) : Nat := imgW j.smap 2
def Job.beginP (j : Job) : Nat := imgW j.smap 3
def Job.endP (j : Job) : Nat := imgW j.smap 4
def Job.nstream (j : Job) : Nat := natBits (imgW j.smap 5) 3 0
def Job.stamp (j : Job) : Nat := imgN j.smap 6 3
def Job.sleepBase (j : Job) : Nat := imgN j.smap 9 3
def Job.sleepWords (j : Job) : Nat := imgN j.smap 12 3
def Job.saddr (j : Job) (i : Nat) : Nat := imgN j.smap (16 + 4 * i) 3
def Job.draw (j : Job) (i : Nat) : Nat := imgW j.smap (19 + 4 * i)

/-- The partner of a rank in a school (R462). -/
def partnerOf (q size : Nat) : Option Nat :=
  let h := size / 2
  if q < 2 * h then some ((q + h) % (2 * h)) else none

/-! ### Digests (R86, R418, R429) -/

def mix64 (n : Nat) : Nat := (srMix (BitVec.ofNat 64 n)).toNat

/-- One word folded into a digest. -/
def foldWord (d w a : Nat) : Nat := mix64 (d ^^^ (w ||| (a * 65536 % 2 ^ 64)))

def foldPairs (d : Nat) : List (Nat × Nat) → Nat
  | [] => d
  | (w, a) :: r => foldPairs (foldWord d w a) r

/-- The pair digest of a window (R418). -/
def pairDigest (p wid src dst len : Nat) : Nat :=
  let z := mix64 (p * 2 ^ 32 + wid)
  let z := mix64 (z ^^^ (src * 2 ^ 32 + dst))
  mix64 (z ^^^ len)

end Sys2Proof.Machine
end

