-- ==== Sys2Proof/Machine/Module.lean ====
section
/-! DEFINITION. The named operations on the module: events and reports, ports and pigeonholes by number, refusal
counts, settings, frames of the bell tree. -/

namespace Sys2Proof.Machine

/-! ### Parts of the state -/

def onMod (s : State) (f : State → State) : Ans := .next (f s)
def modChip (f : Chip → Chip) (s : State) : State := { s with chip := f s.chip }
def modDev (f : Dev → Dev) (s : State) : State := { s with dev := f s.dev }
def modBoot (f : Boot → Boot) (s : State) : State := modDev (fun d => { d with boot := f d.boot }) s
def modWarden (f : Warden → Warden) (s : State) : State := modDev (fun d => { d with warden := f d.warden }) s
def modBell (f : Bell → Bell) (s : State) : State := modDev (fun d => { d with bell := f d.bell }) s
def modPower (f : Power → Power) (s : State) : State := modDev (fun d => { d with power := f d.power }) s
def modFlash (f : Flash → Flash) (s : State) : State := { s with flash := f s.flash }

def pcieOf (s : State) (p : Nat) : Pcie := tget (fun _ => pcieReset0) s.dev.pcie p
def modPcie (p : Nat) (f : Pcie → Pcie) (s : State) : State :=
  modDev (fun d => { d with pcie := tmod (fun _ => pcieReset0) d.pcie p f }) s
def ethOf (s : State) (p : Nat) : EthPort := tget (fun _ => ethReset) s.dev.eth p
def modEth (p : Nat) (f : EthPort → EthPort) (s : State) : State :=
  modDev (fun d => { d with eth := tmod (fun _ => ethReset) d.eth p f }) s

/-- The output pins of R585: module_pg is released while the always-on rails are good, therm_n is low while
the Breach is latched. -/
def modulePg (s : State) : Bool := s.dev.boot.rails
def thermN (s : State) : Bool := !s.dev.power.breach

/-- Phase 1 has ended (R580). -/
def powered (s : State) : Bool := decide (1 ≤ s.dev.boot.phase)
/-- Phase 2 has ended: the fuses are loaded, Prefects and Reeves answer on the ring (R580, R582). -/
def ringUp (s : State) : Bool := decide (2 ≤ s.dev.boot.phase)
/-- The Warden firmware runs: ROM flow passed, module not DEAD (R511), no RESET 0 answered, its last act (R578). -/
def fwUp (s : State) : Bool :=
  decide (3 ≤ s.dev.boot.phase) && s.dev.boot.dead.isNone && !s.dev.warden.resets.any (fun r => r.1 == 0)
/-- Whether a node is under reset: those of the compute dies during a compute reset (R576, R579). -/
def nodeInReset (s : State) (node : Nat) : Bool :=
  s.dev.boot.compReset && ((decide (4 ≤ node) && decide (node ≤ 7)) || decide (0x40 ≤ node))
def dstate (s : State) : Nat := s.dev.warden.dstate
def setDstate (v : Nat) (s : State) : State := modWarden (fun w => { w with dstate := v }) s

/-- Whether this device's shard is TORN (R472), and the shard made good again. -/
def shardTorn (s : State) : Bool := s.dev.bell.torn || (List.range 8).any (fun k => (stackOf s.chip k).torn)
def mendShard (s : State) : State :=
  modBell (fun b => { b with torn := false }) (modChip (fun c =>
    { c with stk := tmap (fun _ => stackReset) (fun _ x => { x with torn := false }) c.stk }) s)

/-- The loaded job. -/
def jobOf (s : State) : Option Job := s.dev.warden.job

/-- Take a fresh number for free values. -/
def freshOf (s : State) : Nat := s.chip.fresh
def tickFresh (n : Nat) (s : State) : State := modChip (fun c => { c with fresh := c.fresh + n }) s

/-- Bytes from the CTR_DRBG (R510). -/
def randBytes (s : State) (n : Nat) : List Byte := (List.range n).map (Config.drbg s.chip.fresh)

/-! ### Bytes -/

/-- A number as n bytes, least significant first, and back. -/
def natBytes (v : Nat) : Nat → List Byte
  | 0 => []
  | n + 1 => BitVec.ofNat 8 v :: natBytes (v / 256) n
def bytesNat : List Byte → Nat
  | [] => 0
  | b :: bs => b.toNat + 256 * bytesNat bs

/-- n bytes at i of a list, as a list and as a number. -/
def slice (l : List Byte) (i n : Nat) : List Byte := (l.drop i).take n
def sliceNat (l : List Byte) (i n : Nat) : Nat := bytesNat (slice l i n)

/-- The bytes of a table from i, and a run of bytes written into one. -/
def tbytes (d : Byte) (t : Table Byte) (i : Nat) : Nat → List Byte
  | 0 => []
  | n + 1 => tget (fun _ => d) t i :: tbytes d t (i + 1) n
def putBytes (d : Byte) (t : Table Byte) (i : Nat) : List Byte → Table Byte
  | [] => t
  | b :: bs => putBytes d (tput (fun _ => d) t i b) (i + 1) bs

/-- ASCII bytes of a label. -/
def ascii (s : String) : List Byte := s.toList.map (fun c => BitVec.ofNat 8 c.toNat)

/-- Bytes as device words: byte 2n is byte 0 of word n (R9). -/
def bytesWords : List Byte → List Word
  | a :: b :: r => (b ++ a) :: bytesWords r
  | [a] => [a.setWidth 16]
  | [] => []
def wordsBytes (ws : List Word) : List Byte := ws.flatMap (fun (w : Word) => [w.setWidth 8, (w >>> 8).setWidth 8])

/-! ### Events (spec/15 R535, spec/14 R489) -/

/-- Unit i of a port's MSI-X table: after a reset every vector is masked (PCIe; log entry 60). -/
def msixUnit (x : Pcie) (i : Nat) : W32 := tget (fun i => if i % 4 = 3 then 1 else 0) x.msix i

/-- Whether a port can send vector v now: MSI-X and Bus Master Enable are on (R483), nothing masks it, the
function is in D0. -/
def vectorFree (x : Pcie) (v : Nat) : Bool :=
  x.cfg.msixOn && x.cfg.bme && !x.cfg.msixMask && !x.cfg.d3hot && !(msixUnit x (4 * v + 3)).getLsbD 0

/-- Send the pending vectors that can be sent. -/
def flushVectors (x : Pcie) : Pcie :=
  { x with sent := x.sent ++ x.msixPend.filter (vectorFree x), msixPend := x.msixPend.filter (fun v => !vectorFree x v) }

/-- Send vector v of port p, or leave it pending until it can be sent (R481, R483, R489). -/
def sendVector (p v : Nat) (s : State) : State :=
  modPcie p (fun x => flushVectors { x with msixPend := if x.msixPend.contains v then x.msixPend else x.msixPend ++ [v] }) s

/-- Erase blocks of a region that carry no bad-block mark (R529). -/
def goodBlocks (f : Flash) (lo n : Nat) : List Nat := ((List.range n).map (fun i => lo + i)).filter (fun b => !f.bad.contains b)

/-- Count one erase of an erase block (R532). -/
def wearOne (f : Flash) (b : Nat) : Flash := { f with wear := tmod (fun _ => 0) f.wear b (fun n => n + 1) }

/-- The block of the event log, by sequence numbers, and the erase block, that hold an entry (log entry 43). -/
def logBlock (seq : Nat) : Nat := (seq - 1) / 8192
def logErase (good : List Nat) (n : Nat) : Nat := good.getD (n % good.length) 0

/-- Keep at most cap entries: the oldest block of 8,192 entries is erased as the log wraps (R529). -/
def wrapLog (good : List Nat) (f : Flash) : Nat → Flash
  | 0 => f
  | n + 1 =>
    if f.log.length ≤ 8192 * good.length ∨ good.isEmpty = true then f
    else
      let at_ := logBlock ((f.log.head?.map (fun e => e.seq)).getD 1)
      wrapLog good (wearOne { f with log := f.log.drop 8192, logVer := tput (fun _ => 0) f.logVer at_ 0 } (logErase good at_)) n

/-- The entries that wait go to flash (R535); a block takes its VER with its first entry. -/
def flushLog (s : State) : State :=
  let w := s.dev.warden.waiting
  modWarden (fun x => { x with waiting := [] }) (modFlash (fun f =>
    let new := (w.map (fun e => logBlock e.seq)).filter (fun b => !f.log.any (fun e => logBlock e.seq == b))
    let f := { f with log := f.log ++ w, logVer := new.foldl (fun t b => tput (fun _ => 0) t b (Config.logVer s.dev.boot.version)) f.logVer }
    wrapLog (goodBlocks f 164 128) f (w.length + 1)) s)

/-- The Warden appends an entry to the event log; both hosts hear of it. Once 128 entries wait they are
written to flash (R535). -/
def logEvent (src code : Nat) (data : List Nat) (s : State) : State :=
  let w := s.dev.warden
  let e : LogEntry := ⟨(w.seq + 1) % 2 ^ 32, s.flash.boots % 2 ^ 16, src, code, Config.severity code % 4, s.chip.nowUs,
    data.take 3⟩
  let s := modWarden (fun w => { w with seq := (w.seq + 1) % 2 ^ 32, waiting := w.waiting ++ [e] }) s
  let s := if 128 ≤ s.dev.warden.waiting.length then flushLog s else s
  sendVector 1 8 (sendVector 0 8 s)

/-- A value of up to 64 bits in 32-bit units. -/
def units2 (v : Nat) : List Nat := [v % 2 ^ 32, v / 2 ^ 32 % 2 ^ 32]

/-- DATA of a report: its items, a word address in two units (R535). -/
def reportData (code : Nat) (items : List Nat) : List Nat := if code = 0x0103 then items.flatMap units2 else items

/-! ### Settings (spec/15 R532) -/

/-- The record of a key. -/
def settingOf (f : Flash) (key : Nat) : Option Setting := f.settings.find? (fun r => r.key == key)

/-- The VER that the firmware defines for a key; none for a reserved key (R532, R565). -/
def keyVer (key : Nat) : Option Nat :=
  if key = 1 ∨ key = 2 ∨ key = 0x40 ∨ key = 0x41 ∨ key = 0x42 then some 1
  else if 0x10 ≤ key ∧ key < 0x18 then some 2
  else if 0x20 ≤ key ∧ key < 0x28 then some 2
  else if 0x30 ≤ key ∧ key < 0x38 then some 1
  else if 0x100 ≤ key ∧ key ≤ 0x106 then some 1
  else none

/-- The default of a key (R532, R565). -/
def keyDefault (key : Nat) : List Byte :=
  if key = 1 then [0]
  else if key = 2 then natBytes 10 2
  else if 0x30 ≤ key ∧ key < 0x38 then natBytes 0 2
  else if key = 0x40 then List.replicate 2048 0
  else if key = 0x41 then natBytes 0 4
  else if key = 0x42 then List.replicate 64 0
  else if 0x100 ≤ key ∧ key < 0x104 then List.replicate 6144 0
  else if key = 0x105 then natBytes 1200 2
  else if key = 0x106 then natBytes 1500 2
  else []

/-- The value of a key: its record's unless the record is newer than the firmware (R534), else the default. -/
def settingVal (f : Flash) (key : Nat) : List Byte :=
  match settingOf f key with
  | some r => if (keyVer key).any (fun v => decide (r.ver ≤ v)) then r.val else keyDefault key
  | none => keyDefault key

/-- Bytes of an erase block (R529), of a record in the store, and of the records that hold the values (R532). -/
abbrev eraseBytes : Nat := 262144
def recordBytes (r : Setting) : Nat := 14 + r.val.length
def liveBytes (f : Flash) : Nat := (f.settings.map recordBytes).foldl (fun a n => a + n) 0

/-- Compaction once the store is three-quarters full (R532): the live records go into erased blocks, then the
old blocks are erased. The store runs through its good blocks in turn (log entry 43). -/
def compact (f : Flash) : Flash :=
  let good := goodBlocks f 292 32
  if 4 * f.setUsed < 3 * (eraseBytes * good.length) ∨ good.isEmpty = true then f
  else
    let n := (f.setUsed + eraseBytes - 1) / eraseBytes
    let f := (List.range n).foldl (fun f i => wearOne f (good.getD ((f.setFirst + i) % good.length) 0)) f
    { f with setFirst := (f.setFirst + n) % good.length, setUsed := liveBytes f }

/-- Write a record with the next SEQ. -/
def putSetting (key : Nat) (val : List Byte) (s : State) : State :=
  modFlash (fun f =>
    let q := match settingOf f key with | some r => r.seq + 1 | none => 1
    let r : Setting := ⟨key, (keyVer key).getD 1, q, val⟩
    compact { f with
      settings := f.settings.filter (fun r => r.key != key) ++ [r], setUsed := f.setUsed + recordBytes r }) s

/-- OWNER_TIMEOUT in us, PL_SUS and PL_BURST in watts. -/
def ownerTimeout (s : State) : Nat := bytesNat (settingVal s.flash 2) * 1000000
def plSus (s : State) : Nat := bytesNat (settingVal s.flash 0x105)
def plBurst (s : State) : Nat := bytesNat (settingVal s.flash 0x106)

/-! ### Refusals of power entries (spec/16 R554, R566) -/

/-- Count a refused (kind 0) or aborted (kind 1) entry; it is logged at most once per second for each refuser. -/
def countRefusal (refuser req kind : Nat) (s : State) : State :=
  let hit := fun (r : Refused) => r.refuser == refuser && r.req == req && r.kind == kind
  let rs := s.dev.power.refusals
  let rs := if rs.any hit then rs.map (fun r => if hit r then { r with count := min (2 ^ 32 - 1) (r.count + 1) } else r)
    else if rs.length < 1024 then
      (rs.filter (fun r => decide (r.refuser ≤ refuser))) ++ ⟨refuser, req, kind, 1⟩ ::
        rs.filter (fun r => decide (refuser < r.refuser))
    else rs
  let s := modPower (fun p => { p with refusals := rs }) s
  let due := match tget (fun _ => none) s.dev.power.logged refuser with
    | none => true | some t => decide (t + 1000000 ≤ s.chip.nowUs)
  if due then
    logEvent 0 (0x0501 + kind) [refuser, req]
      (modPower (fun p => { p with logged := tput (fun _ => none) p.logged refuser (some s.chip.nowUs) }) s)
  else s

/-! ### Strands, ranks and frames (spec/11 R426, spec/12 R440, R452, R454) -/

/-- The strands that run a lesson. -/
def lessonStrands (c : Chip) : List StrandId :=
  c.cores.flatMap (fun e => (e.2.strands.filter (fun x => x.2.lesson.isSome)).map (fun x =>
    (⟨Fin.ofNat 1024 e.1, Fin.ofNat 8 x.1⟩ : StrandId)))

/-- Set bits of IPEND in a strand (R153): 1 PIGEON, 2 PREFECT, 4 DMA, 8 BELL. -/
def setIpend (bits : W64) (u : StrandId) (c : Chip) : Chip := modStrand c u (fun st => setCreg st 28 (creg st 28 ||| bits))

/-- Parent and children of a rank in the bell tree (R452). -/
def parentOf (q : Nat) : Option Nat := if q = 0 then none else some ((q - 1) / 8)
def childrenOf (q size : Nat) : List Nat := ((List.range 8).map (fun i => 8 * q + 1 + i)).filter (fun c => decide (c < size))

/-- The fields of a frame from this device (R440): UDP checksum and version are good; SCI, packet number and
ICV come as it is sent. -/
def frameOf (j : Job) (dst step period wid frame op aux : Nat) (poison last : Bool) (payload : List Word) : Frame :=
  ⟨[], 0, 0, 0, 3, poison, last, j.rank, dst, BitVec.ofNat 32 j.tag, BitVec.ofNat 32 step, period, wid, frame, op,
   aux, payload⟩

/-- Queue a control frame at a port. -/
def queueCtl (p typ : Nat) (f : Frame) (s : State) : State := modEth p (fun e => { e with ctl := e.ctl ++ [(typ, f)] }) s

/-- Bell frames go out on EP0 and EP8 (R454). -/
def queueBell (typ : Nat) (f : Frame) (s : State) : State := queueCtl 8 typ f (queueCtl 0 typ f s)

def stepNow (s : State) : Nat := (rawReg s.chip .bel 0x012).toNat
def periodNow (s : State) : Nat := getF s.chip .bel 0x014 11 0

end Sys2Proof.Machine
end

