-- ==== Sys2Proof/Machine/Host.lean ====
section
/-! DEFINITION. The PCIe ports and the pigeonholes (spec/14_host_interface_and_pigeonholes.md R481 to R500): what a host
writes, how the Warden takes a command and how it answers one. -/

namespace Sys2Proof.Machine

/-! ### Pigeonholes by number: port x 8 + number -/

def pigeonOf (s : State) (ph : Nat) : Pigeon := tget (fun _ => pigeonReset) (pcieOf s (ph / 8)).ph (ph % 8)
def modPigeon (ph : Nat) (f : Pigeon → Pigeon) (s : State) : State :=
  modPcie (ph / 8) (fun x => { x with ph := tmod (fun _ => pigeonReset) x.ph (ph % 8) f }) s

/-- Bytes [i, i + n) of the command block as a number (R496). -/
def cmdNat (g : Pigeon) (i n : Nat) : Nat := bytesNat (tbytes 0 g.cmd i n)

/-- Whether BAR0 shows pigeonholes: power, and not DEAD (R513). -/
def barUp (s : State) : Bool := powered s && s.dev.boot.dead.isNone

/-- A host write to PH_FLAG (R495, R499). -/
def phFlagWrite (v : Nat) (g : Pigeon) : Pigeon :=
  let nxt := natBits v 1 0
  let clr := natBit v 2
  let keep : Pigeon := { g with overrun := g.overrun && !clr }
  if nxt = g.state then keep
  else if (g.state = 0 ∧ nxt = 1) ∨ (g.state = 3 ∧ nxt = 1) then { keep with state := 1, progress := 0 }
  else if g.state = 3 ∧ nxt = 0 then { keep with state := 0, progress := 0 }
  else { g with overrun := true }

/-- Whether a port's link carries requests: it is in L0 (R581). -/
def portLive (s : State) (p : Nat) : Bool := powered s && (pcieOf s p).l0

/-- A host's access to BAR0 of a port. In D3hot, and while Memory Space Enable is 0, the function takes none:
it is an Unsupported Request, which AER notes (PCIe; log entry 60). -/
def onBar (p : Nat) (f : State → State) (s : State) : State :=
  if !portLive s p then s
  else if (pcieOf s p).cfg.d3hot || !(pcieOf s p).cfg.memEn then modPcie p (fun x => { x with aer := x.aer ||| 0x100000 }) s
  else if !barUp s then s
  else f s

def execPhFlag (p : Fin 2) (h : Fin 8) (v : W32) (s : State) : Ans :=
  onMod s (onBar p.val (modPigeon (8 * p.val + h.val) (phFlagWrite v.toNat)))

/-- What a BAR0 offset names for a write (R486); other offsets are reserved, and the identity page takes no write. -/
def barWrite (off : Nat) : Option (HostSpace × BitVec 20) :=
  if 0x1000 ≤ off ∧ off < 0x1100 then some (.table, BitVec.ofNat 20 (off - 0x1000))
  else if 0x100000 ≤ off ∧ off < 0x900000 then some (.window (Fin.ofNat 8 (off / 0x100000 - 1)), BitVec.ofNat 20 off)
  else none

/-- Where a host write of n bytes at an offset of the pigeonhole's window lands (R487, R494): true the data area, false
the command block. -/
def writeArea (off n : Nat) : Option Bool :=
  if 0x80000 ≤ off ∧ off + n ≤ 0x100000 then some true
  else if 0x100 ≤ off ∧ off + n ≤ 0x140 ∧ (n = 4 ∨ n = 8) ∧ off % n = 0 then some false
  else none

/-- A write to a pigeonhole's window (R499). PH_FLAG takes 4 bytes, or 8 of which the last 4 are reserved (R487). -/
def blockWrite (off : Nat) (bs : List Byte) (g : Pigeon) : Pigeon :=
  match writeArea off bs.length with
  | none => if off = 0 ∧ (bs.length = 4 ∨ bs.length = 8) then phFlagWrite (sliceNat bs 0 4) g else g
  | some area =>
    if g.state = 1 ∨ g.state = 2 then { g with overrun := true }
    else if area then { g with data := putBytes 0 g.data (off - 0x80000) bs }
    else { g with cmd := putBytes 0 g.cmd (off - 0x100) bs }

/-- A write to the MSI-X table, in whole units; a vector that it unmasks is sent when it was pending (R481). -/
def tableWrite (off : Nat) (bs : List Byte) (x : Pcie) : Pcie :=
  if off % 4 = 0 ∧ bs.length % 4 = 0 ∧ off + bs.length ≤ 256 then
    flushVectors { x with msix := (List.range (bs.length / 4)).foldl (fun t i =>
      tput (fun i => if i % 4 = 3 then 1 else 0) t (off / 4 + i) (BitVec.ofNat 32 (sliceNat bs (4 * i) 4))) x.msix }
  else x

/-- COMMAND_BLOCK_WRITE (R483, R486, R499). A DEAD module stays enumerable (R513); the port hardware takes
configuration requests whenever its link is in L0 (R581). -/
def hostWrite (p : Nat) (sp : HostSpace) (off : Nat) (bs : List Byte) (s : State) : State :=
  match sp with
  | .window h => onBar p (modPigeon (8 * p + h.val) (blockWrite off bs)) s
  | .table => onBar p (modPcie p (tableWrite off bs)) s
  | .config c clear => if portLive s p then modPcie p (fun x => flushVectors { x with cfg := c, aer := x.aer &&& ~~~clear }) s else s

def execCommandBlockWrite (p : Fin 2) (sp : HostSpace) (off : BitVec 20) (bs : List Byte) (s : State) : Ans :=
  onMod s (hostWrite p.val sp off.toNat bs)

/-! ### Answers (R489, R497, R500, R484) -/

/-- STATUS values (R500). -/
abbrev stOk : Nat := 0
abbrev stBadArg : Nat := 3
abbrev stState : Nat := 6
abbrev stRefused : Nat := 9
abbrev stAuth : Nat := 0xA
abbrev stRecovery : Nat := 0xB
abbrev stNet : Nat := 0xC

def ok (res : List Nat) (data : List Byte) : Reply := ⟨stOk, res, data⟩
def sayStatus (st : Nat) : Reply := ⟨st, [], []⟩

/-- The response block (R497). -/
def respBytes (seq : Nat) (r : Reply) : List Byte :=
  natBytes r.status 2 ++ natBytes 0 2 ++ natBytes seq 4 ++ natBytes r.data.length 4 ++ natBytes 0 4 ++
    (List.range 6).flatMap (fun i => natBytes (r.res.getD i 0) 8)

/-- Write a response: the pigeonhole reaches DONE, and IDLE when a port reset has discarded the response (R484). -/
def answer (ph : Nat) (long : Bool) (r : Reply) (s : State) : State :=
  let g := pigeonOf s ph
  if g.drop then modPigeon ph (fun g => { g with state := 0, progress := 0, drop := false }) s
  else
    let s := modPigeon ph (fun g => { g with
      state := 3, progress := if long then 1000 else g.progress
      resp := putBytes 0 g.resp 0 (respBytes (cmdNat g 4 4) r)
      data := putBytes 0 g.data 0 r.data }) s
    if natBit (cmdNat g 2 2) 0 then sendVector (ph / 8) (ph % 8) s else s

/-- Perform the accepted routine or heavy command of a pigeonhole, when it is this one. -/
def perform (p : Fin 2) (h : Fin 8) (op : Nat) (s : State) (f : Cmd → State → State) : State :=
  match s.dev.warden.cur with
  | some c => if c.ph = 8 * p.val + h.val ∧ c.op = op then f c s else s
  | none => s

/-- The command in progress ends with this answer. -/
def finish (c : Cmd) (r : Reply) (s : State) : State :=
  answer c.ph false r (modWarden (fun w => { w with cur := none }) s)

/-- The command in progress goes on in the background; its result may be known already (R498). -/
def background (c : Cmd) (r : Option Reply) (s : State) : State :=
  modWarden (fun w => { w with cur := none, long := some ⟨c, r⟩ }) s

/-- The result of the long command is known. -/
def longResult (r : Reply) (s : State) : State :=
  modWarden (fun w => { w with long := w.long.map (fun l => { l with reply := some r }) }) s

def argOf (c : Cmd) (i : Nat) : Nat := c.args.getD i 0

/-! ### Roles (R490 to R493) -/

/-- HI_OWNER_IDLE.MS (R488). -/
def ownerIdleMs (s : State) : Nat :=
  match s.dev.warden.owner with
  | none => 0
  | some _ => min (2 ^ 32 - 1) ((s.chip.nowUs - s.dev.warden.ownerAt) / 1000)

/-- The status record that a DEAD module shows in BAR0 (R513), for a reason and its DETAIL. -/
def statusRecord (reason detail : Nat) (s : State) : List Byte :=
  let b := s.dev.boot
  [0x44, 0x45, 0x41, 0x44] ++ natBytes 3 2 ++ [0xB0] ++ natBytes reason 1 ++ natBytes detail 4 ++
    natBytes Config.romVersion 4 ++ natBytes (if reason = 2 then 0 else Config.serial.toNat) 8 ++ natBytes b.version 4 ++
    natBytes s.fuses.svnFloor 4 ++ (b.m1 ++ List.replicate 32 0).take 32

/-- A register of the identity page as port p shows it (R488); a DEAD module shows its status record there (R513). -/
def identityReg (p off : Nat) (s : State) : W32 :=
  let b := s.dev.boot
  match b.dead with
  | some d => BitVec.ofNat 32 (sliceNat (statusRecord d.1 d.2 s) off 4)
  | none =>
    match off with
    | 0x000 => BitVec.ofNat 32 (0x30000 + if 3 ≤ b.phase then natBits b.version 23 16 * 2 ^ 8 + natBits b.version 7 0 else 0)
    | 0x004 =>
      let role := match s.dev.warden.owner with | none => 2 | some q => if q = p then 0 else 1
      BitVec.ofNat 32 (dstate s * 2 ^ 24 + role * 2 ^ 8 + if (pcieOf s p).ideSecure then 1 else 0)
    | 0x008 => BitVec.ofNat 32 s.dev.warden.seq
    | 0x00C => BitVec.ofNat 32 (ownerIdleMs s)
    | _ => 0

/-- A change of owner: logged, both hosts hear of it (R489, R493). -/
def setOwner (new reason : Nat) (s : State) : State :=
  let old := s.dev.warden.owner.getD 0xFFFFFFFF
  let s := modWarden (fun w => { w with owner := some new, ownerAt := s.chip.nowUs }) s
  sendVector 1 9 (sendVector 0 9 (logEvent 0 0x0008 [old, new, reason] s))

/-- PCIE_LINK_CHANGE (R481, R490, R492): the link enters L0 at the speed and width that training reached, or
leaves it. A port in cold reset trains no link (R581); that it trains says that perst_n is high (log entry
60). -/
def linkChange (p : Nat) (link : Option PcieLink) (s : State) : State :=
  if !powered s then s else
  modPcie p (fun x =>
    let x := { x with link := link }
    if link.isSome then { x with l0 := true, upSince := true }
    else if x.l0 then { x with l0 := false, downAt := s.chip.nowUs } else x) s

def execPcieLinkChange (p : Fin 2) (link : Option PcieLink) (s : State) : Ans := onMod s (linkChange p.val link)

/-- FLIT mode (R481): always at 64 GT/s. -/
def flitMode (l : PcieLink) : Bool := l.speed == 0 || l.flit

/-- OWNER_TIMEOUT (R490): its time since DSTATE 0x1 has passed without the owner's link in L0, and the other
has reached it. -/
def ownerTimedOut (s : State) : State :=
  match s.dev.warden.owner with
  | none => s
  | some o =>
    if fwUp s && dstate s != 0 && !(pcieOf s o).upSince && (pcieOf s (1 - o)).upSince then setOwner (1 - o) 3 s else s

def execOwnerTimeout (s : State) : Ans := onMod s ownerTimedOut

/-- PCIE_RESET (R484). The command that is BUSY runs on, its response is discarded; the function's
configuration goes, and a hot reset and perst_n take the link out of L0 (PCIe; log entry 60). -/
def pcieReset (p : Nat) (kind : PcieResetKind) (s : State) : State :=
  let s := if kind = .flr then s else linkChange p none s
  modPcie p (fun x => { x with
    ph := tmap (fun _ => pigeonReset) (fun _ g =>
      if g.state = 1 then { g with state := 0 } else if g.state = 2 then { g with drop := true } else g) x.ph
    cfg := pcieCfgReset, msix := [], msixPend := [] }) s

def execPcieReset (p : Fin 2) (kind : PcieResetKind) (s : State) : Ans := onMod s (pcieReset p.val kind)

/-! ### Acceptance (R491, R498, R501) -/

/-- What the command table says of an opcode (R501): used arguments, command data, owner only, long, DSTATE values. -/
structure CmdRow where
  op : Nat
  args : Nat
  data : Bool
  owner : Bool
  long : Bool
  states : List Nat
  deriving DecidableEq, Repr

/-- Every DSTATE. -/
abbrev anyState : List Nat := [0, 1, 2, 3, 4, 5, 6, 7]

def cmdRows : List CmdRow :=
  [⟨0x0001, 0, false, false, false, anyState⟩, ⟨0x0002, 0, false, false, false, anyState⟩,
   ⟨0x0003, 0, false, true, false, anyState⟩, ⟨0x0004, 0, false, false, false, anyState⟩,
   ⟨0x0005, 2, false, false, false, anyState⟩, ⟨0x0006, 1, false, false, false, anyState⟩,
   ⟨0x0007, 1, true, true, false, [1]⟩, ⟨0x0008, 1, false, false, false, anyState⟩,
   ⟨0x0009, 2, false, true, false, [1]⟩, ⟨0x000A, 2, false, true, false, anyState⟩,
   ⟨0x000B, 2, false, true, false, [1, 3, 5]⟩, ⟨0x0010, 4, false, false, false, anyState⟩,
   ⟨0x0011, 0, true, false, false, anyState⟩, ⟨0x0012, 0, false, false, false, anyState⟩,
   ⟨0x0020, 1, true, true, false, [1, 7]⟩, ⟨0x0021, 1, false, true, true, [7]⟩,
   ⟨0x0022, 0, false, true, false, [7]⟩, ⟨0x0030, 1, true, true, false, [1, 2]⟩,
   ⟨0x0031, 1, false, true, true, [2]⟩, ⟨0x0032, 2, false, true, false, [3, 5]⟩] ++
  [⟨0x0033, 0, false, true, false, [4]⟩, ⟨0x0034, 0, false, false, false, anyState⟩,
   ⟨0x0035, 0, false, true, false, [2, 3, 5]⟩, ⟨0x0036, 0, false, true, true, [5]⟩,
   ⟨0x0040, 0, true, true, false, [3, 4, 5]⟩, ⟨0x0041, 5, false, true, true, [3, 4, 5]⟩,
   ⟨0x0050, 2, false, true, false, [3, 5]⟩, ⟨0x0051, 1, false, false, false, anyState⟩,
   ⟨0x0060, 0, false, false, false, anyState⟩, ⟨0x0061, 2, false, true, true, [5]⟩,
   ⟨0x0062, 2, true, true, true, [5]⟩, ⟨0x0063, 1, false, true, true, [5]⟩,
   ⟨0x0064, 4, false, true, true, [4]⟩, ⟨0x0065, 2, false, true, true, [5]⟩, ⟨0x0070, 1, false, true, true, [5]⟩]

/-! ### What a host reads -/

/-- The total work of a command where it is known (R495): the bytes of a bundle, of an image. -/
def workTotal (c : Cmd) : Option Nat := if c.op = 0x0031 ∨ c.op = 0x0021 then some (argOf c 0) else none

/-- The share of a long command's work done after some seconds, in thousandths below 1,000 (R495; log entry
40): of a total that is known, the work done at a constant rate, which does at least a thousandth in a second;
else an estimate that grows. -/
def workShare (c : Cmd) (secs : Nat) : Nat :=
  match workTotal c with
  | some n => min 999 (1000 * (secs * ((n + 999) / 1000 + Config.workRate c.op)) / max 1 n)
  | none => min 999 (secs * (1 + Config.workRate c.op))

/-- PROGRESS (R495): the share of the work done while a long command is BUSY. -/
def progressNow (s : State) (ph : Nat) : Nat :=
  let g := pigeonOf s ph
  let w := s.dev.warden
  let due := w.cur.filter (fun c => cmdRows.any (fun r => r.op == c.op && r.long))
  match (due.toList ++ (w.long.map (fun l => l.cmd)).toList).find? (fun c => c.ph == ph) with
  | some c => if g.state = 2 then workShare c ((s.chip.nowUs - g.busyAt) / 1000000) else g.progress
  | none => g.progress

/-- PH_FLAG as it reads (R495). -/
def phFlagRead (s : State) (ph : Nat) : Nat :=
  let g := pigeonOf s ph
  progressNow s ph * 2 ^ 16 + (if g.overrun then 4 else 0) + g.state % 4

/-- The bytes of a pigeonhole's window at an offset (R487, R494). -/
def windowRead (s : State) (ph off n : Nat) : List Byte :=
  let g := pigeonOf s ph
  if 0x80000 ≤ off then tbytes 0 g.data (off - 0x80000) n
  else if off < 4 ∨ (0x100 ≤ off ∧ off < 0x140) ∨ (0x200 ≤ off ∧ off < 0x240) then
    if (n = 4 ∨ n = 8) ∧ off % n = 0 then
      if off < 4 then (natBytes (phFlagRead s ph) 8).take n
      else if off < 0x140 then tbytes 0 g.cmd (off - 0x100) n
      else tbytes 0 g.resp (off - 0x200) n
    else List.replicate n 0xFF
  else List.replicate n 0

/-- What a host reads at a BAR0 offset of port p, n bytes within one area (R486 to R488, R494, R513). A read
changes no state; the table has no row for it. -/
def barRead (s : State) (p off n : Nat) : List Byte :=
  let x := pcieOf s p
  if !portLive s p || x.cfg.d3hot || !x.cfg.memEn then List.replicate n 0xFF
  else
    match s.dev.boot.dead with
    | some d => (List.range n).map (fun i => (statusRecord d.1 d.2 s).getD (off + i) 0)
    | none =>
      if off < 0x1000 then
        if (n = 4 ∨ n = 8) ∧ off % n = 0 then
          ((List.range 2).flatMap (fun i => natBytes (identityReg p (off + 4 * i) s).toNat 4)).take n
        else List.replicate n 0xFF
      else if off < 0x1100 then
        (List.range n).map (fun i => ((natBytes (msixUnit x ((off - 0x1000 + i) / 4)).toNat 4).getD ((off + i) % 4) 0))
      else if 0x1800 ≤ off ∧ off < 0x1808 then
        let bits := x.msixPend.foldl (fun a v => a ||| 2 ^ v) 0
        ((natBytes bits 8).drop (off - 0x1800)).take n
      else if 0x100000 ≤ off ∧ off < 0x900000 then windowRead s (8 * p + (off / 0x100000 - 1)) (off % 0x100000) n
      else List.replicate n 0

/-- The identity of the function in configuration space (R482): Device ID over Vendor ID, and the class code. -/
abbrev deviceId : Nat := 0x0900
abbrev classCode : Nat := 0x120000
def functionId : Nat × Nat := (deviceId * 2 ^ 16 + Config.vendorId.toNat, classCode)

/-- BAR0 (R481): 16 MiB of memory, 64-bit, not prefetchable. Its two units hold the base from bit 24 on; the
type bits of a memory BAR stand below (0b100: 64-bit, bit 3 clear: not prefetchable; PCIe). A write of all
ones reads back the size. -/
abbrev bar0Bytes : Nat := 2 ^ 24
def bar0Unit (base : BitVec 40) (i : Nat) : W32 :=
  if i = 0 then (base.setWidth 8 ++ (0 : BitVec 24)) ||| 0b100 else (base >>> 8).setWidth 32

/-- What configuration space shows of the function (R481, R482): identity, class code, the two units of BAR0.
Nothing answers while the link is not in L0 (R581). -/
def configRead (s : State) (p : Nat) : Option (Nat × Nat × W32 × W32) :=
  if portLive s p then
    some (functionId.1, functionId.2, bar0Unit (pcieOf s p).cfg.bar0 0, bar0Unit (pcieOf s p).cfg.bar0 1)
  else none

/-- The offset in BAR0 of a host address, when the function claims it. -/
def bar0Hit (x : Pcie) (a : Nat) : Option Nat :=
  let base := x.cfg.bar0.toNat * bar0Bytes
  if x.cfg.memEn && !x.cfg.d3hot && decide (base ≤ a) && decide (a < base + bar0Bytes) then some (a - base) else none

/-! ### The checks at acceptance -/

/-- The control-space block and offset of a word address (R39 to R41): an even offset of a defined block. -/
def ctlAddr (a : Nat) : Option (BlockId × Nat) :=
  if a < 0x20000000000 ∨ 0x20000800000 ≤ a ∨ a % 2 = 1 then none
  else
    let o := a - 0x20000000000
    (blockAt (o / 0x10000) (o % 0x10000 / 0x400)).map (fun b => (b, o % 0x400))

/-- The bytes of the bundle area (R520) and of the staging area (R526). -/
abbrev bundleBytes : Nat := 192 * 2 ^ 30
abbrev stagingBytes : Nat := 16777216

/-- Arguments out of range (R500, R501, R576). -/
def argsBad (op dlen : Nat) (a : Nat → Nat) : Bool :=
  match op with
  | 0x0006 | 0x0007 => (keyVer (a 0)).isNone
  | 0x0008 | 0x0009 => (ctlAddr (a 0)).isNone || decide (2 ^ 32 ≤ a 1)
  | 0x000A =>
    decide (5 < a 0) || (decide (a 0 ≤ 1) && a 1 != 0) || (a 0 == 2 && a 1 == 0) || (a 0 == 3 && decide (1024 ≤ a 1)) ||
      (a 0 == 4 && (a 1 == 0 || decide (2 ^ 8 ≤ a 1))) || (a 0 == 5 && (a 1 == 0 || decide (2 ^ 18 ≤ a 1)))
  | 0x000B => decide (4 < a 0)
  | 0x0020 => decide (stagingBytes < a 0 + dlen)
  | 0x0021 => decide (stagingBytes < a 0)
  | 0x0030 => decide (bundleBytes < a 0 + dlen)
  | 0x0031 => decide (bundleBytes < a 0)
  | 0x0032 => decide (2 ^ 32 ≤ a 0) || decide (1 < a 1)
  | 0x0050 => decide (4096 ≤ a 0) || decide (2 ^ 32 ≤ a 1)
  | 0x0051 => decide (8 ≤ a 0)
  | 0x0061 => decide (1024 ≤ a 0)
  | 0x0062 => decide (2 ^ 32 ≤ a 0) || decide (8 < a 1) || dlen != 8 * a 1
  | 0x0063 => decide (1024 ≤ a 0)
  | 0x0064 => decide (2 ^ 32 ≤ a 0) || decide (4096 ≤ a 1)
  | 0x0070 => decide (2 ^ 32 ≤ a 0)
  | _ => false

/-- Whether a command conflicts with the long command that runs (R498). -/
def conflicts (long op : Nat) : Bool :=
  if long = 0x0031 then [0x0030, 0x0032, 0x0035, 0x000B].contains op
  else if long = 0x0021 then [0x0020, 0x0022].contains op
  else if long = 0x0041 ∨ long = 0x0064 then [0x0035].contains op
  else [0x0032, 0x0035, 0x0050].contains op

/-- The checks at acceptance in their order (R485, R491, R498): the status of the first that fails. -/
def acceptCheck (s : State) (ph : Nat) : Option Nat :=
  let g := pigeonOf s ph
  let op := cmdNat g 0 2
  let dlen := cmdNat g 0x0C 4
  let a := fun i => cmdNat g (0x10 + 8 * i) 8
  if (pcieOf s (ph / 8)).ideInsecure && !([0x0001, 0x0011, 0x0012].contains op) then some 0xD
  else if cmdNat g 8 2 ≠ 3 then some 2
  else
    match cmdRows.find? (fun r => r.op == op) with
    | none => some 1
    | some r =>
      if cmdNat g 2 2 > 1 ∨ cmdNat g 0x0A 2 ≠ 0 ∨ 524288 < dlen ∨ (0 < dlen ∧ r.data = false) then some stBadArg
      else if ((List.range 6).drop r.args).any (fun i => a i != 0) || argsBad op dlen a then some stBadArg
      else if r.owner && s.dev.warden.owner != some (ph / 8) then some 4
      else if !r.states.contains (dstate s) || (op == 0x000B && a 0 != 4 && dstate s != 1) then some stState
      else
        match s.dev.warden.long with
        | none => none
        | some l =>
          if r.long then (if op = 0x0061 ∧ l.cmd.op = 0x0061 then some stRecovery else some 7)
          else if conflicts l.cmd.op op then some stState else none

/-- The next POSTED pigeonhole in round-robin order (R498). -/
def nextPosted (s : State) : Option Nat :=
  ((List.range 16).map (fun i => (s.dev.warden.lastPh + 1 + i) % 16)).find? (fun ph => (pigeonOf s ph).state == 1)

/-- The command of a pigeonhole, with the owner's idle time before it and DSTATE at its acceptance as further
arguments. -/
def cmdOf (s : State) (ph : Nat) : Cmd :=
  let g := pigeonOf s ph
  ⟨ph, cmdNat g 0 2, (List.range 6).map (fun i => cmdNat g (0x10 + 8 * i) 8) ++ [ownerIdleMs s, dstate s],
   tbytes 0 g.data 0 (cmdNat g 0x0C 4)⟩

end Sys2Proof.Machine
end

