-- ==== Sys2Proof/Machine/Sleep.lean ====
section
/-! DEFINITION. Sleep states of cores and classrooms (spec/16_power_and_thermal.md R543 to R554): WAIT, pause,
recess, closed, the wakes, and the POWER_STATE command that asks for them. -/

namespace Sys2Proof.Machine

/-! ### WAIT (R139, R544, R419) -/

/-- MODE.SLEEP in effect. -/
def sleepOf (st : Strand) : Nat := natBits (creg st 0).toNat 11 10

/-- IPEND AND IMASK is not 0. -/
def wakePend (st : Strand) : Bool := (creg st 28 &&& creg st 29) != 0

/-- The WAIT that ends a lesson: the strand stays at it until LESSON_END (R419, R429). -/
def waitEnd (w : W32) (u : StrandId) (c : Chip) : Chip :=
  if !canIssue c u then c
  else
    match earlyExc c u with
    | some e => takeExc (earlySlot c u) u e w
    | none =>
      match insnFault c u { word := w } with
      | some e => takeExc (faultSlot c u) u e w
      | none => modStrand (tookSlot c u) u (fun st => { st with run := .ending })

/-- WAIT: SLEEP 0 ends the lesson or leaves the strand idle, SLEEP 1 and 2 make it wait, unless a wake event
is there. -/
def execWait (u : StrandId) (s : State) : Ans :=
  onChip s (fun c =>
    let st := strandOf c u
    let w := insnWord (.wait u)
    if sleepOf st = 0 ∧ st.lesson.isSome then waitEnd w u c
    else issue c u { word := w, act := fun c => modStrand c u (fun st =>
      if wakePend st then st else { st with run := if sleepOf st = 0 then .idle else .waiting (sleepOf st) }) })

/-! ### Wake records (R549, R553) -/

/-- A strand runs again: its core leaves pause, and the core's wake source is recorded (R545, R549). -/
def strandRun (u : StrandId) (code : Nat) (c : Chip) : Chip :=
  let c := if (coreOf c u.core).paused then coreWoke u.core code c else c
  let c := modCore c u.core (fun k => { k with paused := false })
  modStrand c u (fun st => { st with run := .active })

/-- The strands of a core that a pending interrupt wakes. -/
def wakeable (c : Chip) (core : Nat) : List StrandId :=
  ((List.range 8).map (strandId core)).filter (fun u =>
    wakePend (strandOf c u) && (match (strandOf c u).run with | .idle | .waiting _ => true | _ => false))

/-- CLS_PWR.STATE of a polder state (R552). -/
def powerCode : RoomPower → Nat
  | .run => 0 | .recess => 1 | .closed => 2 | .entering => 3

/-- The power state of a classroom; what its blocks' clocks held back takes place (R574). -/
def setPower (r : Nat) (p : RoomPower) (c : Chip) : Chip :=
  settle (dmaB r) (settle (clsB r)
    (setF (modRoom c r (fun m => { m with power := p })) (clsB r) 0x028 19 18 (powerCode p)))

/-- CORE_WAKE (R544, R545, R551): the strands for which IPEND AND IMASK is not 0 resume after their WAIT. -/
def coreWake (core : Nat) (c : Chip) : Chip :=
  if (roomOf c (coreRoom core)).power = .run then (wakeable c core).foldl (fun c u => strandRun u 2 c) c else c

def execCoreWake (core : Fin 1024) (s : State) : Ans := onChip s (coreWake core.val)

/-! ### Pause (R545) -/

/-- The enabled cores of a classroom. -/
def enabledCores (c : Chip) (r : Nat) : List Nat :=
  ((List.range 16).filter (natBit (getF c (clsB r) 0x010 15 0))).map (fun p => 16 * r + p)

/-- Whether every strand of a core is idle. -/
def allIdle (c : Chip) (core : Nat) : Bool := (List.range 8).all (fun i => (strandOf c (strandId core i)).run == .idle)

/-- Whether a core may enter pause by itself. -/
def canPause (c : Chip) (core : Nat) : Bool :=
  let sts := (List.range 8).map (fun i => strandOf c (strandId core i))
  sts.all (fun st => (match st.run with | .idle | .waiting _ => true | _ => false) && st.flight.isEmpty && st.parked.isEmpty) &&
    sts.any (fun st => match st.run with | .waiting _ => true | _ => false) && (coreOf c core).fill.isNone &&
    storesOut c core == 0

/-! ### Answering POWER_STATE (R547) -/

/-- Whether a classroom is in the state a POWER_STATE names. -/
def inState (c : Chip) (want r : Nat) : Bool :=
  match want with
  | 0 => (roomOf c r).power == .run
  | 1 => (roomOf c r).power == .run && (enabledCores c r).all (fun n => (coreOf c n).paused)
  | 2 => (roomOf c r).power == .recess
  | _ => (roomOf c r).power == .closed

def maskRooms (mask : Nat) : List Nat := (List.range 64).filter (natBit mask)

/-- The mask of the classrooms of a mask that are in a state. -/
def stateMask (c : Chip) (want mask : Nat) : Nat :=
  ((maskRooms mask).filter (inState c want)).foldl (fun a r => a + 2 ^ r) 0

/-- The command that waits for classrooms ends once none is waiting any more. -/
def powerDone (s : State) : State :=
  match s.dev.warden.cur with
  | none => s
  | some c =>
    if c.op = 0x000B ∧ argOf c 0 ≤ 3 ∧ (maskRooms (argOf c 1)).all (fun r => (roomOf s.chip r).asked.isNone) then
      finish c (ok [stateMask s.chip (argOf c 0) (argOf c 1)] []) s
    else s

/-- A classroom that has reached the state it was asked for waits no longer. -/
def askReached (r : Nat) (s : State) : State :=
  match (roomOf s.chip r).asked with
  | some (want, _) =>
    if inState s.chip want r then powerDone (modChip (fun c => modRoom c r (fun m => { m with asked := none })) s) else s
  | none => s

/-- CORE_PAUSE (R545, R547): a core whose strands are all idle is put into pause by its Prefect, while a
POWER_STATE asks for its classroom. -/
def corePause (core : Nat) (s : State) : State :=
  if canPause s.chip core || ((roomOf s.chip (coreRoom core)).asked.isSome && allIdle s.chip core) then
    askReached (coreRoom core) (modChip (fun c => modCore c core (fun k => { k with paused := true })) s)
  else s

def execCorePause (core : Fin 1024) (s : State) : Ans := onMod s (corePause core.val)

/-! ### Recess and closed (R546, R547, R550) -/

/-- Requests of the mesh port at the banks of a classroom. -/
def meshQueued (c : Chip) (r : Nat) : Nat :=
  (roomOf c r).banks.foldl (fun a b => a + (b.2.q.filter (fun e => e.rq == 16)).length) 0 +
    (c.waiting.filter (fun x => x.1 == r && x.2.2.rq == 16)).length

/-- What refuses a recess (R546, R554). -/
def recessRefuser (c : Chip) (r : Nat) : Option Nat :=
  if !(dmaOf c r).active.isEmpty then some (0x0400 + r)
  else if getF c (clsB r) 0x020 31 31 = 1 then some (0x0440 + r)
  else if 0 < meshQueued c r then some (0x0480 + r)
  else none

/-- Whether every enabled core of a classroom pauses with its waiting strands at SLEEP recess. -/
def recessReady (c : Chip) (r : Nat) : Bool :=
  !(enabledCores c r).isEmpty && (enabledCores c r).all (fun n => (coreOf c n).paused &&
    (List.range 8).all (fun i => match (strandOf c (strandId n i)).run with | .waiting k => k == 2 | _ => true))

/-- In recess the scalar caches are lost (R543). -/
def dropCaches (r : Nat) (c : Chip) : Chip :=
  (List.range 16).foldl (fun c p => modCore c (16 * r + p) (fun k => { k with cache := [] })) c

/-- The classroom polder but for its memory and retention goes off: caches lost, its PLL stopped (R537, R543, R568). -/
def recessNow (r : Nat) (c : Chip) : Chip := setPower r .recess (modRoom (dropCaches r c) r (fun m => { m with pll := false }))

/-- RECESS_ENTRY (R546): the Prefect accepts and the entry begins, or refuses; an entry that has begun is completed. -/
def recessEntry (r : Nat) (s : State) : State :=
  match (roomOf s.chip r).power with
  | .entering => askReached r (modChip (recessNow r) s)
  | .run =>
    if !recessReady s.chip r then s
    else
      match recessRefuser s.chip r with
      | some x => countRefusal x 2 0 s
      | none => modChip (setPower r .entering) s
  | _ => s

def execRecessEntry (cl : Fin 64) (s : State) : Ans := onMod s (recessEntry cl.val)

/-- The contents of a classroom's memory are lost: what a word not written since reads as is not given (R543). -/
def loseMemory (r : Nat) (c : Chip) : Chip :=
  let a := clsBase + r * clsWords
  let mine := fun (x : Nat) => decide (a ≤ x) && decide (x < a + clsWords)
  { c with
    mem := tclear c.mem (fun b => mine (b / 2)), pois := tclear c.pois mine, since := tclear c.since mine
    lost := tput (fun _ => 0) c.lost r (c.fresh + 1), fresh := c.fresh + clsWords + 1 }

/-- The slots of a core whose polder lost power: contents not specified (R543). -/
def loseSlots (n : Nat) (c : Chip) : Chip :=
  { modCore c n (fun k => { k with slots := (List.range 64).map (fun i =>
      (i, { slotReset n i with unspec := some (65536 + c.fresh + i) })) }) with fresh := c.fresh + 64 }

/-- A classroom polder loses power, cores and DMA engine with it: blocks not STOPPED stop without draining
(R47, R49); memory and all core state are lost; its cores come back through a core reset (R537, R543, R563).
RWS fields stay (R28). -/
def closeRoom (r : Nat) (c : Chip) : Chip :=
  let c := stopHard (dmaB r) (stopHard (clsB r) c)
  let c := (List.range 16).foldl (fun c p =>
    loseSlots (16 * r + p) (modCore (orphanReqs c (16 * r + p)) (16 * r + p) (fun _ => corePower))) c
  let c := loseMemory r (modDma (dropRoom r c) r (fun e => { dmaReset with nextId := e.nextId }))
  setPower r .closed (modRoom c r (fun m => { m with sel := [], dirty := [], pll := false }))

/-- Every core of a classroom restarts at once on the FIO: out of pause, CLS_PWR.CLK 0 (R550). -/
def wakeCores (r : Nat) (c : Chip) : Chip :=
  let c := setF (setPower r .run c) (clsB r) 0x028 17 17 0
  (List.range 16).foldl (fun c p => modCore c (16 * r + p) (fun k => { k with paused := false })) c

/-- A classroom wakes; it and its cores record the source (R549, R550). -/
def wakeRoom (r code : Nat) (c : Chip) : Chip :=
  let c := setF (wakeCores r c) (clsB r) 0x028 23 20 code
  (List.range 16).foldl (fun c p => coreWoke (16 * r + p) code c) c

/-- An entry that has begun is aborted by a wake source (R546, R554). -/
def abortEntry (r code : Nat) (s : State) : State :=
  countRefusal (0x0510 + code) 2 1 (modChip (setPower r .run) s)

/-- Wake a classroom: refused while the Breach is latched (R564). -/
def wakeTo (r code : Nat) (s : State) : State :=
  match (roomOf s.chip r).power with
  | .run => s
  | .entering => abortEntry r code s
  | .recess | .closed => if s.dev.power.breach then countRefusal 0x0502 3 0 s else modChip (wakeRoom r code) s

/-- The codes that wake a classroom (R549). -/
def wakesRoom (code : Nat) : Bool := [1, 2, 3, 4, 8].contains code

/-- RECESS_WAKE (R549, R550): a code of another unit's wake does nothing. -/
def execRecessWake (cl : Fin 64) (code : Fin 16) (s : State) : Ans :=
  onMod s (fun s => if wakesRoom code.val then wakeTo cl.val code.val s else s)

/-! ### POWER_STATE (R506, R547) -/

/-- A Prefect writes words of a core's window; a window whose bit in PIGEON_EN is clear refuses it (R36, R57). -/
def pgnWrite (core i : Nat) (ws : List Word) (c : Chip) : Chip :=
  if natBit (getF c (clsB (coreRoom core)) 0x010 31 16) (corePos core) then wrWords c false (pgnBase + 256 * core + i) ws else c

/-- The Prefect's request to a core (R505, R506): a reply with UNSOL, and IPEND.PREFECT in strand 0, which it
sets although its write was refused (DESIGN CHOICE, log entry 63). -/
def askCore (want core : Nat) (c : Chip) : Chip :=
  setIpend 2 (strandId core 0) (pgnWrite core 0x80 [BitVec.ofNat 16 (2 ^ 15 + 2 ^ 14), 1, BitVec.ofNat 16 want] c)

/-- Whether a core is where the command wants it: idle, so that the Prefect moves it, or already where its own
WAIT takes it. -/
def coreThere (c : Chip) (want core : Nat) : Bool :=
  allIdle c core || ((coreOf c core).paused && (want == 1 || (want == 2 &&
    (List.range 8).all (fun i => match (strandOf c (strandId core i)).run with | .waiting k => k == 2 | _ => true))))

/-- Classroom r is asked for state 1 pause, 2 recess or 3 closed: every core that is not idle gets the request, and the
classroom waits for those not yet there. -/
def askRoom (ph want : Nat) (r : Nat) (s : State) : State :=
  let b := clsB r
  if want = 3 ∧ bState s.chip b ≠ 0 then countRefusal 0x0500 3 0 s
  else if want = 3 ∧ (enabledCores s.chip r).all (allIdle s.chip) then modChip (closeRoom r) s
  else
    let busy := (enabledCores s.chip r).filter (fun n => !coreThere s.chip want n)
    let s := modChip (fun c => (enabledCores c r).foldl (fun c n =>
      if allIdle c n then modCore c n (fun k => { k with paused := true }) else c) c) s
    let asked := (enabledCores s.chip r).filter (fun n => !allIdle s.chip n)
    let s := modChip (fun c => asked.foldl (fun c n => askCore want n c) c) s
    let s := if want = 2 ∧ (roomOf s.chip r).power = .run ∧ busy.isEmpty then
      (match recessRefuser s.chip r with
        | some x => countRefusal x 2 0 s
        | none => modChip (recessNow r) s) else s
    if busy.isEmpty then s
    else modChip (fun c => modRoom c r (fun m => { m with asked := some (want, ph) })) s

/-- POWER_STATE 1 to 3: the command ends once no classroom waits. -/
def powerState (want : Nat) (c : Cmd) (s : State) : State :=
  if argOf c 0 ≠ want then s
  else powerDone ((maskRooms (argOf c 1)).foldl (fun s r => askRoom c.ph want r s) s)

def execPowerStatePause (p : Fin 2) (h : Fin 8) (s : State) : Ans := onMod s (fun s => perform p h 0x000B s (powerState 1))
def execPowerStateRecess (p : Fin 2) (h : Fin 8) (s : State) : Ans := onMod s (fun s => perform p h 0x000B s (powerState 2))
def execPowerStateClosed (p : Fin 2) (h : Fin 8) (s : State) : Ans := onMod s (fun s => perform p h 0x000B s (powerState 3))

/-- Cores in pause leave it (R547, R549). -/
def unpause (r : Nat) (c : Chip) : Chip :=
  (List.range 16).foldl (fun c p =>
    if (coreOf c (16 * r + p)).paused then coreWoke (16 * r + p) 4 (modCore c (16 * r + p) (fun k => { k with paused := false }))
    else c) c

/-- POWER_STATE 0: wake the classrooms of the mask. -/
def execPowerStateRun (p : Fin 2) (h : Fin 8) (s : State) : Ans :=
  onMod s (fun s => perform p h 0x000B s (fun c s =>
    if argOf c 0 ≠ 0 then s
    else
      let rooms := maskRooms (argOf c 1)
      powerDone (rooms.foldl (fun s r =>
        modChip (fun c => modRoom (unpause r c) r (fun m => { m with asked := none })) (wakeTo r 4 s)) s)))

/-- A classroom still waiting after 10 ms: its Prefect puts idle cores into the state directly; the state is
reached, or its entry is aborted, each core that did not follow named, or what refuses a recess (R547). -/
def lateRoom (r : Nat) (s : State) : State :=
  let want := ((roomOf s.chip r).asked.getD (0, 0)).1
  let s := modChip (fun c => modRoom ((enabledCores c r).foldl (fun c n =>
    if allIdle c n then modCore c n (fun k => { k with paused := true }) else c) c) r (fun m => { m with asked := none })) s
  let late := (enabledCores s.chip r).filter (fun n => !coreThere s.chip want n)
  if late.isEmpty then
    (if want = 3 then modChip (closeRoom r) s
     else if want = 2 then
      (match recessRefuser s.chip r with
       | some x => countRefusal x 2 1 (modChip (setPower r .run) s)
       | none => modChip (recessNow r) s)
     else s)
  else
    let s := if (roomOf s.chip r).power = .entering then modChip (setPower r .run) s else s
    late.foldl (fun s n => countRefusal n want 1 s) s

/-- POWER_STATE_TIMEOUT (R547). -/
def powerTimeout (s : State) : State :=
  powerDone (((List.range 64).filter (fun r => (roomOf s.chip r).asked.isSome)).foldl (fun s r => lateRoom r s) s)

def execPowerStateTimeout (s : State) : Ans := onMod s powerTimeout

end Sys2Proof.Machine
end

