-- ==== Sys2Proof/Machine/Halt.lean ====
section
/-! DEFINITION. The school halts (spec/11_timetables_and_bells.md R426, spec/12_network.md R454,
spec/13_sleeper_copies_and_recovery.md R471). -/

namespace Sys2Proof.Machine

/-- Send HALT of an originator and step to the parent and every child but one neighbour, and note it (R454). -/
def sendHalt (j : Job) (origin step period reason except : Nat) (s : State) : State :=
  (((parentOf j.rank).toList ++ childrenOf j.rank j.size).filter (fun q => q != except)).foldl (fun s q =>
    queueBell 6 (frameOf j q step period 0 0 0 origin false false [BitVec.ofNat 16 reason]) s)
    (modBell (fun b => { b with halts := b.halts ++ [(origin, step)] }) s)

/-- The Warden halts the school for a HALT of that step (R426): halt bell, IPEND.BELL in every strand that
runs a lesson; no further period is released. HALT is logged. Classrooms in recess that run a lesson wake
(R549). -/
def haltAt (origin step period reason except : Nat) (s : State) : State :=
  match jobOf s with
  | none => s
  | some j =>
    if s.dev.bell.halts.contains (origin, step) then s
    else
      let s := modBell (fun b => { b with halted := true, stopping := true, ringDue := none, relCls := 0, relPmp := 0 }) s
      let us := lessonStrands s.chip
      let s := modChip (fun c => us.foldl (fun c u => setIpend 8 u c) c) s
      let s := ((us.map (fun u => coreRoom u.core)).eraseDups).foldl (fun s r => wakeTo r 8 s) s
      sendHalt j origin step period reason except (logEvent 0 0x0307 [origin, reason] s)

/-- A halt that starts here, in the current step and period. -/
def haltSchool (origin reason except : Nat) (s : State) : State := haltAt origin (stepNow s) (periodNow s) reason except s

/-- A failure that this device detects (R471); reason is the event code. -/
def failSchool (reason : Nat) (s : State) : State :=
  match jobOf s with
  | none => s
  | some j => if dstate s = 4 then haltSchool j.rank reason 0xFFFF s else s

/-! ### Commands are taken (R498) -/

/-- COMMAND_ACCEPT (R498): one routine or heavy command at a time. RESET is answered before its reset starts, a
cold reset after the school is halted, as the last act of the firmware (R578); a
SHARD_REFILL behind a running one is answered BUSY and queued (R478, R479). -/
def commandAccept (s : State) : State :=
  if !fwUp s || decide (s.dev.boot.phase < 4) || s.dev.warden.cur.isSome || dstate s == 6 then s
  else
    match nextPosted s with
    | none => s
    | some ph =>
      let c := cmdOf s ph
      let bad := acceptCheck s ph
      let s := modPigeon ph (fun g => { g with state := 2, progress := 0, busyAt := s.chip.nowUs }) (modWarden (fun w => { w with lastPh := ph }) s)
      let s := if s.dev.warden.owner = some (ph / 8) then modWarden (fun w => { w with ownerAt := s.chip.nowUs }) s else s
      match bad with
      | some st =>
        if st = stRecovery then
          answer ph false ⟨st, [7], []⟩ (modWarden (fun w => { w with queued := w.queued ++ [c] }) s)
        else answer ph false (sayStatus st) s
      | none =>
        if c.op = 0x000A then
          let s := if argOf c 0 = 0 then failSchool (Config.haltReason 256) s else s
          answer ph false (ok [] []) (modWarden (fun w => { w with resets := w.resets ++ [(argOf c 0, argOf c 1)] }) s)
        else modWarden (fun w => { w with cur := some c }) s

def execCommandAccept (s : State) : Ans := onMod s commandAccept

end Sys2Proof.Machine
end

