-- ==== Sys2Proof/Machine/Power.lean ====
section
/-! DEFINITION. The power limits, the supply droop and the thermal trip (spec/16_power_and_thermal.md R555 to R566). -/

namespace Sys2Proof.Machine

/-! ### The Spillway (R555, R556) -/

/-- Keep a fraction between 0 and 56/64. -/
def clampBubble (x : Rat) : Rat := if x < 0 then 0 else if 56 / 64 < x then 56 / 64 else x

/-- The burst time in us: time in the last 30 s above PL_SUS, from its stretches (start, length). -/
def burstTime (now : Nat) (past : List (Nat × Nat)) : Nat :=
  past.foldl (fun a e => a + (e.1 + e.2 - max e.1 (now - 30000000))) 0

/-- One more us above PL_SUS; stretches that ended more than 30 s ago are dropped. -/
def addOver (now : Nat) (above : Bool) (past : List (Nat × Nat)) : List (Nat × Nat) :=
  let old := past.filter (fun e => decide (now < e.1 + e.2 + 30000000))
  if !above then old
  else
    match old.getLast? with
    | some (t, n) => if t + n = now then old.dropLast ++ [(t, n + 1)] else old ++ [(now, 1)]
    | none => [(now, 1)]

/-- round(64 x), a half upward (the spec says only "round"). -/
def bubblesOf (x : Rat) : Nat := (64 * x + 1 / 2).floor.toNat

/-- The hottest of a die's sensors. -/
def hot (l : List Int) (d : Nat) : Int := l.getD d 0

/-- Bubbles of a classroom: the Spillway's, at least 32 while the Sluice is active (R556, R560). -/
def roomBubbles (p : Power) (c : Chip) (r : Nat) : Nat :=
  let n := bubblesOf (max p.bp (tget (fun _ => 0) p.bt (r / 16)))
  if (roomOf c r).droop then max n 32 else n

/-- Show the bubbles of every classroom in CLS_PWR.BUBBLE. -/
def showBubbles (p : Power) (c : Chip) : Chip :=
  (List.range 64).foldl (fun c r => setF c (clsB r) 0x028 13 8 (roomBubbles p c r)) c

/-- The terms of the Spillway after one us (R556): powers in mW, limits in W. -/
def spillway (now sus burst : Nat) (m : Sample) (p : Power) : Power :=
  let past := addOver now (decide (sus * 1000 < m.a10)) p.past
  let l : Nat := (if burstTime now past < 2000000 then burst else sus) * 1000
  let bp := clampBubble (p.bp + (((m.a10 : Int) - (l : Int) : Int) : Rat) / ((l : Int) : Rat) / 1024)
  let bp := if 1750000 < m.p1 then min (bp + 8 / 64) (56 / 64) else bp
  let bt := (List.range 4).foldl (fun t d => tmod (fun _ => (0 : Rat)) t d (fun b =>
    clampBubble (b + ((hot m.cd d - 100 : Int) : Rat) / 10 / 1024))) p.bt
  let term := fun (d : Nat) => max bp (tget (fun _ => 0) bt d)
  { p with
    bp := bp, bt := bt, past := past, sample := m
    high := (List.range 4).foldl (fun t d => tmod (fun _ => 0) t d (fun n => if 8 / 64 < term d then n + 1 else 0)) p.high
    calm := (List.range 4).foldl (fun t d => tmod (fun _ => 0) t d (fun n => if bubblesOf (term d) = 0 then n + 1 else 0)) p.calm }

/-- What the Warden logs of it (R566): the end of a burst, EDC, a die whose thermal term begins to act. -/
def spillwayLog (now : Nat) (old : Power) (s : State) : State :=
  let p := s.dev.power
  let b := burstTime now p.past
  let s := if 2000000 ≤ b ∧ old.bursting = false then logEvent 0 0x0504 [b / 1000] s else s
  let s := if 1750000 < p.sample.p1 ∧ old.edc = false then logEvent 0 0x0505 [p.sample.p1 / 1000] s else s
  let hotNow := fun (d : Nat) => decide (0 < tget (fun _ => (0 : Rat)) p.bt d)
  let s := ((List.range 4).filter (fun d => hotNow d && !tget (fun _ => false) old.throttled d)).foldl (fun s d =>
    logEvent 0 0x0506 [d, (hot p.sample.cd d).toNat] s) s
  modPower (fun p => { p with
    bursting := decide (2000000 ≤ b), edc := decide (1750000 < p.sample.p1)
    throttled := (List.range 4).foldl (fun t d => tput (fun _ => false) t d (hotNow d)) p.throttled }) s

/-- SPILLWAY_TICK: one us passes (R556; log entry 8). -/
def spillwayTick (m : Sample) (s : State) : State :=
  let s := modChip (fun c => { c with nowUs := c.nowUs + 1 }) s
  let old := s.dev.power
  let s := modPower (spillway s.chip.nowUs (plSus s) (plBurst s) m) s
  spillwayLog s.chip.nowUs old (modChip (showBubbles s.dev.power) s)

def execSpillwayTick (m : Sample) (s : State) : Ans := onMod s (spillwayTick m)

/-! ### Floors and PL0 residency (R557, R558) -/

/-- The classrooms of die d take the level their floor and hold now give (R542). -/
def aimDie (d : Nat) (c : Chip) : Chip := (List.range 16).foldl (fun c i => aimLevel (16 * d + i) c) c

/-- Move the floor of a die. -/
def setFloor (d v : Nat) (s : State) : State :=
  let old := tget (fun _ => 0) s.chip.floors d
  logEvent 0 0x0507 [d, old, v] (modChip (fun c => aimDie d { c with floors := tput (fun _ => 0) c.floors d v }) s)

/-- FLOOR_TICK on one die (R557). -/
def floorDie (d : Nat) (s : State) : State :=
  let f := tget (fun _ => 0) s.chip.floors d
  if 50000 < tget (fun _ => 0) s.dev.power.high d then (if f < 7 then setFloor d (f + 1) s else s)
  else if 200000 ≤ tget (fun _ => 0) s.dev.power.calm d ∧ 0 < f then setFloor d (f - 1) s
  else s

def execFloorTick (s : State) : Ans :=
  onMod s (fun s => if fwUp s then (List.range 4).foldl (fun s d => floorDie d s) s else s)

/-- Whether a die's rail stands at the PL0 voltage (R542): PL_NOW of a classroom that is not in recess or
closed is PL0. -/
def railPl0 (c : Chip) (d : Nat) : Bool :=
  (List.range 16).any (fun i => roomClocked c (16 * d + i) && getF c (clsB (16 * d + i)) 0x028 6 4 == 0)

/-- Whether a core counts residency: enabled, not in pause, its classroom not in recess or closed. -/
def resident (c : Chip) (n : Nat) : Bool :=
  natBit (getF c (clsB (coreRoom n)) 0x010 15 0) (corePos n) && !(coreOf c n).paused && roomClocked c (coreRoom n)

/-- The 24 hour slots of a core. -/
def residOf (p : Power) (n : Nat) : List Nat := tget (fun _ => List.replicate 24 0) p.resid n

/-- One minute of residency on every core of a die. -/
def residDie (slot d : Nat) (c : Chip) (p : Power) : Power :=
  if railPl0 c d then
    { p with resid := (List.range 256).foldl (fun t i =>
        if resident c (256 * d + i) then tmod (fun _ => List.replicate 24 0) t (256 * d + i) (fun l => l.set slot (l.getD slot 0 + 1))
        else t) p.resid }
  else p

/-- POWER_ON_HOURS (R532). -/
def powerOnHours (s : State) : Nat := bytesNat (settingVal s.flash 0x41)

/-- Hold or release a die at PL1 (R558). -/
def holdDie (d : Nat) (s : State) : State :=
  let sum := fun (n : Nat) => (residOf s.dev.power n).foldl (fun a x => a + x) 0
  let cores := (List.range 256).map (fun i => 256 * d + i)
  let held := tget (fun _ => false) s.chip.plHold d
  match cores.find? (fun n => decide (288 ≤ sum n)) with
  | some n =>
    if held then s
    else logEvent 0 0x0508 [d, n] (modChip (fun c => aimDie d { c with plHold := tput (fun _ => false) c.plHold d true }) s)
  | none =>
    if held && cores.all (fun n => decide (sum n ≤ 274)) then
      modChip (fun c => aimDie d { c with plHold := tput (fun _ => false) c.plHold d false }) s
    else s

/-- An hour has passed: POWER_ON_HOURS counts it, and the slot of the new hour starts empty. -/
def nextHour (s : State) : State :=
  let h := powerOnHours s + 1
  let s := putSetting 0x41 (natBytes h 4) s
  modWarden (fun w => { w with imageHours := w.imageHours + 1 }) (modPower (fun p => { p with
    minute := 0
    resid := tmap (fun _ => List.replicate 24 0) (fun _ l => l.set (h % 24) 0) p.resid }) s)

/-- PL0_RESIDENCY_TICK: one minute (R558). -/
def residencyTick (s : State) : State :=
  let slot := powerOnHours s % 24
  let s := modPower (fun p => (List.range 4).foldl (fun p d => residDie slot d s.chip p) { p with minute := p.minute + 1 }) s
  let s := (List.range 4).foldl (fun s d => holdDie d s) s
  if 60 ≤ s.dev.power.minute then nextHour s else s

def execPl0ResidencyTick (s : State) : Ans := onMod s (fun s => if fwUp s then residencyTick s else s)

/-! ### The Sluice (R560) -/

/-- SLUICE_DROOP: counted once for each activation. -/
def sluiceDroop (r : Nat) (s : State) : State :=
  if (roomOf s.chip r).droop then s
  else modChip (fun c =>
    let c := bumpF (modRoom c r (fun m => { m with droop := true })) (clsB r) 0x028 31 24 1
    setF c (clsB r) 0x028 13 8 (roomBubbles s.dev.power c r)) s

def execSluiceDroop (cl : Fin 64) (s : State) : Ans := onMod s (sluiceDroop cl.val)

/-- SLUICE_RELEASE. -/
def sluiceRelease (r : Nat) (s : State) : State :=
  modChip (fun c =>
    let c := modRoom c r (fun m => { m with droop := false })
    setF c (clsB r) 0x028 13 8 (roomBubbles s.dev.power c r)) s

def execSluiceRelease (cl : Fin 64) (s : State) : Ans := onMod s (sluiceRelease cl.val)

/-! ### The Breach (R563, R564) -/

def meshB (d : Nat) : BlockId := .mesh (Fin.ofNat 4 d)

/-- A mesh polder loses power: its pads latch (R539), its PLL stops. -/
def meshOff (d : Nat) (c : Chip) : Chip :=
  let c := stopHard (meshB d) c
  let c := if tget (fun _ => false) c.meshOn d then setF c (meshB d) 0x010 0 0 1 else c
  { c with meshOn := tput (fun _ => false) c.meshOn d false, plls := tput (fun _ => false) c.plls d false }

/-- The HMC, Pump and Syllabus of a stack stop without draining. -/
def stackOff (k : Nat) (c : Chip) : Chip := stopHard (sylB k) (stopHard (pmpB k) (stopHard (hmcB k) c))

/-- Whether a node has a sensor (R562). -/
def sensorNode (n : Nat) : Bool :=
  n == 1 || n == 2 || (decide (4 ≤ n) && decide (n ≤ 15)) || (decide (0x40 ≤ n) && decide (n ≤ 0x7F))

/-- BREACH (R563, R471): compute dies off, stacks stopped, the job halted as a failure of the device. -/
def breachTrip (node temp : Nat) (s : State) : State :=
  if temp < 115 || !sensorNode node || s.dev.power.breach then s
  else
    let s := modPower (fun p => { p with breach := true, breachReset := false }) s
    let s := modChip (fun c =>
      let c := (List.range 64).foldl (fun c r => closeRoom r c) c
      let c := (List.range 4).foldl (fun c d => meshOff d c) c
      (List.range 8).foldl (fun c k => stackOff k c) c) s
    failSchool 0x0509 (logEvent 0 0x0509 [node, temp] s)

/-- Whether every sensor reads below 95 C. -/
def coolEnough (m : Sample) : Bool := (m.cd ++ m.io ++ m.base).all (fun t => decide (t < 95))

/-- BREACH_CLEAR (R564). -/
def breachClear (s : State) : State :=
  if s.dev.power.breach && s.dev.power.breachReset && coolEnough s.dev.power.sample then
    logEvent 0 0x050A [] (modPower (fun p => { p with breach := false }) s)
  else s

def execBreachClear (s : State) : Ans := onMod s breachClear

/-! ### PLLs (R568) -/

/-- Whether a PLL has power: those of a polder that is off do not lock (R537, R543, R548). -/
def pllPowered (c : Chip) : PllId → Bool
  | .classroom n => roomClocked c n.val
  | .mesh n => tget (fun _ => false) c.meshOn n.val
  | .stack n => (stackOf c n.val).powered && !(stackOf c n.val).selfRefresh
  | .ethTx n => !tget (fun _ => false) c.portOff n.val
  | .pcie _ => true

/-- PLL_LOCK: the blocks that wait for it may start. -/
def pllLock (x : PllId) (c : Chip) : Chip :=
  if !pllPowered c x then c
  else
  match x with
  | .classroom n => settle (.cls n) (modRoom c n.val (fun m => { m with pll := true }))
  | .mesh n =>
    let c := settle (.mesh n) { c with plls := tput (fun _ => false) c.plls n.val true }
    (List.range 16).foldl (fun c i => settle (dmaB (16 * n.val + i)) c) c
  | .stack n =>
    let c := modStack c n.val (fun x => { x with pll := true })
    settle (.syl n) (settle (.pmp n) (settle (.hmc n) c))
  | .ethTx n => settle (.eth n) { c with plls := tput (fun _ => false) c.plls (8 + n.val) true }
  | .pcie n => settle (.pci n) { c with plls := tput (fun _ => false) c.plls (24 + n.val) true }

def execPllLock (x : PllId) (s : State) : Ans := onChip s (pllLock x)

end Sys2Proof.Machine
end

