-- ==== Sys2Proof/Machine/Rest.lean ====
section
/-! DEFINITION. Blocks that the Warden stops (spec/01_organisation.md R47, R48), and device sleep
(spec/16_power_and_thermal.md R537 to R539, R548, R549; spec/09_hbm_memory.md R343). -/

namespace Sys2Proof.Machine

/-! ### Stopping a block and waiting for it -/

/-- RUN := 0; a block with nothing left to finish is STOPPED. -/
def stopNow (b : BlockId) (c : Chip) : Chip := blockDrained b (agreementCheck b (setRun1 b false c))

def stopAll (l : List BlockId) (c : Chip) : Chip := l.foldl (fun c b => stopNow b c) c

/-- RUN := 1, the start's check at once. -/
def startNow (b : BlockId) (c : Chip) : Chip := agreementCheck b (setRun1 b true c)

/-- What the Warden checks between blocks before it starts the later one (R53): a Pump starts only when its
stack's memory controller runs (R359). -/
def mayStart (c : Chip) : BlockId → Bool
  | .pmp k => bState c (hmcB k.val) == 2
  | _ => true

/-- Start the blocks of a list that may start, in order; the others. -/
def startThese : List BlockId → Chip → Chip × List BlockId
  | [], c => (c, [])
  | b :: r, c =>
    if mayStart c b then startThese r (setRun1 b true c)
    else
      let x := startThese r c
      (x.1, b :: x.2)
def allStopped (l : List BlockId) (c : Chip) : Bool := l.all (fun b => bState c b == 0)

def meshes : List BlockId := (List.range 4).map meshB
def ports : List BlockId := (List.range 16).map ethB
def stackBlocks : List BlockId := (List.range 8).flatMap (fun k => [sylB k, pmpB k, hmcB k])

/-! ### Device sleep (R548) -/

/-- The blocks that device sleep stops. -/
def sleepBlocks : List BlockId := ports ++ stackBlocks ++ meshes

/-- WAKE_EN of port n (R458). -/
def wakeEn (c : Chip) (n : Nat) : Bool := getF c (ethB n) 0x010 8 8 == 1

/-- A port polder loses power: its pads latch, its link is down, its PLL stops (R539). -/
def portDown (n : Nat) (c : Chip) : Chip :=
  if tget (fun _ => false) c.portOff n then c
  else
    let c := setF (setF c (ethB n) 0x022 0 0 1) (ethB n) 0x01A 31 31 0
    { c with portOff := tput (fun _ => false) c.portOff n true, plls := tput (fun _ => false) c.plls (8 + n) false }

/-- Of a port whose polder loses power the state is lost (R543); packet numbers and replay windows are kept
with the keys, so that no packet number is used twice under a key (DESIGN CHOICE, log entry 57). -/
def portLost (e : EthPort) : EthPort := { ethReset with pn := e.pn, rx := e.rx }

/-- Steps 3 and 4: polders down, the DRAM refreshes itself. -/
def powerDown (c : Chip) : Chip :=
  let c := (List.range 4).foldl (fun c d => meshOff d c) c
  let c := ((List.range 16).filter (fun n => !wakeEn c n)).foldl (fun c n => portDown n c) c
  (List.range 8).foldl (fun c k => modStack c k (fun x =>
    if x.powered then { x with selfRefresh := true, pll := false } else x)) c

/-- POWER_STATE 4: the blocks are told to stop; once all are STOPPED, the entry is completed and answered. -/
def sleepEntry (c : Cmd) (s : State) : State :=
  if argOf c 0 ≠ 4 then s
  else if s.dev.warden.long.isSome then
    finish c (sayStatus stState) (countRefusal 0x0501 4 0 s)
  else
    let run := sleepBlocks.filter (fun b => (bState s.chip b != 0 && bRun s.chip b) || s.dev.warden.lateStart.contains b)
    let s := modWarden (fun w => { w with restart := if w.restart.isEmpty then run else w.restart, lateStart := [] }) s
    let s := modChip (stopAll sleepBlocks) s
    if !allStopped sleepBlocks s.chip then s
    else
      let rooms := (List.range 64).filter (roomClocked s.chip)
      let s := modChip (fun ch => powerDown (rooms.foldl (fun ch r => recessNow r ch) ch)) s
      let s := ((List.range 16).filter (fun n => tget (fun _ => false) s.chip.portOff n)).foldl (fun s n => modEth n portLost s) s
      let s := finish c (ok [] []) s
      modWarden (fun w => { w with before := w.dstate, dstate := 6, rested := rooms }) s

def execPowerStateSleep (p : Fin 2) (h : Fin 8) (s : State) : Ans := onMod s (fun s => perform p h 0x000B s sleepEntry)

/-- A mesh polder is powered again: its pads are released. -/
def meshUp (d : Nat) (c : Chip) : Chip :=
  setF { c with meshOn := tput (fun _ => false) c.meshOn d true } (meshB d) 0x010 0 0 0

/-- The mesh polders come back; while the Breach is latched each power-on is refused (R564). -/
def meshesBack (s : State) : State :=
  (List.range 4).foldl (fun s d => if s.dev.power.breach then countRefusal 0x0502 4 0 s else modChip (meshUp d) s) s

/-- The port polders come back, pads released; the controllers refresh again. -/
def powerUp (c : Chip) : Chip :=
  let c := (List.range 16).foldl (fun c n => setF { c with portOff := tput (fun _ => false) c.portOff n false } (ethB n) 0x022 0 0 0) c
  (List.range 8).foldl (fun c k => modStack c k (fun x => { x with selfRefresh := false })) c

/-- The blocks that device sleep stopped start again, in the reverse order (R548); one that may not start yet
waits (R53). -/
def restartBlocks (s : State) : State :=
  let x := startThese s.dev.warden.restart.reverse s.chip
  modWarden (fun w => { w with restart := [], lateStart := w.lateStart ++ x.2 }) (modChip (fun _ => x.1) s)

/-- Pumps that wait for their memory controllers start once those run; of a controller whose start has failed
the Pump stays STOPPED (R53, R359). -/
def startLate (s : State) : State :=
  let l := s.dev.warden.lateStart.filter (fun b => match b with | .pmp k => bRun s.chip (hmcB k.val) | _ => true)
  let x := startThese l s.chip
  modWarden (fun w => { w with lateStart := x.2 }) (modChip (fun _ => x.1) s)

def execAgreementCheck (blk : BlockId) (s : State) : Ans := onMod s (fun s => startLate (modChip (agreementCheck blk) s))

/-- A classroom that rested for device sleep wakes: a code that wakes only the module leaves the wake records
of classroom and cores as they are (R549, R550). Under a latched Breach the wake is refused (R564). -/
def roomBack (code r : Nat) (s : State) : State :=
  if wakesRoom code then wakeTo r code s
  else if s.dev.power.breach then countRefusal 0x0502 3 0 s
  else modChip (wakeCores r) s

/-- The POWER_STATE command that orders device sleep, while it is performed. -/
def sleepCmd (s : State) : Option Cmd :=
  match s.dev.warden.cur with
  | some c => if c.op = 0x000B ∧ argOf c 0 = 4 then some c else none
  | none => none

/-- A wake of the module (R548, R549): from device sleep, or before its entry is complete. -/
def deviceWake (code : Nat) (s : State) : State :=
  if dstate s = 6 then
    let rooms := s.dev.warden.rested
    let s := modChip powerUp (meshesBack s)
    let s := rooms.foldl (fun s r => roomBack code r s) s
    let s := modWarden (fun w => { w with dstate := w.before, rested := [] }) (restartBlocks s)
    logEvent 0 0x0503 [code] s
  else
    match sleepCmd s with
    | none => s
    | some c => finish c (sayStatus stRefused) (countRefusal (0x0510 + code) 4 1 (restartBlocks s))

/-- The Breach during an entry aborts it (R554); what the Breach has not stopped starts again. -/
def breachAbort (s : State) : State :=
  match sleepCmd s with
  | none => s
  | some c =>
    let s := modWarden (fun w => { w with restart := w.restart.filter (fun b => ports.contains b), lateStart := [] }) s
    finish c (sayStatus stRefused) (countRefusal 0x0502 4 1 (restartBlocks s))

def execBreach (node : Fin 128) (temp : Nat) (s : State) : Ans :=
  onMod s (fun s =>
    let t := breachTrip node.val temp s
    if t.dev.power.breach && !s.dev.power.breach then breachAbort t else t)

/-- DEVICE_WAKE (R503, R549): the codes that wake the module. -/
def execDeviceWake (code : Fin 16) (s : State) : Ans :=
  onMod s (fun s => if 4 ≤ code.val ∧ code.val ≤ 8 then deviceWake code.val s else s)

end Sys2Proof.Machine
end

