-- ==== Sys2Proof/Machine/Ring.lean ====
section
/-! DEFINITION. The management ring (spec/01_organisation.md R29 to R35): its transactions, and what the
Warden does with a report. -/

namespace Sys2Proof.Machine

/-! ### Transactions (R30 to R33) -/

/-- Originators by number: 0 the Warden, 1 + d the Reeve of CDd. -/
def originKey : RingOrigin → Nat
  | .warden => 0
  | .reeve d => 1 + d.val

/-- Whether an originator reaches a node: the Warden any, a compute-die Reeve its own and those of its
Prefects (R30, R36). -/
def ringTarget (o node : Nat) : Bool := o == 0 || node == 3 + o || (decide (0x40 ≤ node) && (node - 0x40) / 16 + 1 == o)

/-- Transactions of an originator whose response has not come back. -/
def outstanding (o : RingOrigin) (s : State) : Nat := (s.dev.ring.filter (fun t => t.origin == originKey o)).length

/-- A register access at a region of a node (R40, R41); none for a reserved one, which answers with an error (R36). -/
def nodeAccess (node off : Nat) (wr : Option W32) (c : Chip) : Option Chip :=
  match blockAt node (off / 0x400), wr with
  | some b, some v => some (busWrite b (off % 0x400) v c)
  | some b, none => some (busRead b (off % 0x400) c)
  | none, _ => none

/-- A transaction at its target: performed, or refused with an error response (R31, R36). -/
def ringAnswer (q : RingReq) (c : Chip) : Chip × RingTx :=
  match if ringTarget q.origin q.node then nodeAccess q.node q.off q.wr c else none with
  | none => (c, ⟨q.origin, none, true, none⟩)
  | some c => (c, ⟨q.origin, if q.wr.isSome then none else some c.readOut, false, none⟩)

/-- A transaction goes out; to a block under reset it is held there (R579). -/
def ringIssue (q : RingReq) (s : State) : State :=
  let x := if nodeInReset s q.node then (s.chip, ⟨q.origin, none, false, some q⟩) else ringAnswer q s.chip
  modDev (fun d => { d with ring := d.ring ++ [x.2] }) { s with chip := x.1 }

/-- After the reset the transactions held are answered, in order (R579). -/
def ringResume (s : State) : State :=
  let x := s.dev.ring.foldl (fun (x : Chip × List RingTx) t =>
    match t.held with
    | none => (x.1, x.2 ++ [t])
    | some q => ((ringAnswer q x.1).1, x.2 ++ [(ringAnswer q x.1).2])) (s.chip, [])
  modDev (fun d => { d with ring := x.2 }) { s with chip := x.1 }

/-- RING_REQUEST (R29 to R32): nothing answers before phase 2 has loaded the fuses (R580, R582). A seventeenth
transaction waits at its originator. Transactions of one originator to different targets have no defined
order; the model performs all of them, and answers them, in the order of issue (DESIGN CHOICE, log entry 56).
-/
def ringRequest (o : RingOrigin) (node off : Nat) (wr : Option W32) (s : State) : State :=
  let q : RingReq := ⟨originKey o, node, off, wr⟩
  if !ringUp s then s
  else if 16 ≤ outstanding o s then modDev (fun d => { d with ringWait := d.ringWait ++ [q] }) s
  else ringIssue q s

def execRingRequest (o : RingOrigin) (node : Fin 128) (off : BitVec 16) (wr : Option W32) (s : State) : Ans :=
  onMod s (ringRequest o node.val off.toNat wr)

/-- The oldest transaction that waits at an originator goes out (R31). -/
def ringNext (o : RingOrigin) (s : State) : State :=
  match s.dev.ringWait.find? (fun q => q.origin == originKey o) with
  | none => s
  | some q => ringIssue q (modDev (fun d => { d with ringWait := d.ringWait.erase q }) s)

/-- RING_RESPONSE (R31, R33): the oldest answered transaction of the originator completes, a read brings its
value, and the next that waits goes out. -/
def ringResponse (o : RingOrigin) (s : State) : State :=
  match s.dev.ring.find? (fun t => t.origin == originKey o && t.held.isNone) with
  | none => s
  | some t =>
    let s := ringNext o (modDev (fun d => { d with ring := d.ring.erase t, ringErr := t.err }) s)
    match t.val with
    | some v => modChip (fun c => { c with readOut := v }) s
    | none => s

def execRingResponse (o : RingOrigin) (s : State) : Ans := onMod s (ringResponse o)

/-! ### Reports (R35) -/

/-- A row becomes a repair candidate (R341, R533): once, and at most 256 of a stack. -/
def addCandidate (k row : Nat) (s : State) : State :=
  let l := settingVal s.flash (0x10 + k)
  let r := natBytes row 4
  let rows := (List.range (l.length / 4)).map (fun i => slice l (4 * i) 4)
  if rows.contains r ∨ 256 ≤ rows.length then s
  else modFlash (fun f => { f with candidates := f.candidates ++ [(k, row)] }) (putSetting (0x10 + k) (l ++ r) s)

/-- A pass 2 left the shard TORN: the Warden halts the school at the next bell of a running job (R376, R391, R471). -/
def tornShard (s : State) : State :=
  modBell (fun b => { b with torn := true, wardenAbort := b.wardenAbort || dstate s == 4 }) s

/-- What the Warden does with a report beside logging it (R341, R376, R391, R427). -/
def reportAct (r : Report) (s : State) : State :=
  if r.code = 0x0102 ∧ r.items.getD 1 0 = 1 then failSchool 0x0102 s
  else if r.code = 0x0202 then addCandidate (r.items.getD 0 0) (r.items.getD 1 0) s
  else if r.code = 0x0215 ∨ (r.code = 0x0214 ∧ r.items.length = 3) then tornShard s
  else s

/-- REPORT (R35): the oldest report of a node reaches the Warden. -/
def reportIn (node : Nat) (s : State) : State :=
  if !fwUp s then s
  else
    match s.chip.reports.find? (fun r => r.node == node) with
    | none => s
    | some r =>
      let s := modChip (fun c => { c with reports := c.reports.erase r }) s
      reportAct r (logEvent node r.code (reportData r.code r.items) s)

def execReport (node : Fin 128) (s : State) : Ans := onMod s (reportIn node.val)

end Sys2Proof.Machine
end

