-- ==== Sys2Proof/Machine/Timetable.lean ====
section
/-! DEFINITION. The timetable at work (spec/11_timetables_and_bells.md R404 to R410, R414, R419): whom a
period uses, the words its agents reach, the start of a lesson. -/

namespace Sys2Proof.Machine

/-! ### Whom a period uses -/

/-- The classrooms with a lesson or a DMA list in period p. -/
def Job.rooms (j : Job) (p : Nat) : List Nat :=
  ((j.lessons p).map (fun l => l.2.cl) ++ (j.dmas p).map (fun d => d.2.cl)).eraseDups

/-- The classrooms that the job uses, and those that run a lesson of it. -/
def Job.allRooms (j : Job) : List Nat := ((List.range j.nper).flatMap j.rooms).eraseDups
def Job.lessonRooms (j : Job) : List Nat := ((List.range j.nles).map (fun i => (j.les i).cl)).eraseDups

/-- Whether any period has Pump work. -/
def Job.pumps (j : Job) : Bool := (List.range j.nper).any (fun p => (j.per p).pump != 0)

/-- A list of numbers as a mask. -/
def maskOf (l : List Nat) : Nat := l.eraseDups.foldl (fun a r => a + 2 ^ r) 0

/-- The ports that the school map marks. -/
def Job.ports (j : Job) : List Nat := (List.range 16).filter j.schoolPort

/-! ### Agents and their words (R414) -/

/-- A run of words: its first address and its length. -/
abbrev Span := Int × Nat

def spansMeet (a b : Span) : Bool := decide (a.1 < b.1 + b.2) && decide (b.1 < a.1 + a.2)

/-- A range of an agent: the table (R412), entry and agent it belongs to, its words, whether it writes, and DYN. -/
structure ARange where
  table : Nat
  index : Nat
  agent : Nat × Nat
  spans : List Span
  wr : Bool
  dyn : Bool
  deriving DecidableEq, Repr

/-- Whether two ranges share a word. -/
def meets (a b : ARange) : Bool := a.spans.any (fun x => b.spans.any (spansMeet x))

/-- The declared ranges of a period's lessons: one agent for each strand. -/
def lessonRanges (j : Job) (p : Nat) : List ARange :=
  (j.lessons p).flatMap (fun l =>
    (List.range l.2.nr).map (fun i =>
      let r := j.rng (l.2.rfirst + i)
      ⟨3, l.2.rfirst + i, (0, (16 * l.2.cl + l.2.pos) * 8 + l.2.strand), [((r.first : Int), r.count)], r.wr, r.dyn⟩))

/-- The rows of a descriptor from an address. -/
def rowSpans (a : Nat) (stride : Int) (rowlen rows : Nat) : List Span :=
  (List.range rows).map (fun (i : Nat) => ((a : Int) + (i : Int) * stride, rowlen))

/-- A descriptor of a list: its number in the list, its address, its 256 bits. -/
def listDescs (c : Chip) (e : DmaEnt) : List (Nat × Nat × Nat) :=
  (List.range e.ndesc).map (fun i => (i, e.list + 16 * i, (readDesc c (e.list + 16 * i)).1))

/-- KIND of a descriptor: 0 copy, 1 prefetch, 2 fill. -/
def descKind (d : Nat) : Nat := natBits (dWord d 0) 15 12

/-- The source rows of a descriptor (a fill reads none), and its destination rows (a prefetch writes them). -/
def descSrc (d : Nat) : List Span :=
  if descKind d = 2 then [] else rowSpans (natBits d 95 48) (natSigned (natBits d 223 192) 32) (natBits d 175 144) (dWord d 11)
def descDst (d : Nat) : List Span :=
  rowSpans (natBits d 143 96) (natSigned (natBits d 255 224) 32) (natBits d 175 144) (dWord d 11)

/-- The ranges of a period's descriptors: one agent for each list. -/
def dmaRanges (j : Job) (c : Chip) (p : Nat) : List ARange :=
  (j.dmas p).flatMap (fun e => (listDescs c e.2).flatMap (fun d =>
    [⟨8, d.1, (1, e.1), descSrc d.2.2, false, false⟩, ⟨8, d.1, (1, e.1), descDst d.2.2, true, false⟩]))

/-- The ranges of a period's windows. -/
def windowRanges (j : Job) (p : Nat) : List ARange :=
  (j.windows p).map (fun w => ⟨5, w.1, (2, w.1), [((w.2.addr : Int), w.2.len)], w.2.recv, false⟩)

/-- The words that a pass of Pump k reads and writes (R367, R368, R375, R377): pass 1 reads G and writes RS
and KS of the segments that take part in the norm, and writes norm-out; pass 2 reads every area and norm-in,
and writes in the segments that are not frozen the record, W, M, V, QE, QX, RV and KV. -/
def pumpRanges (c : Chip) (pass k : Nat) : List ARange :=
  let mk := fun (g : Nat) (wr : Bool) (l : List Span) => (⟨7, g, (3, k), l, wr, false⟩ : ARange)
  let run := fun (a b : Nat) => (((a : Int), b - a) : Span)
  (validGroups c k).flatMap (fun g =>
    let d := pdescOf c k g
    if pass = 1 then
      if d.frozen && (d.strict || !d.normFrozen) then []
      else [mk g false [run d.aG d.aQE], mk g true (if d.rule = 3 then [run d.aRS d.aEnd] else [])]
    else
      [mk g false [run d.base d.aEnd],
        mk g true (if d.frozen then []
          else [run d.base d.aG, run d.aQE d.endQX] ++ (if d.rule = 3 then [run d.aRV d.aRS] else []))]) ++
    [mk 0 (pass == 1) [(((if pass = 1 then nOut c k else nIn c k) : Int), 32800)]]

/-- Every range of period p. -/
def periodRanges (j : Job) (c : Chip) (p : Nat) : List ARange :=
  let w := (j.per p).pump
  lessonRanges j p ++ dmaRanges j c p ++ windowRanges j p ++
    (if w = 1 ∨ w = 2 then (List.range 8).flatMap (pumpRanges c w) else [])

/-! ### The start of a lesson (R317, R419) -/

/-- Pending vector writes in order of visibility. -/
def insV (w : PendV) : List PendV → List PendV
  | [] => [w]
  | x :: r => if w.k < x.k then w :: x :: r else x :: insV w r
def sortV (ws : List PendV) : List PendV := ws.foldl (fun l w => insV w l) []

/-- Every pending write of a strand becomes visible, in order of visibility. -/
def commitAll (c : Chip) (u : StrandId) : Chip :=
  let st := strandOf c u
  let c := setStrand c u { st with pend := [], pendV := [], pendF := [] }
  let c := (sortPend st.pend).foldl (commitW u) c
  let c := (sortV st.pendV).foldl (commitV u) c
  st.pendF.foldl (commitF u) c

/-- The registers that a start sets. -/
def lessonRegs (i : Nat) (l : Les) (st : Strand) : Strand :=
  let st := setCreg (setCreg (setCreg st 16 0) 0 (BitVec.ofNat 64 l.mode)) 5 0
  { st with
    pc := l.entry, pb := none, lesson := some i, spec := l.spec
    g := tput (fun _ => 0) st.g 1 (BitVec.ofNat 64 l.arg)
    vc := tput (fun _ => 0) (tput (fun _ => 0) st.vc 6 (BitVec.ofNat 64 l.vmask)) 2 0
    tc := tput (fun _ => 0) st.tc 1 (BitVec.ofNat 64 l.tmask)
    pois := tclear st.pois (fun r => r == 1 || r == 64 || r == 69 || r == 80) }

/-- LESSON_START (R317, R419, R549): writes still pending come first; a speculative lesson opens its
classroom's epoch. -/
def startLesson (i : Nat) (l : Les) (c : Chip) : Chip :=
  let u := l.id
  let c := modStrand (commitAll c u) u (lessonRegs i l)
  let c := if l.spec then setF c (clsB l.cl) 0x020 31 31 1 else c
  strandRun u 3 c

/-- Whether the DMA lists of a classroom have written their last STATUS (R421). A list that an error stopped
never does. -/
def listsDone (c : Chip) (r : Nat) : Bool :=
  (dmaOf c r).active.isEmpty && (dmaOf c r).lists.all (fun l => l.left == 0)

/-- Forget the lists that have ended. -/
def dropLists (r : Nat) (c : Chip) : Chip :=
  modDma c r (fun d => { d with lists := d.lists.filter (fun l => decide (0 < l.left) || d.active.any (fun a => a.list == l.id)) })

end Sys2Proof.Machine
end

