-- ==== Sys2Proof/Machine/Shard.lean ====
section
/-! DEFINITION. The shard of a device and its copies (spec/13_sleeper_copies_and_recovery.md R462 to R470, R473, R475 to
R478). -/

namespace Sys2Proof.Machine

/-! ### The layout of a copy (R466, R467) -/

/-- The segments of a device in image order: Pump and group. -/
def segments (c : Chip) : List (Nat × Nat) := (List.range 8).flatMap (fun k => (validGroups c k).map (fun g => (k, g)))

/-- The areas of a segment that a copy holds: record, W, M and V are one run, RV and KV another. -/
def heldAreas (d : PDesc) : List (Nat × Nat) :=
  (d.base, d.aG - d.base) :: (if d.rule = 3 then [(d.aRV, d.aRS - d.aRV)] else [])

def heldWords (d : PDesc) : Nat := (heldAreas d).foldl (fun a x => a + x.2) 0

/-- The segment images of a copy from an offset: where each starts and its segment. -/
def imagesFrom (at_ : Nat) : List PDesc → List (Nat × PDesc)
  | [] => []
  | d :: r => (at_, d) :: imagesFrom ((at_ + heldWords d + 31) / 32 * 32) r

/-- The images of this device's copy, and the length of the whole copy. -/
def images (c : Chip) : List (Nat × PDesc) := imagesFrom 128 ((segments c).map (fun x => pdescOf c x.1 x.2))

def copyLen (c : Chip) : Nat :=
  match (images c).getLast? with
  | none => 128
  | some (o, d) => o + heldWords d

/-- Runs of a shard in a copy: offset in the copy, address in the segment, length. -/
def areaRuns (o : Nat) : List (Nat × Nat) → List (Nat × Nat × Nat)
  | [] => []
  | (a, n) :: r => (o, a, n) :: areaRuns (o + n) r
def runsIn (l : List (Nat × PDesc)) : List (Nat × Nat × Nat) := l.flatMap (fun x => areaRuns x.1 (heldAreas x.2))
def copyRuns (c : Chip) : List (Nat × Nat × Nat) := runsIn (images c)

/-- A segment of that rule, count and columns; what else its descriptor holds has no part in the layout of a copy. -/
def shapeOf (x : Nat × Nat × Nat) : PDesc :=
  ⟨true, false, false, false, false, false, x.1, 0, x.2.1, 0, x.2.2, 0, 0, 0, 0, 0, 0, 0, 0, false⟩

/-- Runs (offset, words) of the images of a partner's copy (R466). -/
def partnerRuns (j : Job) (q : Nat) : List (Nat × Nat) :=
  (runsIn (imagesFrom 128 ((Config.shardLayout j.tag q).map shapeOf))).map (fun r => (r.1, r.2.2))

/-- LAYOUT (R467): five words for each image, with the image's index. -/
def layoutDigest (c : Chip) : Nat :=
  foldPairs 0 ((segments c).zipIdx.flatMap (fun x =>
    let d := pdescOf c x.1.1 x.1.2
    [x.1.1, x.1.2, d.rule, d.count, d.cols - 1].map (fun w => (w, x.2))))

/-- Whether a step's pass 2 comes before period p. -/
def pass2Before (j : Job) (p : Nat) : Bool := (List.range p).any (fun i => (j.per i).pump == 2)

/-- The snapshot step of a copy taken in a step before period p (R467). -/
def snapStep (j : Job) (p step : Nat) : Nat := if pass2Before j p then (step + 1) % 2 ^ 32 else step

/-- A word that the bell unit reads for a stamp: of HBM, whose controller runs; for one that it does not reach
(R36) a value is not given: it is free (log entry 59). -/
def bellWord (c : Chip) (a : Nat) : Word :=
  if inHbm a && dataWord c a then (rdWord c false a).1 else (Config.freeSlot c.fresh a).setWidth 16

/-- The 64 words of a stamp with snapshot step s (R467). -/
def stampWords (j : Job) (c : Chip) (s gen : Nat) : List Word :=
  let streams := (List.range j.nstream).flatMap (fun i =>
    (List.range 4).map (fun n => bellWord c (j.saddr i + n)) ++ natWords (j.draw i) 2)
  natWords 0x53544D50 2 ++ natWords j.tag 2 ++ natWords j.rank 1 ++ natWords j.nstream 1 ++ natWords s 2 ++
    natWords gen 2 ++ natWords j.layout 4 ++ [0, 0] ++ streams ++ List.replicate (48 - 6 * j.nstream) 0

/-- The bell unit writes words of HBM that it reaches (R36). -/
def bellWrite (c : Chip) (a : Nat) (ws : List Word) : Chip :=
  { wrMarked c false ((atRun a ws).filter (fun x => inHbm x.1 && dataWord c x.1)) with fresh := c.fresh + 1 }

/-- A stamp of snapshot step n, one generation on. -/
def stampAs (j : Job) (n : Nat) (s : State) : State :=
  let g := s.dev.bell.gen + 1
  modBell (fun b => { b with gen := g }) (modChip (fun c => bellWrite c j.stamp (stampWords j c n g)) s)

/-- STAMP_WRITE (R468). -/
def stampWrite (j : Job) (s : State) : State := stampAs j (snapStep j j.beginP (rawReg s.chip .bel 0x012).toNat) s

/-! ### A copy checked (R470, R478) -/

/-- The words of a copy as numbers, and a field of its BEGIN record. -/
def copyNat (l : List (Word × Bool)) (i n : Nat) : Nat := wordsNat (((l.drop i).take n).map Prod.fst)

/-- The code of R478 for a copy: 0 valid, 1 TORN, 2 JOB, 3 RANK, 4 LAYOUT, 5 POISON. -/
def copyCode (tag rank layout : Nat) (l : List (Word × Bool)) : Nat :=
  if (l.take 64).map Prod.fst ≠ ((l.drop 64).take 64).map Prod.fst then 1
  else if copyNat l 0 2 ≠ 0x53544D50 ∨ copyNat l 2 2 ≠ tag then 2
  else if copyNat l 4 1 ≠ rank then 3
  else if copyNat l 10 4 ≠ layout then 4
  else if l.any Prod.snd then 5
  else 0

/-- The copy held for the partner. -/
def heldCopy (j : Job) (c : Chip) : List (Word × Bool) := rdWords c false j.sleepBase j.sleepWords

/-- The copy of this device's shard as it stands, with a stamp. -/
def ownCopy (j : Job) (c : Chip) (s gen : Nat) : List Word :=
  let st := stampWords j c s gen
  let body := (List.range (copyLen c - 128)).map (fun i => (i + 128, (0 : Word)))
  let put := fun (o : Nat) => ((copyRuns c).find? (fun r => decide (r.1 ≤ o) && decide (o < r.1 + r.2.2))).map (fun r =>
    (rdWord c false (r.2.1 + (o - r.1))).1)
  st ++ st ++ body.map (fun x => (put x.1).getD 0)

/-- The segments take what a copy holds, and their poison goes. -/
def writeSegments (l : List Word) (c : Chip) : Chip :=
  (copyRuns c).foldl (fun c r => wrWords c false r.2.1 ((l.drop r.1).take r.2.2)) c

/-! ### Resuming (R475 to R477) -/

/-- The STEP values of the state records that are not frozen. -/
def liveSteps (c : Chip) : List Nat :=
  ((segments c).filter (fun x => !(pdescOf c x.1 x.2).frozen)).map (fun x => (pRd c (pdescOf c x.1 x.2).base).1)

/-- STEP of every state record that is not frozen. -/
def setSteps (sr : Nat) (c : Chip) : Chip :=
  wrMarked c false (((segments c).filter (fun x => !(pdescOf c x.1 x.2).frozen)).flatMap (fun x =>
    w32 (pdescOf c x.1 x.2).base sr))

/-- QE and QX of a segment of Pump k built from W (R77 with RNE, as R379), with the flags of the roundings (R80). -/
def computeCopy (k : Nat) (d : PDesc) (c : Chip) : Chip :=
  let blocks := (List.range (d.count / 32)).map (fun k =>
    qblock .q8 0 ((List.range 32).map (fun i => (fdec fmtFP32 (pRd c (d.aW + 2 * (32 * k + i))).1, 0))))
  let qe := blocks.zipIdx.flatMap (fun b =>
    atRun (d.aQE + 16 * b.2) (natWords (b.1.2.1.zipIdx.foldl (fun a p => a + p.1 * 2 ^ (8 * p.2)) 0) 16))
  orF (wrMarked c false (qe ++ qxWords c d (blocks.map (fun b => some b.1)))) (pmpB k) 0x020 4 0
    (blocks.foldl (fun f b => forr f b.2.2) 0)

def computeCopies (c : Chip) : Chip := (segments c).foldl (fun c x => computeCopy x.1 (pdescOf c x.1 x.2) c) c

/-- The position of a stream at the resume step, from the stamp of the copy used (R477): POS + (sr - S) x DRAW. -/
def streamPos (stamp : List (Word × Bool)) (sr i : Nat) : Nat :=
  (copyNat stamp (16 + 6 * i) 4 + (sr + 2 ^ 32 - copyNat stamp 6 2) % 2 ^ 32 * copyNat stamp (20 + 6 * i) 2) % 2 ^ 64

/-- The legacy stream words. -/
def writeStreams (j : Job) (stamp : List (Word × Bool)) (sr : Nat) (c : Chip) : Chip :=
  (List.range (copyNat stamp 5 1)).foldl (fun c i => wardenWrite c (atRun (j.saddr i) (natWords (streamPos stamp sr i) 4))) c

end Sys2Proof.Machine
end

