-- ==== Sys2Proof/Machine/Crypto.lean ====
section
/-! DEFINITION. AES-256-GCM, SHAKE256 and the checksums of the ports (spec/12_network.md R435, R439; spec/15
R508 to R523). The spec names these standards and does not restate them: the mode is that of NIST SP 800-38D
with an IV of 96 bits, the sponge that of FIPS 202, the sums those of RFC 768 and IEEE 802.3 (PRESUMED, log
entry 9). -/

namespace Sys2Proof.Machine

/-! ### AES-256-GCM -/

/-- Bytes as one number, the first most significant, and back. -/
def bytesBE (l : List Nat) : Nat := l.foldl (fun a b => 256 * a + b) 0
def natBE (v n : Nat) : List Nat := (natBytesLE v n).reverse

/-- The product of x and v in the field of GHASH, over the low n bits of x; the most significant bit is the
coefficient of the lowest power. -/
def ghMul : Nat → Nat → Nat → Nat
  | 0, _, _ => 0
  | n + 1, x, v => (if x / 2 ^ n % 2 = 1 then v else 0) ^^^
      ghMul n x (if v % 2 = 1 then v / 2 ^^^ 0xE1 * 2 ^ 120 else v / 2)

/-- Blocks of 16 bytes, the last filled with zeros; n bounds their number. -/
def blocks16 : Nat → List Nat → List (List Nat)
  | 0, _ => []
  | n + 1, l => if l.isEmpty then [] else (l ++ List.replicate 16 0).take 16 :: blocks16 n (l.drop 16)

def ghash (h : Nat) (l : List Nat) : Nat := (blocks16 l.length l).foldl (fun y b => ghMul 128 (y ^^^ bytesBE b) h) 0

/-- Bytes to a multiple of 16. -/
def pad16 (l : List Nat) : List Nat := l ++ List.replicate ((16 - l.length % 16) % 16) 0

/-- The counter mode from counter 2 on. -/
def gcmCtr (key iv data : List Nat) : List Nat :=
  (blocks16 data.length data).zipIdx.flatMap (fun b => xorBytes b.1 (aesEnc key (iv ++ natBE (b.2 + 2) 4))) |>.take data.length

/-- The tag of 16 bytes over AAD and ciphertext. -/
def gcmTag (key iv aad c : List Nat) : List Nat :=
  let h := bytesBE (aesEnc key (List.replicate 16 0))
  let s := ghash h (pad16 aad ++ pad16 c ++ natBE (8 * aad.length) 8 ++ natBE (8 * c.length) 8)
  xorBytes (natBE s 16) (aesEnc key (iv ++ [0, 0, 0, 1]))

def toNats (l : List Byte) : List Nat := l.map (fun b => b.toNat)
def ofNats (l : List Nat) : List Byte := l.map (fun n => BitVec.ofNat 8 n)

/-- Key, IV, AAD and plaintext to ciphertext and tag. -/
def gcmSeal (key iv aad data : List Byte) : List Byte × List Byte :=
  let c := gcmCtr (toNats key) (toNats iv) (toNats data)
  (ofNats c, ofNats (gcmTag (toNats key) (toNats iv) (toNats aad) c))

/-- Key, IV, AAD, ciphertext and tag to plaintext, none when the tag fails. -/
def gcmOpen (key iv aad c tag : List Byte) : Option (List Byte) :=
  if ofNats (gcmTag (toNats key) (toNats iv) (toNats aad) (toNats c)) = tag then
    some (ofNats (gcmCtr (toNats key) (toNats iv) (toNats c)))
  else none

/-! ### SHAKE256 -/

def rotLane (x n : Nat) : Nat := x * 2 ^ n % 2 ^ 64 ||| x / 2 ^ (64 - n)

/-- By how much lane x + 5 y is turned: lane 0 by nothing, and the t-th lane of the walk from (1, 0) that goes
from (x, y) to (y, 2 x + 3 y) by the t-th triangular number. -/
def keccakTurn (lane : Nat) : Nat :=
  let walk := (List.range 24).foldl (fun (w : (Nat × Nat) × List (Nat × Nat)) t =>
    ((w.1.2, (2 * w.1.1 + 3 * w.1.2) % 5), (w.1.1 + 5 * w.1.2, (t + 1) * (t + 2) / 2 % 64) :: w.2)) ((1, 0), [])
  ((walk.2.find? (fun e => e.1 == lane)).map (fun e => e.2)).getD 0

/-- The register of eight bits after t shifts from 1; its feedback is x^8 + x^6 + x^5 + x^4 + 1. -/
def keccakShift : Nat → Nat
  | 0 => 1
  | t + 1 => let r := 2 * keccakShift t; if r < 256 then r else r ^^^ 0x171

/-- What round i adds to lane 0: bit 2^j - 1 is the low bit of the register after 7 i + j shifts. -/
def keccakConst (i : Nat) : Nat := ((List.range 7).map (fun j => keccakShift (7 * i + j) % 2 * 2 ^ (2 ^ j - 1))).sum

/-- One round on the 25 lanes. -/
def keccakRound (a : List Nat) (rc : Nat) : List Nat :=
  let cs := (List.range 5).map (fun x => (List.range 5).foldl (fun v y => v ^^^ a.getD (x + 5 * y) 0) 0)
  let ds := (List.range 5).map (fun x => cs.getD ((x + 4) % 5) 0 ^^^ rotLane (cs.getD ((x + 1) % 5) 0) 1)
  let bs := (List.range 25).map (fun i =>
    let s := (i % 5 + 3 * (i / 5)) % 5
    rotLane (a.getD (s + 5 * (i % 5)) 0 ^^^ ds.getD s 0) (keccakTurn (s + 5 * (i % 5))))
  let es := (List.range 25).map (fun i =>
    let b := fun k => bs.getD ((i % 5 + k) % 5 + 5 * (i / 5)) 0
    b 0 ^^^ ((2 ^ 64 - 1 - b 1) &&& b 2))
  (es.getD 0 0 ^^^ rc) :: es.drop 1

def keccakF (a : List Nat) : List Nat := ((List.range 24).map keccakConst).foldl keccakRound a

/-- Absorb n blocks of 136 bytes. -/
def absorb : Nat → List Nat → List Nat → List Nat
  | 0, _, a => a
  | n + 1, l, a =>
    absorb n (l.drop 136) (keccakF (a.zipIdx.map (fun x =>
      if x.2 < 17 then x.1 ^^^ bytesNatLE ((l.drop (8 * x.2)).take 8) else x.1)))

/-- Squeeze n blocks of 136 bytes. -/
def squeeze : Nat → List Nat → List Nat
  | 0, _ => []
  | n + 1, a => (a.take 17).flatMap (fun x => natBytesLE x 8) ++ squeeze n (keccakF a)

/-- The first n bytes of SHAKE256. -/
def shake256 (m : List Byte) (n : Nat) : List Byte :=
  let k := m.length / 136 + 1
  let fill := 136 * k - m.length
  let l := toNats m ++ (if fill = 1 then [0x9F] else 0x1F :: (List.replicate (fill - 2) 0 ++ [0x80]))
  ofNats ((squeeze ((n + 135) / 136) (absorb k l (List.replicate 25 0))).take n)

/-! ### Checksums -/

/-- A sum of 16-bit units in ones' complement, each unit with its first byte most significant; an odd last
byte is followed by a zero. -/
def onesSum : List Nat → Nat
  | a :: b :: r => let t := 256 * a + b + onesSum r; t % 65536 + t / 65536
  | [a] => 256 * a
  | [] => 0

/-- One bit of the frame check sequence. -/
def crcBits : Nat → Nat → Nat
  | 0, c => c
  | n + 1, c => crcBits n (if c % 2 = 1 then c / 2 ^^^ 0xEDB88320 else c / 2)

/-- The frame check sequence of IEEE 802.3, as its four bytes on the wire. -/
def frameCheck (l : List Nat) : List Nat :=
  natBytesLE (l.foldl (fun c b => crcBits 8 (c ^^^ b)) 0xFFFFFFFF ^^^ 0xFFFFFFFF) 4

end Sys2Proof.Machine
end

