-- ==== Sys2Proof/Machine/Wire.lean ====
section
/-! DEFINITION. A school frame on the wire, byte for byte (spec/12_network.md R434, R435, R439, R440; spec/15 R522). -/

namespace Sys2Proof.Machine

/-- The C-tag of a port, without its TPID: PCP and VLAN_ID; none while VLAN_EN = 0 (R434, R458). -/
def cTag (c : Chip) (p : Nat) : Option Nat :=
  let f := getF c (ethB p) 0x010
  if f 12 12 = 1 then some (f 15 13 * 2 ^ 13 + f 27 16) else none

/-- ETH_MAC of a port as six bytes on the wire. -/
def macBytes (c : Chip) (p : Nat) : List Nat :=
  natBytesLE ((rawReg c (ethB p) 0x016).toNat + getF c (ethB p) 0x018 15 0 * 2 ^ 32) 6

/-- The school header (R440): the header of a bell or control frame has 0 in WID. -/
def schoolHeader (typ : Nat) (f : Frame) : List Nat :=
  [f.ver % 16 * 16 + typ, (if f.poison then 128 else 0) + (if f.last then 64 else 0)] ++ natBE f.src 2 ++ natBE f.dst 2 ++
    natBE f.job.toNat 4 ++ natBE f.step.toNat 4 ++ natBE f.period 2 ++ natBE (if typ = 1 then f.wid else 0) 4 ++
    natBE f.frame 4 ++ natBE f.payload.length 2 ++ natBE f.op 2 ++ natBE f.aux 4

/-- UDP header and data between two IPv6 addresses; a checksum of 0 is sent as 0xFFFF (RFC 768); `err` is what
the checksum differs by. -/
def udpBytes (src dst : List Nat) (wid err : Nat) (data : List Nat) : List Nat :=
  let n := data.length + 8
  let head := natBE (0xC000 + wid % 0x4000) 2 ++ natBE 0xB739 2 ++ natBE n 2
  let sum := 65535 - onesSum (src ++ dst ++ natBE n 4 ++ natBE 17 4 ++ head ++ data)
  head ++ natBE ((if sum = 0 then 65535 else sum) ^^^ err) 2 ++ data

/-- The data that MACsec protects: C-tag, EtherType, IPv6, UDP, school header, payload. -/
def innerBytes (j : Job) (c : Chip) (p typ : Nat) (f : Frame) : List Nat :=
  let src := natBytesLE (j.ipv6 f.src p) 16
  let dst := natBytesLE (j.ipv6 f.dst p) 16
  let udp := udpBytes src dst (if typ = 1 then f.wid else 0) f.udpErr (schoolHeader typ f ++ toNats (wordsBytes f.payload))
  (match cTag c p with | some t => [0x81, 0x00] ++ natBE t 2 | none => []) ++ [0x86, 0xDD] ++
    natBE (6 * 2 ^ 28 + getF c (ethB p) 0x010 15 13 * 32 * 2 ^ 20) 4 ++ natBE udp.length 2 ++ [17, 1] ++ src ++ dst ++ udp

/-- Addresses and SecTAG from a MAC address: TCI with SC, E and C set, AN 0, SL 0, the low half of the packet
number, the SCI. -/
def outerBytes (dst src : List Nat) (pn : Nat) : List Nat :=
  dst ++ src ++ [0x88, 0xE5, 0x2C, 0x00] ++ natBE (pn % 2 ^ 32) 4 ++ src ++ [0, 1]

/-- A number held by key registers, the first least significant (R460). -/
def keyRegs (c : Chip) (p off n : Nat) : List Nat :=
  (List.range n).flatMap (fun i => natBytesLE (rawReg c (ethB p) (off + 2 * i)).toNat 4)

/-- The IV of GCM-AES-256-XPN: the sender's SSCI and the packet number, masked with the salt. -/
def xpnIv (c : Chip) (p ssci pn : Nat) : List Nat := xorBytes (natBE ssci 4 ++ natBE pn 8) (keyRegs c p 0x040 3)

/-- A frame between two MAC addresses under a sender's SSCI: what comes before the secured data, those, and the ICV. -/
def sealFrame (j : Job) (c : Chip) (p typ : Nat) (f : Frame) (dst src : List Nat) (ssci : Nat) :
    List Nat × List Nat × List Nat :=
  let outer := outerBytes dst src f.pn
  let key := keyRegs c p 0x030 8
  let iv := xpnIv c p ssci f.pn
  let body := gcmCtr key iv (innerBytes j c p typ f)
  (outer, body, gcmTag key iv outer body)

/-- A frame as port p sends it, FCS included. -/
def frameBytes (j : Job) (c : Chip) (p typ : Nat) (f : Frame) : List Byte :=
  let x := sealFrame j c p typ f (natBytesLE (j.mac f.dst p) 6) (macBytes c p) (rawReg c (ethB p) 0x046).toNat
  let all := x.1 ++ x.2.1 ++ x.2.2
  ofNats (all ++ frameCheck all)

/-- The ICV that a frame on the receive channel of rank q has when it is genuine: with the SSCI of that
channel, from the MAC address of that rank to the port's own (R435, R460, R522); its C-tag and traffic class
are those of the port's own settings (DESIGN CHOICE, log entry 41). -/
def icvWanted (j : Job) (c : Chip) (p typ q : Nat) (f : Frame) : List Byte :=
  ofNats (sealFrame j c p typ f (macBytes c p) (natBytesLE (j.mac q p) 6) ((rawReg c (ethB p) 0x048).toNat + q)).2.2

end Sys2Proof.Machine
end

