-- ==== Sys2Proof/Machine/Roce.lean ====
section
/-! DEFINITION. RoCEv2 and the links of the ports (spec/12_network.md R432 to R436, R446, R455 to R457). -/

namespace Sys2Proof.Machine

/-! ### Ports -/

/-- Whether port p carries RoCEv2, or the school transport, now. -/
def rocePort (s : State) (p : Nat) : Bool := bState s.chip (ethB p) == 2 && getF s.chip (ethB p) 0x010 9 9 == 1
def schoolOn (s : State) (p : Nat) : Bool := bState s.chip (ethB p) == 2 && getF s.chip (ethB p) 0x010 10 10 == 1
def linkIsUp (s : State) (p : Nat) : Bool := getF s.chip (ethB p) 0x01A 31 31 == 1

/-- Count a dropped frame (R436, R442). -/
def dropFrame (p : Nat) (icv : Bool) (s : State) : State :=
  modChip (fun c =>
    let c := bumpF c (ethB p) 0x01E 15 0 1
    if icv then bumpF c (ethB p) 0x01E 31 16 1 else c) s

/-- DROPPED_FRAME (R433, R436, R442, R460). -/
def droppedFrame (p : Nat) (why : DropCause) (s : State) : State :=
  if bState s.chip (ethB p) = 2 ∨ bState s.chip (ethB p) = 3 then
    dropFrame p why.icvFail (modChip (fun c => bumpF c (ethB p) 0x01A 23 0 why.fec) s)
  else s

def execDroppedFrame (p : Fin 16) (why : DropCause) (s : State) : Ans := onMod s (droppedFrame p.val why)

/-- PRIORITY_FLOW_CONTROL (R434): RoCEv2 ports, priority PCP. -/
def flowControl (p prio : Nat) (pause : Bool) (s : State) : State :=
  if rocePort s p ∧ getF s.chip (ethB p) 0x010 15 13 = prio then modEth p (fun e => { e with paused := pause }) s else s

def execPriorityFlowControl (p : Fin 16) (prio : Fin 8) (pause : Bool) (s : State) : Ans :=
  onMod s (flowControl p.val prio.val pause)

/-- LINK_DOWN (R446): transmission and timers pause, the port reports and retrains. -/
def linkDown (p : Nat) (s : State) : State :=
  if !linkIsUp s p then s
  else
    modEth p (fun e => { e with retraining := true })
      (modChip (fun c => report (setF c (ethB p) 0x01A 31 31 0) (blockNode (ethB p)) 0x0401 [p]) s)

def execLinkDown (p : Fin 16) (s : State) : Ans := onMod s (linkDown p.val)

/-- LINK_UP (R433, R457, R539): not while the port is off or its pads are held. In device sleep a link that
comes up on a WAKE_EN port wakes the device. -/
def linkUp (p : Nat) (s : State) : State :=
  if tget (fun _ => false) s.chip.portOff p || getF s.chip (ethB p) 0x022 0 0 == 1 || linkIsUp s p then s
  else if dstate s = 6 then
    (if wakeEn s.chip p then
      deviceWake 7 (modEth p (fun e => { e with retraining := false }) (modChip (fun c => setF c (ethB p) 0x01A 31 31 1) s))
     else s)
  else if bState s.chip (ethB p) = 2 then
    modEth p (fun e => { e with retraining := false }) (modChip (fun c => setF c (ethB p) 0x01A 31 31 1) s)
  else s

def execLinkUp (p : Fin 16) (s : State) : Ans := onMod s (linkUp p.val)

/-- WAKE (R457): a wake frame does nothing but wake the device. -/
def wakeFrame (p : Nat) (own : Bool) (s : State) : State :=
  if dstate s = 6 ∧ wakeEn s.chip p = true ∧ own = true then deviceWake 6 s else s

def execWake (p : Fin 16) (dstMatch : Bool) (s : State) : Ans := onMod s (wakeFrame p.val dstMatch)

/-! ### RoCEv2 (R455) -/

/-- ROCE_REQUEST_IN: answered with a NAK, remote access error, and counted. -/
def execRoceRequestIn (p : Fin 16) (s : State) : Ans :=
  onMod s (fun s => if rocePort s p.val then
    modEth p.val (fun e => { e with refused := e.refused + 1, naks := e.naks + 1 }) s else s)

/-- ROCE_CNP: the rate halves, at most once per 50 us. -/
def roceCnp (p : Nat) (s : State) : State :=
  let e := ethOf s p
  let again := match e.cnpAt with | none => true | some t => decide (t + 50 ≤ s.chip.nowUs)
  if rocePort s p && again then modEth p (fun e => { e with rate := e.rate / 2, cnpAt := some s.chip.nowUs }) s else s

def execRoceCnp (p : Fin 16) (s : State) : Ans := onMod s (roceCnp p.val)

/-- ROCE_RATE_RISE: 1/8 of line rate more, up to line rate. -/
def execRoceRateRise (p : Fin 16) (s : State) : Ans :=
  onMod s (fun s => if rocePort s p.val then
    modEth p.val (fun e => { e with rate := min 1 (e.rate + 1 / 8) }) s else s)

/-- A queue pair by number. -/
def qpOf (s : State) (n : Nat) : Option Qp := s.dev.qps.find? (fun q => q.num == n)
def modQp (n : Nat) (f : Qp → Qp) (s : State) : State :=
  modDev (fun d => { d with qps := d.qps.map (fun q => if q.num = n then f q else q) }) s

/-- Packets that n bytes take at a path MTU. -/
def packetsOf (n mtu : Nat) : Nat := (n + mtu - 1) / mtu

/-- Start a transfer on a queue pair: a read of n bytes, or data to write or to send. -/
def startXfer (n : Nat) (op : RoceOp) (raddr bytes : Nat) (data : List Byte) (s : State) : State :=
  modQp n (fun q => { q with xfer := some ⟨op, raddr, bytes, packetsOf bytes q.mtu, 0, 0, 0, data⟩ }) s

/-- The packet of a transfer that goes next, and the packets sent after it: one RDMA READ for all that is
left, or one packet of an RDMA WRITE or a SEND. -/
def nextPacket (q : Qp) (x : Xfer) : RocePkt × Nat :=
  let at_ := q.mtu * x.sent
  let part := (x.data.drop at_).take q.mtu
  match x.op with
  | .read => (.read q.num x.sent (x.raddr + at_) (x.bytes - at_), x.packets)
  | .write => (.write q.num x.sent (x.raddr + at_) part, x.sent + 1)
  | .send => (.send q.num x.sent (x.sent + 1 == x.packets) part, x.sent + 1)

/-- FRAME_TRANSMIT of a port that carries RoCEv2 (R434, R455): nothing while its priority is paused; NAKs
first, then the queue pairs in the order of their creation (log entry 44). -/
def roceTransmit (p : Nat) (s : State) : State :=
  let e := ethOf s p
  let out := fun (k : RocePkt) (s : State) => modEth p (fun e => { e with roce := some (cTag s.chip p, k) }) s
  if !rocePort s p || !linkIsUp s p || e.paused then s
  else if 0 < e.naks then out .nak (modEth p (fun e => { e with naks := e.naks - 1 }) s)
  else
    match s.dev.qps.find? (fun q => q.port == p && q.xfer.any (fun x => decide (x.sent < x.packets))) with
    | some q =>
      match q.xfer with
      | some x =>
        let k := nextPacket q x
        out k.1 (modQp q.num (fun q => { q with xfer := some { x with sent := k.2 } }) s)
      | none => s
    | none => s

end Sys2Proof.Machine
end

