-- ==== Sys2Proof/Machine/Bells.lean ====
section
/-! DEFINITION. Bells (spec/11_timetables_and_bells.md R419 to R431, spec/12_network.md R452 to R454, spec/13
R468, R480): the release of a period, the lessons' ends, the device's readiness, the vote, the ring. -/

namespace Sys2Proof.Machine

/-! ### Windows by step and table index -/

/-- A window of step st: frames of the next period may arrive before its release (R445), in a job of one period of the
next step. -/
def winKey (st i : Nat) : Nat := st % 2 * 2 ^ 20 + i
def winOf (s : State) (k : Nat) : WinSt := tget (fun _ => winReset) s.dev.wins k
def modWin (k : Nat) (f : WinSt → WinSt) (s : State) : State :=
  modDev (fun d => { d with wins := tmod (fun _ => winReset) d.wins k f }) s

/-! ### Release (R408, R423) -/

/-- Release period p of step st at time ns. A period that does not run in the step has no work in it. -/
def releasePeriod (j : Job) (p st ns : Nat) (s : State) : State :=
  let per := j.per p
  let runs := per.runsIn st
  let lo := winKey st per.wfirst
  let s := modChip (fun c => setF (setRaw c .bel 0x012 (BitVec.ofNat 32 st)) .bel 0x014 11 0 p) s
  let s := modDev (fun d => { d with wins := d.wins.filter (fun e => runs && decide (lo ≤ e.1) && decide (e.1 < lo + per.nw)) }) s
  modBell (fun b => { b with
    live := true, runs := runs, first := false, relAt := ns, readyAt := 0, ready := false, kids := [], sentReady := false
    ringDue := none
    relCls := if runs then maskOf (j.rooms p) else 0
    relPmp := if runs && (per.pump == 1 || per.pump == 2) then 255 else 0
    recorded := if p = 0 ∧ getF s.chip .bel 0x010 1 0 = 1 then [st] else b.recorded }) s

/-- CLASSROOM_RELEASE (R295, R419, R423): the classroom's lessons and DMA lists of the period start. It wakes
a classroom that sleeps (R549). -/
def classroomRelease (r : Nat) (s : State) : State :=
  match jobOf s with
  | none => s
  | some j =>
    let b := s.dev.bell
    if !b.live || b.halted || !natBit b.relCls r || bState s.chip .bel != 2 || bState s.chip (clsB r) != 2 then s
    else
      let s := wakeTo r 3 s
      if (roomOf s.chip r).power ≠ .run then s
      else
        let p := periodNow s
        let s := modBell (fun b => { b with relCls := b.relCls - 2 ^ r }) s
        modChip (fun c =>
          let c := dropLists r c
          let c := ((j.lessons p).filter (fun l => l.2.cl == r)).foldl (fun c l => startLesson l.1 l.2 c) c
          ((j.dmas p).filter (fun d => d.2.cl == r)).foldl (fun c d => startList c r d.2.list d.2.ndesc) c) s

def execClassroomRelease (cl : Fin 64) (s : State) : Ans := onMod s (classroomRelease cl.val)

/-- PUMP_RELEASE (R367, R375, R423): pass 1, or pass 2 as the last vote says. -/
def pumpRelease (k : Nat) (s : State) : State :=
  match jobOf s with
  | none => s
  | some j =>
    let b := s.dev.bell
    if !b.live || b.halted || !natBit b.relPmp k || bState s.chip .bel != 2 || bState s.chip (pmpB k) != 2 then s
    else
      let pass := if (j.per (periodNow s)).pump = 1 then 1 else if getF s.chip .bel 0x014 31 30 = 0 then 2 else 3
      modBell (fun b => { b with relPmp := b.relPmp - 2 ^ k }) (modChip (fun c => pumpStart c k pass (stepNow s)) s)

def execPumpRelease (k : Fin 8) (s : State) : Ans := onMod s (pumpRelease k.val)

/-! ### The end of a lesson (R419, R429) -/

/-- Whether the Prefect of classroom r reaches a word for a fold digest (R36). -/
def prefectReaches (c : Chip) (r a : Nat) : Bool := engineReaches c r a && (inHbm a || roomAt a == r)

/-- The words that a digest folds, with their addresses. For a word that the Prefect does not reach a value is
not given: it is free. -/
def foldInputs (j : Job) (l : Les) (c : Chip) : List (Word × Bool × Nat) :=
  ((j.ranges l).filter (fun r => r.out)).flatMap (fun r =>
    (List.range r.count).map (fun i =>
      let a := r.first + i
      let w := rdWord c false a
      if prefectReaches c l.cl a then (w.1, w.2, a) else ((Config.freeSlot c.fresh a).setWidth 16, false, a)))

/-- The digest log's words of a lesson. -/
def digestWords (j : Job) (l : Les) (c : Chip) : List Word :=
  let x := foldInputs j l c
  natWords (foldPairs 0 (x.map (fun e => (e.1.toNat, e.2.2)))) 4 ++ [if x.any (fun e => e.2.1) then 1 else 0, 0, 0, 0]

/-- Where lesson i's digest lies: the log of a recording step, or the area beside it of a replay. -/
def digestAt (j : Job) (replay : Bool) (i : Nat) : Nat := j.dlog + (if replay then 8 * j.nles else 0) + 8 * i

/-- FOLD_DIGEST (R429). -/
def foldDigest (j : Job) (i : Nat) (c : Chip) : Chip :=
  let m := getF c .bel 0x010 1 0
  if m = 1 ∨ m = 2 then
    let ws := atRun (digestAt j (m == 2) i) (digestWords j (j.les i) c)
    let c := meshRead c (((foldInputs j (j.les i) c).map (fun x => x.2.2)).filter (prefectReaches c (j.les i).cl))
    { wrMarked c false (ws.filter (fun x => inHbm x.1 && engineReaches c (j.les i).cl x.1)) with fresh := c.fresh + 1 }
  else c

/-- LESSON_END (R419): every store performed, no tile instruction left, every pending write computed. -/
def lessonEnd (u : StrandId) (s : State) : State :=
  let st := strandOf s.chip u
  match jobOf s, st.lesson with
  | some j, some i =>
    if st.run ≠ .ending || !strandQuiet st || strandStores s.chip u != 0 then s
    else modChip (fun c =>
      let c := foldDigest j i (commitAll c u)
      modStrand c u (fun st => { advance .seq (countSlot st) with lesson := none, run := .idle, spec := false })) s
  | _, _ => s

def execLessonEnd (u : StrandId) (s : State) : Ans := onMod s (lessonEnd u)

/-! ### Readiness and the vote (R375, R421, R452) -/

/-- The vote that stands: the higher rank; among equals the lower rank of the school, then the lower Pump. -/
def worse (a b : BVote) : BVote :=
  if a.vote < b.vote ∨ (a.vote = b.vote ∧ (b.rank < a.rank ∨ (b.rank = a.rank ∧ b.pump < a.pump))) then b else a

/-- The vote line of Pump k (R372). -/
def pumpVote (rank k : Nat) (c : Chip) : BVote :=
  let v := getF c (pmpB k) 0x01A 31 30
  ⟨if v = 3 then 0 else v, getF c (pmpB k) 0x01A 15 12, getF c (pmpB k) 0x01A 27 16, rank, k⟩

/-- The device's vote: its Pumps' and the Warden's, who counts as Pump 8; GO at a bell without a vote. -/
def ownVote (j : Job) (s : State) : BVote :=
  let go : BVote := ⟨0, 0, 0, j.rank, 0⟩
  if !(j.per (periodNow s)).vote then go
  else
    let v := ((List.range 8).map (fun k => pumpVote j.rank k s.chip)).foldl worse go
    if s.dev.bell.wardenAbort then worse v ⟨2, 0, 0, j.rank, 8⟩ else v

/-- The vote of the subtree so far. -/
def treeVote (j : Job) (s : State) : BVote :=
  (childrenOf j.rank j.size).foldl (fun v q => match tget (fun _ => none) s.dev.bell.kids q with
    | some x => worse v x | none => v) (ownVote j s)

/-- READY's payload and the RING's (R441), and a vote read back. -/
def voteWords (v : BVote) : List Word :=
  [BitVec.ofNat 16 (v.reason * 2 ^ 12 + v.group), BitVec.ofNat 16 v.rank, BitVec.ofNat 16 v.pump, 0]
def voteOf (vote : Nat) (ws : List Word) : BVote :=
  ⟨vote, imgW ws 0 / 2 ^ 12, imgW ws 0 % 2 ^ 12, imgW ws 1, imgW ws 2⟩

/-- The depth of the deepest rank of a school. -/
def treeDepth (size : Nat) : Nat := if size ≤ 1 then 0 else if size ≤ 9 then 1 else if size ≤ 73 then 2 else if size ≤ 585 then 3 else 4

/-- The latency h(c) measured to a rank. -/
def latTo (s : State) (q : Nat) : Nat := tget (fun _ => 0) s.dev.bell.lat q

/-- READY to the parent. -/
def sendReady (j : Job) (s : State) : State :=
  match parentOf j.rank with
  | none => s
  | some q =>
    let v := treeVote j s
    queueBell 4 (frameOf j q (stepNow s) (periodNow s) 0 0 0 (v.vote * 2 ^ 30) false false (voteWords v)) s

/-- RING to a child: the outcome stands in the payload's fourth word (log entry 41). -/
def sendRing (j : Job) (step period remain : Nat) (v : BVote) (q : Nat) (s : State) : State :=
  queueBell 5 (frameOf j q step period 0 0 0 remain false false ((voteWords v).take 3 ++ [BitVec.ofNat 16 v.vote])) s

/-- The ring is set: RING goes on to the children at once (R453). -/
def setRing (j : Job) (remain : Nat) (v : BVote) (s : State) : State :=
  let s := modBell (fun b => { b with ringDue := some (remain, v) }) s
  (childrenOf j.rank j.size).foldl (fun s q => sendRing j (stepNow s) (periodNow s) (remain - latTo s q) v q s) s

/-- Once this device and every child are ready: the root rings, another sends READY (R452, R453). -/
def bellProgress (s : State) : State :=
  match jobOf s with
  | none => s
  | some j =>
    let b := s.dev.bell
    let all := (childrenOf j.rank j.size).all (fun q => (tget (fun _ => none) b.kids q).isSome)
    if !b.ready || !all || b.ringDue.isSome || b.sentReady then s
    else if j.rank = 0 then setRing j (treeDepth j.size * j.linkLat) (treeVote j s) s
    else sendReady j (modBell (fun b => { b with sentReady := true }) s)

/-- Whether the next period runs in its step and reads a buffer that a STAGE_INPUT fills (R456); a lesson may
read the words it writes (R409). -/
def stagedFirst (j : Job) (s : State) : Bool :=
  match s.dev.warden.long with
  | none => false
  | some l =>
    if l.cmd.op = 0x0041 ∧ l.reply.isNone then
      match Config.inputBuf j.img (argOf l.cmd 0) with
      | none => false
      | some (a, n) =>
        let p := (periodNow s + 1) % j.nper
        let st := if p = 0 then (stepNow s + 1) % 2 ^ 32 else stepNow s
        (j.per p).runsIn st && (periodRanges j s.chip p).any (fun r => (!r.wr || r.table == 3) && r.spans.any (spansMeet ((a : Int), n)))
    else false

/-- Whether everything of the period is done on this device (R421, R456): a lesson that a reset cut short is
not (R427), and no store is left (R291). -/
def periodDone (j : Job) (s : State) : Bool :=
  let p := periodNow s
  let b := s.dev.bell
  b.relCls == 0 && b.relPmp == 0 && (lessonStrands s.chip).isEmpty && !s.chip.cores.any (fun e => e.2.cut) &&
    storesOf s.chip (fun _ _ => true) == 0 && !stagedFirst j s &&
    (!b.runs ||
      ((j.dmas p).all (fun d => listsDone s.chip d.2.cl) &&
        (j.windows p).all (fun w => (winOf s (winKey (stepNow s) w.1)).done) &&
        ((j.per p).pump == 0 || (List.range 8).all (fun k => (stackOf s.chip k).pump.done))))

/-- DEVICE_READY (R421, R422). -/
def deviceReady (s : State) : State :=
  match jobOf s with
  | none => s
  | some j =>
    if dstate s != 4 || !s.dev.bell.live || s.dev.bell.ready || s.dev.bell.halted || bState s.chip .bel != 2 ||
        !periodDone j s then s
    else bellProgress (modBell (fun b => { b with ready := true, readyAt := 1000 * s.chip.nowUs }) s)

def execDeviceReady (s : State) : Ans := onMod s deviceReady

/-- READY_REPEAT (R454). -/
def readyRepeat (s : State) : State :=
  match jobOf s with
  | none => s
  | some j => if s.dev.bell.sentReady && s.dev.bell.ringDue.isNone && s.dev.bell.live then sendReady j s else s

def execReadyRepeat (s : State) : Ans := onMod s readyRepeat

/-! ### The end of a job or replay (R423, R431, R461) -/

/-- The blocks that a job uses, the ports and the memory controllers apart: the bell unit, its classrooms with their
engines, and with Pump work every Pump and Syllabus. -/
def jobBlocks (j : Job) : List BlockId :=
  .bel :: j.allRooms.flatMap (fun r => [clsB r, dmaB r]) ++
    (if j.pumps then (List.range 8).flatMap (fun k => [pmpB k, sylB k]) else [])

/-- RUN := 0 in the job's blocks; each stops as it drains (R48, R54). -/
def stopJob (j : Job) (c : Chip) : Chip := (jobBlocks j).foldl (fun c b => setRun1 b false c) c

/-- The job's ports stop and their keys go (R423, R461). -/
def stopPorts (j : Job) (c : Chip) : Chip := j.ports.foldl (fun c n => ethKeyClear n (stopNow (ethB n) c)) c

/-- A checkpoint or a replay that can no longer be finished ends its command (log entry 41). -/
def endStalled (s : State) : State :=
  match s.dev.warden.long with
  | none => s
  | some l =>
    if l.reply.isNone ∧ (l.cmd.op = 0x0064 ∧ s.dev.bell.ckpt.isSome = true ∨ l.cmd.op = 0x0070) then
      modBell (fun b => { b with ckpt := none }) (longResult (sayStatus stState) s)
    else s

/-- JOB_DONE (R423). -/
def jobDone (j : Job) (s : State) : State :=
  let s := endStalled s
  let s := modChip (fun c => stopPorts j (stopJob j c)) s
  let s := modBell (fun b => { b with live := false, past := true, ringDue := none }) s
  setDstate 5 (logEvent 0 0x0303 [] s)

/-- REPLAY_DONE (R431). -/
def replayDone (j : Job) (s : State) : State :=
  let s := logEvent 0 0x0309 [s.dev.bell.diffs] s
  let s := longResult (ok [s.dev.bell.diffs] []) s
  let s := modBell (fun b => { b with live := false, replay := none, ringDue := none }) s
  setDstate 5 (modChip (stopJob j) s)

/-! ### The ring (R423, R424, R431, R468, R480) -/

/-- Commit or discard of every open epoch at a vote bell (R319, R420). -/
def closeEpochs (go : Bool) (c : Chip) : Chip :=
  ((List.range 64).filter (fun r => getF c (clsB r) 0x020 31 31 == 1)).foldl (fun c r => specClose go r c) c

/-- Lessons of a period whose digest and poison words differ from the record (R431). -/
def differing (j : Job) (p : Nat) (c : Chip) : List Nat :=
  ((j.lessons p).map (fun l => l.1)).filter (fun i =>
    (rdWords c false (digestAt j false i) 5).map Prod.fst != (rdWords c false (digestAt j true i) 5).map Prod.fst)

/-- REPLAY_DIFF (R431). -/
def replayCompare (j : Job) (p : Nat) (s : State) : State :=
  if s.dev.bell.replay.isNone || !s.dev.bell.runs then s
  else
    (differing j p s.chip).foldl (fun s i =>
      let s := modBell (fun b => { b with diffs := b.diffs + 1 }) s
      if getF s.chip .bel 0x01E 31 31 = 0 then
        logEvent 0 0x0308 [p, i] (modChip (fun c => setRaw c .bel 0x01E (BitVec.ofNat 32 (2 ^ 31 + i))) s)
      else s) s

/-- Pace and overrun of the period that ends (R424). -/
def paceCount (j : Job) (p ns : Nat) (s : State) : State :=
  let b := s.dev.bell
  modChip (fun c =>
    let c := bumpF c .bel 0x01A 31 0 (ns - b.readyAt)
    if (j.per p).budget < ns - b.relAt then bumpF c .bel 0x016 15 0 1 else c) s

/-- Bytes of a store object (R523): header, then chunks under the store key. -/
def storeKey (j : Job) : List Byte := shake256 (ascii "VZP9-STORE" ++ j.jms ++ natBytes j.rank 2) 32

/-- Chunks of a plaintext: at most 1,048,576 bytes each. -/
def chunkBytes : Nat := 1048576
def chunkCount (n : Nat) : Nat := max 1 ((n + chunkBytes - 1) / chunkBytes)

def storeHeader (j : Job) (kind : Nat) (nonce : List Byte) (n : Nat) : List Byte :=
  let h := ascii "VZSO" ++ natBytes j.rank 2 ++ natBytes kind 2 ++ nonce ++ natBytes (chunkCount n) 4 ++ natBytes n 8
  h ++ List.replicate (64 - h.length) 0

def storeObject (j : Job) (kind : Nat) (nonce : List Byte) (data : List Byte) : List Byte :=
  let h := storeHeader j kind nonce data.length
  h ++ (List.range (chunkCount data.length)).flatMap (fun i =>
    let x := gcmSeal (storeKey j) (nonce ++ natBytes i 4) h (slice data (chunkBytes * i) chunkBytes)
    x.1 ++ x.2)

/-- CHECKPOINT_SAVE at its bell (R480, R523): the transfer of the shard's copy starts. -/
def checkpointBell (j : Job) (p st : Nat) (s : State) : State :=
  match s.dev.bell.ckpt with
  | none => s
  | some k =>
    if k.step = st ∧ k.period = p then
      let copy := wordsBytes (ownCopy j s.chip (snapStep j (p + 1) st) (s.dev.bell.gen + 1))
      let obj := storeObject j 1 (randBytes s 8) copy
      modBell (fun b => { b with ckpt := none, gen := b.gen + 1 })
        (startXfer k.qp .write k.raddr obj.length obj (tickFresh 1 s))
    else s

/-- What follows the ring when the outcome lets the job go on. -/
def afterRing (j : Job) (p st ns : Nat) (s : State) : State :=
  let last := decide (p + 1 = j.nper)
  let st' := if last then (st + 1) % 2 ^ 32 else st
  let p' := if last then 0 else p + 1
  let s := modChip (fun c => setRaw c .bel 0x012 (BitVec.ofNat 32 st')) s
  if last && s.dev.bell.replay.isSome then replayDone j s
  else if s.dev.bell.wardenAbort then haltSchool j.rank 0x0214 0xFFFF (modBell (fun b => { b with live := false }) s)
  else if last && st == j.lastStep then jobDone j s
  else
    let s := releasePeriod j p' st' ns s
    if j.sleeper ∧ p' = j.beginP ∧ (j.per p').runsIn st' = true then stampWrite j s else s

/-- The outcome ABORT: the Warden halts the school and reports the Pump's reason and group (R375, R423). -/
def abortRing (v : BVote) (s : State) : State :=
  let s := if 1 ≤ v.reason ∧ v.reason ≤ 4 then logEvent 0 (0x0210 + v.reason) [v.pump, v.group] s else s
  haltSchool v.rank (0x0210 + v.reason) 0xFFFF (modBell (fun b => { b with live := false }) s)

/-- BELL_RING at time ns (R423): commit or discard and the step's advance come before the release. -/
def bellRing (ns : Nat) (s : State) : State :=
  match jobOf s, s.dev.bell.ringDue with
  | some j, some (_, v) =>
    if dstate s ≠ 4 ∨ s.dev.bell.halted = true ∨ s.dev.bell.live = false ∨ bState s.chip .bel ≠ 2 then s
    else
      let p := periodNow s
      let st := stepNow s
      let s := replayCompare j p (paceCount j p ns s)
      let s := modBell (fun b => { b with rung := some (st, p, v), ringDue := none }) s
      let s := if (j.per p).vote then
          modChip (fun c => closeEpochs (v.vote == 0) (setF c .bel 0x014 31 30 v.vote)) s
        else s
      let s := checkpointBell j p st s
      if (j.per p).vote ∧ v.vote = 2 then abortRing v s else afterRing j p st ns s
  | _, _ => s

def execBellRing (ns : Nat) (s : State) : Ans := onMod s (bellRing ns)

/-! ### Halts and silence (R425, R426, R471, R472) -/

/-- HALT_STOP (R426, R472): the job's blocks stop; a pass 2 under way, or abandoned before, leaves the shard TORN. -/
def haltStop (s : State) : State :=
  match jobOf s with
  | none => s
  | some j =>
    if !fwUp s || !s.dev.bell.stopping then s
    else
      let s := endStalled s
      let cut := (List.range 8).any (fun k => (stackOf s.chip k).torn || decide (2 ≤ (stackOf s.chip k).pump.pass))
      let s := modBell (fun b => { b with stopping := false, live := false, torn := b.torn || cut, replay := none }) s
      setDstate (if dstate s = 4 then 5 else dstate s) (modChip (stopJob j) s)

def execHaltStop (s : State) : Ans := onMod s haltStop

/-- One event in as many consecutive entries as its units take (R535, R536). -/
def logUnits (src code : Nat) : List Nat → Nat → State → State
  | _, 0, s => s
  | us, n + 1, s => logUnits src code (us.drop 3) n (logEvent src code (us.take 3) s)

/-- The windows of a period not complete at this end. -/
def openWindows (j : Job) (p : Nat) (s : State) : List Nat :=
  ((j.windows p).filter (fun w => !(winOf s (winKey (stepNow s) w.1)).done)).map (fun w => w.1)

/-- PERIOD_HANG (R425): the period, the classrooms not complete as a mask (a lesson unended after a third
fault, R427, and stores not performed among what holds one up), the table indices of the windows not complete.
-/
def periodHang (s : State) : State :=
  match jobOf s with
  | none => s
  | some j =>
    let b := s.dev.bell
    if dstate s != 4 || !b.live || b.ready || b.halted then s
    else
      let p := periodNow s
      let held := (s.chip.cores.filter (fun e => e.2.cut || storesOut s.chip e.1 != 0)).map (fun e => coreRoom e.1)
      let busy := maskOf (held ++ (lessonStrands s.chip).map (fun u => coreRoom u.core) ++
        ((j.dmas p).filter (fun d => !listsDone s.chip d.2.cl)).map (fun d => d.2.cl))
      let us := p :: (units2 (busy ||| b.relCls) ++ if b.runs then openWindows j p s else [])
      failSchool 0x0305 (logUnits 0 0x0305 us ((us.length + 2) / 3) s)

def execPeriodHang (s : State) : Ans := onMod s periodHang

/-- A rank and those above it in the tree of R452, up to n of them. -/
def upTree (q : Nat) : Nat → List Nat
  | 0 => []
  | n + 1 => q :: (if q = 0 then [] else upTree ((q - 1) / 8) n)

/-- Whether a rank's readiness is missing here: it is another one, and no child whose readiness has come, nor
below one, which has its readiness (R425, R452). -/
def silent (j : Job) (rank : Nat) (s : State) : Bool :=
  decide (rank < j.size) && rank != j.rank && (upTree rank 5).all (fun q => (tget (fun _ => none) s.dev.bell.kids q).isNone)

/-- PEER_SILENT (R425): the device is ready and a rank has not sent its readiness. -/
def peerSilent (rank : Nat) (s : State) : State :=
  match jobOf s with
  | none => s
  | some j =>
    let b := s.dev.bell
    if dstate s = 4 && b.live && b.ready && b.ringDue.isNone && !b.halted && silent j rank s then
      failSchool 0x0306 (logEvent 0 0x0306 [rank] s)
    else s

def execPeerSilent (rank : Fin 1024) (s : State) : Ans := onMod s (peerSilent rank.val)

end Sys2Proof.Machine
end

