-- ==== Sys2Proof/Machine/Control.lean ====
section
/-! DEFINITION. Branches, hardware loops and the control registers (spec/03_scalar_core.md R90 to R92, R103,
R123 to R132, R136, R137; spec/04_exceptions_and_privilege.md R142 to R145). -/

namespace Sys2Proof.Machine

/-- An address pc + 2 x offset (R124). -/
def target (pc : Nat) (off : Int) : Nat := ((pc : Int) + 2 * off).emod (2 ^ 48 : Nat) |>.toNat

/-- The conditions of BC (R125); none for a reserved code. -/
def bcHolds (cond : Nat) (a : W64) : Option Bool :=
  let v := a.toInt
  match cond with
  | 0 => some (decide (v = 0)) | 1 => some (decide (v ≠ 0)) | 2 => some (decide (v < 0))
  | 3 => some (decide (0 ≤ v)) | 4 => some (decide (0 < v)) | 5 => some (decide (v ≤ 0)) | _ => none

def execBc (u : StrandId) (ra : Fin 32) (cond : Fin 8) (off : BitVec 18) (s : State) : Ans :=
  onChip s (fun c =>
    let pc := (strandOf c u).pc
    let r := bcHolds cond (regVal c u ra)
    issue c u { word := insnWord (.bc u ra cond off), illegal := r.isNone, ctl := true, srcs := [ra.val],
                flow := .branch (if r.getD false then target pc off.toInt else pc48 (pc + 6)) })

def execB (u : StrandId) (off : BitVec 26) (s : State) : Ans :=
  onChip s (fun c =>
    issue c u { word := insnWord (.b u off), ctl := true, flow := .branch (target (strandOf c u).pc off.toInt) })

def execCall (u : StrandId) (gl : Fin 32) (off : BitVec 21) (s : State) : Ans :=
  onChip s (fun c =>
    let pc := (strandOf c u).pc
    issue c u { word := insnWord (.call u gl off), ctl := true, dsts := [(gl.val, 1)],
                act := fun c => putReg c u gl 1 (BitVec.ofNat 64 (pc48 (pc + 6))),
                flow := .branch (target pc off.toInt) })

/-- An odd target raises the alignment fault at the branch (R124). -/
def oddTarget (a : W64) : Option Exc := if a.toNat % 2 = 1 then some ⟨0x07, 2 ^ 15, a.toNat % 2 ^ 48⟩ else none

def execJr (u : StrandId) (ra : Fin 32) (s : State) : Ans :=
  onChip s (fun c =>
    let a := regVal c u ra
    issue c u { word := insnWord (.jr u ra), ctl := true, srcs := [ra.val], addr := oddTarget a,
                flow := .branch (pc48 a.toNat) })

def execCallr (u : StrandId) (gl ra : Fin 32) (s : State) : Ans :=
  onChip s (fun c =>
    let a := regVal c u ra
    let pc := (strandOf c u).pc
    issue c u { word := insnWord (.callr u gl ra), ctl := true, srcs := [ra.val], dsts := [(gl.val, 1)],
                addr := oddTarget a,
                act := fun c => putReg c u gl 1 (BitVec.ofNat 64 (pc48 (pc + 6))),
                flow := .branch (pc48 a.toNat) })

/-- LOOP and LOOPI (R128). -/
def loopInsn (w : W32) (u : StrandId) (n : BitVec 11) (srcs : List Nat) (count : W64) (c : Chip) : Chip :=
  let pc := (strandOf c u).pc
  let lend := pc48 (pc + 2 * n.toNat)
  issue c u { word := w, illegal := n == 0, ctl := true, loopStart := true, srcs := srcs,
              dsts := [(cR 3, 1), (cR 4, 1), (cR 5, 1)],
              act := fun c => putCtl (putCtl (putCtl c u 3 1 (BitVec.ofNat 64 (pc48 (pc + 2)))) u 4 1 (BitVec.ofNat 64 lend))
                u 5 1 count,
              flow := if count = 0 then .goto (pc48 (lend + 2)) else .seq }

def execLoop (u : StrandId) (n : BitVec 11) (ra : Fin 32) (s : State) : Ans :=
  onChip s (fun c => loopInsn (insnWord (.loop u n ra)) u n [ra.val] (regVal c u ra) c)
def execLoopi (u : StrandId) (n : BitVec 11) (count : BitVec 10) (s : State) : Ans :=
  onChip s (fun c => loopInsn (insnWord (.loopi u n count)) u n [] (count.setWidth 64) c)

/-- Whether MFC or MTC of a register is a privileged access at a level (R143). -/
def ctlPriv (lvl n : Nat) (wr : Bool) : Bool :=
  if n = 0 ∨ n = 2 ∨ n = 5 then false
  else if n = 1 then wr && lvl == 0
  else if n = 3 ∨ n = 4 ∨ n = 6 ∨ n = 7 ∨ n = 16 then false
  else if n = 28 ∨ n = 29 then lvl == 0
  else if wr then decide (lvl < 2) else lvl == 0

/-- An MTC that sets a bit that reads 0, or a MODE with SLEEP 0b11 or FRM above 0b100 (R90, R92). -/
def ctlIllegal (n : Nat) (v : W64) : Bool :=
  !mtcReg n || (v &&& ~~~ (ctlMask n)) != 0 ||
    (n == 0 && (natBits v.toNat 11 10 == 3 || decide (4 < natBits v.toNat 2 0)))

/-- At pupil, an MTC to MODE may change FRM only (R92). -/
def modePriv (st : Strand) (n : Nat) (v : W64) : Bool :=
  n == 0 && level st == 0 && ((v ^^^ creg st 0) &&& ~~~ (7 : W64)) != 0

def execMfc (u : StrandId) (g : Fin 32) (c' : Fin 64) (s : State) : Ans :=
  onChip s (fun c =>
    issue c u { word := insnWord (.mfc u g c'), illegal := !mfcReg c', priv := ctlPriv (level (strandOf c u)) c' false,
                srcs := [cR c'], dsts := [(g.val, 2)],
                act := fun c => putReg c u g 2 (regVal c u (cR c')) })

/-- MTC: distance 4 to MODE, 3 to any other register (R103). -/
def execMtc (u : StrandId) (g : Fin 32) (c' : Fin 64) (s : State) : Ans :=
  onChip s (fun c =>
    let v := regVal c u g
    let st := strandOf c u
    let d := if c'.val = 0 then 4 else 3
    issue c u { word := insnWord (.mtc u g c'), illegal := ctlIllegal c' v,
                priv := ctlPriv (level st) c' true || modePriv st c' v,
                modeWrite := c'.val == 0, srcs := [g.val], dsts := [(cR c', d)],
                act := fun c => putCtl c u c' d v })

end Sys2Proof.Machine
end

