-- ==== Sys2Proof/Machine/Start.lean ====
section
/-! DEFINITION. The start of a job's step (spec/14 R501, spec/16 R601), and of a replay once every shard is back
(spec/11 R431, spec/13 R475). -/

namespace Sys2Proof.Machine

/-- Strands left with a lesson of a halted step run none. -/
def dropLessons (c : Chip) : Chip :=
  let c := (lessonStrands c).foldl (fun c u => modStrand c u (fun st => { st with lesson := none, run := .idle, spec := false })) c
  { c with cores := tmap (fun _ => corePower) (fun _ k => { k with cut := false }) c.cores }

/-- The job's blocks start, DMODE set. -/
def startJob (j : Job) (dmode : Nat) (c : Chip) : Chip :=
  let c := setF (stopNow .bel (dropLessons c)) .bel 0x010 1 0 dmode
  (meshes ++ jobBlocks j).foldl (fun c b => if mayStart c b then startNow b c else c) c

/-- The classrooms with lessons are asked for PL0, and whether a level change is still to complete (R601). -/
def raiseLevels (j : Job) (c : Chip) : Chip := j.lessonRooms.foldl (fun c r => plReq r 0 c) c
def levelsDue (j : Job) (c : Chip) : Bool := j.lessonRooms.any (fun r => (roomOf c r).levelTo.isSome)

/-- Period 0 of a step is released; windows of a run before are forgotten (R421). -/
def runStep (j : Job) (step : Nat) (s : State) : State :=
  let s := modDev (fun d => { d with wins := [] }) (modBell (fun b => { b with
    halted := false, stopping := false, halts := [], wardenAbort := false, rung := none, diffs := 0 }) s)
  let s := releasePeriod j 0 step (1000 * s.chip.nowUs) s
  let s := if j.sleeper ∧ j.beginP = 0 ∧ (j.per 0).runsIn step = true then stampWrite j s else s
  setDstate 4 s

/-! ### What a recovery schedule brings (R475; log entry 42) -/

/-- Keys of a recovery schedule's windows start here: those sent; those of a refill received from twice this
number, those of a rebuild received from three times. -/
abbrev recovBase : Nat := 2 ^ 21

/-- A run (address, words) cut into a piece for each school port of the pair; the pieces differ by at most one word. -/
def splitRun (j : Job) (r : Nat × Nat) : List (Nat × Nat) :=
  let n := max 1 j.ports.length
  ((List.range n).map (fun i => (r.1 + r.2 * i / n, r.2 * (i + 1) / n - r.2 * i / n))).filter (fun x => x.2 != 0)

/-- The runs of a refill into this device's segment areas: address and words, the stamp of the copy first. -/
def refillRuns (j : Job) (c : Chip) : List (Nat × Nat) := (j.stamp, 64) :: (copyRuns c).flatMap (fun r => splitRun j r.2)

/-- The WIDs of a refill and of a rebuild; the schedule's number stands in bits [29:16], the window in bits [15:0]. -/
def refillWid (no i : Nat) : Nat := 0x80000000 + 2 ^ 16 * (no % 2 ^ 14) + i
def rebuildWid (no i : Nat) : Nat := 0xC0000000 + 2 ^ 16 * (no % 2 ^ 14) + i

/-- The records of windows with keys from lo below hi go. -/
def dropWins (lo hi : Nat) (s : State) : State :=
  modDev (fun d => { d with wins := d.wins.filter (fun e => decide (e.1 < lo) || decide (hi ≤ e.1)) }) s

/-- Whether the copy of this device's shard has arrived since the job was halted; never without sleeper
protection (R465). -/
def refilled (j : Job) (s : State) : Bool :=
  j.sleeper && (List.range (refillRuns j s.chip).length).all (fun i => (winOf s (2 * recovBase + i)).done)

/-- A restored shard: compute copies, step counters, stream positions (R475 stage 3, R477). -/
def restoreShard (j : Job) (sr : Nat) (s : State) : State :=
  let stamp := rdWords s.chip false j.stamp 64
  mendShard (modChip (fun c => writeStreams j stamp sr (setSteps sr (computeCopies c))) s)

/-- A replay begins once this device has sent its partner's copy and received its own. -/
def replayBegin (s : State) : State :=
  match jobOf s, s.dev.bell.replay with
  | some j, some st =>
    if dstate s = 5 ∧ s.dev.bell.recov = [] ∧ refilled j s = true then
      runStep j st (modChip (startJob j 2) (restoreShard j st s))
    else s
  | _, _ => s

end Sys2Proof.Machine
end

