-- ==== Sys2Proof/Machine/Network.lean ====
section
/-! DEFINITION. The school transport (spec/12_network.md R435 to R454): frames out, frames in, retransmission,
bell frames, and the windows of a recovery schedule (spec/13 R475). -/

namespace Sys2Proof.Machine

/-! ### Windows by key -/

/-- The frames of a window (R443), and the words of one. -/
def frameCount (w : Win) : Nat := (w.len + 4095) / 4096
def wordsIn (w : Win) (n : Nat) : Nat := min 4096 (w.len - 4096 * n)

/-- Windows of a recovery schedule over the school ports in turn: direction, runs (address, words), and their WIDs. -/
def recovWins (recv : Bool) (j : Job) (q : Nat) (wid : Nat → Nat) (runs : List (Nat × Nat)) : List Win :=
  runs.zipIdx.map (fun r => ⟨recv, j.ports.getD (r.2 % max 1 j.ports.length) 0, q, wid r.2, r.1.1, r.1.2, 0, 0, 0, 0⟩)

/-- The runs of the partner's copy in the sleeper area: BEGIN, images, END. -/
def rebuildRuns (j : Job) (q : Nat) : List (Nat × Nat) :=
  (j.sleepBase, 64) :: (partnerRuns j q).flatMap (fun r => splitRun j (j.sleepBase + r.1, r.2)) ++ [(j.sleepBase + 64, 64)]

/-- What a device with sleeper protection receives in a recovery, with the keys: its partner sends the copy of
this device's shard into its segment areas, or its own shard into the sleeper area. -/
def recovRecv (j : Job) (s : State) : List (Nat × Win) :=
  match if j.sleeper then partnerOf j.rank j.size else none with
  | none => []
  | some q =>
    (recovWins true j q (refillWid s.dev.bell.refillNo) (refillRuns j s.chip)).zipIdx.map (fun w => (2 * recovBase + w.2, w.1)) ++
      (recovWins true j q (rebuildWid s.dev.bell.rebuildNo) (rebuildRuns j q)).zipIdx.map (fun w => (3 * recovBase + w.2, w.1))

/-- The windows under way with their keys: the current period's, or a recovery schedule's while the job is halted. -/
def liveWins (j : Job) (s : State) : List (Nat × Win) :=
  if dstate s = 4 then
    (if s.dev.bell.live && s.dev.bell.runs then (j.windows (periodNow s)).map (fun w => (winKey (stepNow s) w.1, w.2)) else [])
  else s.dev.bell.recov.zipIdx.map (fun w => (recovBase + w.2, w.1)) ++ recovRecv j s

/-- The step and period after the current one. -/
def nextPeriod (j : Job) (s : State) : Nat × Nat :=
  if periodNow s + 1 = j.nper then ((stepNow s + 1) % 2 ^ 32, 0) else (stepNow s, periodNow s + 1)

/-- The windows of the next period, whose frames may arrive once this device is ready (R445), with their keys. -/
def earlyWins (j : Job) (s : State) : List (Nat × Win) :=
  let n := nextPeriod j s
  if dstate s = 4 ∧ s.dev.bell.ready = true ∧ (j.per n.2).runsIn n.1 = true then
    (j.windows n.2).map (fun w => (winKey n.1 w.1, w.2))
  else []

/-- The window of a table index (or key of a recovery window) at a port. -/
def winAt (j : Job) (s : State) (p i : Nat) : Option (Nat × Win) :=
  (liveWins j s).find? (fun w => (w.1 == winKey (stepNow s) i || w.1 == i && decide (recovBase ≤ i)) && w.2.port == p)

/-- The job whose school this device forms: loaded, or on trial. -/
def schoolJob (s : State) : Option Job := (jobOf s).orElse (fun _ => s.dev.warden.trial.map (fun t => t.job))

/-! ### Frames out (R439 to R443, R446) -/

/-- Put a frame on the wire with the port's SCI and the next packet number. -/
def wireFrame (j : Job) (p typ : Nat) (f : Frame) (s : State) : State :=
  let f := { f with sci := bytesNatLE (macBytes s.chip p), pn := (ethOf s p).pn }
  modEth p (fun e => { e with wire := some (typ, f), bytes := frameBytes j s.chip p typ f, pn := e.pn + 1 }) s

/-- WINDOW_START (R443): a send window of the current period becomes eligible. -/
def windowStart (i : Nat) (s : State) : State :=
  match jobOf s with
  | none => s
  | some j =>
    let b := s.dev.bell
    if dstate s = 4 ∧ b.live = true ∧ b.runs = true ∧ (j.windows (periodNow s)).any (fun w => w.1 == i && !w.2.recv) = true then
      modWin (winKey (stepNow s) i) (fun w => { w with eligible := true }) s
    else s

def execWindowStart (w : Nat) (s : State) : Ans := onMod s (windowStart w)

/-- The lowest frame of a window that is to be sent. -/
def nextFrame (w : Win) (x : WinSt) : Option Nat :=
  minOf (x.again ++ (if x.next < frameCount w then [x.next] else []))

/-- The data frame that goes next at a port: of the eligible window with the earliest DEADLINE, then the lower key. -/
def nextData (j : Job) (p : Nat) (s : State) : Option (Nat × Win × Nat) :=
  let ready := ((liveWins j s).filter (fun w => !w.2.recv && w.2.port == p)).filterMap (fun w =>
    let x := winOf s w.1
    if x.eligible && !x.done && !x.failed then (nextFrame w.2 x).map (fun n => (w.1, w.2, n)) else none)
  ready.foldl (fun best w => match best with
    | none => some w
    | some b => if w.2.1.deadline < b.2.1.deadline ∨ (w.2.1.deadline = b.2.1.deadline ∧ w.1 < b.1) then some w else some b) none

/-- NET_WINDOW_FAIL (R446, R471). -/
def windowFail (p key : Nat) (w : Win) (s : State) : State :=
  let s := logEvent (blockNode (ethB p)) 0x0403 [p, w.peer] (modWin key (fun x => { x with failed := true, again := [] }) s)
  if key < recovBase then failSchool 0x0403 s
  else longResult (sayStatus 0xFF) (modBell (fun b => { b with replay := none, recov := [] }) s)

/-- The words of a frame as the port reads them; where it is refused (R36) the word is free (log entry 59). -/
def sendWords (c : Chip) (p a n : Nat) : List (Word × Bool) :=
  (rdWords c false a n).zipIdx.map (fun x =>
    if portReaches c p (a + x.2) then x.1 else ((Config.freeSlot c.fresh (a + x.2)).setWidth 16, false))

/-- The words of frame n of a window that the port reads. -/
def frameReads (c : Chip) (p : Nat) (w : Win) (n : Nat) : List Nat :=
  ((List.range (wordsIn w n)).map (fun i => w.addr + 4096 * n + i)).filter (portReaches c p)

/-- Whether the frame still waits for its words: their reads at the banks have not been asked for or not been
served (R286), or a line request of the port (an HBM_REQUEST row with its source number) is under way (R329).
-/
def frameHeld (p key : Nat) (w : Win) (n : Nat) (s : State) : Bool :=
  srcBusy s.chip (portSrc p) || (((frameReads s.chip p w n).any inCls) &&
    (decide ((winOf s key).asked ≠ some n) || outstandingReq s.chip (.frame p key)))

/-- The port asks for the words of a frame. -/
def frameAsk (p key : Nat) (w : Win) (n : Nat) (s : State) : State :=
  if (winOf s key).asked = some n then s
  else modWin key (fun x => { x with asked := some n })
    (modChip (fun c => portReads c (.frame p key) (frameReads c p w n)) s)

/-- Send frame n of a window, once its words can be read: they are read as it is built. A frame sent a 33rd
time abandons the window (R446). -/
def sendData (j : Job) (p key : Nat) (w : Win) (n : Nat) (s : State) : State :=
  if frameHeld p key w n s then frameAsk p key w n s
  else
  let x := winOf s key
  let sent := tget (fun _ => 0) x.count n
  let ws := sendWords s.chip p (w.addr + 4096 * n) (wordsIn w n)
  let f := frameOf j w.peer (stepNow s) (periodNow s) w.wid n w.op 0 (ws.any Prod.snd) (n + 1 == frameCount w) (ws.map Prod.fst)
  let s := modWin key (fun x => { x with
    next := if n = x.next then n + 1 else x.next
    again := x.again.filter (fun m => m != n)
    asked := none
    count := tput (fun _ => 0) x.count n (sent + 1) }) (tickFresh 1 s)
  let s := if 1 ≤ sent then modChip (fun c => bumpF c (ethB p) 0x01C 31 0 1) s else s
  let s := wireFrame j p 1 f s
  if 32 ≤ sent then windowFail p key w s else s

/-- What a port that carries the school transport sends (R443): control frames first. Nothing goes out while
the port is not RUNNING or its link is down. -/
def schoolTransmit (p : Nat) (s : State) : State :=
  match schoolJob s with
  | none => s
  | some j =>
    if !schoolOn s p || !linkIsUp s p then s
    else
      match (ethOf s p).ctl with
      | (t, f) :: rest => wireFrame j p t f (modEth p (fun e => { e with ctl := rest }) s)
      | [] =>
        if (jobOf s).isNone then s
        else
          match nextData j p s with
          | none => s
          | some (k, w, n) => sendData j p k w n s

/-- FRAME_TRANSMIT. -/
def frameTransmit (p : Nat) (s : State) : State := schoolTransmit p (roceTransmit p s)

def execFrameTransmit (p : Fin 16) (s : State) : Ans := onMod s (frameTransmit p.val)

/-! ### The checks of a received frame (R435, R436, R442) -/

/-- Whether a packet number passes the replay window of 64, and the window after it. -/
def replayOk (r : Replay) (pn : Nat) : Bool :=
  pn != 0 && (decide (r.hi < pn) || (decide (r.hi < pn + 64) && !r.seen.contains pn))
def replayNext (r : Replay) (pn : Nat) : Replay :=
  let hi := max r.hi pn
  ⟨hi, (pn :: r.seen).filter (fun x => decide (hi < x + 64))⟩

/-- The receive channel of a frame: the rank of another device whose port has the MAC address of its SCI (R435). -/
def chanRank (j : Job) (p : Nat) (f : Frame) : Option Nat :=
  (List.range j.size).find? (fun q => q != j.rank && j.mac q p == f.sci)

/-- The checks before a frame's type is acted on: the first that fails drops it. A port that is not RUNNING
takes nothing. A frame of no channel fails MACsec. -/
def onFrame (p typ : Nat) (f : Frame) (s : State) (act : Job → State → State) : State :=
  if !schoolOn s p || !linkIsUp s p then s
  else
    match schoolJob s with
    | none => dropFrame p true s
    | some j =>
      match chanRank j p f with
      | none => dropFrame p true s
      | some q =>
        let r := tget (fun _ => (⟨0, []⟩ : Replay)) (ethOf s p).rx q
        if f.icv ≠ icvWanted j s.chip p typ q f ∨ replayOk r f.pn = false then dropFrame p true s
        else
          let s := modEth p (fun e => { e with rx := tput (fun _ => (⟨0, []⟩ : Replay)) e.rx q (replayNext r f.pn) }) s
          if f.ver ≠ 3 ∨ f.udpErr ≠ 0 then dropFrame p false s
          else if f.dst ≠ j.rank ∨ f.job.toNat ≠ j.tag ∨ j.size ≤ f.src then dropFrame p false s
          else act j s

/-! ### DATA (R424, R442, R444, R445, R450) -/

/-- The receive window that a DATA frame names: of the current period, of the next once this device is ready, or of a
recovery schedule; with its key and, for the image, its table index. -/
def recvWin (j : Job) (p : Nat) (f : Frame) (s : State) : Option (Nat × Win) :=
  let hit := fun (w : Nat × Win) => w.2.recv && w.2.port == p && w.2.peer == f.src && w.2.wid == f.wid
  if dstate s ≠ 4 then (liveWins j s).find? hit
  else
    if f.step.toNat = stepNow s ∧ f.period = periodNow s then (liveWins j s).find? hit
    else if (f.step.toNat, f.period) = nextPeriod j s then (earlyWins j s).find? hit
    else none

/-- The element pairs of a SUM_FP32 frame: what each becomes, and the flags. -/
def sumFrame (c : Chip) (a : Nat) (poison : Bool) : List Word → List (Nat × Word × Bool) × Nat
  | x :: y :: r =>
    let old := pRd c a
    let v := fplus old.1 (x.toNat + 65536 * y.toNat)
    let rest := sumFrame c (a + 2) poison r
    ((natWords v.1 2).zipIdx.map (fun w => (a + w.2, w.1, poison || old.2)) ++ rest.1, forr v.2 rest.2)
  | _ => ([], 0)

/-- Write or combine an accepted frame; a word that the port does not reach is refused (R36). -/
def putFrame (p : Nat) (w : Win) (f : Frame) (c : Chip) : Chip :=
  let a := w.addr + 4096 * f.frame
  let ws := f.payload.take (wordsIn w f.frame)
  let put := fun (c : Chip) (l : List (Nat × Word × Bool)) => meshWrite c (l.filter (fun e => portReaches c p e.1))
  if w.op = 1 then
    let x := sumFrame c a f.poison ws
    orF (put (meshRead c ((x.1.map Prod.fst).filter (portReaches c p))) x.1) (ethB p) 0x020 4 0 x.2
  else put c (ws.zipIdx.map (fun e => (a + e.2, e.1, f.poison)))

/-- The record of frames after one more. -/
def advanceLow (low : Nat) (above : List Nat) : Nat → Nat × List Nat
  | 0 => (low, above)
  | n + 1 => if above.contains low then advanceLow (low + 1) (above.filter (fun x => x != low)) n else (low, above)
def recordFrame (n : Nat) (x : WinSt) : WinSt :=
  if n = x.low then
    let r := advanceLow (n + 1) x.above x.above.length
    { x with low := r.1, above := r.2 }
  else { x with above := x.above ++ [n] }

/-- LATE (R424): counted, recorded, logged. -/
def lateWindow (index lateNs : Nat) (w : Win) (s : State) : State :=
  if lateNs ≤ w.lateLimit ∨ s.dev.bell.replay.isSome = true then s
  else
    let s := modChip (fun c =>
      let c := bumpF (bumpF c .bel 0x016 31 16 1) .bel 0x018 31 0 lateNs
      if getF c .bel 0x01C 31 31 = 1 then c else setRaw c .bel 0x01C (BitVec.ofNat 32 (2 ^ 31 + index))) s
    logEvent 0 0x0304 [index, lateNs] s

/-- DONE to the sender of a window. -/
def sendDone (j : Job) (p : Nat) (w : Win) (f : Frame) (s : State) : State :=
  queueCtl p 2 (frameOf j f.src f.step.toNat f.period w.wid 0 w.op 0 false false []) s

/-- The partner's first frame of a further recovery schedule: what was received of the one before counts no
more, so that a command that failed can be issued again (log entry 42). -/
def recovTurn (j : Job) (f : Frame) (s : State) : State :=
  let no := f.wid / 2 ^ 16 % 2 ^ 14
  if dstate s = 4 ∨ j.sleeper = false ∨ f.wid < 0x80000000 ∨ partnerOf j.rank j.size ≠ some f.src then s
  else if f.wid < 0xC0000000 then
    if no = s.dev.bell.refillNo then s
    else modBell (fun b => { b with refillNo := no }) (dropWins (2 * recovBase) (3 * recovBase) s)
  else if no = s.dev.bell.rebuildNo then s
  else modBell (fun b => { b with rebuildNo := no }) (dropWins (3 * recovBase) (4 * recovBase) s)

/-- A DATA frame that passed the common checks. -/
def dataIn (p : Nat) (f : Frame) (lateNs : Nat) (j : Job) (s : State) : State :=
  let s := recovTurn j f s
  match recvWin j p f s with
  | none => dropFrame p false s
  | some (k, w) =>
    let x := winOf s k
    if f.op ≠ w.op then
      modChip (fun c => report c (blockNode (ethB p)) 0x0402 [k % 2 ^ 20]) (dropFrame p false s)
    else if x.done then sendDone j p w f (dropFrame p false s)
    else if f.frame < x.low ∨ x.above.contains f.frame = true ∨ x.low + 64 < f.frame ∨ frameCount w ≤ f.frame then dropFrame p false s
    else
      let y := recordFrame f.frame x
      let full := decide (frameCount w ≤ y.low)
      let s := modWin k (fun _ => { y with done := full }) (modChip (putFrame p w f) s)
      if full then sendDone j p w f (if k < recovBase then lateWindow (k % 2 ^ 20) lateNs w s else replayBegin s) else s

def execData (p : Fin 16) (f : Frame) (lateNs : Nat) (s : State) : Ans :=
  onMod s (fun s => onFrame p.val 1 f s (dataIn p.val f lateNs))

/-! ### DONE, NAK and the timers (R444, R446) -/

/-- The send window that a control frame answers; in a running step one of the current step and period (R445). -/
def sendWin (j : Job) (p : Nat) (f : Frame) (s : State) : Option (Nat × Win) :=
  if dstate s = 4 ∧ (f.step.toNat, f.period) ≠ (stepNow s, periodNow s) then none
  else (liveWins j s).find? (fun w => !w.2.recv && w.2.port == p && w.2.peer == f.src && w.2.wid == f.wid)

/-- A recovery schedule whose windows are all complete ends its command (R475). -/
def recovDone (s : State) : State :=
  let n := s.dev.bell.recov.length
  if n ≠ 0 ∧ (List.range n).all (fun i => (winOf s (recovBase + i)).done) = true then
    let s := modBell (fun b => { b with recov := [] }) (dropWins recovBase (2 * recovBase) s)
    if s.dev.bell.replay.isSome then replayBegin s else longResult (ok [0] []) s
  else s

/-- A shard goes out as a full snapshot (R469, R475): the images follow once BEGIN is complete, END once they are. -/
def snapNext (s : State) : State :=
  let n := s.dev.bell.recov.length
  let done := fun (i : Nat) => (winOf s (recovBase + i)).done
  let go := fun (l : List Nat) (s : State) =>
    l.foldl (fun s i => modWin (recovBase + i) (fun x => { x with eligible := true }) s) s
  if !s.dev.bell.recov.any (fun w => decide (0xC0000000 ≤ w.wid)) || !done 0 then s
  else if (List.range (n - 1)).all done then go [n - 1] s
  else go ((List.range (n - 1)).drop 1) s

/-- DONE: the window is complete at the sender. -/
def doneIn (p : Nat) (f : Frame) (j : Job) (s : State) : State :=
  match sendWin j p f s with
  | none => s
  | some (k, _) => recovDone (snapNext (modWin k (fun x => { x with done := true, again := [] }) s))

def execDone (p : Fin 16) (f : Frame) (s : State) : Ans := onMod s (fun s => onFrame p.val 2 f s (doneIn p.val f))

/-- The frames that a NAK lists. -/
def nakFrames (f : Frame) : List Nat :=
  (List.range (min 64 f.aux)).flatMap (fun i =>
    (List.range (imgN f.payload (4 * i + 2) 2)).map (fun x => imgN f.payload (4 * i) 2 + x))

/-- NAK: the listed frames that were sent go again. -/
def nakIn (p : Nat) (f : Frame) (j : Job) (s : State) : State :=
  match sendWin j p f s with
  | none => s
  | some (k, w) =>
    modWin k (fun x => if x.done then x else
      { x with again := (x.again ++ (nakFrames f).filter (fun n => decide (n < x.next) && decide (n < frameCount w))).eraseDups }) s

def execNak (p : Fin 16) (f : Frame) (s : State) : Ans := onMod s (fun s => onFrame p.val 3 f s (nakIn p.val f))

/-- Runs of consecutive numbers in a rising list: first and count. -/
def runsOf : List Nat → List (Nat × Nat)
  | [] => []
  | n :: r =>
    match runsOf r with
    | (m, k) :: t => if m = n + 1 then (n, k + 1) :: t else (n, 1) :: (m, k) :: t
    | [] => [(n, 1)]

/-- The receive window of a table index (or key) at a port that is not complete, with the step and period that
it belongs to: of the current period, a recovery schedule, or the next period (R445). -/
def nakWin (j : Job) (p i : Nat) (s : State) : Option (Nat × Win × Nat × Nat) :=
  let n := nextPeriod j s
  let hit := fun (k : Nat) (w : Nat × Win) => w.1 == k && w.2.recv && w.2.port == p && !(winOf s w.1).done
  match (liveWins j s).find? (fun w => hit (winKey (stepNow s) i) w || hit i w && decide (recovBase ≤ i)) with
  | some w => some (w.1, w.2, stepNow s, periodNow s)
  | none => ((earlyWins j s).find? (hit (winKey n.1 i))).map (fun w => (w.1, w.2, n.1, n.2))

/-- NAK_TIMER: a later frame has arrived and lower ones are missing. -/
def nakTimer (p i : Nat) (s : State) : State :=
  match jobOf s with
  | none => s
  | some j =>
    match nakWin j p i s with
    | none => s
    | some (k, w, st, q) =>
      let x := winOf s k
      if x.above.isEmpty || !linkIsUp s p then s
      else
        let top := x.above.foldl max 0
        let miss := ((List.range (top + 1)).filter (fun n => decide (x.low ≤ n) && !x.above.contains n))
        let rs := (runsOf miss).take 64
        queueCtl p 3 (frameOf j w.peer st q w.wid 0 w.op rs.length false false
          (rs.flatMap (fun r => natWords r.1 2 ++ natWords r.2 2))) s

def execNakTimer (p : Fin 16) (w : Nat) (s : State) : Ans := onMod s (nakTimer p.val w)

/-- DONE_TIMEOUT: every frame has gone out and no DONE came; the last goes again. -/
def doneTimeout (p i : Nat) (s : State) : State :=
  match jobOf s with
  | none => s
  | some j =>
    match winAt j s p i with
    | none => s
    | some (k, w) =>
      let x := winOf s k
      if w.recv || x.done || x.failed || !x.again.isEmpty || decide (x.next < frameCount w) || !linkIsUp s p then s
      else modWin k (fun x => { x with again := [frameCount w - 1] }) s

def execDoneTimeout (p : Fin 16) (w : Nat) (s : State) : Ans := onMod s (doneTimeout p.val w)

/-! ### Bell frames (R452 to R454) -/

/-- READY from a child: for the current bell it counts once; for the bell rung last it is answered with RING. -/
def readyIn (f : Frame) (j : Job) (s : State) : State :=
  let b := s.dev.bell
  if !(childrenOf j.rank j.size).contains f.src then s
  else if b.live && f.step.toNat == stepNow s && f.period == periodNow s then
    if (tget (fun _ => none) b.kids f.src).isSome then s
    else bellProgress (modBell (fun b => { b with
      kids := tput (fun _ => none) b.kids f.src (some (voteOf (natBits f.aux 31 30) f.payload)) }) s)
  else
    match b.rung with
    | some (st, p, v) => if f.step.toNat = st ∧ f.period = p then sendRing j st p 0 v f.src s else s
    | none => s

def execReady (p : Fin 16) (f : Frame) (s : State) : Ans := onMod s (fun s => onFrame p.val 4 f s (readyIn f))

/-- RING from the parent: the ring is set after REMAIN and goes on to the children. -/
def ringIn (f : Frame) (j : Job) (s : State) : State :=
  let b := s.dev.bell
  if parentOf j.rank = some f.src ∧ b.live = true ∧ b.sentReady = true ∧ b.ringDue.isNone = true ∧ b.halted = false ∧
      f.step.toNat = stepNow s ∧ f.period = periodNow s then
    setRing j f.aux (voteOf (imgW f.payload 3 % 4) f.payload) s
  else s

def execRing (p : Fin 16) (f : Frame) (s : State) : Ans := onMod s (fun s => onFrame p.val 5 f s (ringIn f))

/-- HALT: a running device halts; whatever its state, HALT goes on to its other neighbours, once for each originator and
step (R454). -/
def haltIn (f : Frame) (j : Job) (s : State) : State :=
  if dstate s = 4 then haltAt f.aux f.step.toNat f.period (imgW f.payload 0) f.src s
  else if s.dev.bell.halts.contains (f.aux, f.step.toNat) then s
  else sendHalt j f.aux f.step.toNat f.period (imgW f.payload 0) f.src s

def execHalt (p : Fin 16) (f : Frame) (s : State) : Ans := onMod s (fun s => onFrame p.val 6 f s (haltIn f))

/-- PROBE is answered with PROBE_REPLY (R448). -/
def probeIn (p : Nat) (f : Frame) (j : Job) (s : State) : State :=
  queueCtl p 9 (frameOf j f.src 0 0 0 0 0 f.aux false false []) s

def execProbe (p : Fin 16) (f : Frame) (s : State) : Ans := onMod s (fun s => onFrame p.val 8 f s (probeIn p.val f))

end Sys2Proof.Machine
end

