-- ==== Sys2Proof/Machine/Validate.lean ====
section
/-! DEFINITION. What the Warden checks of a timetable image, of the sleeper map, and what it writes before the
first bell (spec/11_timetables_and_bells.md R404 to R418, R420; spec/13_sleeper_copies_and_recovery.md R465).
-/

namespace Sys2Proof.Machine

/-! ### What a load writes (R404 to R407) -/

/-- The load segments, in table order. -/
def loadSegments (j : Job) (c : Chip) : Chip :=
  (List.range j.nseg).foldl (fun c i =>
    let e := j.seg i
    wardenWrite c (atRun e.dest ((j.img.drop e.off).take e.len))) c

/-- The registers of the Pumps and of the Syllabus units (log entry 38 on the layout). -/
def loadPumps (j : Job) (c : Chip) : Chip :=
  let c := (Config.pumpSetup j.img).foldl (fun c x => setRaw c (pmpB x.1) x.2.1 x.2.2) c
  (Config.syllabusSetup j.img).foldl (fun c x => setRaw c (sylB x.1) x.2.1 x.2.2) c

/-- 64-bit word i of protection entry n. -/
def protW (j : Job) (n i : Nat) : W64 := BitVec.ofNat 64 (j.protN n i 4)

/-- The region map of a core of classroom n. -/
def protMap (j : Job) (n : Nat) (k : Core) : Core :=
  { k with
    rmctl := BitVec.ofNat 64 (j.prot n 0 % 2)
    rmBase := tputs (fun _ => 0) [] ((List.range 64).map (fun e => (e, protW j n (32 + 8 * e))))
    rmLim := tputs (fun _ => 0) [] ((List.range 64).map (fun e => (e, protW j n (36 + 8 * e)))) }

/-- The registers of strand s of the core at position p of classroom n (R404, R406). -/
def protStrand (j : Job) (n p s : Nat) (st : Strand) : Strand :=
  let w := clsAddr n 0
  let sz := j.prot n 23
  let lim := w + j.protN n 20 3 + (p * 8 + s) * sz
  let put := fun (st : Strand) (x : Nat × Nat) => setCreg st x.1 (BitVec.ofNat 64 x.2)
  let st := [(20, j.protN n 4 4), (21, j.protN n 8 4), (22, j.protN n 12 4), (23, j.protN n 16 4), (29, j.prot n 1 % 16),
    (1, lim), (17, w + j.n 50 2), (18, w + j.n 52 2 + (p * 8 + s + 1) * j.w 54), (19, 0)].foldl put st
  { st with g := tput (fun _ => 0) st.g 31 (BitVec.ofNat 64 (lim + sz)), pois := tput (fun _ => false) st.pois 31 false }

/-- PROTECTION_LOAD (R404, R406): handler tables and exception stacks in every strand, the rest in enabled cores. -/
def loadProtection (j : Job) (c : Chip) : Chip :=
  (List.range 1024).foldl (fun c core =>
    let n := coreRoom core
    let p := corePos core
    let on := natBit (getF c (clsB n) 0x010 15 0) p
    let c := if on then modCore c core (protMap j n) else c
    (List.range 8).foldl (fun c s => modStrand c (strandId core s) (fun st =>
      if on then protStrand j n p s st
      else
        let w := clsAddr n 0
        setCreg (setCreg (setCreg st 17 (BitVec.ofNat 64 (w + j.n 50 2))) 18
          (BitVec.ofNat 64 (w + j.n 52 2 + (p * 8 + s + 1) * j.w 54))) 19 0)) c) c

/-! ### Refusal records (R412) -/

structure Rec where
  code : Nat
  table : Nat
  index : Nat
  aux : Nat
  period : Nat
  deriving DecidableEq, Repr

/-- No period. -/
abbrev noPer : Nat := 0x3FFF

def Rec.bits (r : Rec) : Nat :=
  r.code + r.table % 16 * 2 ^ 8 + r.index % 2 ^ 22 * 2 ^ 12 + r.aux % 2 ^ 16 * 2 ^ 34 + r.period % 2 ^ 14 * 2 ^ 50

/-- A record when a check fails. -/
def bad (b : Bool) (code table index aux period : Nat) : Option Rec := if b then some ⟨code, table, index, aux, period⟩ else none

/-- The first failure of entries 0 to n - 1. -/
def firstIn (n : Nat) (f : Nat → Option Rec) : Option Rec := (List.range n).findSome? f

/-- The first failure of several checks. -/
def firstOf (l : List (Option Rec)) : Option Rec := l.findSome? id

/-- The periods whose lessons, DMA entries or windows hold an entry, and the first of them. -/
def periodsOf (j : Job) (lo n : Per → Nat) (i : Nat) : List Nat :=
  (List.range j.nper).filter (fun p => decide (lo (j.per p) ≤ i) && decide (i < lo (j.per p) + n (j.per p)))
def periodOf (j : Job) (lo n : Per → Nat) (i : Nat) : Nat := (periodsOf j lo n i).headD noPer
def lessonPers (j : Job) : Nat → List Nat := periodsOf j Per.lfirst Per.nl
def dmaPers (j : Job) : Nat → List Nat := periodsOf j Per.dfirst Per.nd
def lessonPer (j : Job) : Nat → Nat := periodOf j Per.lfirst Per.nl
def dmaPer (j : Job) : Nat → Nat := periodOf j Per.dfirst Per.nd
def winPer (j : Job) : Nat → Nat := periodOf j Per.wfirst Per.nw
def rangePer (j : Job) (i : Nat) : Nat :=
  match (List.range j.nles).find? (fun l => decide ((j.les l).rfirst ≤ i) && decide (i < (j.les l).rfirst + (j.les l).nr)) with
  | some l => lessonPer j l
  | none => noPer

/-! ### FORMAT and LIMITS (0x02, 0x03) -/

/-- Whether a table of n entries of k words at an offset lies in the image. -/
def outside (j : Job) (off n k : Nat) : Bool := decide (j.img.length < off + n * k)

def formatHeader (j : Job) : Option Rec :=
  let h := fun (b : Bool) (w : Nat) => bad b 2 0 0 w noPer
  firstOf ([h (j.n 0 2 != 0x54397454) 0, h (j.w 2 != 3) 2, h (outside j (j.n 16 3) j.nper 16) 16,
    h (outside j (j.n 19 3) j.nles 16) 19, h (outside j (j.n 22 3) j.nrng 8) 22, h (outside j (j.n 25 3) j.ndma 8) 25,
    h (outside j (j.n 28 3) j.nwin 16) 28, h (outside j (j.n 31 3) j.nseg 12) 31, h (outside j (j.n 34 3) 0 0) 34,
    h (outside j (j.n 55 3) 64 544) 55] ++ (List.range 6).map (fun i => h (j.w (58 + i) != 0) (58 + i)))

/-- Words of an entry that must be 0 under a mask. -/
def zeroIn (j : Job) (b table i per : Nat) (l : List (Nat × Nat)) : Option Rec :=
  l.findSome? (fun x => bad ((j.w (b + x.1) &&& x.2) != 0) 2 table i x.1 per)

/-- A lesson entry: MODE may hold IEN and a legal FRM only. -/
def formatLesson (j : Job) (i : Nat) : Option Rec :=
  let b := j.n 19 3 + 16 * i
  let p := lessonPer j i
  firstOf [zeroIn j b 2 i p [(0, 3), (1, 0x7FF8)], bad (decide (4 < (j.les i).mode % 8)) 2 2 i 1 p,
    zeroIn j b 2 i p [(11, 0xFC00), (15, 0xFFFF)]]

def formatEntries (j : Job) : Option Rec :=
  firstOf [
    firstIn j.nper (fun p =>
      let b := j.n 16 3 + 16 * p
      (zeroIn j b 1 p p [(0, 0x1FFF)]).orElse (fun _ => bad ((j.per p).pump == 3) 2 1 p 0 p)),
    firstIn j.nles (formatLesson j),
    firstIn j.nrng (fun i => zeroIn j (j.n 22 3 + 8 * i) 3 i (rangePer j i) [(6, 0x1FFF), (7, 0xFFFF)]),
    firstIn j.ndma (fun i => zeroIn j (j.n 25 3 + 8 * i) 4 i (dmaPer j i) [(0, 0x3FF), (7, 0xFFFF)]),
    firstIn j.nwin (fun i => firstOf [zeroIn j (j.n 28 3 + 16 * i) 5 i (winPer j i) [(0, 0x7FF), (1, 0xFC00)],
      bad (decide (1 < (j.win i).op)) 2 5 i 15 (winPer j i)]),
    firstIn j.nseg (fun i => firstOf [bad (outside j ((j.seg i).off) 1 (j.seg i).len) 2 6 i 6 noPer,
      zeroIn j (j.n 31 3 + 12 * i) 6 i noPer [(9, 0xFFFF), (10, 0xFFFF), (11, 0xFFFF)]]),
    firstIn 64 (fun n =>
      let mask := fun (i r : Nat) => bad ((protW j n i &&& ~~~ (ctlMask r)) != 0) 2 9 n i noPer
      firstOf ([zeroIn j (j.n 55 3 + 544 * n) 9 n noPer [(0, 0xFFFE), (1, 0xFFF0), (2, 0xFFFF), (3, 0xFFFF)],
          mask 4 20, mask 8 21, mask 12 22, mask 16 23] ++
        (List.range 8).map (fun i => bad (j.prot n (24 + i) != 0) 2 9 n (24 + i) noPer) ++
        (List.range 64).flatMap (fun e => [mask (32 + 8 * e) 25, mask (36 + 8 * e) 26])))]

def limits (j : Job) : Option Rec :=
  let size := j.w 3
  let l := fun (b : Bool) (t i p : Nat) => bad b 3 t i 0 p
  firstOf [
    l (size == 0 || decide (1024 < size) || decide (size ≤ j.w 4) || j.nper == 0 || decide (4096 < j.nper) ||
      decide (1048576 < j.nles) || decide (4194304 < j.nrng) || decide (262144 < j.ndma) || decide (1048576 < j.nwin) ||
      decide (65536 < j.nseg) || j.w 54 % 16 != 0) 0 0 noPer,
    firstIn j.nper (fun p =>
      let e := j.per p
      l (decide (8192 < e.nl) || decide (1024 < e.nd) || decide (4096 < e.nw) || decide (e.hang < 10) ||
        decide (max 1 e.every ≤ e.phase) || decide (j.nles < e.lfirst + e.nl) || decide (j.ndma < e.dfirst + e.nd) ||
        decide (j.nwin < e.wfirst + e.nw)) 1 p p),
    firstIn j.nles (fun i => l (decide (64 < (j.les i).nr) || decide (j.nrng < (j.les i).rfirst + (j.les i).nr)) 2 i (lessonPer j i)),
    firstIn j.nrng (fun i => l ((j.rng i).count == 0) 3 i (rangePer j i)),
    firstIn j.ndma (fun i => l ((j.dmaEnt i).ndesc == 0 || decide (4096 < (j.dmaEnt i).ndesc)) 4 i (dmaPer j i)),
    firstIn j.nwin (fun i =>
      let w := j.win i
      l (w.len == 0 || (w.op == 1 && (w.addr % 2 != 0 || w.len % 2 != 0))) 5 i (winPer j i)),
    firstIn j.nseg (fun i => l ((j.seg i).len == 0) 6 i noPer),
    firstIn 64 (fun n => l (decide (j.prot n 23 < 16) || j.prot n 23 % 16 != 0) 9 n noPer)]

/-! ### Stacks, segments, retired rows, targets (0x04 to 0x0A) -/

/-- Whether all of a run of words satisfies p. -/
def allWords (p : Nat → Bool) (a n : Nat) : Bool := (List.range n).all (fun i => p (a + i))

def segmentBad (j : Job) (c : Chip) (i : Nat) : Bool :=
  let e := j.seg i
  !allWords (fun a => inHbm a || (inCls a && decide (offAt a < resOff) && !inShadow c a)) e.dest e.len ||
    (List.range j.nseg).any (fun k => k != i && spansMeet ((e.dest : Int), e.len) (((j.seg k).dest : Int), (j.seg k).len))

/-- A lesson stack of a core that CORE_EN enables reaches past the window below its reserved area (R37, R406). -/
def stackBad (j : Job) (c : Chip) (n : Nat) : Bool :=
  (List.range 16).any (fun p => natBit (getF c (clsB n) 0x010 15 0) p &&
    decide (resOff < j.protN n 20 3 + 8 * (p + 1) * j.prot n 23))

/-- The retired rows of a stack. -/
def retiredRows (f : Flash) (k : Nat) : List Nat :=
  let v := settingVal f (0x20 + k)
  (List.range (v.length / 4)).map (fun i => sliceNat v (4 * i) 4)

/-- Areas of the Pump setup: segments and records, each with its Pump and group (records count as group 4096
and 4097). In a job with Pump work every Pump writes its norm-out record and reads norm-in. -/
def pumpAreas (j : Job) (c : Chip) : List (Nat × Nat × Span) :=
  (List.range 8).flatMap (fun k =>
    let gs := validGroups c k
    gs.map (fun g => (k, g, (((pdescOf c k g).base : Int), (pdescOf c k g).aEnd - (pdescOf c k g).base))) ++
      (if gs.isEmpty && !j.pumps then [] else [(k, 4096, ((nOut c k : Int), 32800)), (k, 4097, ((nIn c k : Int), 32800))]))

/-- The stack in which spans cover a retired row. -/
def retiredHit (f : Flash) (l : List Span) : Option Nat :=
  (List.range 8).find? (fun k => (retiredRows f k).any (fun row =>
    l.any (fun x => (List.range x.2).any (fun i =>
      let a := (x.1 + (i : Int)).toNat
      inHbm a && stackAt a == k && rowId (a / 32 % 2 ^ 30) == row))))

def retiredCheck (j : Job) (c : Chip) (f : Flash) : Option Rec :=
  let r := fun (l : List Span) (t i p : Nat) => (retiredHit f l).map (fun k => (⟨6, t, i, k, p⟩ : Rec))
  firstOf [
    firstIn j.nrng (fun i => r [(((j.rng i).first : Int), (j.rng i).count)] 3 i (rangePer j i)),
    firstIn j.nwin (fun i => r [(((j.win i).addr : Int), (j.win i).len)] 5 i (winPer j i)),
    firstIn j.nseg (fun i => r [(((j.seg i).dest : Int), (j.seg i).len)] 6 i noPer),
    (pumpAreas j c).findSome? (fun x => r [x.2.2] 7 (if x.2.1 < 4096 then x.2.1 else 0) noPer),
    firstIn j.ndma (fun i => (listDescs c (j.dmaEnt i)).findSome? (fun d => r (descSrc d.2.2 ++ descDst d.2.2) 8 d.1 (dmaPer j i)))]

def closedRoom (c : Chip) (r : Nat) : Bool := (roomOf c r).power == .closed

def targetCheck (j : Job) (c : Chip) : Option Rec :=
  firstOf [
    firstIn j.nles (fun i =>
      let l := j.les i
      let on := natBit (getF c (clsB l.cl) 0x010 15 0) l.pos && natBit (getF c (clsB l.cl) 0x012 15 0) l.pos
      bad (!on || closedRoom c l.cl) 7 2 i l.pos (lessonPer j i)),
    firstIn j.ndma (fun i => bad (closedRoom c (j.dmaEnt i).cl) 7 4 i 0 (dmaPer j i))]

/-- The other lessons of each period of a lesson, with the period. -/
def mates (j : Job) (i : Nat) : List (Nat × Nat × Les) :=
  (lessonPers j i).flatMap (fun p => ((j.lessons p).filter (fun l => l.1 != i)).map (fun l => (p, l)))

def strandCheck (j : Job) : Option Rec :=
  firstIn j.nles (fun i =>
    ((mates j i).find? (fun l => l.2.2.id == (j.les i).id)).map (fun l => ⟨8, 2, i, l.2.1 % 2 ^ 16, l.1⟩))

def maskCheck (j : Job) : Option Rec :=
  firstIn j.nles (fun i =>
    let a := j.les i
    let same := (mates j i).filter (fun l => l.2.2.cl == a.cl && l.2.2.pos == a.pos)
    (same.find? (fun l => (l.2.2.vmask &&& a.vmask) != 0 || (l.2.2.tmask &&& a.tmask) != 0)).map (fun l =>
      ⟨9, 2, i, if (l.2.2.vmask &&& a.vmask) != 0 then 0 else 1, l.1⟩))

def entryCheck (j : Job) : Option Rec :=
  firstIn j.nles (fun i =>
    let l := j.les i
    let st := protStrand j l.cl l.pos l.strand (strandReset l.strand)
    let k := protMap j l.cl corePower
    let ok := fun (a : Nat) => (inHbm a || inCls a) && (nxRegion st a).isNone && (rmFault k 0 2 a).isNone
    bad (l.entry % 2 == 1 || !ok l.entry || !ok (l.entry + 1)) 0xA 2 i 0 (lessonPer j i))

/-! ### Descriptors and deadlines (0x0B to 0x0D) -/

/-- Whether a vote bell ends period p or a later one of the step (R319, R420). -/
def voteAfter (j : Job) (p : Nat) : Bool := (List.range j.nper).any (fun q => decide (p ≤ q) && (j.per q).vote)

/-- Whether R36 maps a word for a DMA engine: the state of blocks and polders at the load does not count. -/
def dmaMapped (c : Chip) (a : Int) : Bool :=
  decide (0 ≤ a) && (inHbm a.toNat || (inCls a.toNat && !inShadow c a.toNat && decide (offAt a.toNat < resOff)))

/-- The STATUS above 0x80 with which a descriptor would end (R302). -/
def descStatus (c : Chip) (cl addr d : Nat) : Option Nat :=
  match dCheck addr d (readDesc c addr).2 with
  | some x => some x
  | none =>
    let reach := fun (l : List Span) => l.all (fun x => (List.range x.2).all (fun i => dmaMapped c (x.1 + (i : Int))))
    let home := (descDst d).all (fun x => (List.range x.2).all (fun i =>
      let a := (x.1 + (i : Int)).toNat
      inHome c a && roomAt a == cl))
    if !reach (descSrc d) then some 0x81
    else if !reach (descDst d) then some 0x82
    else if natBit (dWord d 0) 11 && !home then some 0x85
    else none

def descCheck (j : Job) (c : Chip) : Option Rec :=
  firstIn j.ndma (fun i =>
    let e := j.dmaEnt i
    (listDescs c e).findSome? (fun d =>
      match descStatus c e.cl d.2.1 d.2.2 with
      | some x => some ⟨0xB, 8, d.1, x, dmaPer j i⟩
      | none => (dmaPers j i).findSome? (fun p => bad (natBit (dWord d.2.2 0) 11 && !voteAfter j p) 0xB 8 d.1 0 p)))

/-- The pieces of a row (R298): source and destination word of each. -/
def rowPieces (fill : Bool) (s t : Int) (left : Nat) : Nat → List (Int × Int)
  | 0 => []
  | f + 1 =>
    if left = 0 then []
    else
      let n := min left (32 - (t % 32).toNat)
      let n := if fill then n else min n (32 - (s % 32).toNat)
      (s, t) :: rowPieces fill (s + n) (t + n) (left - n) f

def descPieces (d : Nat) : List (Int × Int) :=
  let len := natBits d 175 144
  (List.range (dWord d 11)).flatMap (fun (r : Nat) =>
    rowPieces (descKind d == 2) ((natBits d 95 48 : Int) + (r : Int) * natSigned (natBits d 223 192) 32)
      ((natBits d 143 96 : Int) + (r : Int) * natSigned (natBits d 255 224) 32) len len)

/-- The device DRAM banks of a piece. -/
def pieceAtBanks (fill : Bool) (x : Int × Int) : List Nat :=
  ((if !fill && inHbm x.1.toNat then [deviceBank x.1.toNat] else []) ++
    (if inHbm x.2.toNat then [deviceBank x.2.toNat] else [])).eraseDups

def entryPieces (c : Chip) (e : DmaEnt) : List (List Nat) :=
  (listDescs c e).flatMap (fun d => (descPieces d.2.2).map (pieceAtBanks (descKind d.2.2 == 2)))

/-- The bound of R334 in ns, with the refresh interval of band 3. -/
def waitBound (t : Nat) : Nat :=
  let b := (t + 2) * 60
  b + ((b + 1949) / 1950 + 1) * 280 + 100

/-- T_k of R416: what meets at DRAM bank k in a period. -/
def bankLoad (j : Job) (c : Chip) (p k : Nat) : Nat :=
  let dma := ((j.dmas p).map (fun e => ((entryPieces c e.2).filter (fun l => l.contains k)).length)).foldl (fun a x => a + x) 0
  let inBank := fun (r : Rng) => (List.range r.count).any (fun i => inHbm (r.first + i) && deviceBank (r.first + i) == k)
  let cores := (((j.lessons p).filter (fun l => (j.ranges l.2).any inBank)).map (fun l => 16 * l.2.cl + l.2.pos)).eraseDups
  let w := (j.per p).pump
  dma + 32 * cores.length + (if w = 1 ∨ w = 2 then 32 else 0)

/-- The bound of R416 for a DMA entry, in half ns. -/
def dmaBound (j : Job) (c : Chip) (p i : Nat) : Nat :=
  let e := j.dmaEnt i
  let mine := ((j.dmas p).filter (fun x => x.2.cl == e.cl && decide (x.1 ≤ i))).flatMap (fun x => entryPieces c x.2)
  let banks := (mine.flatMap id).eraseDups
  let h := (banks.map (fun k => waitBound (bankLoad j c p k))).foldl max 0
  let tags := getF c (dmaB e.cl) 0x010 25 16
  mine.length + 2 * ((mine.length + tags - 1) / max 1 tags * (h + 136 + 500))

def dmaDeadlines (j : Job) (c : Chip) : Option Rec :=
  firstIn j.ndma (fun i =>
    (dmaPers j i).findSome? (fun p =>
      let b := dmaBound j c p i
      bad (decide (2 * (j.dmaEnt i).deadline < b)) 0xC 4 i (min 0xFFFF (b / 2000)) p))

/-- Whether R417 fails for a port and direction of a period. -/
def portBad (j : Job) (p port : Nat) (recv : Bool) (lat : Nat) : Bool :=
  let ws := ((j.windows p).map (fun w => w.2)).filter (fun w => w.port == port && w.recv == recv)
  !ws.isEmpty && (!j.schoolPort port || decide (j.linkLat < lat) ||
    ws.any (fun x => ws.any (fun y =>
      decide (x.start < y.deadline) &&
        (let sum := ((ws.filter (fun w => decide (x.start ≤ w.start) && decide (w.deadline ≤ y.deadline))).map (fun w => max 2048 w.len)).foldl (fun a b => a + b) 0
         decide (90 * ((y.deadline : Int) - (x.start : Int) - (j.linkLat : Int) - 250) < ((2 * sum : Nat) : Int))))))

/-- A failure of a DMA entry (0 for another table's) and, of table 8, of a descriptor of its list. -/
abbrev Found := Nat × Rec

/-- The lesser of two failures in table order (R413): by table, by DMA entry, by index. -/
def lowerRec (a b : Found) : Found :=
  if b.2.table < a.2.table ∨ (b.2.table = a.2.table ∧ (b.1 < a.1 ∨ (b.1 = a.1 ∧ b.2.index < a.2.index))) then b else a

/-- The first of the failures of every period, in table order. -/
def byTable (l : List Found) : Option Rec :=
  match l with
  | [] => none
  | r :: rest => some (rest.foldl lowerRec r).2

/-- Each port and direction of a period that fails counts at the first of its windows. -/
def netDeadlines (j : Job) (lat : Nat) : Option Rec :=
  byTable ((List.range j.nper).flatMap (fun p => (List.range 16).flatMap (fun port => [false, true].filterMap (fun recv =>
    let i := minOf (((j.windows p).filter (fun w => w.2.port == port && w.2.recv == recv)).map (fun w => w.1))
    (bad (portBad j p port recv lat) 0xD 5 (i.getD 0) port p).map (fun r => (0, r))))))

/-! ### Pairs, conflicts, Pumps, bells, speculation (0x0E to 0x13) -/

def peerCheck (j : Job) : Option Rec :=
  firstIn j.nwin (fun i => bad ((j.win i).peer == j.w 4 || decide (j.w 3 ≤ (j.win i).peer)) 0xE 5 i 0 (winPer j i))

def prefetchCheck (j : Job) (c : Chip) : Option Rec :=
  byTable ((List.range j.nper).flatMap (fun p =>
    let all := periodRanges j c p
    (j.dmas p).flatMap (fun e => (listDescs c e.2).filterMap (fun d =>
      if descKind d.2.2 ≠ 1 then none
      else
        let src : ARange := ⟨8, d.1, (1, e.1), descSrc d.2.2, false, false⟩
        (all.find? (fun r => r.wr && !r.dyn && meets r src)).map (fun r => (e.1, ⟨0xF, 8, d.1, r.table, p⟩))))))

def conflictCheck (j : Job) (c : Chip) : Option Rec :=
  byTable ((List.range j.nper).flatMap (fun p =>
    let all := periodRanges j c p
    all.filterMap (fun a => (all.find? (fun b => a.agent != b.agent && (a.wr || b.wr) && !a.dyn && !b.dyn && meets a b)).map
      (fun b => (if a.table = 8 then a.agent.2 else 0, ⟨0x10, a.table, a.index, b.table, p⟩)))))

def pumpCheck (j : Job) (c : Chip) : Option Rec :=
  let areas := pumpAreas j c
  areas.findSome? (fun x =>
    let d := pdescOf c x.1 x.2.1
    let seg := decide (x.2.1 < 4096)
    let overlap := areas.any (fun y => (y.1 != x.1 || y.2.1 != x.2.1) && spansMeet x.2.2 y.2.2)
    let touched := (List.range j.nper).find? (fun p => ((j.per p).pump == 1 || (j.per p).pump == 2) &&
      (lessonRanges j p ++ dmaRanges j c p ++ windowRanges j p).any (fun r => r.wr && !r.dyn && r.spans.any (spansMeet x.2.2)))
    let g := if seg then x.2.1 else 0
    firstOf [bad ((seg && (!descOk x.1 d || !natBit (curveReg c x.1 d.curve 0) 31)) || overlap) 0x11 7 g g noPer,
      touched.map (fun p => ⟨0x11, 7, g, g, p⟩)])

def bellCheck (j : Job) : Option Rec :=
  let ps := List.range j.nper
  let one := ps.filter (fun p => (j.per p).pump == 1)
  let two := ps.filter (fun p => (j.per p).pump == 2)
  let votes := ps.filter (fun p => (j.per p).vote)
  let order := match one, votes, two with
    | [], [], [] => true
    | [a], [v], [b] => decide (a ≤ v) && decide (v < b)
    | _, _, _ => false
  let first := (minOf (votes ++ one ++ two)).getD 0
  ps.findSome? (fun p =>
    bad ((((j.per p).pump != 0 || (j.per p).vote) && decide (1 < (j.per p).every)) || (!order && p == first)) 0x12 1 p 0 p)

def specCheck (j : Job) (c : Chip) : Option Rec :=
  firstIn j.nles (fun i =>
    let l := j.les i
    let home : Nat × Nat := (clsAddr l.cl (32 * specHome c l.cl), 32 * specSize c l.cl)
    let out := (j.ranges l).any (fun r => r.wr && !(decide (home.1 ≤ r.first) && decide (r.first + r.count ≤ home.1 + home.2)))
    if !l.spec then none
    else (bad out 0x13 2 i 0 (lessonPer j i)).orElse (fun _ =>
      (lessonPers j i).findSome? (fun p => bad (!voteAfter j p) 0x13 2 i 0 p)))

/-- TIMETABLE_VALIDATION (R413), the school's agreement apart: the first failure in ascending code order. `c`
is the package as the load would leave it, `lat` the latency measured (R448). -/
def validate (j : Job) (loaded : Bool) (c : Chip) (f : Flash) (lat : Nat) : Option Rec :=
  firstOf [bad loaded 1 0 0 0 noPer, formatHeader j, formatEntries j, limits j,
    firstIn 8 (fun k => bad (stackOf c k).failed 4 0 0 k noPer),
    firstIn j.nseg (fun i => bad (segmentBad j c i) 5 6 i 0 noPer), firstIn 64 (fun n => bad (stackBad j c n) 5 9 n 0 noPer),
    retiredCheck j c f, targetCheck j c, strandCheck j, maskCheck j, entryCheck j, descCheck j c, dmaDeadlines j c,
    netDeadlines j lat, peerCheck j, prefetchCheck j c, conflictCheck j c, pumpCheck j c, bellCheck j, specCheck j c]

/-- The package as the load would leave it. -/
def loadView (j : Job) (c : Chip) : Chip := loadSegments j (loadPumps j c)

/-! ### The school's side (R418) and the sleeper map (R465) -/

/-- SEND_X or RECV_X of this device. -/
def pairX (j : Job) (recv : Bool) : Nat :=
  (List.range j.nper).foldl (fun a p => (j.windows p).foldl (fun a w =>
    if w.2.recv = recv then
      a ^^^ (if recv then pairDigest p w.2.wid w.2.peer j.rank w.2.len else pairDigest p w.2.wid j.rank w.2.peer w.2.len)
    else a) a) 0

/-- The agreement of this device after its own checks. -/
def ownAgree (j : Job) (r : Option Rec) : Agree :=
  ⟨r.map (fun x => (j.rank, x.bits)), j.schedDigest, true, pairX j false, pairX j true⟩

/-- The conditions of R465 on the sleeper map. -/
def sleeperOk (j : Job) (c : Chip) : Bool :=
  let b := j.per j.beginP
  let e := j.per j.endP
  let free := fun (a n : Nat) => decide (a + n ≤ hbmEnd) &&
    !(List.range j.nseg).any (fun i => spansMeet ((a : Int), n) (((j.seg i).dest : Int), (j.seg i).len)) &&
    !(pumpAreas j c).any (fun x => spansMeet ((a : Int), n) x.2.2)
  imgN j.smap 0 2 == 0x53504C53 && decide (j.beginP < j.endP) && decide (j.endP < j.nper) &&
    decide (1 ≤ j.interval) && b.every == j.interval && e.every == j.interval && b.phase == e.phase &&
    b.pump == 0 && e.pump == 0 && free j.stamp 64 && free j.sleepBase j.sleepWords &&
    decide (copyLen c ≤ j.sleepWords) && decide (imgW j.smap 5 ≤ 8)

end Sys2Proof.Machine
end

