-- ==== Sys2Proof/Machine/Commands.lean ====
section
/-! DEFINITION. The short pigeonhole commands (spec/14_host_interface_and_pigeonholes.md R488 to R493, R501;
spec/15 R530 to R535; spec/16 R554, R565): roles, event log, settings, registers, status; and the Warden's
rewriting of the flash. -/

namespace Sys2Proof.Machine

/-! ### Roles (R492, R493) -/

/-- HEARTBEAT. -/
def execHeartbeat (p : Fin 2) (h : Fin 8) (s : State) : Ans :=
  onMod s (fun s => perform p h 0x0002 s (fun c s => finish c (ok [argOf c 6] []) s))

/-- ROLE_HANDOVER: the other port becomes the owner when its link is in L0. -/
def roleHandover (c : Cmd) (s : State) : State :=
  let other := 1 - c.ph / 8
  if (pcieOf s other).l0 then finish c (ok [] []) (setOwner other 1 s) else finish c (sayStatus 5) s

def execRoleHandover (p : Fin 2) (h : Fin 8) (s : State) : Ans :=
  onMod s (fun s => perform p h 0x0003 s roleHandover)

/-- Whether the link of port o has been out of L0 for at least 1 s. -/
def linkLost (o : Nat) (s : State) : Bool :=
  let x := pcieOf s o
  !x.l0 && (if x.upSince then decide (x.downAt + 1000000 ≤ s.chip.nowUs)
    else dstate s != 0 && decide (s.dev.warden.readyAt + 1000000 ≤ s.chip.nowUs))

/-- ROLE_CLAIM: no effect from the owner; from the observer, when the owner is idle too long or its link is
out of L0. -/
def roleClaim (c : Cmd) (s : State) : State :=
  let me := c.ph / 8
  match s.dev.warden.owner with
  | none => finish c (sayStatus 5) s
  | some o =>
    if o = me then finish c (ok [] []) s
    else if ownerTimeout s < 1000 * argOf c 6 ∨ linkLost o s = true then finish c (ok [] []) (setOwner me 2 s)
    else finish c (sayStatus 5) s

def execRoleClaim (p : Fin 2) (h : Fin 8) (s : State) : Ans := onMod s (fun s => perform p h 0x0004 s roleClaim)

/-! ### The event log (R501, R535) -/

/-- The 32 bytes of an entry. -/
def entryBytes (e : LogEntry) : List Byte :=
  natBytes e.seq 4 ++ natBytes e.boot 2 ++ natBytes e.src 2 ++ natBytes e.code 2 ++ natBytes e.sev 2 ++ natBytes e.time 8 ++
    (List.range 3).flatMap (fun i => natBytes (e.data.getD i 0) 4)

/-- The entries kept: in flash, then waiting. -/
def keptLog (s : State) : List LogEntry := s.flash.log ++ s.dev.warden.waiting

/-- The entries from a sequence number; from the oldest kept when that one is lost, none when it is still to come. -/
def logFrom (first : Nat) (s : State) : List LogEntry :=
  let l := keptLog s
  match l.dropWhile (fun e => e.seq != first) with
  | [] => if 0 < (first + 2 ^ 32 - s.dev.warden.seq) % 2 ^ 32 ∧ (first + 2 ^ 32 - s.dev.warden.seq) % 2 ^ 32 < 2 ^ 31 then [] else l
  | r => r

/-- EVENT_READ: at most what the data area holds. -/
def eventRead (c : Cmd) (s : State) : State :=
  let l := (logFrom (argOf c 0) s).take (min (argOf c 1) 16384)
  finish c (ok [l.length] (l.flatMap entryBytes)) s

def execEventRead (p : Fin 2) (h : Fin 8) (s : State) : Ans := onMod s (fun s => perform p h 0x0005 s eventRead)

/-- EVENT_LOG_FLUSH (R535). -/
def eventLogFlush (s : State) : State := if fwUp s then flushLog s else s

def execEventLogFlush (s : State) : Ans := onMod s eventLogFlush

/-- RC_COUNTER_SWEEP (R428): the bell unit's RC counters are read, which clears them, and added to the log. -/
def rcCounterSweep (s : State) : State :=
  if !fwUp s then s
  else
    let one := fun (x : State × List Nat) (off : Nat) =>
      let t := modChip (busRead .bel off) x.1
      (t, x.2 ++ [t.chip.readOut.toNat])
    let r := [0x016, 0x018, 0x01A].foldl one (s, [])
    logEvent 0 Config.sweepCode r.2 r.1

def execRcCounterSweep (s : State) : Ans := onMod s rcCounterSweep

/-- FLASH_BAD (R530): the block is marked, its data moves to a good one; a region that falls too low is logged. -/
def flashBad (b : Nat) (s : State) : State :=
  if !fwUp s ∨ 324 ≤ b ∨ s.flash.bad.contains b = true then s
  else
    let s := logEvent 0 0x0005 [] (modFlash (fun f => { f with bad := f.bad ++ [b] }) s)
    let low := (decide (292 ≤ b) && decide ((goodBlocks s.flash 292 32).length < 8)) ||
      (decide (164 ≤ b) && decide (b < 292) && decide ((goodBlocks s.flash 164 128).length < 16))
    if low then logEvent 0 0x0007 [] s else s

def execFlashBad (blk : Fin 512) (s : State) : Ans := onMod s (flashBad blk.val)

/-! ### Settings (R532, R534, R554, R565) -/

/-- The bytes of the refusal counts (R554). -/
def refusalBytes (l : List Refused) : List Byte :=
  l.flatMap (fun r => natBytes r.refuser 2 ++ natBytes r.req 1 ++ natBytes r.kind 1 ++ natBytes r.count 4)

/-- The refusal counts in a value of PWR_REFUSALS. -/
def refusalsOf (v : List Byte) : List Refused :=
  (List.range (v.length / 8)).map (fun i =>
    ⟨sliceNat v (8 * i) 2, sliceNat v (8 * i + 2) 1, sliceNat v (8 * i + 3) 1, sliceNat v (8 * i + 4) 4⟩)

/-- A value that the Warden keeps live rather than as a record: wear, refusal counts, PL0 residency. -/
def liveValue (key : Nat) (s : State) : Option (List Byte) :=
  if key = 0x40 then some ((List.range 512).flatMap (fun b => natBytes (tget (fun _ => 0) s.flash.wear b) 4))
  else if key = 0x104 then some (refusalBytes s.dev.power.refusals)
  else if 0x100 ≤ key ∧ key < 0x104 then
    some ((List.range 256).flatMap (fun i => (residOf s.dev.power (256 * (key - 0x100) + i)).flatMap (fun n => natBytes n 1)))
  else none

/-- VER and value of a key: an absent record, and one newer than the firmware, read as the default with VER 0. -/
def settingRead (key : Nat) (s : State) : Nat × List Byte :=
  match liveValue key s with
  | some v => (if v = keyDefault key then 0 else 1, v)
  | none =>
    match settingOf s.flash key with
    | some r => if (keyVer key).any (fun v => decide (r.ver ≤ v)) then (r.ver, r.val) else (0, keyDefault key)
    | none => (0, keyDefault key)

/-- SETTINGS_READ: the version field, then the value. -/
def settingsRead (c : Cmd) (s : State) : State :=
  let x := settingRead (argOf c 0) s
  finish c (ok [] (natBytes x.1 2 ++ x.2)) s

def execSettingsRead (p : Fin 2) (h : Fin 8) (s : State) : Ans := onMod s (fun s => perform p h 0x0006 s settingsRead)

/-- Whether SETTINGS_WRITE takes a value for a key (R532, R565). -/
def settingOk (key : Nat) (v : List Byte) (s : State) : Bool :=
  let n := bytesNat v
  if key = 1 then v.length == 1 && decide (n ≤ 1)
  else if key = 2 then v.length == 2 && decide (1 ≤ n) && decide (n ≤ 600)
  else if key = 0x105 then v.length == 2 && decide (600 ≤ n) && decide (n ≤ 1200) && decide (n ≤ plBurst s)
  else if key = 0x106 then v.length == 2 && decide (plSus s ≤ n) && decide (n ≤ 1500)
  else false

/-- SETTINGS_WRITE. -/
def settingsWrite (c : Cmd) (s : State) : State :=
  if settingOk (argOf c 0) c.data s then finish c (ok [] []) (putSetting (argOf c 0) c.data s) else finish c (sayStatus stBadArg) s

def execSettingsWrite (p : Fin 2) (h : Fin 8) (s : State) : Ans := onMod s (fun s => perform p h 0x0007 s settingsWrite)

/-- REFUSAL_STORE (R554). -/
def execRefusalStore (s : State) : Ans :=
  onMod s (fun s => if fwUp s then putSetting 0x104 (refusalBytes s.dev.power.refusals) s else s)

/-! ### Registers and status (R501) -/

/-- REG_READ. The Warden reads a compute die's block over the ring, which answers after a reset of it: until
then the command stays in progress (R579). -/
def regReadCmd (c : Cmd) (s : State) : State :=
  match ctlAddr (argOf c 0) with
  | none => finish c (sayStatus stBadArg) s
  | some (b, off) =>
    if nodeInReset s (blockNode b) then s else
    let s := modChip (busRead b off) s
    finish c (ok [s.chip.readOut.toNat] []) s

def execRegRead (p : Fin 2) (h : Fin 8) (s : State) : Ans := onMod s (fun s => perform p h 0x0008 s regReadCmd)

/-- REG_WRITE: the write, then a read back that clears nothing; to a block under reset after the reset, as REG_READ. -/
def regWriteCmd (c : Cmd) (s : State) : State :=
  match ctlAddr (argOf c 0) with
  | none => finish c (sayStatus stBadArg) s
  | some (b, off) =>
    if nodeInReset s (blockNode b) then s else
    let s := modChip (busWrite b off (BitVec.ofNat 32 (argOf c 1))) s
    finish c (ok [(regRead s.chip b off).toNat] []) s

def execRegWrite (p : Fin 2) (h : Fin 8) (s : State) : Ans := onMod s (fun s => perform p h 0x0009 s regWriteCmd)

/-- JOB_STATUS. -/
def execJobStatus (p : Fin 2) (h : Fin 8) (s : State) : Ans :=
  onMod s (fun s => perform p h 0x0034 s (fun c s =>
    finish c (ok [(regRead s.chip .bel 0x012).toNat, (regRead s.chip .bel 0x014).toNat, dstate s] []) s))

/-- RETIRED_ROWS (R345). -/
def execRetiredRows (p : Fin 2) (h : Fin 8) (s : State) : Ans :=
  onMod s (fun s => perform p h 0x0051 s (fun c s => finish c (ok [] (settingVal s.flash (0x20 + argOf c 0))) s))

end Sys2Proof.Machine
end

