-- ==== Sys2Proof/Machine/Trust.lean ====
section
/-! DEFINITION. Identity, attestation and link keys (spec/15_boot_firmware_and_trust.md R509, R514 to R517;
spec/14 R485). -/

namespace Sys2Proof.Machine

/-- A field of n bytes: cut or filled with zero bytes. -/
def fit (n : Nat) (l : List Byte) : List Byte := (l ++ List.replicate n 0).take n

/-! ### Derived keys (R509) -/

/-- M0, the measurement of the ROM (R511). -/
def m0 : List Byte := shake256 Config.rom 64

def dikSeed : List Byte := shake256 (ascii "VZP9-DIK" ++ Config.uds) 32
def akSeed (m1 : List Byte) : List Byte := shake256 (ascii "VZP9-AK" ++ Config.uds ++ m0 ++ m1) 32
def dekSeed (m1 : List Byte) : List Byte := shake256 (ascii "VZP9-DEK" ++ Config.uds ++ m0 ++ m1) 64

def dikPub : List Byte := Config.dsaPub dikSeed
def akPub (m1 : List Byte) : List Byte := Config.dsaPub (akSeed m1)
def dekPub (m1 : List Byte) : List Byte := Config.kemPub (dekSeed m1)

/-- SERIAL as bytes. -/
def serialBytes : List Byte := natBytes Config.serial.toNat 8

/-- The alias certificate: the DIK's signature, made in the ROM flow (R511, R514). -/
def aliasCert (m1 : List Byte) : List Byte :=
  Config.dsaSign dikSeed (serialBytes ++ m0 ++ m1 ++ akPub m1 ++ shake256 (dekPub m1) 64) (ascii "VZP9-AC")

/-! ### IDENT and ATTEST (R514, R515) -/

/-- The identity record. -/
def identRecord (m1 : List Byte) : List Byte :=
  ascii "VZID" ++ natBytes 1 2 ++ natBytes 0 2 ++ serialBytes ++ fit 1952 dikPub ++ natBytes Config.caId.toNat 8 ++
    fit 3309 Config.dikCert ++ natBytes 0 3 ++ fit 1952 (akPub m1) ++ fit 3309 (aliasCert m1) ++ natBytes 0 3

/-- IDENT: RES0 holds the Vendor ID below the Device ID, RES1 the stepping. -/
def execIdent (p : Fin 2) (h : Fin 8) (s : State) : Ans :=
  onMod s (fun s => perform p h 0x0001 s (fun c s =>
    finish c (ok [Config.vendorId.toNat + deviceId * 65536, 0xB0] (identRecord s.dev.boot.m1)) s))

/-- The signed part of a report for a nonce, with DSTATE when the command was accepted. -/
def reportBody (s : State) (ds : Nat) (nonce : List Byte) : List Byte :=
  let b := s.dev.boot
  let j := jobOf s
  ascii "VZAR" ++ natBytes 1 2 ++ natBytes 0xB0 1 ++ natBytes ds 1 ++ serialBytes ++ nonce ++ fit 64 m0 ++ fit 64 b.m1 ++
    fit 64 b.m2 ++ natBytes b.version 4 ++ natBytes s.fuses.svnFloor 4 ++ natBytes ((j.map (fun j => j.tag)).getD 0) 4 ++
    natBytes ((j.map (fun j => j.rank)).getD 0) 2 ++ natBytes ((j.map (fun j => j.size)).getD 0) 2 ++ List.replicate 80 0 ++
    fit 1568 (dekPub b.m1)

/-- ATTEST. -/
def attest (c : Cmd) (s : State) : State :=
  let body := reportBody s (argOf c 7) ((List.range 4).flatMap (fun i => natBytes (argOf c i) 8))
  finish c (ok [] (body ++ fit 3309 (Config.dsaSign (akSeed s.dev.boot.m1) body (ascii "VZP9-AR")))) s

def execAttest (p : Fin 2) (h : Fin 8) (s : State) : Ans := onMod s (fun s => perform p h 0x0010 s attest)

/-! ### Link keys (R485, R516, R517) -/

/-- A failed check of a signature, a key or a tag: logged, and answered with AUTH. -/
def authFail (c : Cmd) (res : List Nat) (s : State) : State := finish c ⟨stAuth, res, []⟩ (logEvent 0 0x000B [] s)

/-- IDE_KEYX. -/
def ideKeyx (c : Cmd) (s : State) : State :=
  let ek := slice c.data 32 1568
  if c.data.length ≠ 1600 ∨ Config.kemCheck ek = false then authFail c [0x20] s
  else
    let p := c.ph / 8
    let rnd := randBytes s 64
    let kem := Config.kemEncap ek (rnd.drop 32)
    let nd := rnd.take 32
    let t := shake256 (ascii "VZP9-IDE" ++ natBytes p 1 ++ slice c.data 0 32 ++ ek ++ kem.1 ++ nd) 64
    let keys := shake256 (ascii "VZP9-IDEK" ++ kem.2 ++ t) 192
    let s := modPcie p (fun x => { x with idePending := some keys }) (tickFresh 1 s)
    finish c (ok [] (fit 1568 kem.1 ++ nd ++ fit 3309 (Config.dsaSign (akSeed s.dev.boot.m1) t (ascii "VZP9-IDE")))) s

def execIdeKeyx (p : Fin 2) (h : Fin 8) (s : State) : Ans := onMod s (fun s => perform p h 0x0011 s ideKeyx)

/-- IDE_START: the pending keys are installed and the stream is Secure. -/
def ideStart (c : Cmd) (s : State) : State :=
  let p := c.ph / 8
  match (pcieOf s p).idePending with
  | none => finish c (sayStatus stState) s
  | some k =>
    finish c (ok [] []) (modPcie p (fun x => { x with
      idePending := none, ideKeys := some k, ideSecure := true, ideInsecure := false }) s)

def execIdeStart (p : Fin 2) (h : Fin 8) (s : State) : Ans := onMod s (fun s => perform p h 0x0012 s ideStart)

/-- IDE_FAIL: a Secure stream enters Insecure. -/
def ideFail (p : Nat) (s : State) : State :=
  if (pcieOf s p).ideSecure then
    let s := modPcie p (fun x => { x with ideSecure := false, ideInsecure := true }) s
    if fwUp s then logEvent 0 0x0009 [] s else s
  else s

def execIdeFail (p : Fin 2) (s : State) : Ans := onMod s (ideFail p.val)

end Sys2Proof.Machine
end

