-- ==== Sys2Proof/Machine/Firmware.lean ====
section
/-! DEFINITION. Firmware images, the two slots and the switch between them (spec/15_boot_firmware_and_trust.md
R525 to R531, R502). -/

namespace Sys2Proof.Machine

/-! ### Slots and boot records (R526, R527, R529) -/

/-- The valid boot record with the higher SEQ, and whether it is the second one. -/
def curRec (f : Flash) : Option (Bool × BootRec) :=
  match f.rec0, f.rec1 with
  | some a, some b => if a.seq < b.seq then some (true, b) else some (false, a)
  | some a, none => some (false, a)
  | none, some b => some (true, b)
  | none, none => none

/-- The slot that is not the active one. -/
def stagingSlot (f : Flash) : Nat := match curRec f with | some (_, r) => 1 - r.slot | none => 1

def slotBytes (f : Flash) (slot : Nat) : Table Byte := if slot = 0 then f.slotA else f.slotB
def putSlot (slot : Nat) (t : Table Byte) (f : Flash) : Flash := if slot = 0 then { f with slotA := t } else { f with slotB := t }

/-- The first n bytes of a slot. -/
def slotImage (f : Flash) (slot n : Nat) : List Byte := tbytes 0xFF (slotBytes f slot) 0 n

/-- The good erase blocks of a slot. -/
def slotBlocks (f : Flash) (slot : Nat) : List Nat := goodBlocks f (4 + 80 * slot) 80

/-- A record naming a slot goes into the block that does not hold the current one; a record that the block
holds is erased first (R532). -/
def switchTo (slot len : Nat) (digest : List Byte) (f : Flash) : Flash :=
  let erase := fun (old : Option BootRec) (b : Nat) => if old.isSome then wearOne f b else f
  match curRec f with
  | some (false, r) => { erase f.rec1 3 with rec1 := some ⟨r.seq + 1, slot, len, digest⟩ }
  | some (true, r) => { erase f.rec0 2 with rec0 := some ⟨r.seq + 1, slot, len, digest⟩ }
  | none => { erase f.rec0 2 with rec0 := some ⟨1, slot, len, digest⟩ }

/-! ### The checks of an image (R524, R525) -/

/-- The image with its signature field zero: what the signature and the digest cover. -/
def imageBody (img : List Byte) : List Byte := img.take 0x800 ++ List.replicate 3309 0 ++ img.drop 0x14ED
def imageDigest (img : List Byte) : List Byte := shake256 (imageBody img) 64
def imageSvn (img : List Byte) : Nat := sliceNat img 0x0C 4

/-- Whether the bytes from i to before k are zero. -/
def zeroBytes (img : List Byte) (i k : Nat) : Bool := (slice img i (k - i)).all (fun b => b == 0)

/-- The header is well formed and gives this length. -/
def headerOk (img : List Byte) (len : Nat) : Bool :=
  slice img 0 4 == ascii "VZFW" && sliceNat img 4 2 == 1 && decide (sliceNat img 6 2 ≤ 1) && decide (imageSvn img ≤ 64) &&
    decide (sliceNat img 0x10 4 ≤ 1) && sliceNat img 0x14 8 == len && decide (len ≤ stagingBytes) && decide (8192 ≤ len) &&
    zeroBytes img 0x1C 0x20 && zeroBytes img 0x7C0 0x800 && zeroBytes img 0x14ED 0x2000

/-- The signer is one of Volzon's keys and is not revoked. -/
def signerOk (img : List Byte) (revoke : Nat) : Bool :=
  let k := sliceNat img 6 2
  shake256 (slice img 0x20 1952) 64 == Config.vfk k && !natBit revoke k

def signatureOk (img : List Byte) : Bool :=
  Config.dsaVerify (slice img 0x20 1952) (imageBody img) (ascii "VZP9-FW") (slice img 0x800 3309)

/-- The first check of a staged image that fails, as the detail of AUTH. -/
def imageFault (img : List Byte) (len : Nat) (fu : Fuses) : Option Nat :=
  if !headerOk img len then some 1
  else if !signerOk img fu.revoke then some 2
  else if !signatureOk img then some 3
  else if imageSvn img < fu.svnFloor then some 4
  else none

/-! ### Coverage (R502) -/

/-- Whether the runs written cover bytes 0 to n - 1: each step moves to the end of a run that holds the first
byte missing. -/
def coversFrom (l : List (Nat × Nat)) (at_ n : Nat) : Nat → Bool
  | 0 => decide (n ≤ at_)
  | k + 1 =>
    if n ≤ at_ then true
    else
      let e := (l.filter (fun r => decide (r.1 ≤ at_))).foldl (fun m r => max m (r.1 + r.2)) at_
      if e = at_ then false else coversFrom l e n k
def covers (l : List (Nat × Nat)) (n : Nat) : Bool := coversFrom l 0 n l.length

/-! ### The commands (R501, R526, R527) -/

/-- The flash pages of a slot that hold programmed bytes among those a block of n bytes at an offset reaches. -/
def dirtyPages (t : Table Byte) (off n : Nat) : List Nat :=
  ((t.map (fun e => e.1 / 4096)).eraseDups).filter (fun p => decide (off / 4096 ≤ p) && decide (4096 * p < off + n))

/-- Program a block into the staging area: the erase blocks of pages already programmed are erased first. -/
def stageBlock (off : Nat) (bs : List Byte) (f : Flash) : Flash :=
  let slot := stagingSlot f
  let t := slotBytes f slot
  let good := slotBlocks f slot
  let worn := ((dirtyPages t off bs.length).map (fun p => good.getD (p / 64) 0)).eraseDups
  putSlot slot (putBytes 0xFF t off bs) (worn.foldl wearOne f)

/-- FW_BLOCK. -/
def fwBlock (c : Cmd) (s : State) : State :=
  if (slotBlocks s.flash (stagingSlot s.flash)).length < 64 then
    finish c ⟨stState, [2], []⟩ (logEvent 0 0x0007 [] s)
  else
    let s := modFlash (stageBlock (argOf c 0) c.data) s
    finish c (ok [] []) (modWarden (fun w => { w with dstate := 7, staged := w.staged ++ [(argOf c 0, c.data.length)] }) s)

def execFwBlock (p : Fin 2) (h : Fin 8) (s : State) : Ans := onMod s (fun s => perform p h 0x0020 s fwBlock)

/-- The staging area counts as empty. -/
def emptyStaging (s : State) : State := modWarden (fun w => { w with staged := [] }) s

/-- FW_COMMIT: checks, then the boot record that is the switch; the new image runs from the next cold reset. -/
def fwCommit (c : Cmd) (s : State) : State :=
  let len := argOf c 0
  if !covers s.dev.warden.staged len then background c (some (sayStatus 8)) s
  else
    let slot := stagingSlot s.flash
    let img := slotImage s.flash slot len
    match imageFault img len s.fuses with
    | some d => background c (some ⟨stAuth, [d], []⟩) (emptyStaging (logEvent 0 0x000B [] s))
    | none =>
      let s := logEvent 0 0x0002 [] (modFlash (switchTo slot len (imageDigest img)) s)
      background c (some (ok [sliceNat img 8 4] [])) (emptyStaging (modWarden (fun w => { w with imageHours := 0 }) s))

def execFwCommit (p : Fin 2) (h : Fin 8) (s : State) : Ans := onMod s (fun s => perform p h 0x0021 s fwCommit)

/-- FW_ABORT. -/
def execFwAbort (p : Fin 2) (h : Fin 8) (s : State) : Ans :=
  onMod s (fun s => perform p h 0x0022 s (fun c s => finish c (ok [] []) (setDstate 1 (emptyStaging s))))

/-- FLASH_REFRESH (R531): the active image is copied into the staging area, verified, and switched to. -/
def flashRefresh (worn : Bool) (s : State) : State :=
  if !fwUp s ∨ dstate s ≠ 1 ∨ s.dev.warden.long.isSome = true ∨ (worn = false ∧ s.dev.warden.imageHours < 8760) then s
  else
    match curRec s.flash with
    | none => s
    | some (_, r) =>
      let slot := 1 - r.slot
      let img := slotImage s.flash r.slot r.len
      if (slotBlocks s.flash slot).length < 64 then logEvent 0 0x0007 [] s
      else if (imageFault img r.len s.fuses).isSome then s
      else
        let s := modFlash (fun f => switchTo slot r.len r.digest (stageBlock 0 img f)) s
        logEvent 0 0x0006 [] (modWarden (fun w => { w with imageHours := 0, staged := [] }) s)

def execFlashRefresh (worn : Bool) (s : State) : Ans := onMod s (flashRefresh worn)

end Sys2Proof.Machine
end

