-- ==== Sys2Proof/Machine/Boot.lean ====
section
/-! DEFINITION. Start-up (spec/17_clocks_resets_and_startup.md R576, R580 to R583; spec/18 R586 to R588;
spec/15 R511 to R513, R526, R528, R534; spec/09 R344 to R346): cold reset, the ROM flow, the phases up to
DSTATE 0x1. -/

namespace Sys2Proof.Machine

/-! ### Cold reset (R576, R577) -/

/-- Every block. -/
def allBlocks : List BlockId :=
  .bel :: (List.range 64).flatMap (fun r => [clsB r, dmaB r]) ++ meshes ++ ports ++ [.pci 0, .pci 1] ++ stackBlocks

/-- Fuses that the control space shows (R56, R541, R582). -/
def fuseReg (r off : Nat) : W32 :=
  if off = 0x012 then (Config.coreOk r).setWidth 32
  else BitVec.ofNat 32 ((List.range 8).foldl (fun a p =>
    a + min 12 (Config.fmax (16 * r + p + (if off = 0x030 then 8 else 0))).toNat * 2 ^ (4 * p)) 0)

def loadFuses (c : Chip) : Chip :=
  (List.range 64).foldl (fun c r => [0x012, 0x02E, 0x030].foldl (fun c off => setRaw c (clsB r) off (fuseReg r off)) c) c

/-- Every register of a block takes its reset value; HW_STOP marks a block that was not STOPPED (R577). -/
def resetBlock (b : BlockId) (c : Chip) : Chip :=
  let ran := bState c b != 0
  let c := { c with hung := tput (fun _ => false) c.hung (blockKey b) false, regs := tput (fun _ => []) c.regs (blockKey b) [] }
  if ran then setF c b 0x002 8 8 1 else c

/-- The package after a cold reset: registers at reset, classroom memory and core state lost. A stack marked
failed stays so (R346), and a die that the wear rule holds (R558). HBM is wiped before anything reads it
(R580). -/
def coldChip (c : Chip) : Chip :=
  let ran := allBlocks.filter (fun b => bState c b != 0)
  let c := (List.range 64).foldl (fun c r => closeRoom r c) ((List.range 8).foldl (fun c k => wipeAbandon k c) c)
  let d : Chip := { chipReset with
    fresh := c.fresh, mem := c.mem, pois := c.pois, crypt := c.crypt, lost := c.lost, since := c.since, cores := c.cores, plHold := c.plHold
    stk := tmap (fun _ => stackReset) (fun _ x => { stackReset with failed := x.failed }) c.stk }
  ran.foldl (fun c b => setF c b 0x002 8 8 1) d

/-- The module in cold reset with phase `ph` ended: flash, fuses and the Breach latch stay; what the settings
store keeps live stays (R532, R558). -/
def coldState (ph : Nat) (s : State) : State :=
  let d := s.dev
  let boot : Boot := { bootReset with
    inRange := d.boot.inRange, rstN := d.boot.rstN, rails := d.boot.rails && d.boot.inRange, phase := ph }
  let warden : Warden := { wardenReset with imageHours := d.warden.imageHours }
  let power : Power := { powerReset with
    resid := d.power.resid, minute := d.power.minute, breach := d.power.breach, breachReset := d.power.breach, sample := d.power.sample }
  let dev : Dev := { devReset with boot := boot, warden := warden, power := power }
  { s with chip := coldChip s.chip, dev := dev }

/-! ### The ROM flow (R511 to R513) -/

/-- The module becomes DEAD; DETAIL is not given for most reasons. -/
def die (reason : Nat) (s : State) : State :=
  tickFresh 1 (modBoot (fun b => { b with dead := some (reason, Config.freeNat s.chip.fresh % 2 ^ 32) }) s)

/-- The check of step 5 that fails: DEAD reason. -/
def bootFault (img : List Byte) (r : BootRec) (n : Nat) (fu : Fuses) : Option Nat :=
  if Config.unreadable n then some 7
  else if !headerOk img (sliceNat img 0x14 8) || !signerOk img fu.revoke then some 4
  else if imageSvn img < fu.svnFloor then some 5
  else if sliceNat img 0x14 8 ≠ r.len ∨ imageDigest img ≠ r.digest ∨ signatureOk img = false then some 4
  else none

/-- Steps 6 and 7: the fuse read port is locked, the firmware starts; BOOT is logged. -/
def startFirmware (img : List Byte) (m1 : List Byte) (s : State) : State :=
  let s := modFlash (fun f => { f with boots := f.boots + 1 }) s
  let seq := ((s.flash.log.getLast?).map (fun e => e.seq)).getD 0
  let s := modWarden (fun w => { w with seq := seq }) s
  let s := modBoot (fun b => { b with
    phase := 3, fuseLock := true, m1 := m1, m2 := List.replicate 64 0, version := sliceNat img 8 4, svn := imageSvn img
    advance := natBit (sliceNat img 0x10 4) 0 }) s
  logEvent 0 0x0001 [] (modChip (fun c => { c with nowUs := 0 }) s)

/-- ROM_FLOW steps 1 to 7, after the fuses are sensed. The status record of a DEAD module shows the version of
the image tried (R513). -/
def romFlow (s : State) : State :=
  let n := s.flash.boots
  if !Config.selfTest n then die 1 s
  else if !Config.fusesAgree n then die 2 s
  else
    match curRec s.flash with
    | none => die 3 s
    | some (_, r) =>
      let img := slotImage s.flash r.slot r.len
      match bootFault img r n s.fuses with
      | some d => die d (modBoot (fun b => { b with version := if d = 7 then 0 else sliceNat img 8 4 }) s)
      | none => startFirmware img r.digest s

/-- Phase 2, and the ROM flow after it. -/
def fuseSense (s : State) : State :=
  if s.dev.boot.phase ≠ 1 then s
  else romFlow (modBoot (fun b => { b with phase := 2 }) (modChip loadFuses s))

def execFuseSense (s : State) : Ans := onMod s fuseSense

/-- COLD_RESET: the whole module, and the ROM flow when nothing holds it in reset. -/
def coldReset (s : State) : State :=
  if s.dev.boot.inRange && s.dev.boot.rstN then fuseSense (coldState 1 s) else coldState 0 s

def execColdReset (s : State) : Ans := onMod s coldReset

/-- ROM_WATCHDOG (R511). -/
def romWatchdog (s : State) : State := if fwUp s && dstate s == 0 then die 6 s else s

def execRomWatchdog (s : State) : Ans := onMod s romWatchdog

/-! ### The input and module_rst_n (R586 to R588) -/

/-- Start-up begins when the input is in range and module_rst_n is high. -/
def beginStart (s : State) : State :=
  if s.dev.boot.inRange && s.dev.boot.rstN && s.dev.boot.phase == 0 then
    modBoot (fun b => { b with rails := true, phase := 1 }) s
  else s

def execInputInRange (s : State) : Ans := onMod s (fun s => beginStart (modBoot (fun b => { b with inRange := true }) s))

def execInputOutOfRange (s : State) : Ans := onMod s (fun s => coldState 0 (modBoot (fun b => { b with inRange := false }) s))

/-- module_rst_n falls: no further effect while the input is out of range. -/
def rstFall (s : State) : State :=
  let s := modBoot (fun b => { b with rstN := false }) s
  if s.dev.boot.inRange then coldState 0 s else s

def execModuleRstFall (s : State) : Ans := onMod s rstFall

def execModuleRstRise (s : State) : Ans := onMod s (fun s => beginStart (modBoot (fun b => { b with rstN := true }) s))

/-! ### Phase 3a (R490, R532 to R534) -/

/-- The value of a record converted from an older VER: a row record of VER 1 held the line of the row (R533). -/
def convert (key old : Nat) (v : List Byte) : List Byte :=
  if old = 1 ∧ 0x10 ≤ key ∧ key < 0x28 then
    (List.range (v.length / 4)).flatMap (fun i => natBytes (rowId (sliceNat v (4 * i) 4 % 2 ^ 30)) 4)
  else Config.migrate key old v

/-- Migrate one record, or note that it is newer than the firmware. -/
def migrateOne (s : State) (r : Setting) : State :=
  match keyVer r.key with
  | none => s
  | some v =>
    if r.ver < v then logEvent 0 0x0003 [r.key, r.ver, v] (putSetting r.key (convert r.key r.ver r.val) s)
    else if v < r.ver then logEvent 0 0x0004 [r.key] s
    else s

/-- Migrate one block of the event log: its entries are written again under the VER that the firmware defines.
The KEY that SETTINGS_MIGRATE gives for it is not stated (Config.logKey). -/
def migrateLog (s : State) (b : Nat) : State :=
  let old := tget (fun _ => 0) s.flash.logVer b
  let new := Config.logVer s.dev.boot.version
  if old < new then
    let s := modFlash (fun f =>
      wearOne { f with logVer := tput (fun _ => 0) f.logVer b new } (logErase (goodBlocks f 164 128) b)) s
    logEvent 0 0x0003 [Config.logKey, old, new] s
  else s

/-- SETTINGS_MIGRATE at the first start of another firmware: records, then event-log blocks; FW_LAST is written last. -/
def migrateAll (s : State) : State :=
  let m1 := s.dev.boot.m1
  if settingVal s.flash 0x42 = m1 then s
  else
    let s := s.flash.settings.foldl migrateOne s
    putSetting 0x42 m1 (((s.flash.log.map (fun e => logBlock e.seq)).eraseDups).foldl migrateLog s)

/-- SETTINGS_MOUNT. -/
def settingsMount (s : State) : State :=
  if !fwUp s || s.dev.boot.phase != 3 then s
  else
    let s := modBoot (fun b => { b with phase := 4 }) (migrateAll s)
    let s := modPower (fun p => { p with refusals := refusalsOf (settingVal s.flash 0x104) }) s
    setOwner (bytesNat (settingVal s.flash 1)) 0 s

def execSettingsMount (s : State) : Ans := onMod s settingsMount

/-! ### Phase 4 (R344 to R346, R355, R356) -/

/-- The rows of a list key (R533). -/
def rowsOf (f : Flash) (key : Nat) : List Nat :=
  let v := settingVal f key
  (List.range (v.length / 4)).map (fun i => sliceNat v (4 * i) 4)

def putRows (key : Nat) (l : List Nat) (s : State) : State := putSetting key (l.flatMap (fun r => natBytes r 4)) s

/-- Retire a row; past 1,024 rows the stack is marked failed. -/
def retireRow (k row : Nat) (s : State) : State :=
  let l := rowsOf s.flash (0x20 + k)
  if l.contains row then s
  else if 1024 ≤ l.length then modChip (fun c => report (modStack c k (fun x => { x with failed := true })) (8 + k) 0x0204 [k]) s
  else putRows (0x20 + k) (l ++ [row]) s

/-- A candidate row with `left` repairs left of this start: whether it stays a candidate, and the repairs left. -/
def repairRow (k row left : Nat) (s : State) : State × Bool × Nat :=
  let bank := k * 4096 + row / 16384
  if 2 ≤ tget (fun _ => 0) s.fuses.spares bank then (retireRow k row s, false, left)
  else if left = 0 then (s, true, 0)
  else
    let s : State := { s with fuses := { s.fuses with spares := tmod (fun _ => 0) s.fuses.spares bank (fun n => n + 1) } }
    (putSetting (0x30 + k) (natBytes (bytesNat (settingVal s.flash (0x30 + k)) + 1) 2) s, false, left - 1)

/-- Every candidate with its stack, in the order in which the rows became candidates (R344); any of which that
order is not known come last. -/
def candidateRows (f : Flash) : List (Nat × Nat) :=
  let all := (List.range 8).flatMap (fun k => (rowsOf f (0x10 + k)).map (fun row => (k, row)))
  (f.candidates.filter (fun x => all.contains x) ++ all).eraseDups

/-- A row is no candidate any more. -/
def dropCandidate (k row : Nat) (s : State) : State :=
  let s := putRows (0x10 + k) ((rowsOf s.flash (0x10 + k)).erase row) s
  modFlash (fun f => { f with candidates := f.candidates.erase (k, row) }) s

/-- The candidates in their order, with the repairs left; those beyond them stay. -/
def repairRows : List (Nat × Nat) → Nat → State → State
  | [], _, s => s
  | (k, row) :: l, left, s =>
    let r := repairRow k row left s
    repairRows l r.2.2 (if r.2.1 then r.1 else dropCandidate k row r.1)

/-- HMC_REPAIR of a stack from the settings store (R355, R582). -/
def loadRepair (f : Flash) (k : Nat) (c : Chip) : Chip :=
  setRaw c (hmcB k) 0x01C (BitVec.ofNat 32 ((rowsOf f (0x20 + k)).length * 65536 + bytesNat (settingVal f (0x30 + k))))

/-- HBM_BRINGUP: rails, training, at most 16 repairs, HMC_REPAIR, and the wipe of every stack. -/
def hbmBringup (s : State) : State :=
  if !fwUp s || decide (s.dev.boot.phase < 4) || s.dev.boot.hbmUp then s
  else
    let s := repairRows (candidateRows s.flash) 16 s
    let s := modChip (fun c => (List.range 8).foldl (fun c k =>
      pllLock (.stack (Fin.ofNat 8 k)) (loadRepair s.flash k (zeroLines k (fun _ => true)
        (modStack c k (fun x => { x with powered := true, selfRefresh := false }))))) c) s
    modBoot (fun b => { b with hbmUp := true }) s

def execHbmBringup (s : State) : Ans := onMod s hbmBringup

/-! ### Phases 5 and 6 (R526, R601) -/

/-- The memory of every classroom zero, with valid check bits. -/
def zeroRooms (c : Chip) : Chip :=
  { c with
    mem := tclear c.mem (fun b => inCls (b / 2)), pois := tclear c.pois inCls, since := tclear c.since inCls, lost := [] }

/-- A classroom comes up: PLL locked at PL7, cores on it (R601). -/
def roomUp (r : Nat) (c : Chip) : Chip :=
  setF (setPower r .run (modRoom c r (fun m => { m with pll := true }))) (clsB r) 0x028 17 17 1

/-- STAGING_ERASE. -/
def stagingErase (s : State) : State :=
  if !fwUp s || decide (s.dev.boot.phase < 4) || s.dev.boot.stagingUp then s
  else
    let s := modFlash (fun f =>
      let slot := stagingSlot f
      putSlot slot [] (((slotBlocks f slot).take 64).foldl wearOne f)) s
    modBoot (fun b => { b with stagingUp := true }) (emptyStaging s)

def execStagingErase (s : State) : Ans := onMod s stagingErase

/-! ### DSTATE 0x1 (R490, R528, R580) -/

/-- SVN_ADVANCE. -/
def svnAdvance (s : State) : State :=
  if s.dev.boot.advance then
    logEvent 0 0x000A [] { s with fuses := { s.fuses with svnFloor := max s.fuses.svnFloor s.dev.boot.svn } }
  else s

/-- DSTATE_READY. -/
def dstateReady (s : State) : State :=
  let b := s.dev.boot
  if fwUp s && decide (4 ≤ b.phase) && b.hbmUp && b.computeUp && b.stagingUp && dstate s == 0 then
    let s := modWarden (fun w => { w with dstate := 1, readyAt := s.chip.nowUs }) s
    let s := [0, 1].foldl (fun s p => modPcie p (fun x => { x with upSince := x.l0 }) s) s
    svnAdvance s
  else s

def execDstateReady (s : State) : Ans := onMod s dstateReady

end Sys2Proof.Machine
end

