-- ==== Sys2Proof/Machine/Exceptions.lean ====
section
/-! DEFINITION. TRAP, BRK, PMASK, XRET, RESULT_COMPUTED and EXCEPTION_ENTRY (spec/04_exceptions_and_privilege.md R157 to
R171, spec/03_scalar_core.md R96, R106 to R109). -/

namespace Sys2Proof.Machine

/-- TRAP and BRK complete; their exception is owed at the next slot (R158). -/
def owe (w : W32) (u : StrandId) (e : Exc) (c : Chip) : Chip :=
  issue c u { word := w, act := fun c => modStrand c u (fun st => { st with owed := [e] }) }

def execTrap (u : StrandId) (n : Fin 32) (s : State) : Ans := onChip s (owe (insnWord (.trap u n)) u ⟨0x0E, n.val, 0⟩)
def execBrk (u : StrandId) (s : State) : Ans := onChip s (owe (insnWord (.brk u)) u ⟨0x0F, 0, 0⟩)

/-- Poison bits n .. of a table from REG base, as a number. -/
def poisBits (f : Nat → Bool) : Nat := (List.range 32).foldl (fun a i => a + (if f i then 2 ^ i else 0)) 0

/-- PMASK (R162): gd gets the poison bits of g0-g31 and f0-f31. -/
def execPmask (u : StrandId) (rd : Fin 32) (s : State) : Ans :=
  onChip s (fun c =>
    issue c u { word := insnWord (.pmask u rd), dsts := [(rd.val, 2)],
                act := fun c => putReg c u rd 2
                  (BitVec.ofNat 64 (poisBits (fun i => regPois c u i) + poisBits (fun i => regPois c u (32 + i)) * 2 ^ 32)) })

/-! ### XRET (R169, R170) -/

/-- A frame read back: word i, and n words as a number. -/
def fw (ws : List Word) (i : Nat) : Nat := (ws.getD i 0).toNat
def fn (ws : List Word) (i n : Nat) : Nat := wordsNat ((ws.drop i).take n)

/-- Record entry j of a frame: its first word. -/
def recWord (ws : List Word) (j : Nat) : Nat := fw ws (41 + 5 * j)
def recCount (ws : List Word) : Nat := natBits (fw ws 40) 3 0
def recK (ws : List Word) (j : Nat) : Nat := natBits (recWord ws j) 15 12
def recReg (ws : List Word) (j : Nat) : Nat := natBits (recWord ws j) 7 0

/-- The registers a record may name (R109). -/
def recRegOk (r : Nat) : Bool := decide (r ≤ 135) && !(decide (88 ≤ r) && decide (r ≤ 91))

/-- The entries in use. -/
def recIdx (ws : List Word) : List Nat := List.range (min (recCount ws) 11)

/-- The first check of R169 that fails on a readable frame, reasons 0x01 to 0x0A. Of the record's entries the check of
reserved bits looks at those in use only (DESIGN CHOICE, log entry 51). -/
def frameFault (st : Strand) (ws : List Word) : Option Nat :=
  let status := fw ws 0
  let pb := natBit status 6
  let pbn := natBits status 5 4
  let p := natBits status 3 2
  let df := natBit status 1
  let mode := fn ws 16 4
  let lcount := fn ws 34 4
  let ls := fn ws 28 3
  let le := fn ws 31 3
  let is := recIdx ws
  if 11 < recCount ws then some 0x01
  else if is.any (fun j => recK ws j == 0 || decide (11 < recK ws j)) then some 0x02
  else if !(is.map (fun j => (recReg ws j, recK ws j))).Nodup then some 0x03
  else if natBit status 0 || natBits (fw ws 40) 15 4 != 0 || is.any (fun j => natBits (recWord ws j) 10 8 != 0) ||
      fw ws 38 != 0 || fw ws 39 != 0 || is.any (fun j => !recRegOk (recReg ws j)) then some 0x04
  else if decide (level st < p) || p == 3 || (df && !(inDf st && p == 2)) then some 0x05
  else if !((!pb && pbn == 0) || (pb && (pbn == 1 || pbn == 2))) then some 0x06
  else if fn ws 4 3 % 2 == 1 || (pb && fn ws 7 3 % 2 == 1) then some 0x07
  else if (BitVec.ofNat 64 mode &&& ~~~ (0x8C07 : W64)) != 0 || natBits mode 11 10 == 3 || decide (4 < natBits mode 2 0) then
    some 0x08
  else if lcount != 0 && (decide (le < ls) || ls % 2 == 1 || le % 2 == 1 || decide (2047 < (le - ls) / 2 + 1)) then some 0x09
  else if !st.pend.isEmpty || !st.pendV.isEmpty then some 0x0A
  else none

/-- The return fault, if any: reason 0x0B first (R169). -/
def xretFault (c : Chip) (u : StrandId) : Option Exc :=
  let st := strandOf c u
  let f := (creg st 30).toNat
  if (hwFail c u false f 96).isSome then some ⟨0x0D, 0x0B, f⟩
  else
    match frameFault st ((rdWords c st.spec f 96).map Prod.fst) with
    | some r => some ⟨0x0D, r, f⟩
    | none => none

/-- Whether a record entry writes: one that names a register no MTC or VMTC writes (LSTART, LEND, STRAND,
SLOTS, PRIV, XFRAME, a reserved number, VL, VTYPE, vc7) has no effect, so that no return raises the level
(R141) or sets a read-only register (R90, R142, R178; DESIGN CHOICE, log entry 51). -/
def recWrites (r : Nat) : Bool :=
  if r < 64 then true else if r < 128 then mtcReg (r - 64) else decide (130 ≤ r) && decide (r ≤ 134)

/-- A MODE value whose SLEEP or FRM has no meaning (R91) takes another of the field's codes, which is not given (log
entry 51). -/
def legalMode (n : Nat) (v : Nat) : Nat :=
  let v := if natBits v 11 10 = 3 then natSetBits v 11 10 (Config.freeNat n % 3) else v
  if 4 < natBits v 2 0 then natSetBits v 2 0 (Config.freeNat (n + 1) % 5) else v

/-- The value that a record entry writes: bits that read 0 in the map of its register stay 0 (R90, R91, R142, R178). -/
def recVal (n r v : Nat) : W64 :=
  if r < 64 then BitVec.ofNat 64 v
  else if r = 64 then BitVec.ofNat 64 (legalMode n (BitVec.ofNat 64 v &&& ctlMask 0).toNat)
  else if r < 128 then BitVec.ofNat 64 v &&& ctlMask (r - 64)
  else BitVec.ofNat 64 v &&& vcMask (r - 128)

/-- Record entry j as a pending write of the returned strand: visible at slot n' + K (R108). -/
def recPend (ws : List Word) (n id : Nat) (j : Nat) : PendW :=
  ⟨recReg ws j, recVal (n + 2 * j) (recReg ws j) (fn ws (42 + 5 * j) 4), natBit (recWord ws j) 11, recK ws j, false, 0, false,
    id + j, 0⟩

/-- The state that XRET restores (R170, R246); the frame holds no poison bit of g31, which is cleared (DESIGN
CHOICE, log entry 51). -/
def xretState (st : Strand) (n : Nat) (ws : List Word) : Strand :=
  let status := fw ws 0
  let f := creg st 30
  let st := if natBits status 15 8 = 0xFE then st else setCreg st (if level st = 1 then 18 else 19) (f + 96)
  let st := setCreg st 16 (BitVec.ofNat 64 ((if natBit status 1 then 4 else 0) + natBits status 3 2))
  let st := setCreg st 30 (BitVec.ofNat 64 (fn ws 13 3))
  let st := setCreg st 0 (BitVec.ofNat 64 (fn ws 16 4))
  let st := setCreg st 1 (BitVec.ofNat 64 (fn ws 24 4))
  let st := setCreg st 3 (BitVec.ofNat 64 (fn ws 28 3))
  let st := setCreg st 4 (BitVec.ofNat 64 (fn ws 31 3))
  let st := setCreg st 5 (BitVec.ofNat 64 (fn ws 34 4))
  { st with
    g := tput (fun _ => 0) st.g 31 (BitVec.ofNat 64 (fn ws 20 4)),
    pois := tput (fun _ => false) st.pois 31 false,
    pc := fn ws 4 3,
    pb := if natBit status 6 then some (fn ws 7 3, natBits status 5 4) else none,
    pend := ((recIdx ws).filter (fun j => recWrites (recReg ws j))).map (recPend ws n st.nextId),
    nextId := st.nextId + 11,
    ret := none,
    flight := st.flight ++ st.parked,
    parked := [] }

/-- XRET: its frame is read in requests of their own, and the strand waits for them (R96, R169, R286). -/
def execXret (u : StrandId) (s : State) : Ans :=
  onChip s (fun c =>
    let st := strandOf c u
    let f := (creg st 30).toNat
    let who := Reader.entry u.core u.strand
    let i : Insn := { word := insnWord (.xret u), priv := level st == 0, ctl := true, flow := .restored }
    issue c u { i with
      last := xretFault c u,
      hold := (insnFault c u i).isNone && (decide (st.ret ≠ some f) || outstandingReq c who),
      ask := fun c => if st.ret = some f then c
        else askReads (modStrand c u (fun st => { st with ret := some f })) u.core st.spec who f 96,
      act := fun c =>
        let ws := (rdWords c st.spec f 96).map Prod.fst
        modStrand { c with fresh := c.fresh + 22 } u (fun st => xretState st c.fresh ws) })

/-! ### Late results and exception entry -/

/-- Mark the oldest late write of a register computed. -/
def computeFirst (reg : Nat) : List PendW → List PendW
  | [] => []
  | w :: r => if w.reg = reg ∧ w.late = true then { w with late := false } :: r else w :: computeFirst reg r
def computeFirstV (reg : Nat) : List PendV → List PendV
  | [] => []
  | w :: r => if w.reg = reg ∧ w.late = true then { w with late := false } :: r else w :: computeFirstV reg r

/-- The id of the oldest late write that a register code names: a scalar write, else, for an f register, a
write of its vector register. -/
def lateId (st : Strand) (reg : Nat) : Option Nat :=
  match st.pend.find? (fun w => w.reg == reg && w.late) with
  | some w => some w.id
  | none => if 32 ≤ reg then (st.pendV.find? (fun w => w.reg == reg - 32 && w.late)).map (fun w => w.id) else none

/-- RESULT_COMPUTED (R96): the value is there, once its requests have been served, and what was only waiting
for it becomes visible. A code of an f register also names its vector register. -/
def resultComputed (u : StrandId) (reg : Nat) (c : Chip) : Chip :=
  match lateId (strandOf c u) reg with
  | none => commitDue c u
  | some id =>
    if outstandingReq c (.load u.core u.strand id) then c
    else
      commitDue (modStrand c u (fun st =>
        if st.pend.any (fun w => w.reg == reg && w.late) then { st with pend := computeFirst reg st.pend }
        else { st with pendV := computeFirstV (reg - 32) st.pendV })) u

def execResultComputed (u : StrandId) (reg : Fin 136) (s : State) : Ans := onChip s (resultComputed u reg)

/-- EXCEPTION_ENTRY (R157, R152, R112): an entry in progress completes once every pending value is computed,
its reads of the tables have been served and a tile instruction that has begun its commit has finished (R243);
else the strand takes the exception of orders 0 to 2 that stands at its slot, or the illegal-instruction fault
of the word it has fetched there. -/
def exceptionEntry (u : StrandId) (insn : W32) (c : Chip) : Chip :=
  let st := strandOf c u
  match st.entering with
  | some e =>
    if allReady st && !outstandingReq c (.entry u.core u.strand) && !committing st then
      completeEntry (modStrand c u (fun st => { st with entering := none })) u e.exc e.insn
    else c
  | none =>
    if !canIssue c u then c
    else
      match earlyExc c u with
      | some e => takeExc (earlySlot c u) u e insn
      | none => if legalWord insn then c else takeExc (faultSlot c u) u ⟨0x01, 0, 0⟩ insn

def execExceptionEntry (u : StrandId) (insn : W32) (s : State) : Ans := onChip s (exceptionEntry u insn)

end Sys2Proof.Machine
end

