-- ==== Sys2Proof/Machine/Resets.lean ====
section
/-! DEFINITION. Resets that do not reach the Warden (spec/17_clocks_resets_and_startup.md R576 to R579, R582,
R583): compute, classroom, core, stack, port. -/

namespace Sys2Proof.Machine

/-! ### What a RESET ordered, and the job it meets (R576, R578) -/

/-- The order of a reset is carried out. -/
def resetDone (kind arg : Nat) (s : State) : State := modWarden (fun w => { w with resets := w.resets.erase (kind, arg) }) s

/-- A reset that reaches a block of the running job is a failure of the device. -/
def resetHalt (kind : Nat) (used : Job → Bool) (s : State) : State :=
  match jobOf s with
  | some j => if used j then failSchool (Config.haltReason (256 + kind)) s else s
  | none => s

/-! ### Compute, classroom, core -/

/-- Registers of a classroom's two blocks, and its bookkeeping, at reset. -/
def roomRegs (r : Nat) (c : Chip) : Chip := resetBlock (dmaB r) (resetBlock (clsB r) c)

/-- A classroom under a compute reset: memory and all core state lost; of its stores in flight, rows may stand
in HBM (R247). -/
def computeRoom (breach : Bool) (r : Nat) (c : Chip) : Chip :=
  let c := (List.range 16).foldl (fun c p => tileDiscard (16 * r + p) c) (dmaAbandon r c)
  let c := closeRoom r (roomRegs r c)
  let c := setPower r .run { c with rooms := tput (fun _ => roomReset) c.rooms r roomReset }
  if breach then setPower r .closed c else c

/-- A compute reset: the compute dies come up again through COMPUTE_BRINGUP, which ends the reset; under a
latched Breach it ends at once and they stay off (R579). -/
def computeReset1 (s : State) : State :=
  let s := resetHalt 1 (fun _ => true) s
  let b := s.dev.power.breach
  let s := modChip (fun c =>
    let c := (List.range 64).foldl (fun c r => computeRoom b r c) c
    let c := meshes.foldl (fun c m => resetBlock m c) c
    loadFuses { c with meshOn := [], plls := tclear c.plls (fun n => decide (n < 4)) }) s
  let s := modBoot (fun x => { x with computeUp := false, compReset := !b }) (modPower (fun p => { p with breachReset := p.breach }) s)
  powerDone (resetDone 1 0 s)

/-- COMPUTE_RESET: one that arrives while a compute reset runs follows it (R579). -/
def computeReset (s : State) : State :=
  if !powered s then s
  else if s.dev.boot.compReset then modBoot (fun b => { b with compNext := b.compNext + 1 }) s
  else computeReset1 s

def execComputeReset (s : State) : Ans := onMod s computeReset

/-- COMPUTE_BRINGUP: refused while the Breach is latched (R564, R579). A compute reset
that waited for this one follows it. -/
def computeBringup (s : State) : State :=
  if !fwUp s || decide (s.dev.boot.phase < 4) || s.dev.boot.computeUp then s
  else if s.dev.power.breach then countRefusal 0x0502 3 0 s
  else
    let s := modChip (fun c =>
      let c := (List.range 64).foldl (fun c r => roomUp r c) (zeroRooms c)
      (List.range 4).foldl (fun c d => pllLock (.mesh (Fin.ofNat 4 d)) { c with meshOn := tput (fun _ => false) c.meshOn d true }) c) s
    let s := ringResume (modBoot (fun b => { b with computeUp := true, compReset := false }) s)
    if s.dev.boot.compNext = 0 then s else computeReset1 (modBoot (fun b => { b with compNext := b.compNext - 1 }) s)

def execComputeBringup (s : State) : Ans := onMod s computeBringup

/-- The fuse registers of a classroom, which a classroom reset keeps (R582). -/
def keepFuses (old : Chip) (r : Nat) (c : Chip) : Chip :=
  [0x012, 0x02E, 0x030].foldl (fun c off => setRaw c (clsB r) off (rawReg old (clsB r) off)) c

/-- A classroom reset: cores, DMA engine, registers; its memory stays. DESIGN CHOICE (log entry 61): which of
the two copies of a shadowed line is current (SEL, R318) survives it, as it does a reprogramming of HOME,
SHADOW or SIZE. -/
def resetRoom (r : Nat) (c : Chip) : Chip :=
  let off := (roomOf c r).power == .closed
  let d := specClose false r (dmaAbandon r (dropRoom r c))
  let d := (List.range 16).foldl (fun c p => coreReset c (16 * r + p)) d
  let d := keepFuses c r (roomRegs r d)
  modRoom d r (fun m => { m with
    power := .run, levelTo := none, droop := false, asked := none, pll := m.pll && !off })

/-- One classroom: a polder that is off does not come up under a latched Breach (R564). -/
def classroomReset1 (r : Nat) (s : State) : State :=
  let off := (roomOf s.chip r).power == .closed
  let s := modChip (resetRoom r) s
  if off && s.dev.power.breach then countRefusal 0x0502 3 0 (modChip (setPower r .closed) s) else s

/-- CLASSROOM_RESET; a compute reset under way absorbs it (R579). -/
def classroomReset (mask : Nat) (s : State) : State :=
  if !powered s then s
  else if s.dev.boot.compReset then resetDone 2 mask s
  else
    let rooms := maskRooms mask
    let s := resetHalt 2 (fun j => j.allRooms.any (fun r => rooms.contains r)) s
    powerDone (resetDone 2 mask (rooms.foldl (fun s r => classroomReset1 r s) s))

def execClassroomReset (mask : BitVec 64) (s : State) : Ans := onMod s (classroomReset mask.toNat)

/-- CORE_RESET (R598); a compute reset under way absorbs it (R579). -/
def coreResetCmd (n : Nat) (s : State) : State :=
  if !powered s then s
  else if s.dev.boot.compReset then resetDone 3 n s
  else
    let s := resetHalt 3 (fun j => j.allRooms.contains (coreRoom n)) s
    resetDone 3 n (modChip (fun c => coreReset c n) s)

def execCoreReset (core : Fin 1024) (s : State) : Ans := onMod s (coreResetCmd core.val)

/-! ### Stack and port -/

/-- A stack reset: HBM contents and refresh stay, a running wipe and a running pass are abandoned (R356, R392). -/
def resetStack (k : Nat) (c : Chip) : Chip :=
  let c := if (stackOf c k).pump.pass = 0 then c else pumpAbandon k c
  let c := clearKeys k (wipeAbandon k (dropStack k c))
  let c := resetBlock (sylB k) (resetBlock (pmpB k) (resetBlock (hmcB k) c))
  modStack c k (fun x => { stackReset with
    dram := tmap (fun _ => dramReset) (fun _ d => { dramReset with refRow := d.refRow }) x.dram
    powered := x.powered, selfRefresh := x.selfRefresh, failed := x.failed, pll := x.pll, torn := x.torn })

/-- STACK_RESET: the Warden then loads HMC_REPAIR again and wipes the stack (R583). A pass 2 cut short leaves
the shard TORN. -/
def stackReset1 (k : Nat) (s : State) : State :=
  let cut := decide (2 ≤ (stackOf s.chip k).pump.pass)
  let s := modChip (resetStack k) s
  let s := if cut then modBell (fun b => { b with torn := true }) s else s
  if s.dev.boot.hbmUp then modChip (fun c => wipe k (loadRepair s.flash k c)) s else s

def stackResetCmd (mask : Nat) (s : State) : State :=
  if !powered s then s
  else
    let s := resetHalt 4 (fun _ => true) s
    resetDone 4 mask (((List.range 8).filter (natBit mask)).foldl (fun s k => stackReset1 k s) s)

def execStackReset (mask : BitVec 8) (s : State) : Ans := onMod s (stackResetCmd mask.toNat)

/-- An Ethernet port under reset: block, keys and link. -/
def resetPort (n : Nat) (s : State) : State :=
  let s := modChip (fun c => resetBlock (ethB n) { c with ethKeys := tput (fun _ => 0) c.ethKeys n 0 }) s
  modEth n (fun _ => ethReset) s

/-- PORT_RESET (kind 5 halts no job). -/
def portReset (mask : Nat) (s : State) : State :=
  if !powered s then s
  else
    let s := ((List.range 16).filter (natBit mask)).foldl (fun s n => resetPort n s) s
    let s := ((List.range 2).filter (fun n => natBit mask (16 + n))).foldl (fun s n => pcieReset n .hot s) s
    resetDone 5 mask s

def execPortReset (mask : BitVec 18) (s : State) : Ans := onMod s (portReset mask.toNat)

end Sys2Proof.Machine
end

