-- ==== Sys2Proof/Machine/Pigeons.lean ====
section
/-! DEFINITION. Core pigeonholes (spec/14_host_interface_and_pigeonholes.md R504, R505; spec/01 R38, R56). -/

namespace Sys2Proof.Machine

/-- Word i of the window of a core. -/
def pgnWord (c : Chip) (core i : Nat) : Nat := (physWord c (pgnBase + 256 * core + i)).toNat

/-- CORE_PIGEON_MESSAGE: the Prefect takes a message once the reply to the earlier one is written, clears GO
and forwards it. A reserved KIND and a LEN above 126 have their answers already. -/
def corePigeonMessage (core : Nat) (s : State) : State :=
  let c := s.chip
  let w := pgnWord c core 0
  if !powered s || !natBit w 15 || s.dev.warden.msgs.any (fun m => m.core == core) ||
      !natBit (getF c (clsB (coreRoom core)) 0x010 31 16) (corePos core) then s
  else
    let len := natBits w 14 8
    let kind := natBits w 7 0
    let m : CoreMsg := ⟨core, pgnWord c core 1 % 8, kind, (rdWords c false (pgnBase + 256 * core + 2) (min 126 len)).map Prod.fst,
      if kind ≠ 1 ∧ kind ≠ 2 then some (1, []) else if 126 < len then some (2, []) else none⟩
    modWarden (fun x => { x with msgs := x.msgs ++ [m] })
      (modChip (fun c => wrWords c false (pgnBase + 256 * core) [BitVec.ofNat 16 (natBits w 14 0)]) s)

def execCorePigeonMessage (core : Fin 1024) (s : State) : Ans := onMod s (corePigeonMessage core.val)

/-- The message of a core that the Warden has not acted on, of a KIND. -/
def msgOf (core kind : Nat) (s : State) : Option CoreMsg :=
  s.dev.warden.msgs.find? (fun m => m.core == core && m.kind == kind && m.reply.isNone)

/-- The Warden's answer to a message. -/
def setReply (m : CoreMsg) (st : Nat) (ws : List Word) (s : State) : State :=
  modWarden (fun w => { w with msgs := w.msgs.map (fun x => if x = m then { x with reply := some (st, ws) } else x) }) s

/-- 32-bit units of a payload. -/
def unitsOf : List Word → List Nat
  | a :: b :: r => (a.toNat + 65536 * b.toNat) :: unitsOf r
  | [a] => [a.toNat]
  | [] => []

/-- LOG: the payload, the core and the strand become CORE_MSG. -/
def pigeonLog (core : Nat) (s : State) : State :=
  if !fwUp s then s
  else
    match msgOf core 1 s with
    | none => s
    | some m =>
      let us := unitsOf m.payload ++ [m.core, m.strand]
      setReply m 0 [] (logUnits (blockNode (clsB (coreRoom core))) 0x0105 us ((us.length + 2) / 3) s)

def execLog (core : Fin 1024) (s : State) : Ans := onMod s (pigeonLog core.val)

/-- QUERY: BEL_STEP, BEL_PERIOD and DSTATE. -/
def pigeonQuery (core : Nat) (s : State) : State :=
  if !fwUp s then s
  else
    match msgOf core 2 s with
    | none => s
    | some m =>
      setReply m 0 (natWords (regRead s.chip .bel 0x012).toNat 2 ++ natWords (regRead s.chip .bel 0x014).toNat 2 ++
        natWords (dstate s) 2) s

def execQuery (core : Fin 1024) (s : State) : Ans := onMod s (pigeonQuery core.val)

/-- CORE_PIGEON_REPLY: the Prefect writes the reply and sets IPEND.PIGEON in the strand named, although a
disabled window refuses the write (R57; DESIGN CHOICE, log entry 63). -/
def corePigeonReply (core : Nat) (s : State) : State :=
  match s.dev.warden.msgs.find? (fun m => m.core == core && m.reply.isSome) with
  | none => s
  | some m =>
    let r := m.reply.getD (0, [])
    let s := modWarden (fun w => { w with msgs := w.msgs.erase m }) s
    modChip (fun c => setIpend 1 (strandId core m.strand)
      (pgnWrite core 0x80 ([BitVec.ofNat 16 (2 ^ 15 + r.1), BitVec.ofNat 16 r.2.length] ++ r.2) c)) s

def execCorePigeonReply (core : Fin 1024) (s : State) : Ans := onMod s (corePigeonReply core.val)

end Sys2Proof.Machine
end

