-- ==== Sys2Proof/Machine/Bundle.lean ====
section
/-! DEFINITION. Job bundles (spec/15_boot_firmware_and_trust.md R518 to R524): the bundle area, the header,
decryption, the section table, the placement rule. -/

namespace Sys2Proof.Machine

/-! ### The bundle area (R520) -/

abbrev bundleBase : Nat := 0x2800000000

/-- Bytes [off, off + n) of an area that starts at word a. -/
def areaRead (a : Nat) (c : Chip) (off n : Nat) : List Byte :=
  slice (wordsBytes ((rdWords c false (a + off / 2) (n / 2 + 2)).map Prod.fst)) (off % 2) n

/-- Store bytes at an offset: a word that the run covers by half keeps its other byte. -/
def areaWrite (a off : Nat) (bs : List Byte) (c : Chip) : Chip :=
  let l := if off % 2 = 1 then areaRead a c (off - 1) 1 ++ bs else bs
  let l := if l.length % 2 = 1 then l ++ areaRead a c (off + bs.length) 1 else l
  wardenWrite c (atRun (a + off / 2) (bytesWords l))

/-- Bytes of the bundle. -/
def bundleRead (c : Chip) (off n : Nat) : List Byte := areaRead bundleBase c off n
def bundleWrite (off : Nat) (bs : List Byte) (c : Chip) : Chip := areaWrite bundleBase off bs c

/-! ### The header (R518) -/

abbrev plainChunk : Nat := 1048576
abbrev cipherChunk : Nat := plainChunk + 16

def hdrChunks (h : List Byte) : Nat := sliceNat h 0x670 4
def hdrLast (h : List Byte) : Nat := sliceNat h 0x674 4

/-- Step 1 of R521: the detail of AUTH. -/
def headerFault (h : List Byte) (len : Nat) (m1 : List Byte) : Option Nat :=
  let n := hdrChunks h
  let k := hdrLast h
  if slice h 0 4 ≠ ascii "VZJB" ∨ sliceNat h 4 2 ≠ 3 ∨ sliceNat h 6 2 ≠ 0 ∨ zeroBytes h 0x678 0x1000 = false ∨ n = 0 ∨ k = 0 ∨
      plainChunk < k ∨ len ≠ 0x1000 + plainChunk * (n - 1) + k + 16 * n then some 0x10
  else if slice h 8 8 ≠ serialBytes ∨ slice h 0x10 64 ≠ shake256 (dekPub m1) 64 then some 0x11
  else none

/-- BK. -/
def bundleKey (h : List Byte) (m1 : List Byte) : List Byte :=
  shake256 (ascii "VZP9-BUNDLE" ++ Config.kemDecap (dekSeed m1) (slice h 0x50 1568) ++ slice h 0x10 64) 32

/-- Decrypt n chunks, the last with `last` plaintext bytes, read by `read`; the first whose tag fails. -/
def openChunks (read : Nat → Nat → List Byte) (key : List Byte) (iv aad : Nat → List Byte) (n last : Nat) :
    Except Nat (List Byte) :=
  let parts := (List.range n).map (fun i =>
    let len := if i + 1 = n then last else plainChunk
    gcmOpen key (iv i) (aad i) (read (cipherChunk * i) len) (read (cipherChunk * i + len) 16))
  match parts.findIdx? (fun p => p.isNone) with
  | some i => .error i
  | none => .ok (parts.flatMap (fun p => p.getD []))

/-- The plaintext stream of the bundle in memory. -/
def openBundle (c : Chip) (h : List Byte) (key : List Byte) : Except Nat (List Byte) :=
  openChunks (fun o n => bundleRead c (0x1000 + o) n) key (fun i => natBytes i 8 ++ natBytes 0 4)
    (fun i => natBytes i 8 ++ natBytes (hdrChunks h) 4) (hdrChunks h) (hdrLast h)

/-! ### The plaintext stream (R519) -/

structure Sect where
  type : Nat
  off : Nat
  len : Nat
  deriving DecidableEq, Repr

def sectCount (p : List Byte) : Nat := sliceNat p 256 4
def sections (p : List Byte) : List Sect :=
  (List.range (sectCount p)).map (fun i =>
    ⟨sliceNat p (260 + 16 * i) 4, sliceNat p (264 + 16 * i) 6, sliceNat p (270 + 16 * i) 6⟩)

abbrev sigBytes : Nat := 3309

/-- Each type once; even ends; between the table and the signature; no overlap; a public key of 1,952 bytes. -/
def sectionsOk (p : List Byte) : Bool :=
  let l := sections p
  let lo := 260 + 16 * sectCount p
  let hi := p.length - sigBytes
  decide (sectCount p = 4) && (List.range 4).all (fun t => l.any (fun x => x.type == t + 1)) &&
    l.all (fun x => x.off % 2 == 0 && x.len % 2 == 0 && decide (lo ≤ x.off) && decide (x.off + x.len ≤ hi) &&
      (x.type != 4 || x.len == 1952)) &&
    l.all (fun x => l.all (fun y => x.type == y.type || decide (x.off + x.len ≤ y.off) || decide (y.off + y.len ≤ x.off)))

/-- The section of a type: where it starts, and its bytes. -/
def sectOff (p : List Byte) (t : Nat) : Nat := (((sections p).find? (fun x => x.type == t)).map (fun x => x.off)).getD 0
def sectBytes (p : List Byte) (t : Nat) : List Byte :=
  (((sections p).find? (fun x => x.type == t)).map (fun x => slice p x.off x.len)).getD []

/-- The job of a stream: sleeper protection and layout are settled when it is loaded. -/
def jobOfStream (p : List Byte) : Job :=
  ⟨bytesWords (sectBytes p 1), bytesWords (sectBytes p 2), bytesWords (sectBytes p 3), slice p 0 32, sliceNat p 32 8,
   sliceNat p 40 4, sliceNat p 44 2, sliceNat p 46 2, false, 0⟩

/-- The placement rule of R521: word i of a segment's data comes with a chunk at or after the one whose
ciphertext, tag included, stands at its destination; none stands beyond the end of the last chunk. -/
def placementOk (p h : List Byte) : Bool :=
  let len := cipherChunk * (hdrChunks h - 1) + hdrLast h + 16
  let j := jobOfStream p
  let base := sectOff p 1
  (List.range j.nseg).all (fun k =>
    let e := j.seg k
    (List.range e.len).all (fun i =>
      let dest := e.dest + i
      let b := 2 * (dest - bundleBase)
      decide (dest < bundleBase) || decide (b < 0x1000) || decide (0x1000 + len ≤ b) ||
        decide ((b - 0x1000) / cipherChunk ≤ (base + 2 * (e.off + i)) / plainChunk)))

def jobSignatureOk (p : List Byte) : Bool :=
  let m := p.length - sigBytes
  Config.dsaVerify (sectBytes p 4) (shake256 (p.take m) 64) (ascii "VZP9-JOB") (p.drop m)

/-- Steps 1 to 4 of R521: the details of AUTH, or the bundle on trial. -/
def openJob (c : Chip) (len : Nat) (m1 : List Byte) : Except (List Nat) Trial :=
  let h := bundleRead c 0 0x1000
  match headerFault h len m1 with
  | some d => .error [d]
  | none =>
    match openBundle c h (bundleKey h m1) with
    | .error i => .error [0x12, i]
    | .ok p =>
      let j := jobOfStream p
      if sectionsOk p = false ∨ placementOk p h = false then .error [0x14]
      else if jobSignatureOk p = false then .error [0x13]
      else if j.rank ≠ j.w 4 ∨ j.size ≠ j.w 3 then .error [0x15]
      else .ok ⟨j, sectBytes p 4, shake256 p 64⟩

/-! ### Store objects (R523) -/

/-- A store object read back under the job's key: its plaintext, or the chunk whose tag fails. A header that
is not one fails at chunk 0. -/
def openObject (j : Job) (kind : Nat) (o : List Byte) : Except Nat (List Byte) :=
  let h := slice o 0 64
  let n := sliceNat h 16 4
  let len := sliceNat h 20 8
  if slice h 0 4 ≠ ascii "VZSO" ∨ sliceNat h 4 2 ≠ j.rank ∨ sliceNat h 6 2 ≠ kind ∨ n ≠ chunkCount len then .error 0
  else
    openChunks (fun a k => slice o (64 + a) k) (storeKey j) (fun i => slice h 8 8 ++ natBytes i 4) (fun _ => h) n
      (len - plainChunk * (n - 1))

end Sys2Proof.Machine
end

