-- ==== Sys2Proof/Machine/Jobs.lean ====
section
/-! DEFINITION. Loading, starting and ending a job (spec/14 R501, R502; spec/15 R512, R520 to R522; spec/11
R411 to R418, R423, R426; spec/12 R438, R448; spec/16 R601), and the school's agreement. -/

namespace Sys2Proof.Machine

/-! ### Stacks (R347, R348, R356, R357, R520) -/

/-- A stack's controller is drained and stopped; CRYPT_EN := 0. -/
def stopStack (k : Nat) (c : Chip) : Chip :=
  setF (stopNow (hmcB k) (stopNow (pmpB k) (stopNow (sylB k) (dropStack k c)))) (hmcB k) 0x010 1 1 0

/-- New keys for a STOPPED stack, and its start under them. -/
def keyStack (k : Nat) (bs : List Byte) (c : Chip) : Chip :=
  let c := (List.range 16).foldl (fun c i => hmcKeyWrite k i (BitVec.ofNat 32 (sliceNat bs (4 * i) 4)) c) (clearKeys k c)
  startNow (hmcB k) (setF c (hmcB k) 0x010 1 1 1)

/-- The stacks are stopped and wiped. -/
def wipeStacks (c : Chip) : Chip := (List.range 8).foldl (fun c k => wipe k (stopStack k c)) c
/-- Their keys go, at once or at the end of each wipe (R357, R520). -/
def clearAfterWipes (c : Chip) : Chip := (List.range 8).foldl (fun c k => modStack c k (fun x => { x with clearAfter := true })) c
def clearStacks (c : Chip) : Chip := (List.range 8).foldl (fun c k => clearKeys k c) c

/-! ### JOB_BLOCK (R502, R520) -/

/-- At the first block every stack gets keys of 64 random bytes; a block is stored once every controller runs. -/
def jobBlock (c : Cmd) (s : State) : State :=
  let s := if dstate s = 1 then
      let n := s.chip.fresh
      setDstate 2 (tickFresh 8 (modChip (fun ch =>
        (List.range 8).foldl (fun ch k => keyStack k ((List.range 64).map (Config.drbg (n + k))) (stopStack k ch)) ch) s))
    else s
  if !(List.range 8).all (fun k => bState s.chip (hmcB k) == 2) then s
  else
    let s := modChip (bundleWrite (argOf c 0) c.data) s
    finish c (ok [] []) (modWarden (fun w => { w with bundle := w.bundle ++ [(argOf c 0, c.data.length)] }) s)

def execJobBlock (p : Fin 2) (h : Fin 8) (s : State) : Ans := onMod s (fun s => perform p h 0x0030 s jobBlock)

/-! ### Ports of a job (R435, R438, R461, R522) -/

/-- The ports that the bundle uses for RoCEv2. -/
def rocePorts (j : Job) : List Nat := (Config.rocePorts j.img).filter (fun n => decide (n < 16) && !j.schoolPort n)

/-- SAK, salt and SSCIs of port n, register by register. -/
def portKeys (j : Job) (n : Nat) : List Nat :=
  let k := shake256 (ascii "VZP9-MACSEC" ++ j.jms ++ natBytes n 1) 44
  (List.range 11).map (fun i => sliceNat k (4 * i) 4) ++ [j.rank + 1, 1]

/-- ETH_MAC of port n. -/
def portMac (j : Job) (n : Nat) (c : Chip) : Chip :=
  let m := j.mac j.rank n
  setRaw (setRaw c (ethB n) 0x016 (BitVec.ofNat 32 m)) (ethB n) 0x018 (BitVec.ofNat 32 (m / 2 ^ 32))

def schoolPortUp (j : Job) (n : Nat) (c : Chip) : Chip :=
  let c := portMac j n (ethClear n (stopNow (ethB n) c))
  let c := (portKeys j n).zipIdx.foldl (fun c x => ethKeyWrite n x.2 (BitVec.ofNat 32 x.1) c) c
  startNow (ethB n) (setF (setF c (ethB n) 0x010 11 10 3) (ethB n) 0x010 9 9 0)

def rocePortUp (j : Job) (n : Nat) (c : Chip) : Chip :=
  let c := portMac j n (stopNow (ethB n) c)
  startNow (ethB n) (setF (setF c (ethB n) 0x010 11 10 0) (ethB n) 0x010 9 9 1)

/-- Step 5 of R521. -/
def portsUp (j : Job) (c : Chip) : Chip :=
  (rocePorts j).foldl (fun c n => rocePortUp j n c) (j.ports.foldl (fun c n => schoolPortUp j n c) c)

/-- The ports of a job stop and their keys go. -/
def portsDown (j : Job) (c : Chip) : Chip := (rocePorts j).foldl (fun c n => stopNow (ethB n) c) (stopPorts j c)

/-! ### The end of a load (R512, R520, R521) -/

/-- A load that failed: ports stop, stacks are wiped and then lose their keys, the bundle area and M2 go. -/
def dropTrial (s : State) : State :=
  let s := match s.dev.warden.trial with | some t => modChip (portsDown t.job) s | none => s
  let s := modChip (fun c => clearAfterWipes (wipeStacks c)) s
  let s := modBoot (fun b => { b with m2 := List.replicate 64 0 }) s
  modWarden (fun w => { w with trial := none, bundle := [], dstate := 1 }) s

/-- REFUSED with a record. -/
def loadRefused (r : Rec) (s : State) : State := longResult ⟨stRefused, [r.bits], []⟩ (logEvent 0 0x0302 [] (dropTrial s))

/-- The job is accepted: load segments, Pump setup, protection state, M2, DSTATE 0x3. -/
def loadAccepted (t : Trial) (s : State) : State :=
  let s := modChip (fun c => loadProtection t.job { loadView t.job c with seed := BitVec.ofNat 64 t.job.seed }) s
  let paired := (partnerOf t.job.rank t.job.size).isSome
  let good := sleeperOk t.job s.chip
  let j : Job := { t.job with sleeper := paired && good, layout := layoutDigest s.chip }
  let s := modBoot (fun b => { b with
    m2 := shake256 (ascii "VZP9-M2" ++ t.digest ++ shake256 t.signer 64) 64 }) s
  let s := modWarden (fun w => { w with job := some j, trial := none, bundle := [], dstate := 3 }) s
  let s := mendShard (modBell (fun b => { bellReset with lat := b.lat }) s)
  let s := logEvent 0 0x0301 [] s
  let s := if paired && !good then logEvent 0 0x030A [] s else s
  longResult (ok [] []) s

/-! ### The school's agreement (R418, R452) -/

/-- The outcome that the root reaches: none accepts; else the code and AUX of the refusal. -/
def agreeOutcome (a : Agree) : Option (Nat × Nat) :=
  match a.refuser with
  | some (q, _) => some (0x14, q)
  | none => if a.equal = false then some (0x14, 0xFFFF) else if a.sendX ≠ a.recvX then some (0xE, 0) else none

/-- Two subtrees together. -/
def agreeJoin (a b : Agree) : Agree :=
  ⟨match a.refuser, b.refuser with
    | some x, some y => if y.1 < x.1 then some y else some x
    | some x, none => some x
    | none, y => y,
   a.digest, a.equal && b.equal && a.digest == b.digest, a.sendX ^^^ b.sendX, a.recvX ^^^ b.recvX⟩

/-- The payload of an AGREE frame, and an agreement read back. -/
def agreeWords (a : Agree) : List Word :=
  let r := match a.refuser with | some (q, v) => (q + 1, v) | none => (0, 0)
  natWords r.1 1 ++ natWords r.2 4 ++ natWords a.digest 4 ++ natWords (if a.equal then 1 else 0) 1 ++ natWords a.sendX 4 ++
    natWords a.recvX 4
def agreeOf (ws : List Word) : Agree :=
  ⟨if imgW ws 0 = 0 then none else some (imgW ws 0 - 1, imgN ws 1 4), imgN ws 5 4, imgW ws 9 == 1, imgN ws 10 4, imgN ws 14 4⟩

/-- What an outcome does at this device: the load or the rejoin ends. A device with a refusal of its own
reports that. -/
def applyOutcome (o : Option (Nat × Nat)) (own : Option (Nat × Nat)) (s : State) : State :=
  match s.dev.warden.long with
  | none => s
  | some l =>
    let r : Rec := match o with | some (code, aux) => ⟨code, 0, 0, aux, noPer⟩ | none => ⟨0, 0, 0, 0, noPer⟩
    if l.cmd.op = 0x0031 then
      match s.dev.warden.trial, o, own with
      | none, _, _ => s
      | some t, none, _ => loadAccepted t s
      | some _, some _, some (_, bits) => longResult ⟨stRefused, [bits], []⟩ (loadRefused r s)
      | some _, some _, none => loadRefused r s
    else if l.cmd.op = 0x0036 then
      match o, own with
      | none, _ => longResult (ok [] []) (dropWins (2 * recovBase) (4 * recovBase) s)
      | some _, some (_, bits) => longResult ⟨stRefused, [bits], []⟩ s
      | some _, none => longResult ⟨stRefused, [r.bits], []⟩ s
    else s

/-- The outcome goes down the tree in AGREE frames with AUX 1 (log entry 41), then acts here. -/
def concludeAgree (j : Job) (o : Option (Nat × Nat)) (s : State) : State :=
  let own := s.dev.bell.mine.bind (fun a => a.refuser)
  let ws := match o with | some (code, aux) => [BitVec.ofNat 16 code, BitVec.ofNat 16 aux] | none => [(0 : Word), 0]
  let s := (childrenOf j.rank j.size).foldl (fun s q => queueBell 7 (frameOf j q 0 0 0 0 0 1 false false ws) s) s
  applyOutcome o own (modBell (fun b => { b with mine := none, kidAgree := [] }) s)

/-- Once this device's own result and every child's are there: up to the parent, or, at the root, the outcome. -/
def agreeProgress (s : State) : State :=
  match schoolJob s, s.dev.bell.mine with
  | some j, some a =>
    let kids := (childrenOf j.rank j.size).map (fun q => tget (fun _ => none) s.dev.bell.kidAgree q)
    if kids.any (fun k => k.isNone) then s
    else
      let all := (kids.filterMap id).foldl agreeJoin a
      match parentOf j.rank with
      | none => concludeAgree j (agreeOutcome all) s
      | some q => queueBell 7 (frameOf j q 0 0 0 0 0 0 false false (agreeWords all)) s
  | _, _ => s

/-- AGREE: from a child its subtree's agreement, once; from the parent the outcome. -/
def agreeIn (f : Frame) (j : Job) (s : State) : State :=
  if f.aux = 1 then
    if parentOf j.rank = some f.src ∧ s.dev.bell.mine.isSome = true then
      concludeAgree j (if imgW f.payload 0 = 0 then none else some (imgW f.payload 0, imgW f.payload 1)) s
    else s
  else if (childrenOf j.rank j.size).contains f.src && (tget (fun _ => none) s.dev.bell.kidAgree f.src).isNone then
    agreeProgress (modBell (fun b => { b with kidAgree := tput (fun _ => none) b.kidAgree f.src (some (agreeOf f.payload)) }) s)
  else s

def execAgree (p : Fin 16) (f : Frame) (s : State) : Ans := onMod s (fun s => onFrame p.val 7 f s (agreeIn f))

/-! ### The latency measurement (R417, R448) -/

/-- The peers that the windows name. -/
def peersOf (j : Job) : List Nat := ((List.range j.nwin).map (fun i => (j.win i).peer)).eraseDups

/-- The figure of R417. -/
def latency (s : State) : Nat := s.dev.bell.lat.foldl (fun m e => max m e.2) 0 + 100

/-- The latency is known: this device's own checks, and the agreement. -/
def ownChecks (s : State) : State :=
  let own := fun (j : Job) (r : Option Rec) => agreeProgress (modBell (fun b => { b with mine := some (ownAgree j r) }) s)
  match s.dev.warden.trial, jobOf s with
  | some t, j => own t.job (validate t.job j.isSome (loadView t.job s.chip) s.flash (latency s))
  | none, some j => own j (netDeadlines j (latency s))
  | none, none => s

/-- 64 probes on each school port to each peer; with no peer the checks follow at once. -/
def measure (j : Job) (s : State) : State :=
  let dests := j.ports.flatMap (fun p => (peersOf j).map (fun q => (p, q)))
  let s := modBell (fun b => { b with lat := [], probes := 64 * dests.length }) s
  let s := dests.foldl (fun s x => (List.range 64).foldl (fun s i =>
    queueCtl x.1 8 (frameOf j x.2 0 0 0 0 0 i false false []) s) s) s
  if dests.isEmpty then ownChecks s else s

/-- PROBE_REPLY: h is half the largest round trip. -/
def probeReplyIn (f : Frame) (rtt : Nat) (s : State) : State :=
  if s.dev.bell.probes = 0 then s
  else
    let s := modBell (fun b => { b with
      probes := b.probes - 1, lat := tmod (fun _ => 0) b.lat f.src (fun h => max h (rtt / 2)) }) s
    if s.dev.bell.probes = 0 then ownChecks s else s

def execProbeReply (p : Fin 16) (f : Frame) (rttNs : Nat) (s : State) : Ans :=
  onMod s (fun s => onFrame p.val 9 f s (fun _ s => probeReplyIn f rttNs s))

/-! ### JOB_LOAD and SCHOOL_REJOIN (R411, R501, R502, R521) -/

/-- JOB_LOAD: steps 1 to 5; the rest follows the measurement and the agreement. -/
def jobLoad (c : Cmd) (s : State) : State :=
  let len := argOf c 0
  if !covers s.dev.warden.bundle len then background c (some (sayStatus 8)) s
  else
    match openJob s.chip len s.dev.boot.m1 with
    | .error res => background c (some ⟨stAuth, res, []⟩) (logEvent 0 0x000B [] (dropTrial s))
    | .ok t =>
      let s := modWarden (fun w => { w with trial := some t }) (modBell (fun _ => bellReset) s)
      measure t.job (background c none (modChip (portsUp t.job) s))

def execJobLoad (p : Fin 2) (h : Fin 8) (s : State) : Ans := onMod s (fun s => perform p h 0x0031 s jobLoad)

/-- SCHOOL_REJOIN: the measurement and the agreement with the loaded job. -/
def schoolRejoin (c : Cmd) (s : State) : State :=
  match jobOf s with
  | none => finish c (sayStatus stState) s
  | some j => measure j (background c none s)

def execSchoolRejoin (p : Fin 2) (h : Fin 8) (s : State) : Ans := onMod s (fun s => perform p h 0x0036 s schoolRejoin)

/-! ### JOB_START, JOB_ABORT, JOB_UNLOAD (R423, R426, R501, R601) -/

/-- JOB_START: STATE after JOB_DONE. The blocks start and the levels rise when it is taken; period 0 is
released once every level change has completed (R601). -/
def jobStart (c : Cmd) (s : State) : State :=
  match jobOf s with
  | none => finish c (sayStatus stState) s
  | some j =>
    if s.dev.bell.past then finish c (sayStatus stState) s
    else
      let s := if s.dev.bell.first then s
        else modBell (fun b => { b with first := true }) (modChip (fun ch => raiseLevels j (startJob j (argOf c 1 % 2) ch)) s)
      if levelsDue j s.chip then s else finish c (ok [] []) (runStep j (argOf c 0) s)

def execJobStart (p : Fin 2) (h : Fin 8) (s : State) : Ans := onMod s (fun s => perform p h 0x0032 s jobStart)

/-- JOB_ABORT. -/
def jobAbort (c : Cmd) (s : State) : State :=
  match jobOf s with
  | none => finish c (sayStatus stState) s
  | some j => finish c (ok [] []) (setDstate 5 (haltSchool j.rank (Config.haltReason 0x0033) 0xFFFF s))

def execJobAbort (p : Fin 2) (h : Fin 8) (s : State) : Ans := onMod s (fun s => perform p h 0x0033 s jobAbort)

/-- The job goes: blocks and ports stop, stacks are wiped, PL_REQ returns to PL7 (R601), M2 to zero. -/
def unloadStart (s : State) : State :=
  let s := match jobOf s with | some j => modChip (fun c => portsDown j (stopAll (jobBlocks j) c)) s | none => s
  let s := modChip (fun c => (List.range 64).foldl (fun c r => plReq r 7 c) (wipeStacks (dropLessons c))) s
  let s := modBoot (fun b => { b with m2 := List.replicate 64 0 }) s
  let s := modDev (fun d => { d with bell := bellReset, wins := [], qps := [] }) s
  modWarden (fun w => { w with job := none, trial := none, bundle := [], unloading := true }) s

/-- JOB_UNLOAD: performed when it is taken, done once every wipe has ended. -/
def jobUnload (c : Cmd) (s : State) : State :=
  let s := if s.dev.warden.unloading then s else unloadStart s
  if (List.range 8).any (fun k => (stackOf s.chip k).wiping) then s
  else
    let s := modWarden (fun w => { w with unloading := false, dstate := 1 }) (modChip clearStacks s)
    finish c (ok [] []) s

def execJobUnload (p : Fin 2) (h : Fin 8) (s : State) : Ans := onMod s (fun s => perform p h 0x0035 s jobUnload)

end Sys2Proof.Machine
end

