-- ==== Sys2Proof/Machine/Recovery.lean ====
section
/-! DEFINITION. Survey, refill, resume, rebuild, checkpoints, replay and RoCEv2 transfers
(spec/13_sleeper_copies_and_recovery.md R470 to R480; spec/11 R431; spec/12 R455, R456; spec/10 R384; spec/14
R498, R501). -/

namespace Sys2Proof.Machine

/-! ### SLEEPER_STATUS (R473) -/

/-- The largest and smallest STEP of the device's live state records; a free value where it has none. -/
def stepMax (c : Chip) : Nat :=
  match liveSteps c with | [] => Config.freeNat c.fresh % 2 ^ 32 | x :: r => r.foldl max x
def stepMin (c : Chip) : Nat :=
  match liveSteps c with | [] => Config.freeNat c.fresh % 2 ^ 32 | x :: r => r.foldl min x

/-- Words 6 to 10 of the record: the copy held for the partner. Its LAYOUT is the partner's and is not compared here. -/
def heldWordsOf (j : Option Job) (c : Chip) : List Word :=
  match j.bind (fun j => (partnerOf j.rank j.size).map (fun q => (j, q))) with
  | none => [0] ++ natWords (Config.freeNat (c.fresh + 1)) 2 ++ natWords (Config.freeNat (c.fresh + 2)) 2
  | some (j, q) =>
    let l := heldCopy j c
    let code := copyCode j.tag q (copyNat l 10 4) l
    natWords (if code = 0 then 1 else 2 * code) 1 ++ natWords (copyNat l 6 2) 2 ++ natWords (copyNat l 8 2) 2

/-- The survey record. -/
def surveyWords (s : State) : List Word :=
  let j := jobOf s
  let partner := match j.bind (fun j => partnerOf j.rank j.size) with | some q => q | none => 2 ^ 15
  natWords (if shardTorn s then 1 else 0) 1 ++ natWords partner 1 ++ natWords (stepMax s.chip) 2 ++
    natWords (stepMin s.chip) 2 ++ heldWordsOf j s.chip ++ natWords s.dev.bell.gen 2 ++ [0, 0, 0]

def sleeperStatus (c : Cmd) (s : State) : State := finish c (ok [] (wordsBytes (surveyWords s))) (tickFresh 3 s)

def execSleeperStatus (p : Fin 2) (h : Fin 8) (s : State) : Ans := onMod s (fun s => perform p h 0x0060 s sleeperStatus)

/-! ### Recovery schedules (R475, R478; log entry 42) -/

/-- A recovery schedule starts with its first n windows eligible; it has the next number. -/
def startRecov (ws : List Win) (n : Nat) (s : State) : State :=
  let s := modBell (fun b => { b with recov := ws, recovNo := b.recovNo + 1 }) s
  (List.range ws.length).foldl (fun s i =>
    modWin (recovBase + i) (fun _ => { winReset with eligible := decide (i < n) }) s) s

/-- Schedule number no: the copy held for the partner, its stamp first. -/
def copySends (j : Job) (no q : Nat) : List Win :=
  recovWins false j q (refillWid no) ((j.sleepBase, 64) :: (partnerRuns j q).flatMap (fun r => splitRun j (j.sleepBase + r.1, r.2)))

/-- Schedule number no: this device's own shard as a full snapshot: BEGIN, the images, END. -/
def shardSends (j : Job) (c : Chip) (no q : Nat) : List Win :=
  recovWins false j q (rebuildWid no) (refillRuns j c ++ [(j.stamp, 64)])

/-- The number of the next recovery schedule. -/
def nextNo (s : State) : Nat := s.dev.bell.recovNo + 1

/-- RECOVERY with a code of R478. -/
def recovery (res : List Nat) : Reply := ⟨stRecovery, res, []⟩

/-- SHARD_REFILL: the copy is checked against the rank and the layout named, then carried to its shard. -/
def refillStart (c : Cmd) (s : State) : State :=
  match jobOf s with
  | none => background c (some (sayStatus stState)) s
  | some j =>
    let q := argOf c 0
    if partnerOf j.rank j.size ≠ some q then background c (some (recovery [3])) s
    else
      let code := copyCode j.tag q (argOf c 1) (heldCopy j s.chip)
      if code ≠ 0 then background c (some (recovery [code])) s
      else startRecov (copySends j (nextNo s) q) (copySends j (nextNo s) q).length (background c none s)

def execShardRefill (p : Fin 2) (h : Fin 8) (s : State) : Ans := onMod s (fun s => perform p h 0x0061 s refillStart)

/-- The stream whose value in a SHARD_RESUME disagrees (R477). -/
def streamSkew (stamp : List (Word × Bool)) (c : Cmd) : Option Nat :=
  (List.range (min (argOf c 1) (copyNat stamp 5 1))).find? (fun i =>
    sliceNat c.data (8 * i) 8 != streamPos stamp (argOf c 0) i)

/-- SHARD_RESUME: stage 3 on a refilled shard, stage 5 elsewhere; the steps lost are logged (R476). -/
def shardResume (c : Cmd) (s : State) : State :=
  match jobOf s with
  | none => background c (some (sayStatus stState)) s
  | some j =>
    let sr := argOf c 0
    if refilled j s then
      let stamp := rdWords s.chip false j.stamp 64
      match streamSkew stamp c with
      | some i => background c (some (recovery [6, i])) s
      | none =>
        let s := logEvent 0 0x030B [(sr + 2 ^ 32 - copyNat stamp 6 2) % 2 ^ 32] (restoreShard j sr s)
        background c (some (ok [0] [])) s
    else
      let lost := if (liveSteps s.chip).isEmpty then 0 else sr - stepMax s.chip
      background c (some (ok [0] [])) (logEvent 0 0x030B [lost] (modChip (setSteps sr) s))

def execShardResume (p : Fin 2) (h : Fin 8) (s : State) : Ans := onMod s (fun s => perform p h 0x0062 s shardResume)

/-- SHARD_REBUILD: a fresh stamp, then the shard into the partner's sleeper area. A device without sleeper
protection has no stamp and no copy (R465): STATE. -/
def shardRebuild (c : Cmd) (s : State) : State :=
  match jobOf s with
  | none => background c (some (sayStatus stState)) s
  | some j =>
    if partnerOf j.rank j.size ≠ some (argOf c 0) then background c (some (recovery [3])) s
    else if !j.sleeper then background c (some (sayStatus stState)) s
    else
      let s := stampAs j (stepMax s.chip) (tickFresh 1 s)
      startRecov (shardSends j s.chip (nextNo s) (argOf c 0)) 1 (background c none s)

def execShardRebuild (p : Fin 2) (h : Fin 8) (s : State) : Ans := onMod s (fun s => perform p h 0x0063 s shardRebuild)

/-! ### REPLAY (R431) -/

/-- REPLAY: the step must have been recorded and be the one that the held copy holds. -/
def replayStart (c : Cmd) (s : State) : State :=
  match jobOf s with
  | none => background c (some (sayStatus stState)) s
  | some j =>
    let st := argOf c 0
    if !s.dev.bell.recorded.contains st then background c (some (sayStatus 0xE)) s
    else
      match if j.sleeper then partnerOf j.rank j.size else none with
      | none => background c (some (sayStatus stState)) s
      | some q =>
        let l := heldCopy j s.chip
        let code := copyCode j.tag q (copyNat l 10 4) l
        if code ≠ 0 then background c (some (recovery [code])) s
        else if copyNat l 6 2 ≠ st then background c (some (sayStatus stState)) s
        else startRecov (copySends j (nextNo s) q) (copySends j (nextNo s) q).length
          (modBell (fun b => { b with replay := some st }) (background c none s))

def execReplay (p : Fin 2) (h : Fin 8) (s : State) : Ans := onMod s (fun s => perform p h 0x0070 s replayStart)

/-! ### RoCEv2 transfers (R455, R456, R480) -/

/-- The least number from n on that a list does not hold. -/
def freeFrom (n : Nat) (l : List Nat) : Nat := ((List.range (l.length + 1)).map (fun i => n + i)).find? (fun x => !l.contains x) |>.getD n

/-- ROCE_QP: at most 64 on a port and 256 in all; which number the device gives is not stated. -/
def roceQp (c : Cmd) (s : State) : State :=
  let qs := s.dev.qps
  match Config.qpPort c.data with
  | none => finish c (sayStatus stBadArg) s
  | some p =>
    let mtu := Config.qpMtu c.data
    if 16 ≤ p ∨ getF s.chip (ethB p) 0x010 9 9 = 0 ∨ mtu < 1024 ∨ 4096 < mtu then finish c (sayStatus stBadArg) s
    else if 256 ≤ qs.length ∨ 64 ≤ (qs.filter (fun q => q.port == p)).length then finish c (sayStatus stState) s
    else
      let n := freeFrom (Config.freeNat s.chip.fresh) (qs.map (fun q => q.num))
      finish c (ok [n] []) (modDev (fun d => { d with qps := d.qps ++ [⟨n, p, c.data, mtu, none⟩] }) (tickFresh 1 s))

def execRoceQp (p : Fin 2) (h : Fin 8) (s : State) : Ans := onMod s (fun s => perform p h 0x0040 s roceQp)

/-- Bytes of a store object of n plaintext bytes (R523). -/
def objectBytes (n : Nat) : Nat := 64 + n + 16 * chunkCount n

/-- STAGE_INPUT: the object is read from the host's side; only named input buffers take it. -/
def stageInput (c : Cmd) (s : State) : State :=
  match (jobOf s).bind (fun j => Config.inputBuf j.img (argOf c 0)), qpOf s (argOf c 3) with
  | some (_, n), some q =>
    if 2 * n < argOf c 1 + argOf c 2 ∨ q.xfer.isSome = true then finish c (sayStatus stBadArg) s
    else startXfer (argOf c 3) .read (argOf c 4) (objectBytes (argOf c 2)) [] (background c none s)
  | _, _ => finish c (sayStatus stBadArg) s

def execStageInput (p : Fin 2) (h : Fin 8) (s : State) : Ans := onMod s (fun s => perform p h 0x0041 s stageInput)

/-- CHECKPOINT_SAVE: ordered for its bell. -/
def checkpointSave (c : Cmd) (s : State) : State :=
  match jobOf s, qpOf s (argOf c 2) with
  | some j, some _ =>
    if j.nper ≤ argOf c 1 then finish c (sayStatus stBadArg) s
    else modBell (fun b => { b with ckpt := some ⟨argOf c 0, argOf c 1, argOf c 2, argOf c 3⟩ }) (background c none s)
  | _, _ => finish c (sayStatus stBadArg) s

def execCheckpointSave (p : Fin 2) (h : Fin 8) (s : State) : Ans := onMod s (fun s => perform p h 0x0064 s checkpointSave)

/-- CHECKPOINT_LOAD: the object of this device's copy is read. -/
def checkpointLoad (c : Cmd) (s : State) : State :=
  match qpOf s (argOf c 0) with
  | none => finish c (sayStatus stBadArg) s
  | some _ => startXfer (argOf c 0) .read (argOf c 1) (objectBytes (2 * copyLen s.chip)) [] (background c none s)

def execCheckpointLoad (p : Fin 2) (h : Fin 8) (s : State) : Ans := onMod s (fun s => perform p h 0x0065 s checkpointLoad)

/-- A tag of a store object that fails. -/
def objectAuth (i : Nat) (s : State) : State := longResult ⟨stAuth, [0x21, i], []⟩ (logEvent 0 0x000B [] s)

/-- A staged input has arrived: decrypted, then written into its buffer. -/
def inputArrived (c : Cmd) (j : Job) (data : List Byte) (s : State) : State :=
  match openObject j 2 data, Config.inputBuf j.img (argOf c 0) with
  | .error i, _ => objectAuth i s
  | .ok _, none => longResult (sayStatus stBadArg) s
  | .ok p, some (a, n) =>
    longResult (ok [] []) (modChip (areaWrite a (argOf c 1) ((p.take (argOf c 2)).take (2 * n - argOf c 1))) s)

/-- A checkpoint has arrived: checked as a copy, then restored at its own step. -/
def checkpointArrived (j : Job) (data : List Byte) (s : State) : State :=
  match openObject j 1 data with
  | .error i => objectAuth i s
  | .ok p =>
    let l := (bytesWords p).map (fun w => (w, false))
    let code := copyCode j.tag j.rank j.layout l
    if code ≠ 0 then longResult (recovery [code]) s
    else
      let sr := copyNat l 6 2
      let s := modChip (fun c => writeStreams j l sr (setSteps sr (computeCopies (writeSegments (l.map Prod.fst) c)))) s
      longResult (ok [0] []) (mendShard s)

/-- The transfer of the long command is complete. -/
def xferDone (n : Nat) (x : Xfer) (s : State) : State :=
  let s := modQp n (fun q => { q with xfer := none }) s
  match s.dev.warden.long, jobOf s with
  | some l, some j =>
    if l.cmd.op = 0x0041 then inputArrived l.cmd j x.data s
    else if l.cmd.op = 0x0065 then checkpointArrived j x.data s
    else if l.cmd.op = 0x0064 then longResult (ok [] []) s
    else s
  | _, _ => s

/-- The transfer fails with a syndrome (R500). -/
def xferFail (n syndrome : Nat) (s : State) : State :=
  longResult ⟨stNet, [n, syndrome], []⟩ (modQp n (fun q => { q with xfer := none }) s)

/-- A retry from the first packet not acknowledged; the eighth fails the transfer with a syndrome that is not given. -/
def xferRetry (n : Nat) (x : Xfer) (s : State) : State :=
  if 7 ≤ x.retries then xferFail n (Config.freeNat s.chip.fresh) (tickFresh 1 s)
  else modQp n (fun q => { q with xfer := some { x with retries := x.retries + 1, sent := x.acked } }) s

/-- The transfer advances to `acked` packets. -/
def xferAdvance (n : Nat) (x : Xfer) (s : State) : State :=
  if x.packets ≤ x.acked then xferDone n x s else modQp n (fun q => { q with xfer := some { x with sent := max x.sent x.acked } }) s

/-- ROCE_RESPONSE; a sequence-error NAK asks for a retry (log entry 44). -/
def roceResponse (p n : Nat) (a : RoceAnswer) (s : State) : State :=
  match (qpOf s n).bind (fun q => if q.port = p then q.xfer else none) with
  | none => s
  | some x =>
    if !rocePort s p then s
    else
      match a with
      | .ack psn =>
        if x.read ∨ psn + 1 ≤ x.acked then s
        else xferAdvance n { x with acked := min x.packets (psn + 1), retries := 0 } s
      | .nak syn => if syn = 0x60 then xferRetry n x s else xferFail n syn s
      | .readData psn d =>
        if !x.read ∨ psn ≠ x.acked then s
        else xferAdvance n { x with acked := x.acked + 1, retries := 0, data := x.data ++ d } s

def execRoceResponse (p : Fin 16) (qp : Nat) (a : RoceAnswer) (s : State) : Ans := onMod s (roceResponse p.val qp a)

/-- ROCE_RETRY: the go-back-N timer. -/
def roceRetry (p n : Nat) (s : State) : State :=
  match (qpOf s n).bind (fun q => if q.port = p then q.xfer else none) with
  | none => s
  | some x => if rocePort s p then xferRetry n x s else s

def execRoceRetry (p : Fin 16) (qp : Nat) (s : State) : Ans := onMod s (roceRetry p.val qp)

/-! ### STEP_RESYNC (R384) and the end of a long command (R478, R498, R502) -/

/-- STEP_RESYNC: only while every Pump that holds the group is STOPPED. -/
def stepResync (c : Cmd) (s : State) : State :=
  let g := argOf c 0
  let ks := (List.range 8).filter (fun k => (validGroups s.chip k).contains g)
  if ks.any (fun k => bState s.chip (pmpB k) != 0) then finish c (sayStatus stState) s
  else
    finish c (ok [] []) (modChip (fun ch =>
      wrMarked ch false (ks.flatMap (fun k => w32 (pdescOf ch k g).base (argOf c 1)))) s)

def execStepResync (p : Fin 2) (h : Fin 8) (s : State) : Ans := onMod s (fun s => perform p h 0x0050 s stepResync)

/-- The next SHARD_REFILL that was queued, once the long command before it has ended; nobody waits for its answer. -/
def nextQueued (s : State) : State :=
  match s.dev.warden.queued with
  | [] => s
  | c :: r =>
    let s := modWarden (fun w => { w with queued := r }) s
    if dstate s = 5 then refillStart { c with ph := 16 } s else s

/-- LONG_COMMAND_DONE: its pigeonhole reaches DONE; a commit that ended leaves DSTATE 0x7 (R501, R502).
Nothing is answered after a RESET 0 (R578). -/
def longCommandDone (s : State) : State :=
  match if fwUp s then s.dev.warden.long else none with
  | none => s
  | some l =>
    match l.reply with
    | none => s
    | some r =>
      let s := modWarden (fun w => { w with long := none }) s
      let s := if l.cmd.op = 0x0021 ∧ r.status ≠ 8 then setDstate 1 s else s
      nextQueued (if l.cmd.ph < 16 then answer l.cmd.ph true r s else s)

def execLongCommandDone (s : State) : Ans := onMod s longCommandDone

end Sys2Proof.Machine
end

