-- ==== Sys2Proof/Machine/Scalar.lean ====
section
/-! DEFINITION. The scalar integer instructions (spec/03_scalar_core.md R103, R113, R114, R133 to R135), NOP
and ISYNC. -/

namespace Sys2Proof.Machine

/-- An instruction with two g sources and one g destination. -/
def alu2 (w : W32) (u : StrandId) (rd ra rb : Fin 32) (d : Nat) (f : W64 → W64 → W64) (c : Chip) : Chip :=
  issue c u { word := w, srcs := [ra.val, rb.val], dsts := [(rd.val, d)],
              act := fun c => putReg c u rd d (f (regVal c u ra) (regVal c u rb)) }

/-- An instruction with one g source and one g destination. -/
def alu1 (w : W32) (u : StrandId) (rd ra : Fin 32) (d : Nat) (f : W64 → W64) (c : Chip) : Chip :=
  issue c u { word := w, srcs := [ra.val], dsts := [(rd.val, d)],
              act := fun c => putReg c u rd d (f (regVal c u ra)) }

/-- 1 or 0. -/
def ofBool64 (b : Bool) : W64 := if b then 1 else 0

/-- The immediate of an I-format instruction, sign-extended. -/
def simm (i : BitVec 16) : W64 := i.signExtend 64
/-- The immediate, zero-extended. -/
def zimm (i : BitVec 16) : W64 := i.setWidth 64

def execNop (u : StrandId) (s : State) : Ans := onChip s (fun c => issue c u { word := insnWord (.nop u) })

/-- ISYNC (R118): the strand's fetch sees its earlier stores. The words a strand executes are its commands' operands, so
nothing else changes (log entry 16). -/
def execIsync (u : StrandId) (s : State) : Ans := onChip s (fun c => issue c u { word := insnWord (.isync u) })

def execAdd (u : StrandId) (rd ra rb : Fin 32) (s : State) : Ans :=
  onChip s (alu2 (insnWord (.add u rd ra rb)) u rd ra rb 1 (fun a b => a + b))
def execSub (u : StrandId) (rd ra rb : Fin 32) (s : State) : Ans :=
  onChip s (alu2 (insnWord (.sub u rd ra rb)) u rd ra rb 1 (fun a b => a - b))
def execAnd (u : StrandId) (rd ra rb : Fin 32) (s : State) : Ans :=
  onChip s (alu2 (insnWord (.and u rd ra rb)) u rd ra rb 1 (fun a b => a &&& b))
def execOr (u : StrandId) (rd ra rb : Fin 32) (s : State) : Ans :=
  onChip s (alu2 (insnWord (.or u rd ra rb)) u rd ra rb 1 (fun a b => a ||| b))
def execXor (u : StrandId) (rd ra rb : Fin 32) (s : State) : Ans :=
  onChip s (alu2 (insnWord (.xor u rd ra rb)) u rd ra rb 1 (fun a b => a ^^^ b))
/-- Shifts take rb[5:0] (R113). -/
def execShl (u : StrandId) (rd ra rb : Fin 32) (s : State) : Ans :=
  onChip s (alu2 (insnWord (.shl u rd ra rb)) u rd ra rb 1 (fun a b => a <<< (b.toNat % 64)))
def execShr (u : StrandId) (rd ra rb : Fin 32) (s : State) : Ans :=
  onChip s (alu2 (insnWord (.shr u rd ra rb)) u rd ra rb 1 (fun a b => a >>> (b.toNat % 64)))
def execSar (u : StrandId) (rd ra rb : Fin 32) (s : State) : Ans :=
  onChip s (alu2 (insnWord (.sar u rd ra rb)) u rd ra rb 1 (fun a b => a.sshiftRight (b.toNat % 64)))
def execCmpeq (u : StrandId) (rd ra rb : Fin 32) (s : State) : Ans :=
  onChip s (alu2 (insnWord (.cmpeq u rd ra rb)) u rd ra rb 1 (fun a b => ofBool64 (a == b)))
def execCmpne (u : StrandId) (rd ra rb : Fin 32) (s : State) : Ans :=
  onChip s (alu2 (insnWord (.cmpne u rd ra rb)) u rd ra rb 1 (fun a b => ofBool64 (a != b)))
def execCmplt (u : StrandId) (rd ra rb : Fin 32) (s : State) : Ans :=
  onChip s (alu2 (insnWord (.cmplt u rd ra rb)) u rd ra rb 1 (fun a b => ofBool64 (a.slt b)))
def execCmpltu (u : StrandId) (rd ra rb : Fin 32) (s : State) : Ans :=
  onChip s (alu2 (insnWord (.cmpltu u rd ra rb)) u rd ra rb 1 (fun a b => ofBool64 (a.ult b)))
def execMin (u : StrandId) (rd ra rb : Fin 32) (s : State) : Ans :=
  onChip s (alu2 (insnWord (.min u rd ra rb)) u rd ra rb 1 (fun a b => if a.slt b then a else b))
def execMax (u : StrandId) (rd ra rb : Fin 32) (s : State) : Ans :=
  onChip s (alu2 (insnWord (.max u rd ra rb)) u rd ra rb 1 (fun a b => if a.slt b then b else a))
def execMinu (u : StrandId) (rd ra rb : Fin 32) (s : State) : Ans :=
  onChip s (alu2 (insnWord (.minu u rd ra rb)) u rd ra rb 1 (fun a b => if a.ult b then a else b))
def execMaxu (u : StrandId) (rd ra rb : Fin 32) (s : State) : Ans :=
  onChip s (alu2 (insnWord (.maxu u rd ra rb)) u rd ra rb 1 (fun a b => if a.ult b then b else a))

def execAddi (u : StrandId) (rd ra : Fin 32) (imm : BitVec 16) (s : State) : Ans :=
  onChip s (alu1 (insnWord (.addi u rd ra imm)) u rd ra 1 (fun a => a + simm imm))
def execAndi (u : StrandId) (rd ra : Fin 32) (imm : BitVec 16) (s : State) : Ans :=
  onChip s (alu1 (insnWord (.andi u rd ra imm)) u rd ra 1 (fun a => a &&& zimm imm))
def execOri (u : StrandId) (rd ra : Fin 32) (imm : BitVec 16) (s : State) : Ans :=
  onChip s (alu1 (insnWord (.ori u rd ra imm)) u rd ra 1 (fun a => a ||| zimm imm))
def execXori (u : StrandId) (rd ra : Fin 32) (imm : BitVec 16) (s : State) : Ans :=
  onChip s (alu1 (insnWord (.xori u rd ra imm)) u rd ra 1 (fun a => a ^^^ zimm imm))
def execShli (u : StrandId) (rd ra : Fin 32) (sh : Fin 64) (s : State) : Ans :=
  onChip s (alu1 (insnWord (.shli u rd ra sh)) u rd ra 1 (fun a => a <<< sh.val))
def execShri (u : StrandId) (rd ra : Fin 32) (sh : Fin 64) (s : State) : Ans :=
  onChip s (alu1 (insnWord (.shri u rd ra sh)) u rd ra 1 (fun a => a >>> sh.val))
def execSari (u : StrandId) (rd ra : Fin 32) (sh : Fin 64) (s : State) : Ans :=
  onChip s (alu1 (insnWord (.sari u rd ra sh)) u rd ra 1 (fun a => a.sshiftRight sh.val))
def execMovi (u : StrandId) (rd : Fin 32) (imm : BitVec 16) (s : State) : Ans :=
  onChip s (fun c => issue c u { word := insnWord (.movi u rd imm), dsts := [(rd.val, 1)],
                                 act := fun c => putReg c u rd 1 (simm imm) })
/-- MOVK reads gd (R113). -/
def execMovk (u : StrandId) (rd : Fin 32) (hw : Fin 4) (imm : BitVec 16) (s : State) : Ans :=
  onChip s (alu1 (insnWord (.movk u rd hw imm)) u rd rd 1
    (fun a => BitVec.ofNat 64 (natSetBits a.toNat (16 * hw.val + 15) (16 * hw.val) imm.toNat)))
def execCmpeqi (u : StrandId) (rd ra : Fin 32) (imm : BitVec 16) (s : State) : Ans :=
  onChip s (alu1 (insnWord (.cmpeqi u rd ra imm)) u rd ra 1 (fun a => ofBool64 (a == simm imm)))
def execCmplti (u : StrandId) (rd ra : Fin 32) (imm : BitVec 16) (s : State) : Ans :=
  onChip s (alu1 (insnWord (.cmplti u rd ra imm)) u rd ra 1 (fun a => ofBool64 (a.slt (simm imm))))

/-- The mask of a bit field (R133). -/
def bfMask (pos len : Nat) : W64 := BitVec.ofNat 64 ((2 ^ len - 1) * 2 ^ pos)
/-- Sign-extend a value from bit len - 1. -/
def sextFrom (x : W64) (len : Nat) : W64 :=
  if natBit x.toNat (len - 1) then x ||| ~~~ (BitVec.ofNat 64 (2 ^ len - 1)) else x

/-- Bit-field instructions: illegal when the field passes bit 63 (R133). -/
def bitField (w : W32) (u : StrandId) (rd : Fin 32) (srcs : List Nat) (pos len : Nat) (f : Chip → W64) (c : Chip) : Chip :=
  issue c u { word := w, illegal := decide (64 < pos + len), srcs := srcs, dsts := [(rd.val, 2)],
              act := fun c => putReg c u rd 2 (f c) }

def execBfx (u : StrandId) (rd ra : Fin 32) (pos len1 : Fin 64) (s : State) : Ans :=
  onChip s (bitField (insnWord (.bfx u rd ra pos len1)) u rd [ra.val] pos (len1.val + 1)
    (fun c => (regVal c u ra &&& bfMask pos (len1.val + 1)) >>> pos.val))
def execBfxs (u : StrandId) (rd ra : Fin 32) (pos len1 : Fin 64) (s : State) : Ans :=
  onChip s (bitField (insnWord (.bfxs u rd ra pos len1)) u rd [ra.val] pos (len1.val + 1)
    (fun c => sextFrom ((regVal c u ra &&& bfMask pos (len1.val + 1)) >>> pos.val) (len1.val + 1)))
def execBfi (u : StrandId) (rd ra : Fin 32) (pos len1 : Fin 64) (s : State) : Ans :=
  onChip s (bitField (insnWord (.bfi u rd ra pos len1)) u rd [ra.val, rd.val] pos (len1.val + 1)
    (fun c => (regVal c u rd &&& ~~~ (bfMask pos (len1.val + 1))) |||
      ((regVal c u ra <<< pos.val) &&& bfMask pos (len1.val + 1))))

/-- Leading zero bits (R134). -/
def clz64 (a : W64) : W64 := if a = 0 then 64 else BitVec.ofNat 64 (63 - Nat.log2 a.toNat)
def execClz (u : StrandId) (rd ra : Fin 32) (s : State) : Ans :=
  onChip s (alu1 (insnWord (.clz u rd ra)) u rd ra 2 clz64)

/-- Byte i of BPERM's result (R135). -/
def bpermByte (a b : W64) (i : Nat) : Nat :=
  let sel := natBits b.toNat (4 * i + 3) (4 * i)
  if 8 ≤ sel then 0 else natBits a.toNat (8 * sel + 7) (8 * sel)
def bperm (a b : W64) : W64 :=
  BitVec.ofNat 64 ((List.range 8).foldl (fun x i => x + bpermByte a b i * 2 ^ (8 * i)) 0)
def execBperm (u : StrandId) (rd ra rb : Fin 32) (s : State) : Ans :=
  onChip s (alu2 (insnWord (.bperm u rd ra rb)) u rd ra rb 2 bperm)

def execMul (u : StrandId) (rd ra rb : Fin 32) (s : State) : Ans :=
  onChip s (alu2 (insnWord (.mul u rd ra rb)) u rd ra rb 3 (fun a b => a * b))
def execMulh (u : StrandId) (rd ra rb : Fin 32) (s : State) : Ans :=
  onChip s (alu2 (insnWord (.mulh u rd ra rb)) u rd ra rb 3 (fun a b => BitVec.ofInt 64 (a.toInt * b.toInt / 2 ^ 64)))
def execMulhu (u : StrandId) (rd ra rb : Fin 32) (s : State) : Ans :=
  onChip s (alu2 (insnWord (.mulhu u rd ra rb)) u rd ra rb 3 (fun a b => BitVec.ofNat 64 (a.toNat * b.toNat / 2 ^ 64)))

/-- A divide: distance 12; `late` when the unit still computes at the visibility slot (R96, log entry 7). -/
def divide (w : W32) (u : StrandId) (rd ra rb : Fin 32) (late : Bool) (f : W64 → W64 → W64) (c : Chip) : Chip :=
  issue c u { word := w, srcs := [ra.val, rb.val], dsts := [(rd.val, 12)],
              act := fun c => putLate c u rd 12 (f (regVal c u ra) (regVal c u rb)) false late 0 false }

/-- The results of R114. -/
def divS (a b : W64) : W64 := if b = 0 then -1 else a.sdiv b
def divU (a b : W64) : W64 := if b = 0 then -1 else a / b
def remS (a b : W64) : W64 := if b = 0 then a else a.srem b
def remU (a b : W64) : W64 := if b = 0 then a else a % b

def execDiv (u : StrandId) (rd ra rb : Fin 32) (late : Bool) (s : State) : Ans :=
  onChip s (divide (insnWord (.div u rd ra rb late)) u rd ra rb late divS)
def execDivu (u : StrandId) (rd ra rb : Fin 32) (late : Bool) (s : State) : Ans :=
  onChip s (divide (insnWord (.divu u rd ra rb late)) u rd ra rb late divU)
def execRem (u : StrandId) (rd ra rb : Fin 32) (late : Bool) (s : State) : Ans :=
  onChip s (divide (insnWord (.rem u rd ra rb late)) u rd ra rb late remS)
def execRemu (u : StrandId) (rd ra rb : Fin 32) (late : Bool) (s : State) : Ans :=
  onChip s (divide (insnWord (.remu u rd ra rb late)) u rd ra rb late remU)

end Sys2Proof.Machine
end

