-- ==== Sys2Proof/Machine/ScalarFloat.lean ====
section
/-! DEFINITION. The scalar float instructions (spec/03_scalar_core.md R93, R103, R115, R116). Sources are bits
[31:0] of f registers; a result fills bits [31:0] and clears the rest of the register (R174). -/

namespace Sys2Proof.Machine

/-- The FP32 pattern in an f register. -/
def fpat (c : Chip) (u : StrandId) (n : Nat) : Nat := (regVal c u (fR n)).toNat % 2 ^ 32

/-- A float instruction: result value and flags, both visible at distance d (R93). -/
def floatOp (w : W32) (u : StrandId) (dst d : Nat) (fsrcs fdst : List Nat) (late : Bool) (f : Chip → Nat × Nat) (c : Chip) :
    Chip :=
  issue c u { word := w, srcs := fsrcs.map fR, dsts := [(dst, d)], fregs := fsrcs ++ fdst,
              act := fun c =>
                let r := f c
                putFlags (putLate c u dst d (BitVec.ofNat 64 r.1) false late 0 false) u (cR 2) d r.2 }

def float2 (w : W32) (u : StrandId) (fd fa fb : Fin 32) (f : Nat → Nat → Nat → Nat × Nat) : Chip → Chip :=
  floatOp w u (fR fd) 4 [fa.val, fb.val] [fd.val] false (fun c => f (frm (strandOf c u)) (fpat c u fa) (fpat c u fb))

def execFadd (u : StrandId) (fd fa fb : Fin 32) (s : State) : Ans :=
  onChip s (float2 (insnWord (.fadd u fd fa fb)) u fd fa fb (fadd fmtFP32))
def execFsub (u : StrandId) (fd fa fb : Fin 32) (s : State) : Ans :=
  onChip s (float2 (insnWord (.fsub u fd fa fb)) u fd fa fb (fsub fmtFP32))
def execFmul (u : StrandId) (fd fa fb : Fin 32) (s : State) : Ans :=
  onChip s (float2 (insnWord (.fmul u fd fa fb)) u fd fa fb (fmul fmtFP32))
def execFmin (u : StrandId) (fd fa fb : Fin 32) (s : State) : Ans :=
  onChip s (float2 (insnWord (.fmin u fd fa fb)) u fd fa fb (fun _ a b => fmin fmtFP32 a b))
def execFmax (u : StrandId) (fd fa fb : Fin 32) (s : State) : Ans :=
  onChip s (float2 (insnWord (.fmax u fd fa fb)) u fd fa fb (fun _ a b => fmax fmtFP32 a b))

def float1 (w : W32) (u : StrandId) (dst : Nat) (fa : Fin 32) (fdst : List Nat) (f : Nat → Nat → Nat × Nat) : Chip → Chip :=
  floatOp w u dst 4 [fa.val] fdst false (fun c => f (frm (strandOf c u)) (fpat c u fa))

def execFabs (u : StrandId) (fd fa : Fin 32) (s : State) : Ans :=
  onChip s (float1 (insnWord (.fabs u fd fa)) u (fR fd) fa [fd.val] (fun _ a => fabs fmtFP32 a))
def execFneg (u : StrandId) (fd fa : Fin 32) (s : State) : Ans :=
  onChip s (float1 (insnWord (.fneg u fd fa)) u (fR fd) fa [fd.val] (fun _ a => fneg fmtFP32 a))

/-- A float compare writes 1 or 0 to gd. -/
def floatCmp (w : W32) (u : StrandId) (gd fa fb : Fin 32) (f : Nat → Nat → Bool × Nat) : Chip → Chip :=
  floatOp w u gd 4 [fa.val, fb.val] [] false
    (fun c => let r := f (fpat c u fa) (fpat c u fb); (if r.1 then 1 else 0, r.2))

def execFcmpeq (u : StrandId) (gd fa fb : Fin 32) (s : State) : Ans :=
  onChip s (floatCmp (insnWord (.fcmpeq u gd fa fb)) u gd fa fb (fcmpEq fmtFP32))
def execFcmplt (u : StrandId) (gd fa fb : Fin 32) (s : State) : Ans :=
  onChip s (floatCmp (insnWord (.fcmplt u gd fa fb)) u gd fa fb (fcmpLt fmtFP32))
def execFcmple (u : StrandId) (gd fa fb : Fin 32) (s : State) : Ans :=
  onChip s (floatCmp (insnWord (.fcmple u gd fa fb)) u gd fa fb (fcmpLe fmtFP32))

/-- FMVGF and FMVFG copy 64 raw bits at distance 2. -/
def execFmvgf (u : StrandId) (fd ra : Fin 32) (s : State) : Ans :=
  onChip s (fun c => issue c u { word := insnWord (.fmvgf u fd ra), srcs := [ra.val], dsts := [(fR fd, 2)], fregs := [fd.val],
                                 act := fun c => putReg c u (fR fd) 2 (regVal c u ra) })
def execFmvfg (u : StrandId) (gd fa : Fin 32) (s : State) : Ans :=
  onChip s (fun c => issue c u { word := insnWord (.fmvfg u gd fa), srcs := [fR fa], dsts := [(gd.val, 2)], fregs := [fa.val],
                                 act := fun c => putReg c u gd 2 (regVal c u (fR fa)) })

def execFma (u : StrandId) (fd fa fb fc : Fin 32) (s : State) : Ans :=
  onChip s (floatOp (insnWord (.fma u fd fa fb fc)) u (fR fd) 4 [fa.val, fb.val, fc.val] [fd.val] false
    (fun c => ffma fmtFP32 (frm (strandOf c u)) (fpat c u fa) (fpat c u fb) (fpat c u fc)))
def execFdiv (u : StrandId) (fd fa fb : Fin 32) (late : Bool) (s : State) : Ans :=
  onChip s (floatOp (insnWord (.fdiv u fd fa fb late)) u (fR fd) 12 [fa.val, fb.val] [fd.val] late
    (fun c => fdivide fmtFP32 (frm (strandOf c u)) (fpat c u fa) (fpat c u fb)))
def execFsqrt (u : StrandId) (fd fa : Fin 32) (late : Bool) (s : State) : Ans :=
  onChip s (floatOp (insnWord (.fsqrt u fd fa late)) u (fR fd) 12 [fa.val] [fd.val] late
    (fun c => fsqrtOp fmtFP32 (frm (strandOf c u)) (fpat c u fa)))

/-- A 16-bit two's-complement result as 64 bits. -/
def sext16 (w : Nat) : Nat := (BitVec.ofInt 64 (natSigned w 16)).toNat

def execFcvtFp32Bf16 (u : StrandId) (fd fa : Fin 32) (s : State) : Ans :=
  onChip s (float1 (insnWord (.fcvtFp32Bf16 u fd fa)) u (fR fd) fa [fd.val] (fun rm a => fenc fmtBF16 rm 0 (fdec fmtFP32 a)))
def execFcvtFp32Fp16 (u : StrandId) (fd fa : Fin 32) (s : State) : Ans :=
  onChip s (float1 (insnWord (.fcvtFp32Fp16 u fd fa)) u (fR fd) fa [fd.val] (fun rm a => fenc fmtFP16 rm 0 (fdec fmtFP32 a)))
def execFcvtBf16Fp32 (u : StrandId) (fd fa : Fin 32) (s : State) : Ans :=
  onChip s (float1 (insnWord (.fcvtBf16Fp32 u fd fa)) u (fR fd) fa [fd.val] (fun rm a => fenc fmtFP32 rm 0 (fdec fmtBF16 (a % 65536))))
def execFcvtFp16Fp32 (u : StrandId) (fd fa : Fin 32) (s : State) : Ans :=
  onChip s (float1 (insnWord (.fcvtFp16Fp32 u fd fa)) u (fR fd) fa [fd.val] (fun rm a => fenc fmtFP32 rm 0 (fdec fmtFP16 (a % 65536))))
def execFcvtFp32I16 (u : StrandId) (gd fa : Fin 32) (s : State) : Ans :=
  onChip s (float1 (insnWord (.fcvtFp32I16 u gd fa)) u gd fa []
    (fun rm a => let r := toI16 rm 0 (fdec fmtFP32 a); (sext16 r.1, r.2)))
/-- Code 5 reads a g register (R116). -/
def execFcvtI16Fp32 (u : StrandId) (fd ga : Fin 32) (s : State) : Ans :=
  onChip s (fun c =>
    issue c u { word := insnWord (.fcvtI16Fp32 u fd ga), srcs := [ga.val], dsts := [(fR fd, 4)], fregs := [fd.val],
                act := fun c =>
                  let r := fenc fmtFP32 (frm (strandOf c u)) 0 (ofI16 ((regVal c u ga).toNat % 65536))
                  putFlags (putReg c u (fR fd) 4 (BitVec.ofNat 64 r.1)) u (cR 2) 4 r.2 })

end Sys2Proof.Machine
end

