-- ==== Sys2Proof/WellFormed.lean ====
section
/-! DEFINITION. Well-formed commands: what the types of Instr leave unsaid. A strand's instruction is well
formed when its fields avoid the values that the spec reserves in the encoding; a frame, a sample or a list of
data when its lengths and numbers fit the fields they stand for. A command that is not well formed still has a
meaning: an instruction raises the illegal-instruction fault, a frame is dropped. -/

namespace Sys2Proof

/-- Post-increment and pre-decrement loads may not load their base (R122). -/
def wfLoad (rt ra : Fin 32) : AMode → Bool
  | .postInc _ | .preDec _ => rt != ra
  | _ => true

/-- A masked vector destination is not v0 (R183). -/
def wfMask (vd : Fin 32) (m : Bool) : Bool := !(m && vd.val == 0)

/-- A rounding mode of R73 that is not reserved (R74). -/
def wfRm (rm : Fin 8) : Bool := decide (rm.val ≤ 5)

/-- A frame's numbers fit the header of R440, and its ICV, SCI and packet number the frame of R435. -/
def wfFrame (f : Frame) : Bool :=
  decide (f.icv.length = 16) && decide (f.sci < 2 ^ 48) && decide (f.pn < 2 ^ 64) && decide (f.udpErr < 2 ^ 16) &&
  decide (f.ver < 16) && decide (f.src < 1024) && decide (f.dst < 1024) && decide (f.period < 4096) &&
    decide (f.wid < 2 ^ 32) && decide (f.frame < 2 ^ 32) && decide (f.op < 2 ^ 16) && decide (f.aux < 2 ^ 32) &&
    decide (f.payload.length ≤ 4096)

/-- The PLDM commands of R591, by type and command number (DSP0240, DSP0248; log entry 46). -/
def pldmCommands (ty cmd : Nat) : Bool :=
  (ty == 0 && [2, 3, 4, 5].contains cmd) || (ty == 2 && [0x50, 0x51, 0x11, 0x21].contains cmd)

/-- Whether a command is well formed. -/
def WellFormed : Instr → Bool
  | .bfx _ _ _ pos len1 | .bfxs _ _ _ pos len1 | .bfi _ _ _ pos len1 => decide (pos.val + len1.val + 1 ≤ 64)
  | .ldw _ rt ra m _ | .ldws _ rt ra m _ | .ldd _ rt ra m _ | .ldds _ rt ra m _ | .ldq _ rt ra m _ => wfLoad rt ra m
  | .bc _ _ cond _ => decide (cond.val ≤ 5)
  | .loop _ n _ | .loopi _ n _ => n != 0
  | .mfc _ _ c => decide (c.val < 8) || (decide (16 ≤ c.val) && decide (c.val ≤ 30))
  | .mtc _ _ c =>
    (decide (c.val < 8) || (decide (16 ≤ c.val) && decide (c.val ≤ 30))) &&
      !(c.val == 3 || c.val == 4 || c.val == 6 || c.val == 7 || c.val == 16 || c.val == 30)
  | .vlset _ _ _ sew _ | .vlseti _ _ sew _ _ => decide (sew.val ≠ 3)
  | .vmtc _ _ vc => decide (2 ≤ vc.val) && decide (vc.val ≤ 6)
  | .vld _ vd _ m _ | .vlds _ vd _ _ m _ => wfMask vd m
  | .vldx _ vd _ _ m iw _ _ => wfMask vd m && decide (iw.val ≠ 3)
  | .vstx _ _ _ _ _ iw _ => decide (iw.val ≠ 3)
  | .vlseg _ vd _ m nf1 _ => wfMask vd m && decide (nf1.val ≠ 0)
  | .vsseg _ _ _ _ nf1 => decide (nf1.val ≠ 0)
  | .vadd _ vd _ _ m | .vsub _ vd _ _ m | .vand _ vd _ _ m | .vor _ vd _ _ m | .vxor _ vd _ _ m | .vshl _ vd _ _ m
  | .vshr _ vd _ _ m | .vsar _ vd _ _ m | .vmin _ vd _ _ m | .vmax _ vd _ _ m | .vminu _ vd _ _ m | .vmaxu _ vd _ _ m
  | .vmul _ vd _ _ m | .vcmpeq _ vd _ _ m | .vcmplt _ vd _ _ m | .vcmpltu _ vd _ _ m | .vsadd _ vd _ _ m
  | .vssub _ vd _ _ m | .vsmulr _ vd _ _ m | .vsshr _ vd _ _ m | .vsshl _ vd _ _ m | .vfadd _ vd _ _ m
  | .vfsub _ vd _ _ m | .vfmul _ vd _ _ m | .vfmin _ vd _ _ m | .vfmax _ vd _ _ m | .vfcmpeq _ vd _ _ m
  | .vfcmplt _ vd _ _ m | .vfcmple _ vd _ _ m | .vfma _ vd _ _ _ m => wfMask vd m
  | .vmv _ vd _ m | .vsplat _ vd _ m | .vfabs _ vd _ m | .vfneg _ vd _ m => wfMask vd m
  | .vcvtFp32Bf16 _ vd _ m rm | .vcvtFp32Fp16 _ vd _ m rm | .vcvtBf16Fp32 _ vd _ m rm | .vcvtFp16Fp32 _ vd _ m rm
  | .vcvtFp32I16 _ vd _ m rm | .vcvtI16Fp32 _ vd _ m rm => wfMask vd m && wfRm rm
  | .vcvtFp32Q8 _ vd _ _ m rm | .vcvtFp32Q6 _ vd _ _ m rm | .vcvtFp32Q4 _ vd _ _ m rm | .vcvtFp32I8 _ vd _ _ m rm
  | .vcvtQ8Fp32 _ vd _ _ m rm | .vcvtQ6Fp32 _ vd _ _ m rm | .vcvtQ4Fp32 _ vd _ _ m rm | .vcvtI8Fp32 _ vd _ _ m rm =>
    wfMask vd m && wfRm rm
  | .tmtc _ _ tc => decide (tc.val ≠ 0) && decide (tc.val ≠ 5) && decide (tc.val ≠ 7)
  | .taccRead _ _ _ _ fmt rm _ => decide (fmt.val ≠ 7) && wfRm rm
  | .bankAccess _ _ errs => decide ((errs.map Prod.fst).Nodup)
  | .hbmRequest _ _ _ wr _ ws => decide (ws.length = if wr then 32 else 0)
  | .data _ f _ | .done _ f | .nak _ f | .ready _ f | .ring _ f | .halt _ f | .agree _ f | .probe _ f
  | .probeReply _ f _ => wfFrame f
  | .spillwayTick m => decide (m.cd.length = 4) && decide (m.io.length = 2) && decide (m.base.length = 8)
  | .pldmUnsupported ty cmd => !pldmCommands ty.val cmd.val
  | _ => true

end Sys2Proof
end

