-- ==== Sys2Proof/Machine/Sideband.lean ====
section
/-! DEFINITION. The management sideband (spec/18_module_electrical_and_mechanical.md R589 to R593): I3C
addresses, MCTP control, PLDM. Command numbers and the forms of the answers are those of DSP0236, DSP0240 and
DSP0248 (PRESUMED; log entry 46). -/

namespace Sys2Proof.Machine

def modSide (f : Side → Side) (s : State) : State := modDev (fun d => { d with side := f d.side }) s

/-- The first transaction on the bus after a cold reset chooses the mode (R589). -/
def chooseMode (m : BusMode) (s : State) : State :=
  if powered s then modSide (fun x => { x with mode := some (x.mode.getD m) }) s else s

/-- A request is acknowledged only while the firmware runs (R593). One that comes before any I3C command is an
SMBus transaction (DEDUCED: an I3C controller first gives the target an address; log entry 46). -/
def onSide (s : State) (f : State → State) : Ans :=
  onMod s (fun s =>
    let s := chooseMode .smbus s
    if fwUp s then f s else s)

/-- Answer with these bytes. -/
def sideAnswer (l : List Nat) (s : State) : State := modSide (fun x => { x with resp := l, reading := none, pdr := none }) s

/-! ### Addresses (R589) -/

/-- The controller gives the target a dynamic address, when it has none. An SMBus target knows no such command. -/
def setDyn (a : Nat) (s : State) : State :=
  let s := chooseMode .i3c s
  if fwUp s && s.dev.side.mode == some .i3c then modSide (fun x => { x with dyn := some (x.dyn.getD a) }) s else s

def execSetaasa (s : State) : Ans := onMod s (setDyn (0x4C + Config.addrSel.toNat))
def execEntdaa (addr : Fin 128) (s : State) : Ans := onMod s (setDyn addr.val)

/-! ### MCTP control (R590) -/

/-- Set Endpoint ID: 0 and 0xFF are no endpoint ids. -/
def execSetEndpointId (eid : Fin 256) (s : State) : Ans :=
  onSide s (fun s =>
    if eid.val = 0 ∨ eid.val = 255 then sideAnswer (Config.sideband [0, 1, eid.val]) s
    else sideAnswer [0, 0, eid.val, 0] (modSide (fun x => { x with eid := eid.val }) s))

def execGetEndpointId (s : State) : Ans :=
  onSide s (fun s => sideAnswer (0 :: s.dev.side.eid :: Config.sideband [0, 2]) s)

def execGetMctpVersionSupport (s : State) : Ans := onSide s (sideAnswer (0 :: Config.sideband [0, 4]))

/-- Get Message Type Support: PLDM beside MCTP control. -/
def execGetMessageTypeSupport (s : State) : Ans := onSide s (sideAnswer [0, 1, 1])

/-! ### PLDM base and repository (R591) -/

def execGetTid (s : State) : Ans := onSide s (sideAnswer (0 :: Config.sideband [1, 0, 2]))
/-- GetPLDMVersion completes for the types that the module has; the standard gives the answer for another. -/
def execGetPldmVersion (ty : Fin 256) (s : State) : Ans :=
  onSide s (sideAnswer (if ty.val = 0 ∨ ty.val = 2 then 0 :: Config.sideband [1, 0, 3, ty.val] else Config.sideband [1, 0, 3, ty.val]))

/-- GetPLDMTypes: types 0 and 2, one bit each. -/
def execGetPldmTypes (s : State) : Ans := onSide s (sideAnswer [0, 5, 0, 0, 0, 0, 0, 0, 0])

/-- One bit for each command number of a list, in 32 bytes. -/
def commandBits (l : List Nat) : List Nat :=
  (List.range 32).map (fun b => (l.filter (fun n => n / 8 == b)).foldl (fun a n => a + 2 ^ (n % 8)) 0)

/-- GetPLDMCommands: the commands of R591. -/
def execGetPldmCommands (ty : Fin 256) (s : State) : Ans :=
  onSide s (sideAnswer (if ty.val = 0 then 0 :: commandBits [2, 3, 4, 5]
    else if ty.val = 2 then 0 :: commandBits [0x50, 0x51, 0x11, 0x21] else Config.sideband [1, 0, 5, ty.val]))

/-- PLDM_UNSUPPORTED: ERROR_UNSUPPORTED_PLDM_CMD. A pair that R591 lists is another row's command: nothing
happens here. -/
def execPldmUnsupported (ty cmd : Fin 256) (s : State) : Ans :=
  onSide s (fun s => if pldmCommands ty.val cmd.val then s else sideAnswer [5] s)

/-! ### The PDR repository (R592) -/

/-- The sensors of R592. -/
def sensors : List SensorPdr :=
  [⟨1, .volt, 100⟩, ⟨2, .ampere, 100⟩, ⟨3, .watt, 1⟩, ⟨4, .celsius, 10⟩, ⟨5, .celsius, 10⟩] ++
    ([16, 17, 18, 19, 20, 21] ++ (List.range 16).map (fun i => 24 + i)).map (fun i => ⟨i, .celsius, 1⟩) ++
    [⟨64, .states 8, 1⟩, ⟨65, .states 2, 1⟩]

/-- The numbers of a sensor in a record: id, unit (DSP0248: 2 Celsius, 5 V, 6 A, 7 W; 0 a state sensor), steps
in a unit, states. -/
def pdrNumbers (x : SensorPdr) : List Nat :=
  match x.kind with
  | .celsius => [x.id, 2, x.steps, 0]
  | .volt => [x.id, 5, x.steps, 0]
  | .ampere => [x.id, 6, x.steps, 0]
  | .watt => [x.id, 7, x.steps, 0]
  | .states n => [x.id, 0, x.steps, n]

/-- GetPDRRepositoryInfo: the answer's form, and what the repository holds beside the sensors' records, are
DSP0248's. -/
def execGetPdrRepositoryInfo (s : State) : Ans :=
  onSide s (sideAnswer (0 :: Config.sideband ([1, 2, 0x50] ++ sensors.flatMap pdrNumbers)))

/-- GetPDR: the record of a handle, when it describes a sensor; which handle a record has is not stated
(Config.pdrSensor). -/
def getPdr (handle : Nat) (s : State) : State :=
  match sensors.find? (fun x => Config.pdrSensor handle == some x.id) with
  | some x =>
    modSide (fun y => { y with pdr := some x }) (sideAnswer (0 :: Config.sideband ([1, 2, 0x51, handle] ++ pdrNumbers x)) s)
  | none => sideAnswer (Config.sideband [1, 2, 0x51, handle]) s

def execGetPdr (handle : Nat) (s : State) : Ans := onSide s (getPdr handle)

/-! ### Sensors (R592) -/

/-- The reading of a numeric sensor in its resolution. -/
def sensorReading (s : State) (id : Nat) : Option Int :=
  let m := s.dev.power.sample
  match id with
  | 1 => some m.vin
  | 2 => some m.iin
  | 3 => some (m.a1s / 1000 : Nat)
  | 4 => some m.inlet
  | 5 => some m.outlet
  | _ =>
    if 16 ≤ id ∧ id < 20 then some (m.cd.getD (id - 16) 0)
    else if 20 ≤ id ∧ id < 22 then some (m.io.getD (id - 20) 0)
    else if 24 ≤ id ∧ id < 32 then some (m.base.getD (id - 24) 0)
    else if 32 ≤ id ∧ id < 40 then some (getF s.chip (hmcB (id - 32)) 0x012 7 0 : Nat)
    else none

/-- The state of a state sensor. -/
def stateReading (s : State) (id : Nat) : Option Int :=
  if id = 64 then some (dstate s : Nat) else if id = 65 then some (if s.dev.power.breach then 1 else 0) else none

/-- A reading as the two's complement number that the answer carries. -/
def readingBits (v : Int) : Nat := (BitVec.ofInt 32 v).toNat

/-- Answer a sensor command; an id that names no such sensor gets the standard's error. -/
def sensorAnswer (cmd id : Nat) (v : Option Int) (s : State) : State :=
  match v with
  | some r => modSide (fun x => { x with reading := some r }) (sideAnswer (0 :: Config.sideband [1, 2, cmd, id, readingBits r]) s)
  | none => sideAnswer (Config.sideband [1, 2, cmd, id]) s

def execGetSensorReading (id : Nat) (s : State) : Ans := onSide s (fun s => sensorAnswer 0x11 id (sensorReading s id) s)
def execGetStateSensorReadings (id : Nat) (s : State) : Ans :=
  onSide s (fun s => sensorAnswer 0x21 id (stateReading s id) s)

end Sys2Proof.Machine
end

