-- ==== Sys2Proof/Machine/Vector.lean ====
section
/-! DEFINITION. The vector instructions that make no memory access (spec/05_long_vectors.md R176 to R192,
R200, R202). -/

namespace Sys2Proof.Machine

/-- VLSET (R181): SEW, FMT, VL and gd, each at distance 1. -/
def vlsetInsn (w : W32) (u : StrandId) (gd : Fin 32) (srcs : List Nat) (sew : Fin 4) (fmt : Bool) (avl : Chip → Nat)
    (c : Chip) : Chip :=
  issue c u { word := w, illegal := sew.val == 3, srcs := srcs, dsts := [(gd.val, 1), (vcR 0, 1), (vcR 1, 1)],
              act := fun c =>
                let vl := BitVec.ofNat 64 (min (avl c) (2048 / sewBits sew))
                putReg (putReg (putReg c u (vcR 1) 1 (BitVec.ofNat 64 (sew.val + fmt.toNat * 4))) u (vcR 0) 1 vl) u gd 1 vl }

def execVlset (u : StrandId) (gd ra : Fin 32) (sew : Fin 4) (fmt : Bool) (s : State) : Ans :=
  onChip s (vlsetInsn (insnWord (.vlset u gd ra sew fmt)) u gd [ra.val] sew fmt (fun c => (regVal c u ra).toNat))
def execVlseti (u : StrandId) (gd : Fin 32) (sew : Fin 4) (fmt : Bool) (imm : BitVec 12) (s : State) : Ans :=
  onChip s (vlsetInsn (insnWord (.vlseti u gd sew fmt imm)) u gd [] sew fmt (fun _ => imm.toNat))

/-- VMFC is allowed at every level (R179); the reserved vc7 reads 0. -/
def execVmfc (u : StrandId) (g : Fin 32) (vc : Fin 8) (s : State) : Ans :=
  onChip s (fun c => issue c u { word := insnWord (.vmfc u g vc), srcs := [vcR vc], dsts := [(g.val, 2)],
                                 act := fun c => putReg c u g 2 (regVal c u (vcR vc)) })

/-- The strands of the core, other than u, whose mask register shares a set bit with v (R177, R210). -/
def overlapping (c : Chip) (u : StrandId) (mask : Strand → W64) (v : W64) : Nat :=
  (List.range 8).foldl (fun a i =>
    if i ≠ u.strand.val ∧ mask (tget strandReset (coreOf c u.core).strands i) &&& v ≠ 0 then a + 2 ^ i else a) 0

def execVmtc (u : StrandId) (g : Fin 32) (vc : Fin 8) (s : State) : Ans :=
  onChip s (fun c =>
    let v := regVal c u g
    let ov := overlapping c u (fun st => vcreg st 6) v
    issue c u { word := insnWord (.vmtc u g vc),
                illegal := decide (vc.val < 2) || vc.val == 7 || (v &&& ~~~ (vcMask vc)) != 0,
                priv := vc.val == 6 && decide (level (strandOf c u) < 2),
                srcs := [g.val], dsts := [(vcR vc, 3)],
                last := if vc.val = 6 ∧ ov ≠ 0 then some ⟨0x14, ov, 0⟩ else none,
                act := fun c => putReg c u (vcR vc) 3 v })

/-- A vector instruction that writes vd: no pending write when VL is 0 (R182). -/
def vecWrite (u : StrandId) (vd d : Nat) (v : VReg) (flags : Nat) (c : Chip) : Chip :=
  if vlOf (strandOf c u) = 0 then c else putFlags (putVec c u vd d v false false 0) u (vcR 4) d flags

/-- An element-wise instruction: the result and flags of element i from the values of its sources. DESIGN
CHOICE (log entry 62): ownership, poison and hazards of the registers it names are tested with VL = 0 too,
when no element is read or written. -/
def vecOp (w : W32) (u : StrandId) (vd : Fin 32) (vsrcs gsrcs : List Nat) (m : Bool) (d ew : Nat) (mid : Option Exc)
    (f : Chip → Nat → Nat × Nat) (c : Chip) : Chip :=
  let st := strandOf c u
  issue c u { word := w, illegal := m && vd.val == 0, srcs := gsrcs ++ (vsrcs ++ maskReg m).map fR,
              last := vecFault st (vd.val :: vsrcs ++ maskReg m) mid,
              act := fun c =>
                let k := coreOf c u.core
                let act := vactive k m
                let n := vlOf (strandOf c u)
                vecWrite u vd d (vfill ew act (fun i => (f c i).1) n (vreg k vd)) (vflagsOf act (fun i => (f c i).2) n) c }

/-- Element i of register n at the current SEW. -/
def vel (c : Chip) (u : StrandId) (n i : Nat) : Nat := velem (vreg (coreOf c u.core) n) (sewBits (sewOf (strandOf c u))) i

/-- An integer instruction of two sources (R185). -/
def vint2 (w : W32) (u : StrandId) (vd va vb : Fin 32) (m : Bool) (f : Nat → Nat → Nat → Nat) (c : Chip) : Chip :=
  let sw := sewBits (sewOf (strandOf c u))
  vecOp w u vd [va.val, vb.val] [] m 3 sw none (fun c i => (f sw (vel c u va i) (vel c u vb i) % 2 ^ sw, 0)) c

/-- An integer compare writes mask bits (R185). -/
def vcmp2 (w : W32) (u : StrandId) (vd va vb : Fin 32) (m : Bool) (f : Nat → Nat → Nat → Bool) (c : Chip) : Chip :=
  let sw := sewBits (sewOf (strandOf c u))
  vecOp w u vd [va.val, vb.val] [] m 3 1 none (fun c i => ((f sw (vel c u va i) (vel c u vb i)).toNat, 0)) c

/-- Signed readings of elements. -/
def sLt (w a b : Nat) : Bool := decide (natSigned a w < natSigned b w)
/-- The shift amount: the low log2(SEW) bits (R185). -/
def shAmt (w b : Nat) : Nat := b % w

def execVadd (u : StrandId) (vd va vb : Fin 32) (m : Bool) (s : State) : Ans :=
  onChip s (vint2 (insnWord (.vadd u vd va vb m)) u vd va vb m (fun _ a b => a + b))
def execVsub (u : StrandId) (vd va vb : Fin 32) (m : Bool) (s : State) : Ans :=
  onChip s (vint2 (insnWord (.vsub u vd va vb m)) u vd va vb m (fun w a b => a + 2 ^ w - b))
def execVand (u : StrandId) (vd va vb : Fin 32) (m : Bool) (s : State) : Ans :=
  onChip s (vint2 (insnWord (.vand u vd va vb m)) u vd va vb m (fun _ a b => a &&& b))
def execVor (u : StrandId) (vd va vb : Fin 32) (m : Bool) (s : State) : Ans :=
  onChip s (vint2 (insnWord (.vor u vd va vb m)) u vd va vb m (fun _ a b => a ||| b))
def execVxor (u : StrandId) (vd va vb : Fin 32) (m : Bool) (s : State) : Ans :=
  onChip s (vint2 (insnWord (.vxor u vd va vb m)) u vd va vb m (fun _ a b => a ^^^ b))
def execVshl (u : StrandId) (vd va vb : Fin 32) (m : Bool) (s : State) : Ans :=
  onChip s (vint2 (insnWord (.vshl u vd va vb m)) u vd va vb m (fun w a b => a * 2 ^ shAmt w b))
def execVshr (u : StrandId) (vd va vb : Fin 32) (m : Bool) (s : State) : Ans :=
  onChip s (vint2 (insnWord (.vshr u vd va vb m)) u vd va vb m (fun w a b => a / 2 ^ shAmt w b))
def execVsar (u : StrandId) (vd va vb : Fin 32) (m : Bool) (s : State) : Ans :=
  onChip s (vint2 (insnWord (.vsar u vd va vb m)) u vd va vb m
    (fun w a b => (natSigned a w / (2 ^ shAmt w b : Nat)).emod (2 ^ w : Nat) |>.toNat))
def execVmin (u : StrandId) (vd va vb : Fin 32) (m : Bool) (s : State) : Ans :=
  onChip s (vint2 (insnWord (.vmin u vd va vb m)) u vd va vb m (fun w a b => if sLt w a b then a else b))
def execVmax (u : StrandId) (vd va vb : Fin 32) (m : Bool) (s : State) : Ans :=
  onChip s (vint2 (insnWord (.vmax u vd va vb m)) u vd va vb m (fun w a b => if sLt w a b then b else a))
def execVminu (u : StrandId) (vd va vb : Fin 32) (m : Bool) (s : State) : Ans :=
  onChip s (vint2 (insnWord (.vminu u vd va vb m)) u vd va vb m (fun _ a b => min a b))
def execVmaxu (u : StrandId) (vd va vb : Fin 32) (m : Bool) (s : State) : Ans :=
  onChip s (vint2 (insnWord (.vmaxu u vd va vb m)) u vd va vb m (fun _ a b => max a b))
def execVmul (u : StrandId) (vd va vb : Fin 32) (m : Bool) (s : State) : Ans :=
  onChip s (vint2 (insnWord (.vmul u vd va vb m)) u vd va vb m (fun _ a b => a * b))
def execVcmpeq (u : StrandId) (vd va vb : Fin 32) (m : Bool) (s : State) : Ans :=
  onChip s (vcmp2 (insnWord (.vcmpeq u vd va vb m)) u vd va vb m (fun _ a b => a == b))
def execVcmplt (u : StrandId) (vd va vb : Fin 32) (m : Bool) (s : State) : Ans :=
  onChip s (vcmp2 (insnWord (.vcmplt u vd va vb m)) u vd va vb m sLt)
def execVcmpltu (u : StrandId) (vd va vb : Fin 32) (m : Bool) (s : State) : Ans :=
  onChip s (vcmp2 (insnWord (.vcmpltu u vd va vb m)) u vd va vb m (fun _ a b => decide (a < b)))

def execVmv (u : StrandId) (vd va : Fin 32) (m : Bool) (s : State) : Ans :=
  onChip s (fun c => vecOp (insnWord (.vmv u vd va m)) u vd [va.val] [] m 3 (sewBits (sewOf (strandOf c u))) none
    (fun c i => (vel c u va i, 0)) c)
def execVsplat (u : StrandId) (vd gb : Fin 32) (m : Bool) (s : State) : Ans :=
  onChip s (fun c =>
    let sw := sewBits (sewOf (strandOf c u))
    vecOp (insnWord (.vsplat u vd gb m)) u vd [] [gb.val] m 3 sw none (fun c _ => ((regVal c u gb).toNat % 2 ^ sw, 0)) c)
/-- VMVXS writes element 0, whatever VL and M hold (R182, R185). -/
def execVmvxs (u : StrandId) (gd va : Fin 32) (m : Bool) (s : State) : Ans :=
  onChip s (fun c =>
    issue c u { word := insnWord (.vmvxs u gd va m), srcs := [fR va], dsts := [(gd.val, 3)],
                last := vecFault (strandOf c u) [va.val] none,
                act := fun c => putReg c u gd 3 (BitVec.ofNat 64 (vel c u va 0)) })

/-! ### Fixed point (R188, R189) -/

/-- The vector-type fault (R203): DETAIL is the SEW. -/
def typeFault (st : Strand) (bad : Bool) : Option Exc := if bad then some ⟨0x12, sewOf st, 0⟩ else none

/-- The rounding mode in VFIX. -/
def vfixMode (st : Strand) : Nat := natBits (vcreg st 3).toNat 1 0

def vfixed (w : W32) (u : StrandId) (vd va vb : Fin 32) (m : Bool) (x : Int → Nat → Int) (sh : Nat → Nat) (c : Chip) : Chip :=
  let st := strandOf c u
  vecOp w u vd [va.val, vb.val] [] m 4 16 (typeFault st (sewOf st != 0))
    (fun c i =>
      let a := velem (vreg (coreOf c u.core) va) 16 i
      let b := velem (vreg (coreOf c u.core) vb) 16 i
      fixRound (x (natSigned a 16) b) (sh b) (vfixMode (strandOf c u))) c

def execVsadd (u : StrandId) (vd va vb : Fin 32) (m : Bool) (s : State) : Ans :=
  onChip s (vfixed (insnWord (.vsadd u vd va vb m)) u vd va vb m (fun a b => a + natSigned b 16) (fun _ => 0))
def execVssub (u : StrandId) (vd va vb : Fin 32) (m : Bool) (s : State) : Ans :=
  onChip s (vfixed (insnWord (.vssub u vd va vb m)) u vd va vb m (fun a b => a - natSigned b 16) (fun _ => 0))
def execVsmulr (u : StrandId) (vd va vb : Fin 32) (m : Bool) (s : State) : Ans :=
  onChip s (vfixed (insnWord (.vsmulr u vd va vb m)) u vd va vb m (fun a b => a * natSigned b 16) (fun _ => 15))
def execVsshr (u : StrandId) (vd va vb : Fin 32) (m : Bool) (s : State) : Ans :=
  onChip s (vfixed (insnWord (.vsshr u vd va vb m)) u vd va vb m (fun a _ => a) (fun b => b % 16))
def execVsshl (u : StrandId) (vd va vb : Fin 32) (m : Bool) (s : State) : Ans :=
  onChip s (vfixed (insnWord (.vsshl u vd va vb m)) u vd va vb m (fun a b => a * (2 ^ (b % 16) : Nat)) (fun _ => 0))

/-! ### Float (R186, R187) -/

/-- A float instruction on the elements of the current format. -/
def vfloat (w : W32) (u : StrandId) (vd : Fin 32) (vsrcs : List Nat) (m : Bool) (ew : Nat → Nat)
    (f : Fmt → Nat → Chip → Nat → Nat × Nat) (c : Chip) : Chip :=
  let st := strandOf c u
  vecOp w u vd vsrcs [] m 6 (ew (sewBits (sewOf st))) (typeFault st (vfmt st).isNone)
    (fun c i => f ((vfmt (strandOf c u)).getD fmtFP32) (frm (strandOf c u)) c i) c

def vfloat2 (w : W32) (u : StrandId) (vd va vb : Fin 32) (m : Bool) (f : Fmt → Nat → Nat → Nat → Nat × Nat) : Chip → Chip :=
  vfloat w u vd [va.val, vb.val] m id (fun fm rm c i => f fm rm (vel c u va i) (vel c u vb i))
def vfloat1 (w : W32) (u : StrandId) (vd va : Fin 32) (m : Bool) (f : Fmt → Nat → Nat × Nat) : Chip → Chip :=
  vfloat w u vd [va.val] m id (fun fm _ c i => f fm (vel c u va i))
/-- A float compare writes mask bits. -/
def vfloatCmp (w : W32) (u : StrandId) (vd va vb : Fin 32) (m : Bool) (f : Fmt → Nat → Nat → Bool × Nat) : Chip → Chip :=
  vfloat w u vd [va.val, vb.val] m (fun _ => 1)
    (fun fm _ c i => let r := f fm (vel c u va i) (vel c u vb i); (r.1.toNat, r.2))

def execVfadd (u : StrandId) (vd va vb : Fin 32) (m : Bool) (s : State) : Ans :=
  onChip s (vfloat2 (insnWord (.vfadd u vd va vb m)) u vd va vb m fadd)
def execVfsub (u : StrandId) (vd va vb : Fin 32) (m : Bool) (s : State) : Ans :=
  onChip s (vfloat2 (insnWord (.vfsub u vd va vb m)) u vd va vb m fsub)
def execVfmul (u : StrandId) (vd va vb : Fin 32) (m : Bool) (s : State) : Ans :=
  onChip s (vfloat2 (insnWord (.vfmul u vd va vb m)) u vd va vb m fmul)
def execVfmin (u : StrandId) (vd va vb : Fin 32) (m : Bool) (s : State) : Ans :=
  onChip s (vfloat2 (insnWord (.vfmin u vd va vb m)) u vd va vb m (fun f _ a b => fmin f a b))
def execVfmax (u : StrandId) (vd va vb : Fin 32) (m : Bool) (s : State) : Ans :=
  onChip s (vfloat2 (insnWord (.vfmax u vd va vb m)) u vd va vb m (fun f _ a b => fmax f a b))
def execVfabs (u : StrandId) (vd va : Fin 32) (m : Bool) (s : State) : Ans :=
  onChip s (vfloat1 (insnWord (.vfabs u vd va m)) u vd va m fabs)
def execVfneg (u : StrandId) (vd va : Fin 32) (m : Bool) (s : State) : Ans :=
  onChip s (vfloat1 (insnWord (.vfneg u vd va m)) u vd va m fneg)
def execVfcmpeq (u : StrandId) (vd va vb : Fin 32) (m : Bool) (s : State) : Ans :=
  onChip s (vfloatCmp (insnWord (.vfcmpeq u vd va vb m)) u vd va vb m fcmpEq)
def execVfcmplt (u : StrandId) (vd va vb : Fin 32) (m : Bool) (s : State) : Ans :=
  onChip s (vfloatCmp (insnWord (.vfcmplt u vd va vb m)) u vd va vb m fcmpLt)
def execVfcmple (u : StrandId) (vd va vb : Fin 32) (m : Bool) (s : State) : Ans :=
  onChip s (vfloatCmp (insnWord (.vfcmple u vd va vb m)) u vd va vb m fcmpLe)
def execVfma (u : StrandId) (vd va vb vc : Fin 32) (m : Bool) (s : State) : Ans :=
  onChip s (vfloat (insnWord (.vfma u vd va vb vc m)) u vd [va.val, vb.val, vc.val] m id
    (fun fm rm c i => ffma fm rm (vel c u va i) (vel c u vb i) (vel c u vc i)))

/-- The fixed binary tree of R187 over 2^d leaves from lo: value and flags, or absent. -/
def redNode (leaf : Nat → Option Nat) (op : Nat → Nat → Nat × Nat) : Nat → Nat → Option Nat × Nat
  | 0, lo => (leaf lo, 0)
  | d + 1, lo =>
    let a := redNode leaf op d lo
    let b := redNode leaf op d (lo + 2 ^ d)
    match a.1, b.1 with
    | none, r => (r, forr a.2 b.2)
    | r, none => (r, forr a.2 b.2)
    | some x, some y => let r := op x y; (some r.1, forr (forr a.2 b.2) r.2)

/-- The value of a reduction: a NaN is the canonical one, and a signalling NaN that no operation met sets NV (R62). -/
def redDone (f : Fmt) (r : Option Nat × Nat) : Nat × Nat :=
  match r.1 with
  | none => (0, r.2)
  | some v => if (fdec f v).isNan then (qnan f, forr r.2 (nvOf [fdec f v])) else (v, r.2)

/-- A reduction into the f register that vd names, at distance 10 (R187, R202). DESIGN CHOICE (log entry 62):
a masked one into f0, bits [63:0] of v0, is no write of the mask register that R183 forbids, and executes. -/
def vfred (w : W32) (u : StrandId) (fd va : Fin 32) (m late : Bool) (op : Fmt → Nat → Nat → Nat → Nat × Nat) (c : Chip) :
    Chip :=
  let st := strandOf c u
  issue c u { word := w, srcs := (va.val :: maskReg m).map fR, dsts := [(fR fd, 10)],
              last := vecFault st (fd.val :: va.val :: maskReg m) (typeFault st (vfmt st).isNone),
              act := fun c =>
                let st := strandOf c u
                let k := coreOf c u.core
                let f := (vfmt st).getD fmtFP32
                let r := redDone f (redNode (fun i => if i < vlOf st ∧ vactive k m i = true then some (vel c u va i) else none)
                  (op f (frm st)) 7 0)
                putFlags (putLate c u (fR fd) 10 (BitVec.ofNat 64 r.1) false late 0 false) u (vcR 4) 10 r.2 }

def execVfredsum (u : StrandId) (fd va : Fin 32) (m late : Bool) (s : State) : Ans :=
  onChip s (vfred (insnWord (.vfredsum u fd va m late)) u fd va m late fadd)
def execVfredmax (u : StrandId) (fd va : Fin 32) (m late : Bool) (s : State) : Ans :=
  onChip s (vfred (insnWord (.vfredmax u fd va m late)) u fd va m late (fun f _ a b => fmax f a b))

end Sys2Proof.Machine
end

