-- ==== Sys2Proof/Machine/VectorCvt.lean ====
section
/-! DEFINITION. The vector conversions (spec/05_long_vectors.md R190 to R192). -/

namespace Sys2Proof.Machine

/-- The random bits of element i when RM selects SR (R192). -/
def vsr (c : Chip) (u : StrandId) (i : Nat) : Nat :=
  let r := (vcreg (strandOf c u) 5).toNat
  srBits c.seed (r / 2 ^ 40) ((r % 2 ^ 40 + i) % 2 ^ 40) 0 1

/-- Whether a rounding mode is reserved (R74). -/
def rmBad (rm : Fin 8) : Bool := decide (5 < rm.val)

/-- An element conversion between sw and dw bits (codes 0 to 5): VL is bounded by the wider width. -/
def vcvtElem (w : W32) (u : StrandId) (vd va : Fin 32) (m : Bool) (rm : Fin 8) (sw dw : Nat) (f : Nat → Nat → Nat × Nat)
    (c : Chip) : Chip :=
  let st := strandOf c u
  issue c u { word := w, illegal := rmBad rm || (m && vd.val == 0), srcs := (va.val :: maskReg m).map fR,
              last := vecFault st (vd.val :: va.val :: maskReg m) (typeFault st (decide (2048 / max sw dw < vlOf st))),
              act := fun c =>
                let k := coreOf c u.core
                let n := vlOf (strandOf c u)
                let r := fun i => f (vsr c u i) (velem (vreg k va) sw i)
                vecWrite u vd 6 (vfill dw (vactive k m) (fun i => (r i).1) n (vreg k vd))
                  (vflagsOf (vactive k m) (fun i => (r i).2) n) c }

def execVcvtFp32Bf16 (u : StrandId) (vd va : Fin 32) (m : Bool) (rm : Fin 8) (s : State) : Ans :=
  onChip s (vcvtElem (insnWord (.vcvtFp32Bf16 u vd va m rm)) u vd va m rm 32 16 (fun x a => fenc fmtBF16 rm x (fdec fmtFP32 a)))
def execVcvtFp32Fp16 (u : StrandId) (vd va : Fin 32) (m : Bool) (rm : Fin 8) (s : State) : Ans :=
  onChip s (vcvtElem (insnWord (.vcvtFp32Fp16 u vd va m rm)) u vd va m rm 32 16 (fun x a => fenc fmtFP16 rm x (fdec fmtFP32 a)))
def execVcvtBf16Fp32 (u : StrandId) (vd va : Fin 32) (m : Bool) (rm : Fin 8) (s : State) : Ans :=
  onChip s (vcvtElem (insnWord (.vcvtBf16Fp32 u vd va m rm)) u vd va m rm 16 32 (fun x a => fenc fmtFP32 rm x (fdec fmtBF16 a)))
def execVcvtFp16Fp32 (u : StrandId) (vd va : Fin 32) (m : Bool) (rm : Fin 8) (s : State) : Ans :=
  onChip s (vcvtElem (insnWord (.vcvtFp16Fp32 u vd va m rm)) u vd va m rm 16 32 (fun x a => fenc fmtFP32 rm x (fdec fmtFP16 a)))
def execVcvtFp32I16 (u : StrandId) (vd va : Fin 32) (m : Bool) (rm : Fin 8) (s : State) : Ans :=
  onChip s (vcvtElem (insnWord (.vcvtFp32I16 u vd va m rm)) u vd va m rm 32 16 (fun x a => toI16 rm x (fdec fmtFP32 a)))
def execVcvtI16Fp32 (u : StrandId) (vd va : Fin 32) (m : Bool) (rm : Fin 8) (s : State) : Ans :=
  onChip s (vcvtElem (insnWord (.vcvtI16Fp32 u vd va m rm)) u vd va m rm 16 32 (fun x a => fenc fmtFP32 rm x (ofI16 a)))

/-- Codes 6 to 13 need M = 0 and VL of 32 or 64 (R191). -/
def blockType (st : Strand) (m : Bool) : Option Exc := typeFault st (m || !(vlOf st == 32 || vlOf st == 64))

/-- Put a list of codes of w bits from bit `at0` on. -/
def putCodes (w : Nat) : List Nat → Nat → VReg → VReg
  | [], _, v => v
  | x :: xs, at0, v => putCodes w xs (at0 + w) (BitVec.ofNat 2048 (natSetBits v.toNat (at0 + w - 1) at0 x))

/-- The blocks of a conversion into a block format: planes, exponents (two bytes), flags. -/
def packBlocks (f : QFmt) (rm n : Nat) (src : Nat → FV × Nat) (vd : VReg) : Nat → VReg × Nat × Nat
  | 0 => (vd, 0, 0)
  | b + 1 =>
    let p := packBlocks f rm n src vd b
    let q := qblock f rm ((List.range 32).map (fun i => src (32 * b + i)))
    (putCodes f.bits q.2.1 (16 * f.words * b) p.1, p.2.1 + q.1 * 2 ^ (8 * b), forr p.2.2 q.2.2)

/-- FP32 into an element plane in vd and exponents in vb (R191). Where vd and vb name one register, the
exponent write, which is issued after the plane, stands; a set M bit is found by the vector-type fault before
v0 counts as a register that is read (DESIGN CHOICE, log entry 52: the rule says neither). -/
def vcvtPack (w : W32) (u : StrandId) (vd va vb : Fin 32) (m : Bool) (rm : Fin 8) (f : QFmt) (c : Chip) : Chip :=
  let st := strandOf c u
  issue c u { word := w, illegal := rmBad rm || (m && vd.val == 0), srcs := [fR va],
              last := vecFault st [vd.val, va.val, vb.val] (blockType st m),
              act := fun c =>
                let k := coreOf c u.core
                let n := vlOf (strandOf c u)
                let r := packBlocks f rm n (fun i => (fdec fmtFP32 (velem (vreg k va) 32 i), vsr c u i)) (vreg k vd) (n / 32)
                let ex := BitVec.ofNat 2048 (natSetBits (vreg k vb).toNat 15 0 r.2.1)
                putFlags (putVec (putVec c u vd 6 r.1 false false 0) u vb 6 ex false false 0) u (vcR 4) 6 r.2.2 }

def execVcvtFp32Q8 (u : StrandId) (vd va vb : Fin 32) (m : Bool) (rm : Fin 8) (s : State) : Ans :=
  onChip s (vcvtPack (insnWord (.vcvtFp32Q8 u vd va vb m rm)) u vd va vb m rm .q8)
def execVcvtFp32Q6 (u : StrandId) (vd va vb : Fin 32) (m : Bool) (rm : Fin 8) (s : State) : Ans :=
  onChip s (vcvtPack (insnWord (.vcvtFp32Q6 u vd va vb m rm)) u vd va vb m rm .q6)
def execVcvtFp32Q4 (u : StrandId) (vd va vb : Fin 32) (m : Bool) (rm : Fin 8) (s : State) : Ans :=
  onChip s (vcvtPack (insnWord (.vcvtFp32Q4 u vd va vb m rm)) u vd va vb m rm .q4)
def execVcvtFp32I8 (u : StrandId) (vd va vb : Fin 32) (m : Bool) (rm : Fin 8) (s : State) : Ans :=
  onChip s (vcvtPack (insnWord (.vcvtFp32I8 u vd va vb m rm)) u vd va vb m rm .i8)

/-- Element i of an element plane held from bit 0 of a register (R70, R191). -/
def planeElem (f : QFmt) (v : VReg) (i : Nat) : Nat :=
  v.toNat / 2 ^ (16 * f.words * (i / 32) + f.bits * (i % 32)) % 2 ^ f.bits

/-- A block plane into FP32 (R191). -/
def vcvtUnpack (w : W32) (u : StrandId) (vd va vb : Fin 32) (m : Bool) (rm : Fin 8) (f : QFmt) (c : Chip) : Chip :=
  let st := strandOf c u
  issue c u { word := w, illegal := rmBad rm || (m && vd.val == 0), srcs := [fR va, fR vb],
              last := vecFault st [vd.val, va.val, vb.val] (blockType st m),
              act := fun c =>
                let k := coreOf c u.core
                let n := vlOf (strandOf c u)
                let r := fun i => fenc fmtFP32 rm (vsr c u i)
                  (qdec f (natBits (vreg k vb).toNat (8 * (i / 32) + 7) (8 * (i / 32))) (planeElem f (vreg k va) i))
                vecWrite u vd 6 (vfill 32 (fun _ => true) (fun i => (r i).1) n (vreg k vd))
                  (vflagsOf (fun _ => true) (fun i => (r i).2) n) c }

def execVcvtQ8Fp32 (u : StrandId) (vd va vb : Fin 32) (m : Bool) (rm : Fin 8) (s : State) : Ans :=
  onChip s (vcvtUnpack (insnWord (.vcvtQ8Fp32 u vd va vb m rm)) u vd va vb m rm .q8)
def execVcvtQ6Fp32 (u : StrandId) (vd va vb : Fin 32) (m : Bool) (rm : Fin 8) (s : State) : Ans :=
  onChip s (vcvtUnpack (insnWord (.vcvtQ6Fp32 u vd va vb m rm)) u vd va vb m rm .q6)
def execVcvtQ4Fp32 (u : StrandId) (vd va vb : Fin 32) (m : Bool) (rm : Fin 8) (s : State) : Ans :=
  onChip s (vcvtUnpack (insnWord (.vcvtQ4Fp32 u vd va vb m rm)) u vd va vb m rm .q4)
def execVcvtI8Fp32 (u : StrandId) (vd va vb : Fin 32) (m : Bool) (rm : Fin 8) (s : State) : Ans :=
  onChip s (vcvtUnpack (insnWord (.vcvtI8Fp32 u vd va vb m rm)) u vd va vb m rm .i8)

end Sys2Proof.Machine
end

