-- ==== Sys2Proof/Machine/VectorMem.lean ====
section
/-! DEFINITION. The vector memory instructions (spec/05_long_vectors.md R193 to R199): elements from VRESUME
upward, each checked and then performed; the first element that fails ends the instruction with its exception
(R196, R197). -/

namespace Sys2Proof.Machine

/-- A memory instruction: base register, address of field j of element i, fields per element, and the first register of
the group. -/
structure VMem where
  base : Nat
  addr : Nat → Nat → W64
  nf : Nat
  reg : Nat

/-- Words per element at the current SEW. -/
def elemWords (st : Strand) : Nat := sewBits (sewOf st) / 16

/-- The first of n words that a core's access does not reach. -/
def unreached (c : Chip) (core lvl : Nat) (wr spec : Bool) (a : Nat) : Nat → Option Nat
  | 0 => none
  | n + 1 => if reaches c core lvl wr spec a then unreached c core lvl wr spec (a + 1) n else some a

/-- The checks of one field (R195): as R152 orders them, FADDR the first failing word. -/
def fieldFault (c : Chip) (u : StrandId) (base31 wr : Bool) (ea : W64) (n : Nat) : Option Exc :=
  match addrFault c u base31 wr ea n n with
  | some ⟨0x08, d, a⟩ =>
    if d % 2 = 1 then some ⟨0x08, d, a⟩
    else some ⟨0x08, d, (unreached c u.core (level (strandOf c u)) wr (strandOf c u).spec a n).getD a⟩
  | r => r

/-- The first field of an element that fails. -/
def elemFault (c : Chip) (u : StrandId) (x : VMem) (wr : Bool) (i : Nat) : Nat → Option Exc
  | 0 => none
  | j + 1 =>
    match elemFault c u x wr i j with
    | some e => some e
    | none => fieldFault c u (x.base == 31) wr (x.addr i j) (elemWords (strandOf c u))

/-- The first element of a list that fails. -/
def firstFail (c : Chip) (u : StrandId) (x : VMem) (wr : Bool) : List Nat → Option (Nat × Exc)
  | [] => none
  | i :: is =>
    match elemFault c u x wr i x.nf with
    | some e => some (i, e)
    | none => firstFail c u x wr is

/-- VRESUME (R178). -/
def vresume (st : Strand) : Nat := natBits (vcreg st 2).toNat 6 0

/-- The elements an instruction performs if none fails: from VRESUME up, active, below VL (R182, R196). -/
def vElems (c : Chip) (u : StrandId) (m : Bool) : List Nat :=
  let st := strandOf c u
  (List.range (vlOf st)).filter (fun i => decide (vresume st ≤ i) && vactive (coreOf c u.core) m i)

/-- The elements performed, and the failure. -/
def vPlan (c : Chip) (u : StrandId) (m : Bool) (x : VMem) (wr : Bool) : List Nat × Option (Nat × Exc) :=
  let es := vElems c u m
  match firstFail c u x wr es with
  | none => (es, none)
  | some f => (es.filter (fun i => decide (i < f.1)), some f)

/-- VRESUME at the end: 0 at distance 1, or the failing element (R196, R198). -/
def vFinish (u : StrandId) (fail : Option (Nat × Exc)) (c : Chip) : Chip :=
  match fail with
  | some f => modStrand c u (fun st => { st with vc := tput (fun _ => 0) st.vc 2 (BitVec.ofNat 64 f.1) })
  | none => if vlOf (strandOf c u) = 0 then c else putReg c u (vcR 2) 1 0

/-- The vector-resume fault (R198). -/
def resumeFault (st : Strand) : Option Exc :=
  if vresume st ≠ 0 ∧ vlOf st ≤ vresume st then some ⟨0x13, vresume st, 0⟩ else none

/-- Type, group and resume faults in table order (R194, R203). -/
def memMid (st : Strand) (tyBad : Bool) (reg nf : Nat) : Option Exc :=
  if tyBad then some ⟨0x12, sewOf st, 0⟩
  else if 32 < reg + nf then some ⟨0x15, reg, 0⟩
  else resumeFault st

/-- The registers of a group. -/
def group (reg nf : Nat) : List Nat := ((List.range nf).map (fun j => reg + j)).filter (fun n => decide (n < 32))

/-- The words of the elements performed, in order: element, field, address. -/
def fieldAddrs (x : VMem) (es : List Nat) : List (Nat × Nat × Nat) :=
  es.flatMap (fun i => (List.range x.nf).map (fun j => (i, j, (x.addr i j).toNat)))

/-- Whether the instruction waits: an element access meets a tile instruction in flight (R224), the core's
tracker has no entry for the load and store port (R284), or a store finds the store queue full (R96). -/
def vHold (c : Chip) (u : StrandId) (x : VMem) (wr : Bool) (es : List Nat) : Bool :=
  let st := strandOf c u
  let as := fieldAddrs x es
  as.any (fun f => tileHold st f.2.2 (f.2.2 + elemWords st - 1)) ||
    (trackerFull c u.core && as.any (fun f => inCls f.2.2)) || (wr && storeHold c u.core)

/-- The first word of the line that an access to word a reaches. -/
def physLine (c : Chip) (u : StrandId) (wr : Bool) (a : Nat) : Nat :=
  let p := if wr then physWr c (strandOf c u).spec a else physRd c (strandOf c u).spec a
  p - p % 32

/-- The distinct lines of the elements, as physical words. -/
def vLines (c : Chip) (u : StrandId) (x : VMem) (wr : Bool) (es : List Nat) : List Nat :=
  ((fieldAddrs x es).map (fun f => physLine c u wr f.2.2)).eraseDups

/-- The words of one physical line that the elements reach, with their places in the group's registers. -/
def lineOf (c : Chip) (u : StrandId) (x : VMem) (wr : Bool) (es : List Nat) (line : Nat) : List (Nat × Nat × Nat) :=
  let n := elemWords (strandOf c u)
  ((fieldAddrs x es).filter (fun f => physLine c u wr f.2.2 == line)).flatMap
    (fun f => (List.range n).map (fun k => (f.2.2 % 32 + k, x.reg + f.2.1, f.1 * n + k)))

/-- One read for each line of the elements. -/
def vAsk (u : StrandId) (x : VMem) (es : List Nat) (who : Reader) (c : Chip) : Chip :=
  (vLines c u x false es).foldl (fun c a => askWords c u.core a who false (lineOf c u x false es a)) c

/-- Load field j of the elements into a register value; the marks that the reads find at their issue. -/
def loadField (c : Chip) (st : Strand) (x : VMem) (es : List Nat) (j : Nat) (v : VReg) : VReg × Bool :=
  es.foldl (fun a i =>
    let w := (x.addr i j).toNat
    let r := rdNat c st.spec w (elemWords st)
    (vput a.1 (sewBits (sewOf st)) i r.1, a.2 || issueMark w r.2)) (v, false)

/-- The effect of a load (R197): the group's registers at distance 8, one request per line. A poisoned word
sets the bit of every destination register (R175). With no active element below VL the registers are written
as they are (R202); with an element that failed first, or VL = 0, nothing is (R182, R197). -/
def vLoadAct (u : StrandId) (x : VMem) (late : Bool) (es : List Nat) (fail : Option (Nat × Exc)) (c : Chip) : Chip :=
  let st := strandOf c u
  let far := (fieldAddrs x es).any (fun f => !ownRoom u.core f.2.2)
  let vals := (group x.reg x.nf).map (fun n => (n, loadField c st x es (n - x.reg) (vreg (coreOf c u.core) n)))
  let pz := vals.any (fun v => v.2.2)
  let waits := ((vLines c u x false es).map askCount).sum
  let c :=
    if vlOf st = 0 ∨ (es.isEmpty ∧ fail.isSome) then c
    else vAsk u x es (.load u.core u.strand st.nextId) (modStrand c u (fun st => { st with
      pendV := st.pendV ++ vals.map (fun v => ⟨v.1, v.2.1, pz, 8, late && far, waits, st.nextId⟩),
      nextId := st.nextId + 1 }))
  vFinish u fail c

/-- The words that a store writes, in order: ascending elements, ascending fields (R195). -/
def vWords (c : Chip) (u : StrandId) (x : VMem) (es : List Nat) : List (Nat × Word × Bool) :=
  let st := strandOf c u
  (fieldAddrs x es).flatMap (fun f =>
    atRun f.2.2 (natWords (velem (vreg (coreOf c u.core) (x.reg + f.2.1)) (sewBits (sewOf st)) f.1) (elemWords st)))

/-- The effect of a store: it goes past the cache, which keeps what it holds. DESIGN CHOICE (log entry 61):
R323, by which the cache is not coherent with the own vector unit, goes before R102 and R195, so a scalar load
can hit the stale line. -/
def vStoreAct (u : StrandId) (x : VMem) (es : List Nat) (fail : Option (Nat × Exc)) (c : Chip) : Chip :=
  vFinish u fail (coreWrite c u.core (strandOf c u).spec (.store u.core u.strand) (vWords c u x es))

/-- A vector load. DESIGN CHOICE (log entry 62): with VL = 0 it writes no VRESUME (R182), and still faults on
a pending write of VRESUME with a later slot (R198). -/
def vLoad (w : W32) (u : StrandId) (vd : Fin 32) (m : Bool) (gsrcs vsrcs : List Nat) (tyBad illegal : Bool) (x : VMem)
    (late : Bool) (c : Chip) : Chip :=
  let st := strandOf c u
  let p := vPlan c u m x false
  issue c u { word := w, illegal := illegal || (m && vd.val == 0), srcs := gsrcs ++ (vsrcs ++ maskReg m).map fR,
              dsts := [(vcR 2, 1)],
              last := vecFault st (group vd x.nf ++ vsrcs ++ maskReg m) (memMid st tyBad vd x.nf),
              hold := vHold c u x false p.1, after := p.2.map Prod.snd, act := vLoadAct u x late p.1 p.2 }

def vStore (w : W32) (u : StrandId) (vs : Fin 32) (m : Bool) (gsrcs vsrcs : List Nat) (tyBad illegal : Bool) (x : VMem)
    (c : Chip) : Chip :=
  let st := strandOf c u
  let p := vPlan c u m x true
  issue c u { word := w, illegal := illegal, srcs := gsrcs ++ (group vs x.nf ++ vsrcs ++ maskReg m).map fR,
              dsts := [(vcR 2, 1)],
              last := vecFault st (group vs x.nf ++ vsrcs ++ maskReg m) (memMid st tyBad vs x.nf),
              hold := vHold c u x true p.1, after := p.2.map Prod.snd, act := vStoreAct u x p.1 p.2 }

/-- The four address forms of R193. -/
def unitForm (c : Chip) (u : StrandId) (ra reg : Fin 32) : VMem :=
  ⟨ra, fun i _ => regVal c u ra + BitVec.ofNat 64 (i * elemWords (strandOf c u)), 1, reg⟩
def strideForm (c : Chip) (u : StrandId) (ra rb reg : Fin 32) : VMem :=
  ⟨ra, fun i _ => regVal c u ra + BitVec.ofNat 64 i * regVal c u rb, 1, reg⟩
def indexForm (c : Chip) (u : StrandId) (ra vi : Fin 32) (iw sc : Fin 4) (reg : Fin 32) : VMem :=
  ⟨ra, fun i _ => regVal c u ra + BitVec.ofNat 64 (velem (vreg (coreOf c u.core) vi) (sewBits iw) i * 2 ^ sc.val), 1, reg⟩
def segForm (c : Chip) (u : StrandId) (ra : Fin 32) (nf1 : Fin 4) (reg : Fin 32) : VMem :=
  ⟨ra, fun i j => regVal c u ra + BitVec.ofNat 64 ((i * (nf1.val + 1) + j) * elemWords (strandOf c u)), nf1.val + 1, reg⟩

/-- A gather or scatter whose VL exceeds the index elements of a register (R194). -/
def indexBad (c : Chip) (u : StrandId) (iw : Fin 4) : Bool := decide (2048 / sewBits iw < vlOf (strandOf c u))

def execVld (u : StrandId) (vd ra : Fin 32) (m late : Bool) (s : State) : Ans :=
  onChip s (fun c => vLoad (insnWord (.vld u vd ra m late)) u vd m [ra.val] [] false false (unitForm c u ra vd) late c)
def execVst (u : StrandId) (vs ra : Fin 32) (m : Bool) (s : State) : Ans :=
  onChip s (fun c => vStore (insnWord (.vst u vs ra m)) u vs m [ra.val] [] false false (unitForm c u ra vs) c)
def execVlds (u : StrandId) (vd ra rb : Fin 32) (m late : Bool) (s : State) : Ans :=
  onChip s (fun c => vLoad (insnWord (.vlds u vd ra rb m late)) u vd m [ra.val, rb.val] [] false false
    (strideForm c u ra rb vd) late c)
def execVsts (u : StrandId) (vs ra rb : Fin 32) (m : Bool) (s : State) : Ans :=
  onChip s (fun c => vStore (insnWord (.vsts u vs ra rb m)) u vs m [ra.val, rb.val] [] false false
    (strideForm c u ra rb vs) c)
def execVldx (u : StrandId) (vd ra vi : Fin 32) (m : Bool) (iw sc : Fin 4) (late : Bool) (s : State) : Ans :=
  onChip s (fun c => vLoad (insnWord (.vldx u vd ra vi m iw sc late)) u vd m [ra.val] [vi.val] (indexBad c u iw) (iw.val == 3)
    (indexForm c u ra vi iw sc vd) late c)
def execVstx (u : StrandId) (vs ra vi : Fin 32) (m : Bool) (iw sc : Fin 4) (s : State) : Ans :=
  onChip s (fun c => vStore (insnWord (.vstx u vs ra vi m iw sc)) u vs m [ra.val] [vi.val] (indexBad c u iw) (iw.val == 3)
    (indexForm c u ra vi iw sc vs) c)
def execVlseg (u : StrandId) (vd ra : Fin 32) (m : Bool) (nf1 : Fin 4) (late : Bool) (s : State) : Ans :=
  onChip s (fun c => vLoad (insnWord (.vlseg u vd ra m nf1 late)) u vd m [ra.val] [] false (nf1.val == 0)
    (segForm c u ra nf1 vd) late c)
def execVsseg (u : StrandId) (vs ra : Fin 32) (m : Bool) (nf1 : Fin 4) (s : State) : Ans :=
  onChip s (fun c => vStore (insnWord (.vsseg u vs ra m nf1)) u vs m [ra.val] [] false (nf1.val == 0)
    (segForm c u ra nf1 vs) c)

end Sys2Proof.Machine
end

