-- ==== Sys2Proof/Machine/Dispatch.lean ====
section
/-! DEFINITION. What each command does: one arm per constructor, each one direct call of its meaning. -/

namespace Sys2Proof.Machine

/-- A command's effect on everything but the queue. -/
def exec (i : Instr) (s : State) : Host.Outcome State Fault Refusal :=
  match i with
  | .nop u => Sys2Proof.Machine.execNop u s
  | .wait u => Sys2Proof.Machine.execWait u s
  | .isync u => Sys2Proof.Machine.execIsync u s
  | .cinv u => Sys2Proof.Machine.execCinv u s
  | .xret u => Sys2Proof.Machine.execXret u s
  | .pmask u rd => Sys2Proof.Machine.execPmask u rd s
  | .trap u n => Sys2Proof.Machine.execTrap u n s
  | .brk u => Sys2Proof.Machine.execBrk u s
  | .add u rd ra rb => Sys2Proof.Machine.execAdd u rd ra rb s
  | .sub u rd ra rb => Sys2Proof.Machine.execSub u rd ra rb s
  | .and u rd ra rb => Sys2Proof.Machine.execAnd u rd ra rb s
  | .or u rd ra rb => Sys2Proof.Machine.execOr u rd ra rb s
  | .xor u rd ra rb => Sys2Proof.Machine.execXor u rd ra rb s
  | .shl u rd ra rb => Sys2Proof.Machine.execShl u rd ra rb s
  | .shr u rd ra rb => Sys2Proof.Machine.execShr u rd ra rb s
  | .sar u rd ra rb => Sys2Proof.Machine.execSar u rd ra rb s
  | .cmpeq u rd ra rb => Sys2Proof.Machine.execCmpeq u rd ra rb s
  | .cmpne u rd ra rb => Sys2Proof.Machine.execCmpne u rd ra rb s
  | .cmplt u rd ra rb => Sys2Proof.Machine.execCmplt u rd ra rb s
  | .cmpltu u rd ra rb => Sys2Proof.Machine.execCmpltu u rd ra rb s
  | .min u rd ra rb => Sys2Proof.Machine.execMin u rd ra rb s
  | .max u rd ra rb => Sys2Proof.Machine.execMax u rd ra rb s
  | .minu u rd ra rb => Sys2Proof.Machine.execMinu u rd ra rb s
  | .maxu u rd ra rb => Sys2Proof.Machine.execMaxu u rd ra rb s
  | .addi u rd ra imm => Sys2Proof.Machine.execAddi u rd ra imm s
  | .andi u rd ra imm => Sys2Proof.Machine.execAndi u rd ra imm s
  | .ori u rd ra imm => Sys2Proof.Machine.execOri u rd ra imm s
  | .xori u rd ra imm => Sys2Proof.Machine.execXori u rd ra imm s
  | .shli u rd ra sh => Sys2Proof.Machine.execShli u rd ra sh s
  | .shri u rd ra sh => Sys2Proof.Machine.execShri u rd ra sh s
  | .sari u rd ra sh => Sys2Proof.Machine.execSari u rd ra sh s
  | .movi u rd imm => Sys2Proof.Machine.execMovi u rd imm s
  | .movk u rd hw imm => Sys2Proof.Machine.execMovk u rd hw imm s
  | .cmpeqi u rd ra imm => Sys2Proof.Machine.execCmpeqi u rd ra imm s
  | .cmplti u rd ra imm => Sys2Proof.Machine.execCmplti u rd ra imm s
  | .bfx u rd ra pos len1 => Sys2Proof.Machine.execBfx u rd ra pos len1 s
  | .bfxs u rd ra pos len1 => Sys2Proof.Machine.execBfxs u rd ra pos len1 s
  | .bfi u rd ra pos len1 => Sys2Proof.Machine.execBfi u rd ra pos len1 s
  | .clz u rd ra => Sys2Proof.Machine.execClz u rd ra s
  | .bperm u rd ra rb => Sys2Proof.Machine.execBperm u rd ra rb s
  | .mul u rd ra rb => Sys2Proof.Machine.execMul u rd ra rb s
  | .mulh u rd ra rb => Sys2Proof.Machine.execMulh u rd ra rb s
  | .mulhu u rd ra rb => Sys2Proof.Machine.execMulhu u rd ra rb s
  | .div u rd ra rb late => Sys2Proof.Machine.execDiv u rd ra rb late s
  | .divu u rd ra rb late => Sys2Proof.Machine.execDivu u rd ra rb late s
  | .rem u rd ra rb late => Sys2Proof.Machine.execRem u rd ra rb late s
  | .remu u rd ra rb late => Sys2Proof.Machine.execRemu u rd ra rb late s
  | .ldw u rt ra m late => Sys2Proof.Machine.execLdw u rt ra m late s
  | .ldws u rt ra m late => Sys2Proof.Machine.execLdws u rt ra m late s
  | .ldd u rt ra m late => Sys2Proof.Machine.execLdd u rt ra m late s
  | .ldds u rt ra m late => Sys2Proof.Machine.execLdds u rt ra m late s
  | .ldq u rt ra m late => Sys2Proof.Machine.execLdq u rt ra m late s
  | .ldf u ft ra m late => Sys2Proof.Machine.execLdf u ft ra m late s
  | .stw u rt ra m => Sys2Proof.Machine.execStw u rt ra m s
  | .std u rt ra m => Sys2Proof.Machine.execStd u rt ra m s
  | .stq u rt ra m => Sys2Proof.Machine.execStq u rt ra m s
  | .stf u ft ra m => Sys2Proof.Machine.execStf u ft ra m s
  | .bc u ra cond off => Sys2Proof.Machine.execBc u ra cond off s
  | .b u off => Sys2Proof.Machine.execB u off s
  | .call u gl off => Sys2Proof.Machine.execCall u gl off s
  | .jr u ra => Sys2Proof.Machine.execJr u ra s
  | .callr u gl ra => Sys2Proof.Machine.execCallr u gl ra s
  | .loop u n ra => Sys2Proof.Machine.execLoop u n ra s
  | .loopi u n count => Sys2Proof.Machine.execLoopi u n count s
  | .mfc u g c => Sys2Proof.Machine.execMfc u g c s
  | .mtc u g c => Sys2Proof.Machine.execMtc u g c s
  | .fadd u fd fa fb => Sys2Proof.Machine.execFadd u fd fa fb s
  | .fsub u fd fa fb => Sys2Proof.Machine.execFsub u fd fa fb s
  | .fmul u fd fa fb => Sys2Proof.Machine.execFmul u fd fa fb s
  | .fmin u fd fa fb => Sys2Proof.Machine.execFmin u fd fa fb s
  | .fmax u fd fa fb => Sys2Proof.Machine.execFmax u fd fa fb s
  | .fabs u fd fa => Sys2Proof.Machine.execFabs u fd fa s
  | .fneg u fd fa => Sys2Proof.Machine.execFneg u fd fa s
  | .fcmpeq u gd fa fb => Sys2Proof.Machine.execFcmpeq u gd fa fb s
  | .fcmplt u gd fa fb => Sys2Proof.Machine.execFcmplt u gd fa fb s
  | .fcmple u gd fa fb => Sys2Proof.Machine.execFcmple u gd fa fb s
  | .fmvgf u fd ra => Sys2Proof.Machine.execFmvgf u fd ra s
  | .fmvfg u gd fa => Sys2Proof.Machine.execFmvfg u gd fa s
  | .fma u fd fa fb fc => Sys2Proof.Machine.execFma u fd fa fb fc s
  | .fdiv u fd fa fb late => Sys2Proof.Machine.execFdiv u fd fa fb late s
  | .fsqrt u fd fa late => Sys2Proof.Machine.execFsqrt u fd fa late s
  | .fcvtFp32Bf16 u fd fa => Sys2Proof.Machine.execFcvtFp32Bf16 u fd fa s
  | .fcvtFp32Fp16 u fd fa => Sys2Proof.Machine.execFcvtFp32Fp16 u fd fa s
  | .fcvtBf16Fp32 u fd fa => Sys2Proof.Machine.execFcvtBf16Fp32 u fd fa s
  | .fcvtFp16Fp32 u fd fa => Sys2Proof.Machine.execFcvtFp16Fp32 u fd fa s
  | .fcvtFp32I16 u gd fa => Sys2Proof.Machine.execFcvtFp32I16 u gd fa s
  | .fcvtI16Fp32 u fd ga => Sys2Proof.Machine.execFcvtI16Fp32 u fd ga s
  | .resultComputed u reg => Sys2Proof.Machine.execResultComputed u reg s
  | .exceptionEntry u insn => Sys2Proof.Machine.execExceptionEntry u insn s
  | .vlset u gd ra sew fmt => Sys2Proof.Machine.execVlset u gd ra sew fmt s
  | .vlseti u gd sew fmt imm => Sys2Proof.Machine.execVlseti u gd sew fmt imm s
  | .vmfc u g vc => Sys2Proof.Machine.execVmfc u g vc s
  | .vmtc u g vc => Sys2Proof.Machine.execVmtc u g vc s
  | .vld u vd ra m late => Sys2Proof.Machine.execVld u vd ra m late s
  | .vst u vs ra m => Sys2Proof.Machine.execVst u vs ra m s
  | .vlds u vd ra rb m late => Sys2Proof.Machine.execVlds u vd ra rb m late s
  | .vsts u vs ra rb m => Sys2Proof.Machine.execVsts u vs ra rb m s
  | .vldx u vd ra vi m iw sc late => Sys2Proof.Machine.execVldx u vd ra vi m iw sc late s
  | .vstx u vs ra vi m iw sc => Sys2Proof.Machine.execVstx u vs ra vi m iw sc s
  | .vlseg u vd ra m nf1 late => Sys2Proof.Machine.execVlseg u vd ra m nf1 late s
  | .vsseg u vs ra m nf1 => Sys2Proof.Machine.execVsseg u vs ra m nf1 s
  | .vadd u vd va vb m => Sys2Proof.Machine.execVadd u vd va vb m s
  | .vsub u vd va vb m => Sys2Proof.Machine.execVsub u vd va vb m s
  | .vand u vd va vb m => Sys2Proof.Machine.execVand u vd va vb m s
  | .vor u vd va vb m => Sys2Proof.Machine.execVor u vd va vb m s
  | .vxor u vd va vb m => Sys2Proof.Machine.execVxor u vd va vb m s
  | .vshl u vd va vb m => Sys2Proof.Machine.execVshl u vd va vb m s
  | .vshr u vd va vb m => Sys2Proof.Machine.execVshr u vd va vb m s
  | .vsar u vd va vb m => Sys2Proof.Machine.execVsar u vd va vb m s
  | .vmin u vd va vb m => Sys2Proof.Machine.execVmin u vd va vb m s
  | .vmax u vd va vb m => Sys2Proof.Machine.execVmax u vd va vb m s
  | .vminu u vd va vb m => Sys2Proof.Machine.execVminu u vd va vb m s
  | .vmaxu u vd va vb m => Sys2Proof.Machine.execVmaxu u vd va vb m s
  | .vmul u vd va vb m => Sys2Proof.Machine.execVmul u vd va vb m s
  | .vcmpeq u vd va vb m => Sys2Proof.Machine.execVcmpeq u vd va vb m s
  | .vcmplt u vd va vb m => Sys2Proof.Machine.execVcmplt u vd va vb m s
  | .vcmpltu u vd va vb m => Sys2Proof.Machine.execVcmpltu u vd va vb m s
  | .vmv u vd va m => Sys2Proof.Machine.execVmv u vd va m s
  | .vsplat u vd gb m => Sys2Proof.Machine.execVsplat u vd gb m s
  | .vmvxs u gd va m => Sys2Proof.Machine.execVmvxs u gd va m s
  | .vsadd u vd va vb m => Sys2Proof.Machine.execVsadd u vd va vb m s
  | .vssub u vd va vb m => Sys2Proof.Machine.execVssub u vd va vb m s
  | .vsmulr u vd va vb m => Sys2Proof.Machine.execVsmulr u vd va vb m s
  | .vsshr u vd va vb m => Sys2Proof.Machine.execVsshr u vd va vb m s
  | .vsshl u vd va vb m => Sys2Proof.Machine.execVsshl u vd va vb m s
  | .vfadd u vd va vb m => Sys2Proof.Machine.execVfadd u vd va vb m s
  | .vfsub u vd va vb m => Sys2Proof.Machine.execVfsub u vd va vb m s
  | .vfmul u vd va vb m => Sys2Proof.Machine.execVfmul u vd va vb m s
  | .vfmin u vd va vb m => Sys2Proof.Machine.execVfmin u vd va vb m s
  | .vfmax u vd va vb m => Sys2Proof.Machine.execVfmax u vd va vb m s
  | .vfabs u vd va m => Sys2Proof.Machine.execVfabs u vd va m s
  | .vfneg u vd va m => Sys2Proof.Machine.execVfneg u vd va m s
  | .vfcmpeq u vd va vb m => Sys2Proof.Machine.execVfcmpeq u vd va vb m s
  | .vfcmplt u vd va vb m => Sys2Proof.Machine.execVfcmplt u vd va vb m s
  | .vfcmple u vd va vb m => Sys2Proof.Machine.execVfcmple u vd va vb m s
  | .vfredsum u fd va m late => Sys2Proof.Machine.execVfredsum u fd va m late s
  | .vfredmax u fd va m late => Sys2Proof.Machine.execVfredmax u fd va m late s
  | .vfma u vd va vb vc m => Sys2Proof.Machine.execVfma u vd va vb vc m s
  | .vcvtFp32Bf16 u vd va m rm => Sys2Proof.Machine.execVcvtFp32Bf16 u vd va m rm s
  | .vcvtFp32Fp16 u vd va m rm => Sys2Proof.Machine.execVcvtFp32Fp16 u vd va m rm s
  | .vcvtBf16Fp32 u vd va m rm => Sys2Proof.Machine.execVcvtBf16Fp32 u vd va m rm s
  | .vcvtFp16Fp32 u vd va m rm => Sys2Proof.Machine.execVcvtFp16Fp32 u vd va m rm s
  | .vcvtFp32I16 u vd va m rm => Sys2Proof.Machine.execVcvtFp32I16 u vd va m rm s
  | .vcvtI16Fp32 u vd va m rm => Sys2Proof.Machine.execVcvtI16Fp32 u vd va m rm s
  | .vcvtFp32Q8 u vd va vb m rm => Sys2Proof.Machine.execVcvtFp32Q8 u vd va vb m rm s
  | .vcvtFp32Q6 u vd va vb m rm => Sys2Proof.Machine.execVcvtFp32Q6 u vd va vb m rm s
  | .vcvtFp32Q4 u vd va vb m rm => Sys2Proof.Machine.execVcvtFp32Q4 u vd va vb m rm s
  | .vcvtFp32I8 u vd va vb m rm => Sys2Proof.Machine.execVcvtFp32I8 u vd va vb m rm s
  | .vcvtQ8Fp32 u vd va vb m rm => Sys2Proof.Machine.execVcvtQ8Fp32 u vd va vb m rm s
  | .vcvtQ6Fp32 u vd va vb m rm => Sys2Proof.Machine.execVcvtQ6Fp32 u vd va vb m rm s
  | .vcvtQ4Fp32 u vd va vb m rm => Sys2Proof.Machine.execVcvtQ4Fp32 u vd va vb m rm s
  | .vcvtI8Fp32 u vd va vb m rm => Sys2Proof.Machine.execVcvtI8Fp32 u vd va vb m rm s
  | .tshape u g => Sys2Proof.Machine.execTshape u g s
  | .tmfc u g tc => Sys2Proof.Machine.execTmfc u g tc s
  | .tmtc u g tc => Sys2Proof.Machine.execTmtc u g tc s
  | .tqdrop u => Sys2Proof.Machine.execTqdrop u s
  | .tfence u => Sys2Proof.Machine.execTfence u s
  | .tld u t ra rb => Sys2Proof.Machine.execTld u t ra rb s
  | .tldT u t ra rb => Sys2Proof.Machine.execTldT u t ra rb s
  | .tst u t ra rb => Sys2Proof.Machine.execTst u t ra rb s
  | .twld u a ra rb => Sys2Proof.Machine.execTwld u a ra rb s
  | .twldT u a ra rb => Sys2Proof.Machine.execTwldT u a ra rb s
  | .tmac u sl a t b swap sr => Sys2Proof.Machine.execTmac u sl a t b swap sr s
  | .taccZero u sl a ra rb => Sys2Proof.Machine.execTaccZero u sl a ra rb s
  | .taccRead u sl a t fmt rm b => Sys2Proof.Machine.execTaccRead u sl a t fmt rm b s
  | .taccSpill u sl a ra z => Sys2Proof.Machine.execTaccSpill u sl a ra z s
  | .tileCommit u => Sys2Proof.Machine.execTileCommit u s
  | .bankAccess cl bank errs => Sys2Proof.Machine.execBankAccess cl bank errs s
  | .cacheFill core => Sys2Proof.Machine.execCacheFill core s
  | .dmaActivate cl => Sys2Proof.Machine.execDmaActivate cl s
  | .dmaPieceIssue cl => Sys2Proof.Machine.execDmaPieceIssue cl s
  | .dmaPieceWrite cl n => Sys2Proof.Machine.execDmaPieceWrite cl n s
  | .hbmRequest k src line wr mask ws => Sys2Proof.Machine.execHbmRequest k src line wr mask ws s
  | .ticketRecall k bank => Sys2Proof.Machine.execTicketRecall k bank s
  | .dramAccess k bank err => Sys2Proof.Machine.execDramAccess k bank err s
  | .refresh k bank => Sys2Proof.Machine.execRefresh k bank s
  | .patrolScrub k err => Sys2Proof.Machine.execPatrolScrub k err s
  | .refreshBandChange k temp => Sys2Proof.Machine.execRefreshBandChange k temp s
  | .wipe k => Sys2Proof.Machine.execWipe k s
  | .wipeEnd k => Sys2Proof.Machine.execWipeEnd k s
  | .hmcKeyClear k => Sys2Proof.Machine.execHmcKeyClear k s
  | .hmcKeyWrite k n v => Sys2Proof.Machine.execHmcKeyWrite k n v s
  | .ethKeyClear n => Sys2Proof.Machine.execEthKeyClear n s
  | .ethKeyWrite p n v => Sys2Proof.Machine.execEthKeyWrite p n v s
  | .scacheInv cl mask => Sys2Proof.Machine.execScacheInv cl mask s
  | .padHold blk => Sys2Proof.Machine.execPadHold blk s
  | .plReq cl lvl => Sys2Proof.Machine.execPlReq cl lvl s
  | .levelChangeDone cl => Sys2Proof.Machine.execLevelChangeDone cl s
  | .clk cl => Sys2Proof.Machine.execClk cl s
  | .run blk v => Sys2Proof.Machine.execRun blk v s
  | .agreementCheck blk => Sys2Proof.Machine.execAgreementCheck blk s
  | .blockDrained blk => Sys2Proof.Machine.execBlockDrained blk s
  | .stopHung blk => Sys2Proof.Machine.execStopHung blk s
  | .registerWrite blk off v => Sys2Proof.Machine.execRegisterWrite blk off v s
  | .rcRead blk off => Sys2Proof.Machine.execRcRead blk off s
  | .ringRequest o node off wr => Sys2Proof.Machine.execRingRequest o node off wr s
  | .ringResponse o => Sys2Proof.Machine.execRingResponse o s
  | .report node => Sys2Proof.Machine.execReport node s
  | .classroomRelease cl => Sys2Proof.Machine.execClassroomRelease cl s
  | .lessonEnd u => Sys2Proof.Machine.execLessonEnd u s
  | .pumpRelease k => Sys2Proof.Machine.execPumpRelease k s
  | .pass1Complete k => Sys2Proof.Machine.execPass1Complete k s
  | .pass2Complete k => Sys2Proof.Machine.execPass2Complete k s
  | .deviceReady => Sys2Proof.Machine.execDeviceReady s
  | .bellRing ns => Sys2Proof.Machine.execBellRing ns s
  | .haltStop => Sys2Proof.Machine.execHaltStop s
  | .periodHang => Sys2Proof.Machine.execPeriodHang s
  | .peerSilent rank => Sys2Proof.Machine.execPeerSilent rank s
  | .readyRepeat => Sys2Proof.Machine.execReadyRepeat s
  | .windowStart w => Sys2Proof.Machine.execWindowStart w s
  | .frameTransmit p => Sys2Proof.Machine.execFrameTransmit p s
  | .data p f lateNs => Sys2Proof.Machine.execData p f lateNs s
  | .done p f => Sys2Proof.Machine.execDone p f s
  | .nak p f => Sys2Proof.Machine.execNak p f s
  | .nakTimer p w => Sys2Proof.Machine.execNakTimer p w s
  | .doneTimeout p w => Sys2Proof.Machine.execDoneTimeout p w s
  | .ready p f => Sys2Proof.Machine.execReady p f s
  | .ring p f => Sys2Proof.Machine.execRing p f s
  | .halt p f => Sys2Proof.Machine.execHalt p f s
  | .agree p f => Sys2Proof.Machine.execAgree p f s
  | .probe p f => Sys2Proof.Machine.execProbe p f s
  | .probeReply p f rttNs => Sys2Proof.Machine.execProbeReply p f rttNs s
  | .wake p dstMatch => Sys2Proof.Machine.execWake p dstMatch s
  | .linkDown p => Sys2Proof.Machine.execLinkDown p s
  | .linkUp p => Sys2Proof.Machine.execLinkUp p s
  | .roceRequestIn p => Sys2Proof.Machine.execRoceRequestIn p s
  | .roceCnp p => Sys2Proof.Machine.execRoceCnp p s
  | .roceRateRise p => Sys2Proof.Machine.execRoceRateRise p s
  | .phFlag p h v => Sys2Proof.Machine.execPhFlag p h v s
  | .commandAccept => Sys2Proof.Machine.execCommandAccept s
  | .longCommandDone => Sys2Proof.Machine.execLongCommandDone s
  | .ident p h => Sys2Proof.Machine.execIdent p h s
  | .heartbeat p h => Sys2Proof.Machine.execHeartbeat p h s
  | .roleHandover p h => Sys2Proof.Machine.execRoleHandover p h s
  | .roleClaim p h => Sys2Proof.Machine.execRoleClaim p h s
  | .eventRead p h => Sys2Proof.Machine.execEventRead p h s
  | .settingsRead p h => Sys2Proof.Machine.execSettingsRead p h s
  | .settingsWrite p h => Sys2Proof.Machine.execSettingsWrite p h s
  | .regRead p h => Sys2Proof.Machine.execRegRead p h s
  | .regWrite p h => Sys2Proof.Machine.execRegWrite p h s
  | .powerStateRun p h => Sys2Proof.Machine.execPowerStateRun p h s
  | .powerStatePause p h => Sys2Proof.Machine.execPowerStatePause p h s
  | .powerStateRecess p h => Sys2Proof.Machine.execPowerStateRecess p h s
  | .powerStateClosed p h => Sys2Proof.Machine.execPowerStateClosed p h s
  | .powerStateSleep p h => Sys2Proof.Machine.execPowerStateSleep p h s
  | .attest p h => Sys2Proof.Machine.execAttest p h s
  | .ideKeyx p h => Sys2Proof.Machine.execIdeKeyx p h s
  | .ideStart p h => Sys2Proof.Machine.execIdeStart p h s
  | .ideFail p => Sys2Proof.Machine.execIdeFail p s
  | .fwBlock p h => Sys2Proof.Machine.execFwBlock p h s
  | .fwCommit p h => Sys2Proof.Machine.execFwCommit p h s
  | .fwAbort p h => Sys2Proof.Machine.execFwAbort p h s
  | .jobBlock p h => Sys2Proof.Machine.execJobBlock p h s
  | .jobLoad p h => Sys2Proof.Machine.execJobLoad p h s
  | .jobStart p h => Sys2Proof.Machine.execJobStart p h s
  | .jobAbort p h => Sys2Proof.Machine.execJobAbort p h s
  | .jobStatus p h => Sys2Proof.Machine.execJobStatus p h s
  | .jobUnload p h => Sys2Proof.Machine.execJobUnload p h s
  | .schoolRejoin p h => Sys2Proof.Machine.execSchoolRejoin p h s
  | .roceQp p h => Sys2Proof.Machine.execRoceQp p h s
  | .stageInput p h => Sys2Proof.Machine.execStageInput p h s
  | .stepResync p h => Sys2Proof.Machine.execStepResync p h s
  | .retiredRows p h => Sys2Proof.Machine.execRetiredRows p h s
  | .sleeperStatus p h => Sys2Proof.Machine.execSleeperStatus p h s
  | .shardRefill p h => Sys2Proof.Machine.execShardRefill p h s
  | .shardResume p h => Sys2Proof.Machine.execShardResume p h s
  | .shardRebuild p h => Sys2Proof.Machine.execShardRebuild p h s
  | .checkpointSave p h => Sys2Proof.Machine.execCheckpointSave p h s
  | .checkpointLoad p h => Sys2Proof.Machine.execCheckpointLoad p h s
  | .replay p h => Sys2Proof.Machine.execReplay p h s
  | .corePigeonMessage core => Sys2Proof.Machine.execCorePigeonMessage core s
  | .log core => Sys2Proof.Machine.execLog core s
  | .query core => Sys2Proof.Machine.execQuery core s
  | .corePigeonReply core => Sys2Proof.Machine.execCorePigeonReply core s
  | .ownerTimeout => Sys2Proof.Machine.execOwnerTimeout s
  | .pcieLinkChange p link => Sys2Proof.Machine.execPcieLinkChange p link s
  | .pcieReset p kind => Sys2Proof.Machine.execPcieReset p kind s
  | .coldReset => Sys2Proof.Machine.execColdReset s
  | .computeReset => Sys2Proof.Machine.execComputeReset s
  | .classroomReset mask => Sys2Proof.Machine.execClassroomReset mask s
  | .coreReset core => Sys2Proof.Machine.execCoreReset core s
  | .stackReset mask => Sys2Proof.Machine.execStackReset mask s
  | .portReset mask => Sys2Proof.Machine.execPortReset mask s
  | .romWatchdog => Sys2Proof.Machine.execRomWatchdog s
  | .inputInRange => Sys2Proof.Machine.execInputInRange s
  | .inputOutOfRange => Sys2Proof.Machine.execInputOutOfRange s
  | .moduleRstFall => Sys2Proof.Machine.execModuleRstFall s
  | .moduleRstRise => Sys2Proof.Machine.execModuleRstRise s
  | .fuseSense => Sys2Proof.Machine.execFuseSense s
  | .settingsMount => Sys2Proof.Machine.execSettingsMount s
  | .hbmBringup => Sys2Proof.Machine.execHbmBringup s
  | .computeBringup => Sys2Proof.Machine.execComputeBringup s
  | .stagingErase => Sys2Proof.Machine.execStagingErase s
  | .dstateReady => Sys2Proof.Machine.execDstateReady s
  | .flashRefresh worn => Sys2Proof.Machine.execFlashRefresh worn s
  | .flashBad blk => Sys2Proof.Machine.execFlashBad blk s
  | .eventLogFlush => Sys2Proof.Machine.execEventLogFlush s
  | .refusalStore => Sys2Proof.Machine.execRefusalStore s
  | .pllLock x => Sys2Proof.Machine.execPllLock x s
  | .spillwayTick m => Sys2Proof.Machine.execSpillwayTick m s
  | .floorTick => Sys2Proof.Machine.execFloorTick s
  | .pl0ResidencyTick => Sys2Proof.Machine.execPl0ResidencyTick s
  | .sluiceDroop cl => Sys2Proof.Machine.execSluiceDroop cl s
  | .sluiceRelease cl => Sys2Proof.Machine.execSluiceRelease cl s
  | .breach node temp => Sys2Proof.Machine.execBreach node temp s
  | .breachClear => Sys2Proof.Machine.execBreachClear s
  | .corePause core => Sys2Proof.Machine.execCorePause core s
  | .coreWake core => Sys2Proof.Machine.execCoreWake core s
  | .recessEntry cl => Sys2Proof.Machine.execRecessEntry cl s
  | .recessWake cl code => Sys2Proof.Machine.execRecessWake cl code s
  | .powerStateTimeout => Sys2Proof.Machine.execPowerStateTimeout s
  | .deviceWake code => Sys2Proof.Machine.execDeviceWake code s
  | .getTid => Sys2Proof.Machine.execGetTid s
  | .getPldmVersion ty => Sys2Proof.Machine.execGetPldmVersion ty s
  | .getPldmTypes => Sys2Proof.Machine.execGetPldmTypes s
  | .getPldmCommands ty => Sys2Proof.Machine.execGetPldmCommands ty s
  | .getPdrRepositoryInfo => Sys2Proof.Machine.execGetPdrRepositoryInfo s
  | .getPdr handle => Sys2Proof.Machine.execGetPdr handle s
  | .getSensorReading id => Sys2Proof.Machine.execGetSensorReading id s
  | .getStateSensorReadings id => Sys2Proof.Machine.execGetStateSensorReadings id s
  | .pldmUnsupported ty cmd => Sys2Proof.Machine.execPldmUnsupported ty cmd s
  | .setEndpointId eid => Sys2Proof.Machine.execSetEndpointId eid s
  | .getEndpointId => Sys2Proof.Machine.execGetEndpointId s
  | .getMctpVersionSupport => Sys2Proof.Machine.execGetMctpVersionSupport s
  | .getMessageTypeSupport => Sys2Proof.Machine.execGetMessageTypeSupport s
  | .setaasa => Sys2Proof.Machine.execSetaasa s
  | .entdaa addr => Sys2Proof.Machine.execEntdaa addr s
  | .droppedFrame p why => Sys2Proof.Machine.execDroppedFrame p why s
  | .priorityFlowControl p prio pause => Sys2Proof.Machine.execPriorityFlowControl p prio pause s
  | .roceResponse p qp a => Sys2Proof.Machine.execRoceResponse p qp a s
  | .roceRetry p qp => Sys2Proof.Machine.execRoceRetry p qp s
  | .commandBlockWrite p sp off bs => Sys2Proof.Machine.execCommandBlockWrite p sp off bs s
  | .rcCounterSweep => Sys2Proof.Machine.execRcCounterSweep s

end Sys2Proof.Machine
end

