-- ==== Sys2Proof/Safety.lean ====
section
/-! DEFINITION. What counts as a safe step, and the conditions on a state under which a strand carries an
instruction out, in the terms the statements use. -/

namespace Sys2Proof.Machine

/-- The memory keeps its canonical form: addresses rise, no entry reads as an unlisted byte does. -/
abbrev Memory.wf (s : State) : Prop := TableWf memDflt s.chip.mem

/-- A command answers a next state. -/
abbrev Completes (i : Instr) (s : State) : Prop := ∃ t, exec i s = .next t

/-- The strand can use a slot now (R55, R94, R96), and nothing of orders 0 to 2 of R152 comes before its instruction: no
owed exception, no enabled interrupt, no fetch fault. -/
abbrev Ready (c : Chip) (u : StrandId) : Prop := canIssue c u = true ∧ earlyExc c u = none

/-- The strand's PC is LEND, where the loop-back decision of R129 is made. -/
abbrev atEnd (st : Strand) : Prop := st.pc = (creg st 4).toNat

/-- The loop rules let an instruction that is no branch issue here (R130): at LEND with LCOUNT not 0 it is in
no delay slot, and at LEND no write to LCOUNT is pending. -/
abbrev LoopsClear (st : Strand) : Prop :=
  atEnd st → (creg st 5 = 0 ∨ st.pb = none) ∧ ∀ w ∈ st.pend, w.reg ≠ 69

/-- No source register is poisoned (R105). -/
abbrev Clean (c : Chip) (u : StrandId) (srcs : List Nat) : Prop := ∀ r ∈ srcs, regPois c u r = false

/-- No pending write of the strand stands in the way of writes of these distances (R101). -/
abbrev InOrder (st : Strand) (dsts : List (Nat × Nat)) : Prop := ∀ d ∈ dsts, ∀ w ∈ st.pend, w.reg = d.1 → w.k < d.2

/-- The strand owns these vector registers, and none of them has a vector write pending (R176, R200). -/
abbrev OwnsFree (st : Strand) (regs : List Nat) : Prop :=
  ∀ n ∈ regs, natBit (vcreg st 6).toNat n = true ∧ ∀ w ∈ st.pendV, w.reg ≠ n

/-- The strand carries out, now, an instruction that is no branch, reads srcs and writes dsts (register code
and distance), and names these float registers; conditions of the instruction's own kind apart. -/
abbrev Runs (c : Chip) (u : StrandId) (srcs : List Nat) (dsts : List (Nat × Nat)) (fregs : List Nat) : Prop :=
  Ready c u ∧ LoopsClear (strandOf c u) ∧ Clean c u srcs ∧ InOrder (strandOf c u) dsts ∧ OwnsFree (strandOf c u) fregs

/-- The same for a branch, a loop start or a return: no branch is pending (R126), and the strand is not at the end of a
loop that runs (R130). -/
abbrev RunsBranch (c : Chip) (u : StrandId) (srcs : List Nat) (dsts : List (Nat × Nat)) : Prop :=
  Ready c u ∧ (strandOf c u).pb = none ∧ (atEnd (strandOf c u) → creg (strandOf c u) 5 = 0) ∧
    LoopsClear (strandOf c u) ∧ Clean c u srcs ∧ InOrder (strandOf c u) dsts

/-- The state with another package. -/
abbrev State.withChip (s : State) (c : Chip) : State := { s with chip := c }

end Sys2Proof.Machine
end

