-- ==== Sys2Proof/Certificates/Slice0/Obligations.lean ====
section
/-! DEFINITION. The statements for the provers, from the numbered rules of spec/. A statement about a strand's instruction
names the conditions under which it runs (Safety.lean); where a value or a behaviour is the model's own choice, its docstring
names the log entry. -/

open Sys2Proof Sys2Proof.Machine

/-! ### The block -/

/-- Block rule: a step takes the front command and carries it out on the state with the queue's rest; on an
empty queue the state stays (log entry 2). -/
def Obligations.StepRunsTheFrontCommand : Prop :=
  (∀ (c : Instr) (rest : List Instr) (s : State), step { s with pending := c :: rest } = exec c { s with pending := rest }) ∧
  ∀ s : State, s.pending = [] → step s = .next s

namespace Sys2Proof.Machine

/-- No command ends in a fault or a refusal, whatever the state (the model has no stop). -/
def EveryCommandAnswersANextState : Prop := ∀ (i : Instr) (s : State), Completes i s

/-- A command never adds, removes or changes a waiting command. -/
def CommandsLeaveTheQueueAlone : Prop :=
  ∀ (i : Instr) (s t : State), exec i s = .next t → t.pending = s.pending

end Sys2Proof.Machine

/-- Every step keeps the memory in its canonical form. -/
def Obligations.StepKeepsMemoryCanonical : Prop :=
  ∀ s t : State, Memory.wf s → step s = .next t → Memory.wf t

namespace Sys2Proof.Machine

/-- The queues keep their bounds: at a bank of a classroom each core holds at most 3 entries and the mesh port
16 (R284); the queue of a DRAM bank holds 32 requests, places kept for recalled ones among them, and that of a
pseudo-channel 128 (R332); the pieces of a DMA engine hold different tags, each below 512 (R298). -/
def QueuesInBounds (c : Chip) : Prop :=
  (∀ r b, (∀ e ∈ (bankQ (roomOf c r) b).q, e.rq ≤ 16) ∧
    ∀ rq, ((bankQ (roomOf c r) b).q.filter (fun e => e.rq == rq)).length ≤ (if rq = 16 then 16 else 3)) ∧
  (∀ x ∈ c.waiting, x.2.2.rq ≤ 16) ∧
  (∀ k b, (dramOf c k b).q.length + (dramOf c k b).recalled.length ≤ 32) ∧
  (∀ k b, ((List.range 64).map (fun i => (dramOf c k (64 * (b / 64) + i)).q.length)).sum ≤ 128) ∧
  ∀ r, (∀ p ∈ (dmaOf c r).pieces, p.tag < 512) ∧ ((dmaOf c r).pieces.map DmaPiece.tag).Nodup

/-- A value that MODE may hold: no reserved bit, no SLEEP of 0b11, no FRM above 0b100 (R91). -/
def LegalMode (v : W64) : Prop :=
  v &&& ~~~(0x8C07 : W64) = 0 ∧ v.toNat / 2 ^ 10 % 4 ≠ 3 ∧ v.toNat % 8 ≤ 4

/-- Every strand's MODE, and every pending write of it, is one that MODE may hold. -/
def ModesLegal (c : Chip) : Prop :=
  ∀ u : StrandId, LegalMode (creg (strandOf c u) 0) ∧ ∀ w ∈ (strandOf c u).pend, w.reg = 64 → LegalMode w.val

/-- The settings of a classroom that is RUNNING or STOPPING agree (R57, R315): only enabled cores have their
pigeonholes enabled, and the two speculative ranges lie below the reserved area and apart. -/
def SettingsAgree (c : Chip) : Prop :=
  ∀ r : Fin 64, 2 ≤ bState c (.cls r) →
    let home := getF c (.cls r) 0x01A 16 0
    let shadow := getF c (.cls r) 0x01C 16 0
    let size := getF c (.cls r) 0x01E 14 0
    getF c (.cls r) 0x010 31 16 &&& getF c (.cls r) 0x010 15 0 = getF c (.cls r) 0x010 31 16 ∧
    (size = 0 ∨ home + size ≤ shadow ∨ shadow + size ≤ home) ∧ size ≤ 16384 ∧
    home + size ≤ 0x1FC00 ∧ shadow + size ≤ 0x1FC00

end Sys2Proof.Machine

/-- R284, R298, R332: every step keeps the bounds of the bank, DRAM and pseudo-channel queues and the tags of
a DMA engine apart, so that no bank of a classroom ever holds more than 64 entries. -/
def Obligations.StepKeepsQueuesInBounds : Prop :=
  (∀ s t : State, QueuesInBounds s.chip → step s = .next t → QueuesInBounds t.chip) ∧
  ∀ c : Chip, QueuesInBounds c → ∀ r b, (bankQ (roomOf c r) b).q.length ≤ 64

/-- R91, R92, R169, R313, R314, R317: every step keeps the settings of a running classroom agreed, and every
MODE legal where the lessons of the period that CLASSROOM_RELEASE may start bring legal values; a lesson entry
that passes the check FORMAT brings one (R413). -/
def Obligations.StepKeepsModesAndSettings : Prop :=
  (∀ s t : State, SettingsAgree s.chip → step s = .next t → SettingsAgree t.chip) ∧
  (∀ s t : State, ModesLegal s.chip →
    (∀ j, jobOf s = some j → ∀ l ∈ j.lessons (periodNow s), LegalMode (BitVec.ofNat 64 l.2.mode)) →
    step s = .next t → ModesLegal t.chip) ∧
  ∀ (j : Job) (i : Nat), formatLesson j i = none → LegalMode (BitVec.ofNat 64 (j.les i).mode)

namespace Sys2Proof.Machine

/-- The fields of the control space whose Reset column is not 0 (R303, R349, R397, R428, R458, R552, R553):
kind of block, word offset, highest and lowest bit, value. -/
def nonZeroResets : List (BKind × Nat × Nat × Nat × Nat) :=
  [(.cls, 0x028, 23, 20, 1), (.cls, 0x028, 6, 4, 7), (.cls, 0x028, 2, 0, 7), (.cls, 0x02A, 31, 0, 0x11111111)] ++
  [(.cls, 0x02C, 31, 0, 0x11111111), (.dma, 0x010, 25, 16, 0x200), (.dma, 0x010, 14, 8, 0x40), (.hmc, 0x010, 23, 16, 0x18)] ++
  [(.hmc, 0x010, 0, 0, 1), (.pmp, 0x01A, 31, 30, 3), (.bel, 0x014, 31, 30, 3), (.eth, 0x010, 5, 5, 1)]

end Sys2Proof.Machine

/-- After reset: memory lists nothing, no command waits, no report and no free value has been used, no input
is in range and the boot has not begun (R580); a strand's registers hold the Reset column (R90, R142, R178,
R211), every field of every block register its Reset value (R18, R42), which is 0 but for the fields listed,
every block is STOPPED (R44), and what the step invariants say holds. -/
def Obligations.ResetHoldsTheResetColumns : Prop :=
  Memory.wf State.reset ∧ State.reset.chip.mem = [] ∧ State.reset.pending = [] ∧ State.reset.chip.reports = [] ∧
  QueuesInBounds State.reset.chip ∧ ModesLegal State.reset.chip ∧ SettingsAgree State.reset.chip ∧
  State.reset.chip.fresh = 0 ∧ State.reset.dev.boot.inRange = false ∧ State.reset.dev.boot.phase = 0 ∧
  (∀ u : StrandId,
    let st := strandOf State.reset.chip u
    st.run = .idle ∧ st.pend = [] ∧ creg st 16 = 2 ∧ (∀ n, n ≠ 16 → creg st n = 0) ∧ (∀ n, greg st n = 0) ∧
    vcreg st 6 = (if u.strand.val = 0 then 0xFFFFFFFF else 0) ∧ tcreg st 1 = (if u.strand.val = 0 then 0x3FF else 0)) ∧
  (∀ b : BlockId, bState State.reset.chip b = 0) ∧
  (∀ (b : BlockId) (f : FieldRow), f ∈ fieldsOf (blockKind b) → getF State.reset.chip b f.off f.hi f.lo = f.reset) ∧
  ∀ (b : BlockId) (f : FieldRow), f ∈ fieldsOf (blockKind b) →
    (f.reset ≠ 0 ↔ (blockKind b, f.off, f.hi, f.lo, f.reset) ∈ nonZeroResets)

/-! ### Scalar integer instructions (R103, R113, R114, R133 to R135) -/

namespace Sys2Proof.Machine

/-- A scalar integer instruction: its strand, the general registers it reads, its destination, distance,
whether its unit still computes (log entry 7), and the result it gives for the values it reads. -/
structure IntOp where
  u : StrandId
  srcs : List (Fin 32)
  rd : Fin 32
  d : Nat
  late : Bool
  val : (Fin 32 → W64) → W64

/-- 1 when the relation holds, else 0 (R113). -/
def flag64 (p : Prop) [Decidable p] : W64 := if p then 1 else 0

/-- The mask of a bit field of R133. -/
def fieldMask (pos len : Nat) : W64 := BitVec.ofNat 64 (2 ^ len - 1) <<< pos

/-- The tables of R113, R114 and the pseudocode of R133 to R135, with the distances of R103. -/
def intOp : Instr → Option IntOp
  | .add u rd ra rb => some ⟨u, [ra, rb], rd, 1, false, fun g => BitVec.ofInt 64 ((g ra).toInt + (g rb).toInt)⟩
  | .sub u rd ra rb => some ⟨u, [ra, rb], rd, 1, false, fun g => BitVec.ofInt 64 ((g ra).toInt - (g rb).toInt)⟩
  | .and u rd ra rb => some ⟨u, [ra, rb], rd, 1, false, fun g => g ra &&& g rb⟩
  | .or u rd ra rb => some ⟨u, [ra, rb], rd, 1, false, fun g => g ra ||| g rb⟩
  | .xor u rd ra rb => some ⟨u, [ra, rb], rd, 1, false, fun g => g ra ^^^ g rb⟩
  | .shl u rd ra rb => some ⟨u, [ra, rb], rd, 1, false, fun g => BitVec.ofNat 64 ((g ra).toNat * 2 ^ ((g rb).toNat % 64))⟩
  | .shr u rd ra rb => some ⟨u, [ra, rb], rd, 1, false, fun g => BitVec.ofNat 64 ((g ra).toNat / 2 ^ ((g rb).toNat % 64))⟩
  | .sar u rd ra rb => some ⟨u, [ra, rb], rd, 1, false, fun g => BitVec.ofInt 64 ((g ra).toInt / 2 ^ ((g rb).toNat % 64))⟩
  | .cmpeq u rd ra rb => some ⟨u, [ra, rb], rd, 1, false, fun g => flag64 (g ra = g rb)⟩
  | .cmpne u rd ra rb => some ⟨u, [ra, rb], rd, 1, false, fun g => flag64 (g ra ≠ g rb)⟩
  | .cmplt u rd ra rb => some ⟨u, [ra, rb], rd, 1, false, fun g => flag64 ((g ra).toInt < (g rb).toInt)⟩
  | .cmpltu u rd ra rb => some ⟨u, [ra, rb], rd, 1, false, fun g => flag64 ((g ra).toNat < (g rb).toNat)⟩
  | .min u rd ra rb => some ⟨u, [ra, rb], rd, 1, false, fun g => BitVec.ofInt 64 (min (g ra).toInt (g rb).toInt)⟩
  | .max u rd ra rb => some ⟨u, [ra, rb], rd, 1, false, fun g => BitVec.ofInt 64 (max (g ra).toInt (g rb).toInt)⟩
  | .minu u rd ra rb => some ⟨u, [ra, rb], rd, 1, false, fun g => BitVec.ofNat 64 (min (g ra).toNat (g rb).toNat)⟩
  | .maxu u rd ra rb => some ⟨u, [ra, rb], rd, 1, false, fun g => BitVec.ofNat 64 (max (g ra).toNat (g rb).toNat)⟩
  | .addi u rd ra imm => some ⟨u, [ra], rd, 1, false, fun g => BitVec.ofInt 64 ((g ra).toInt + imm.toInt)⟩
  | .andi u rd ra imm => some ⟨u, [ra], rd, 1, false, fun g => g ra &&& BitVec.ofNat 64 imm.toNat⟩
  | .ori u rd ra imm => some ⟨u, [ra], rd, 1, false, fun g => g ra ||| BitVec.ofNat 64 imm.toNat⟩
  | .xori u rd ra imm => some ⟨u, [ra], rd, 1, false, fun g => g ra ^^^ BitVec.ofNat 64 imm.toNat⟩
  | .shli u rd ra sh => some ⟨u, [ra], rd, 1, false, fun g => BitVec.ofNat 64 ((g ra).toNat * 2 ^ sh.val)⟩
  | .shri u rd ra sh => some ⟨u, [ra], rd, 1, false, fun g => BitVec.ofNat 64 ((g ra).toNat / 2 ^ sh.val)⟩
  | .sari u rd ra sh => some ⟨u, [ra], rd, 1, false, fun g => BitVec.ofInt 64 ((g ra).toInt / 2 ^ sh.val)⟩
  | .movi u rd imm => some ⟨u, [], rd, 1, false, fun _ => BitVec.ofInt 64 imm.toInt⟩
  | .movk u rd hw imm => some ⟨u, [rd], rd, 1, false, fun g =>
      (g rd &&& ~~~ fieldMask (16 * hw.val) 16) ||| (BitVec.ofNat 64 imm.toNat <<< (16 * hw.val))⟩
  | .cmpeqi u rd ra imm => some ⟨u, [ra], rd, 1, false, fun g => flag64 ((g ra).toInt = imm.toInt)⟩
  | .cmplti u rd ra imm => some ⟨u, [ra], rd, 1, false, fun g => flag64 ((g ra).toInt < imm.toInt)⟩
  | .bfx u rd ra pos len1 =>
    if pos.val + (len1.val + 1) ≤ 64 then
      some ⟨u, [ra], rd, 2, false, fun g => (g ra >>> pos.val) &&& fieldMask 0 (len1.val + 1)⟩ else none
  | .bfxs u rd ra pos len1 =>
    if pos.val + (len1.val + 1) ≤ 64 then
      some ⟨u, [ra], rd, 2, false, fun g => BitVec.ofInt 64 (natSigned ((g ra).toNat / 2 ^ pos.val) (len1.val + 1))⟩ else none
  | .bfi u rd ra pos len1 =>
    if pos.val + (len1.val + 1) ≤ 64 then
      some ⟨u, [ra, rd], rd, 2, false, fun g => (g rd &&& ~~~ fieldMask pos.val (len1.val + 1)) |||
        ((g ra <<< pos.val) &&& fieldMask pos.val (len1.val + 1))⟩ else none
  | .clz u rd ra => some ⟨u, [ra], rd, 2, false, fun g => if g ra = 0 then 64 else BitVec.ofNat 64 (63 - Nat.log 2 (g ra).toNat)⟩
  | .bperm u rd ra rb => some ⟨u, [ra, rb], rd, 2, false, fun g =>
      BitVec.ofNat 64 (∑ i ∈ Finset.range 8, (
        let sel := (g rb).toNat / 16 ^ i % 16
        if 8 ≤ sel then 0 else (g ra).toNat / 256 ^ sel % 256) * 256 ^ i)⟩
  | .mul u rd ra rb => some ⟨u, [ra, rb], rd, 3, false, fun g => BitVec.ofInt 64 ((g ra).toInt * (g rb).toInt)⟩
  | .mulh u rd ra rb => some ⟨u, [ra, rb], rd, 3, false, fun g => BitVec.ofInt 64 ((g ra).toInt * (g rb).toInt / 2 ^ 64)⟩
  | .mulhu u rd ra rb => some ⟨u, [ra, rb], rd, 3, false, fun g => BitVec.ofNat 64 ((g ra).toNat * (g rb).toNat / 2 ^ 64)⟩
  | .div u rd ra rb late => some ⟨u, [ra, rb], rd, 12, late, fun g =>
      if g rb = 0 then 0xFFFFFFFFFFFFFFFF else BitVec.ofInt 64 ((g ra).toInt.tdiv (g rb).toInt)⟩
  | .divu u rd ra rb late => some ⟨u, [ra, rb], rd, 12, late, fun g =>
      if g rb = 0 then 0xFFFFFFFFFFFFFFFF else BitVec.ofNat 64 ((g ra).toNat / (g rb).toNat)⟩
  | .rem u rd ra rb late => some ⟨u, [ra, rb], rd, 12, late, fun g =>
      if g rb = 0 then g ra else BitVec.ofInt 64 ((g ra).toInt.tmod (g rb).toInt)⟩
  | .remu u rd ra rb late => some ⟨u, [ra, rb], rd, 12, late, fun g =>
      if g rb = 0 then g ra else BitVec.ofNat 64 ((g ra).toNat % (g rb).toNat)⟩
  | _ => none

end Sys2Proof.Machine

/-- R113, R114, R133 to R135, R103: every scalar integer instruction that runs issues the write of its result at its
distance, and the strand goes on; a bit field past bit 63 has its own statement. -/
def Obligations.IntegerInstructionsIssueTheirResults : Prop :=
  ∀ (i : Instr) (o : IntOp) (s : State), intOp i = some o →
    Runs s.chip o.u (o.srcs.map Fin.val) [(o.rd.val, o.d)] [] →
    exec i s = .next (s.withChip (retire
      (putLate s.chip o.u o.rd o.d (o.val (fun r => greg (strandOf s.chip o.u) r)) false o.late 0 false) o.u .seq))

/-! ### The exposed pipeline (R95, R98 to R101, R123, R129) -/

namespace Sys2Proof.Machine

/-- R98, R99: when an instruction's slot ends, a general register takes the value of the pending write that is
due at the next slot and computed, and keeps its old value when no write to it is due; every other pending
write comes one slot nearer. -/
def DueWritesBecomeVisibleAndOthersDoNot : Prop :=
  ∀ (c : Chip) (u : StrandId) (r : Fin 32),
    let st := strandOf c u
    let t := strandOf (retire c u .seq) u
    (∀ w, st.pend.filter (fun w => w.reg == r.val && decide (w.k ≤ 1)) = [w] → pendReady w = true →
      greg t r = w.val ∧ tget (fun _ => false) t.pois r = w.pois) ∧
    ((∀ w ∈ st.pend, w.reg = r.val → pendReady w = false ∨ 1 < w.k) →
      greg t r = greg st r ∧ tget (fun _ => false) t.pois r = tget (fun _ => false) st.pois r) ∧
    (∀ w ∈ st.pend, (pendReady w = false ∨ 1 < w.k) → { w with k := w.k - 1 } ∈ t.pend)

/-- R95, R123, R129: the slot is counted, and the strand's place follows its branch, its delay slots or its
loop, else the next instruction. -/
def RetireMovesTheStrandOn : Prop :=
  ∀ (c : Chip) (u : StrandId), (strandOf c u).pend = [] → (strandOf c u).pendV = [] → (strandOf c u).pendF = [] →
    let st := strandOf c u
    let t := fun f => strandOf (retire c u f) u
    creg (t .seq) 7 = creg st 7 + 1 ∧
    (∀ a, (t (.branch a)).pc = (st.pc + 2) % 2 ^ 48 ∧ (t (.branch a)).pb = some (a, 2)) ∧
    (∀ a, st.pb = some (a, 2) → (t .seq).pc = (st.pc + 2) % 2 ^ 48 ∧ (t .seq).pb = some (a, 1)) ∧
    (∀ a, st.pb = some (a, 1) → (t .seq).pc = a ∧ (t .seq).pb = none) ∧
    (st.pb = none → atEnd st → 1 < (creg st 5).toNat →
      (t .seq).pc = (creg st 3).toNat ∧ creg (t .seq) 5 = creg st 5 - 1) ∧
    (st.pb = none → atEnd st → creg st 5 = 1 → (t .seq).pc = (st.pc + 2) % 2 ^ 48 ∧ creg (t .seq) 5 = 0) ∧
    (st.pb = none → (¬ atEnd st ∨ creg st 5 = 0) →
      (t .seq).pc = (st.pc + 2) % 2 ^ 48 ∧ creg (t .seq) 5 = creg st 5)

/-- R101, R105, R133, R152: an integer instruction whose write would not come after a pending write to the
same register raises the write-order fault with the register in DETAIL; one that reads a poisoned register
raises the poison fault with the lowest such register in DETAIL; a bit field that passes bit 63 is illegal.
Each is taken at the instruction's slot, which is counted (the model's choice, log entry 10), and nothing is
written. -/
def IntegerInstructionFaults : Prop :=
  (∀ (i : Instr) (o : IntOp) (s : State), intOp i = some o → Ready s.chip o.u → LoopsClear (strandOf s.chip o.u) →
    let taken := fun e => exec i s = .next (s.withChip (takeExc (faultSlot s.chip o.u) o.u e (insnWord i)))
    (∀ w ∈ (strandOf s.chip o.u).pend, Clean s.chip o.u (o.srcs.map Fin.val) → w.reg = o.rd.val → o.d ≤ w.k →
      taken ⟨0x03, o.rd.val, 0⟩) ∧
    (∀ r ∈ o.srcs, regPois s.chip o.u r = true → (∀ x ∈ o.srcs, regPois s.chip o.u x = true → r ≤ x) →
      taken ⟨0x0C, r.val, 0⟩)) ∧
  ∀ (u : StrandId) (rd ra : Fin 32) (pos len1 : Fin 64) (s : State), 64 < pos.val + (len1.val + 1) → Ready s.chip u →
    ∀ i, (i = .bfx u rd ra pos len1 ∨ i = .bfxs u rd ra pos len1 ∨ i = .bfi u rd ra pos len1) →
      exec i s = .next (s.withChip (takeExc (faultSlot s.chip u) u ⟨0x01, 0, 0⟩ (insnWord i)))

/-- What no register-only instruction touches: memory and its poison, every other core and classroom, the stacks, the
control space, and everything outside the package. -/
abbrev SameOutsideCore (u : StrandId) (s t : State) : Prop :=
  t.chip.mem = s.chip.mem ∧ t.chip.pois = s.chip.pois ∧ t.chip.rooms = s.chip.rooms ∧ t.chip.stk = s.chip.stk ∧
  t.chip.regs = s.chip.regs ∧ t.chip.reports = s.chip.reports ∧ t.chip.fresh = s.chip.fresh ∧
  t.flash = s.flash ∧ t.fuses = s.fuses ∧ t.dev = s.dev ∧ t.pending = s.pending ∧
  ∀ n, n ≠ u.core.val → coreOf t.chip n = coreOf s.chip n

end Sys2Proof.Machine

/-- Frame of the scalar integer instructions: only the strand's own registers change, and of those only the destination,
those with a due pending write, PC, SLOTS and LCOUNT; every byte of memory reads as before. -/
def Obligations.IntegerInstructionsFrame : Prop :=
  ∀ (i : Instr) (o : IntOp) (s t : State), intOp i = some o → Runs s.chip o.u (o.srcs.map Fin.val) [(o.rd.val, o.d)] [] →
    exec i s = .next t →
    SameOutsideCore o.u s t ∧
    (∀ v : Fin 8, v ≠ o.u.strand → strandOf t.chip ⟨o.u.core, v⟩ = strandOf s.chip ⟨o.u.core, v⟩) ∧
    (∀ r : Fin 32, r ≠ o.rd → (∀ w ∈ (strandOf s.chip o.u).pend, w.reg ≠ r.val) →
      greg (strandOf t.chip o.u) r = greg (strandOf s.chip o.u) r) ∧
    (∀ n, n ≠ 5 → n ≠ 7 → (∀ w ∈ (strandOf s.chip o.u).pend, w.reg ≠ 64 + n ∧ w.reg ≠ 92) →
      (∀ w ∈ (strandOf s.chip o.u).pendF, w.reg ≠ 64 + n) →
      creg (strandOf t.chip o.u) n = creg (strandOf s.chip o.u) n) ∧
    ∀ a, rdWord t.chip false a = rdWord s.chip false a

/-! ### Branches, loops and control registers (R90 to R92, R123 to R128, R136, R143) -/

namespace Sys2Proof.Machine

/-- The condition of BC (R125). -/
def condHolds (cond : Fin 8) (v : Int) : Prop :=
  (cond = 0 ∧ v = 0) ∨ (cond = 1 ∧ v ≠ 0) ∨ (cond = 2 ∧ v < 0) ∨ (cond = 3 ∧ 0 ≤ v) ∨ (cond = 4 ∧ 0 < v) ∨ (cond = 5 ∧ v ≤ 0)

/-- The address `off` instructions from pc, kept to 48 bits (R124). -/
def branchTo (pc : Nat) (off : Int) : Nat := (((pc : Int) + 2 * off) % 2 ^ 48).toNat

/-- R123 to R125: a branch sets its outcome, the delay slots follow, and a call issues the link value, the
branch's address + 6, at distance 1; that JR and CALLR jump to bits [47:0] of ra is the model's choice (log
entry 22). -/
def BranchesSetTheirOutcome : Prop :=
  ∀ (s : State) (u : StrandId) (ra gl : Fin 32),
    let c := s.chip
    let pc := (strandOf c u).pc
    let link := BitVec.ofNat 64 ((pc + 6) % 2 ^ 48)
    let a := greg (strandOf c u) ra
    (∀ (cond : Fin 8) off, cond.val ≤ 5 → RunsBranch c u [ra.val] [] →
      (condHolds cond a.toInt → exec (.bc u ra cond off) s =
        .next (s.withChip (retire c u (.branch (branchTo pc off.toInt))))) ∧
      (¬ condHolds cond a.toInt → exec (.bc u ra cond off) s =
        .next (s.withChip (retire c u (.branch ((pc + 6) % 2 ^ 48)))))) ∧
    (∀ off, RunsBranch c u [] [] →
      exec (.b u off) s = .next (s.withChip (retire c u (.branch (branchTo pc off.toInt))))) ∧
    (∀ off, RunsBranch c u [] [(gl.val, 1)] →
      exec (.call u gl off) s =
        .next (s.withChip (retire (putReg c u gl 1 link) u (.branch (branchTo pc off.toInt))))) ∧
    (a.toNat % 2 = 0 → RunsBranch c u [ra.val] [] →
      exec (.jr u ra) s = .next (s.withChip (retire c u (.branch (a.toNat % 2 ^ 48))))) ∧
    (a.toNat % 2 = 0 → RunsBranch c u [ra.val] [(gl.val, 1)] →
      exec (.callr u gl ra) s =
        .next (s.withChip (retire (putReg c u gl 1 link) u (.branch (a.toNat % 2 ^ 48)))))

/-- R126, R124, R130: a branch in a delay slot raises the delay-slot fault (cause 0x04), an odd target the
alignment fault (0x07), and the loop fault (0x05) is raised by a loop start while LCOUNT is not 0 (case 1), a
branch at LEND of a running loop (2), an instruction at LEND in a delay slot (3) and one at LEND while an MTC
to LCOUNT is pending (4). The model's choices: the slot of the fault is counted (log entry 10), only bits
[47:0] of ra are the target (log entry 22), and where several cases hold, DETAIL names the first (log entry
51). -/
def BranchFaults : Prop :=
  ∀ (s : State) (u : StrandId), Ready s.chip u →
    let st := strandOf s.chip u
    let a := fun (ra : Fin 32) => (greg st ra).toNat
    let taken := fun e i => exec i s = .next (s.withChip (takeExc (faultSlot s.chip u) u e (insnWord i)))
    (∀ i, st.pb.isSome = true →
      ((∃ off, i = .b u off) ∨ (∃ gl off, i = .call u gl off) ∨ (∃ ra, i = .jr u ra) ∨ (∃ gl ra, i = .callr u gl ra) ∨
        (∃ ra off, ∃ cond : Fin 8, cond.val ≤ 5 ∧ i = .bc u ra cond off) ∨
        (∃ n count, n ≠ 0 ∧ i = .loopi u n count) ∨ (∃ n ra, n ≠ 0 ∧ i = .loop u n ra)) → taken ⟨0x04, 0, 0⟩ i) ∧
    (∀ ra : Fin 32, RunsBranch s.chip u [ra.val] [] → a ra % 2 = 1 → taken ⟨0x07, 2 ^ 15, a ra % 2 ^ 48⟩ (.jr u ra)) ∧
    (∀ gl ra : Fin 32, RunsBranch s.chip u [ra.val] [(gl.val, 1)] → a ra % 2 = 1 →
      taken ⟨0x07, 2 ^ 15, a ra % 2 ^ 48⟩ (.callr u gl ra)) ∧
    (∀ i, st.pb = none → creg st 5 ≠ 0 →
      ((∃ n count, n ≠ 0 ∧ i = .loopi u n count) ∨ (∃ n ra, n ≠ 0 ∧ i = .loop u n ra)) → taken ⟨0x05, 1, 0⟩ i) ∧
    (∀ i, st.pb = none → atEnd st → creg st 5 ≠ 0 →
      ((∃ off, i = .b u off) ∨ (∃ gl off, i = .call u gl off) ∨ (∃ ra, i = .jr u ra) ∨ (∃ gl ra, i = .callr u gl ra) ∨
        (∃ ra off, ∃ cond : Fin 8, cond.val ≤ 5 ∧ i = .bc u ra cond off)) → taken ⟨0x05, 2, 0⟩ i) ∧
    (∀ i o, intOp i = some o → o.u = u → atEnd st →
      (st.pb.isSome = true → creg st 5 ≠ 0 → taken ⟨0x05, 3, 0⟩ i) ∧
      ((st.pb = none ∨ creg st 5 = 0) → (∃ w ∈ st.pend, w.reg = 69) → taken ⟨0x05, 4, 0⟩ i))

/-- R128: LOOP and LOOPI write LSTART, LEND and LCOUNT at distance 1; with a count of 0 the next slot issues
the instruction after the body. -/
def LoopsStart : Prop :=
  ∀ (s : State) (u : StrandId) (n : BitVec 11), n ≠ 0 → creg (strandOf s.chip u) 5 = 0 →
    let c := s.chip
    let pc := (strandOf c u).pc
    let lend := (pc + 2 * n.toNat) % 2 ^ 48
    let start := fun (count : W64) =>
      retire (putCtl (putCtl (putCtl c u 3 1 (BitVec.ofNat 64 ((pc + 2) % 2 ^ 48))) u 4 1 (BitVec.ofNat 64 lend)) u 5 1 count) u
        (if count = 0 then .goto ((lend + 2) % 2 ^ 48) else .seq)
    (∀ count : BitVec 10, RunsBranch c u [] [(67, 1), (68, 1), (69, 1)] →
      exec (.loopi u n count) s = .next (s.withChip (start (BitVec.ofNat 64 count.toNat)))) ∧
    (∀ ra : Fin 32, RunsBranch c u [ra.val] [(67, 1), (68, 1), (69, 1)] →
      exec (.loop u n ra) s = .next (s.withChip (start (greg (strandOf c u) ra))))

end Sys2Proof.Machine

/-- R90 to R92, R103, R136, R143: an allowed MFC issues the register's value at distance 2 (c6 reads 8 x core
+ strand); an allowed MTC issues its write at distance 4 to MODE and 3 to any other register. -/
def Obligations.ControlRegisterAccess : Prop :=
  (∀ (s : State) (u : StrandId) (g : Fin 32) (n : Fin 64),
    mfcReg n = true → ctlPriv (level (strandOf s.chip u)) n false = false → Runs s.chip u [64 + n.val] [(g.val, 2)] [] →
    exec (.mfc u g n) s = .next (s.withChip (retire (putReg s.chip u g 2 (regVal s.chip u (64 + n.val))) u .seq)) ∧
    (n.val = 6 → regVal s.chip u (64 + n.val) = BitVec.ofNat 64 (8 * u.core.val + u.strand.val))) ∧
  ∀ (s : State) (u : StrandId) (g : Fin 32) (n : Fin 64),
    let v := greg (strandOf s.chip u) g
    let d := if n.val = 0 then 4 else 3
    mtcReg n = true → v &&& ~~~ ctlMask n = 0 →
    (n.val = 0 → v.toNat / 2 ^ 10 % 4 ≠ 3 ∧ v.toNat % 8 ≤ 4 ∧ (∀ w ∈ (strandOf s.chip u).pend, w.reg ≠ 64) ∧
      (level (strandOf s.chip u) = 0 → v.toNat / 8 = (creg (strandOf s.chip u) 0).toNat / 8)) →
    ctlPriv (level (strandOf s.chip u)) n true = false → Runs s.chip u [g.val] [(64 + n.val, d)] [] →
    exec (.mtc u g n) s = .next (s.withChip (retire (putCtl s.chip u n d v) u .seq))

namespace Sys2Proof.Machine

/-- R90, R92, R143, R152: an MTC to a read-only or reserved register, or one that would set a bit that reads
0, raises the illegal-instruction fault; at pupil, a write to MODE that would change more than FRM raises the
privileged-instruction fault; neither writes anything. The model's choice: IMASK's bits above 3 read 0 (log
entry 23). -/
def ControlWriteFaults : Prop :=
  ∀ (s : State) (u : StrandId) (g : Fin 32) (n : Fin 64), Ready s.chip u →
    let v := greg (strandOf s.chip u) g
    let i := Instr.mtc u g n
    ((n.val = 3 ∨ n.val = 4 ∨ n.val = 6 ∨ n.val = 7 ∨ (8 ≤ n.val ∧ n.val ≤ 15) ∨
      n.val = 16 ∨ 30 ≤ n.val ∨ v &&& ~~~ ctlMask n ≠ 0) →
      exec i s = .next (s.withChip (takeExc (faultSlot s.chip u) u ⟨0x01, 0, 0⟩ (insnWord i)))) ∧
    (n.val = 0 → v &&& ~~~ ctlMask 0 = 0 → v.toNat / 2 ^ 10 % 4 ≠ 3 → v.toNat % 8 ≤ 4 →
      level (strandOf s.chip u) = 0 → v.toNat / 8 ≠ (creg (strandOf s.chip u) 0).toNat / 8 →
      exec i s = .next (s.withChip (takeExc (faultSlot s.chip u) u ⟨0x02, 0, 0⟩ (insnWord i))))

end Sys2Proof.Machine

/-! ### Scalar float instructions (R93, R103, R115, R116) -/

namespace Sys2Proof.Machine

/-- A scalar float instruction: its strand, the register codes it reads (R107), its destination code,
distance, whether its unit still computes, the float registers it names, and result pattern and flags from the
package. -/
structure FloatOp where
  u : StrandId
  srcs : List Nat
  dst : Nat
  d : Nat
  late : Bool
  fregs : List Nat
  val : Chip → Nat × Nat

/-- The FP32 pattern in bits [31:0] of f register n (R115). -/
def f32 (c : Chip) (u : StrandId) (n : Fin 32) : Nat := (vreg (coreOf c u.core) n).toNat % 2 ^ 32

/-- A two-source float operation under MODE.FRM. -/
def fop2 (u : StrandId) (fd fa fb : Fin 32) (f : Nat → Nat → Nat → Nat × Nat) : FloatOp :=
  ⟨u, [32 + fa.val, 32 + fb.val], 32 + fd.val, 4, false, [fa.val, fb.val, fd.val],
    fun c => f (frm (strandOf c u)) (f32 c u fa) (f32 c u fb)⟩

/-- A compare writes 1 or 0 to a general register. -/
def fcmp2 (u : StrandId) (gd fa fb : Fin 32) (f : Nat → Nat → Bool × Nat) : FloatOp :=
  ⟨u, [32 + fa.val, 32 + fb.val], gd.val, 4, false, [fa.val, fb.val],
    fun c => ((f (f32 c u fa) (f32 c u fb)).1.toNat, (f (f32 c u fa) (f32 c u fb)).2)⟩

/-- A one-source float operation. -/
def fop1 (u : StrandId) (fd fa : Fin 32) (f : Nat → Nat → Nat × Nat) : FloatOp :=
  ⟨u, [32 + fa.val], 32 + fd.val, 4, false, [fa.val, fd.val], fun c => f (frm (strandOf c u)) (f32 c u fa)⟩

/-- The instructions of R115 and R116 with the distances of R103. -/
def floatOpOf : Instr → Option FloatOp
  | .fadd u fd fa fb => some (fop2 u fd fa fb (fadd fmtFP32))
  | .fsub u fd fa fb => some (fop2 u fd fa fb (fsub fmtFP32))
  | .fmul u fd fa fb => some (fop2 u fd fa fb (fmul fmtFP32))
  | .fmin u fd fa fb => some (fop2 u fd fa fb (fun _ => fmin fmtFP32))
  | .fmax u fd fa fb => some (fop2 u fd fa fb (fun _ => fmax fmtFP32))
  | .fabs u fd fa => some (fop1 u fd fa (fun _ => fabs fmtFP32))
  | .fneg u fd fa => some (fop1 u fd fa (fun _ => fneg fmtFP32))
  | .fcmpeq u gd fa fb => some (fcmp2 u gd fa fb (fcmpEq fmtFP32))
  | .fcmplt u gd fa fb => some (fcmp2 u gd fa fb (fcmpLt fmtFP32))
  | .fcmple u gd fa fb => some (fcmp2 u gd fa fb (fcmpLe fmtFP32))
  | .fma u fd fa fb fc => some ⟨u, [32 + fa.val, 32 + fb.val, 32 + fc.val], 32 + fd.val, 4, false,
      [fa.val, fb.val, fc.val, fd.val], fun c => ffma fmtFP32 (frm (strandOf c u)) (f32 c u fa) (f32 c u fb) (f32 c u fc)⟩
  | .fdiv u fd fa fb late => some { fop2 u fd fa fb (fdivide fmtFP32) with d := 12, late := late }
  | .fsqrt u fd fa late => some { fop1 u fd fa (fsqrtOp fmtFP32) with d := 12, late := late }
  | .fcvtFp32Bf16 u fd fa => some (fop1 u fd fa (fun rm a => fenc fmtBF16 rm 0 (fdec fmtFP32 a)))
  | .fcvtFp32Fp16 u fd fa => some (fop1 u fd fa (fun rm a => fenc fmtFP16 rm 0 (fdec fmtFP32 a)))
  | .fcvtBf16Fp32 u fd fa => some (fop1 u fd fa (fun rm a => fenc fmtFP32 rm 0 (fdec fmtBF16 (a % 2 ^ 16))))
  | .fcvtFp16Fp32 u fd fa => some (fop1 u fd fa (fun rm a => fenc fmtFP32 rm 0 (fdec fmtFP16 (a % 2 ^ 16))))
  | .fcvtFp32I16 u gd fa => some ⟨u, [32 + fa.val], gd.val, 4, false, [fa.val], fun c =>
      let r := toI16 (frm (strandOf c u)) 0 (fdec fmtFP32 (f32 c u fa))
      (((BitVec.ofNat 16 r.1).signExtend 64).toNat, r.2)⟩
  | .fcvtI16Fp32 u fd ga => some ⟨u, [ga.val], 32 + fd.val, 4, false, [fd.val], fun c =>
      fenc fmtFP32 (frm (strandOf c u)) 0 (ofI16 ((greg (strandOf c u) ga).toNat % 2 ^ 16))⟩
  | .fmvgf u fd ra => some ⟨u, [ra.val], 32 + fd.val, 2, false, [fd.val], fun c => ((greg (strandOf c u) ra).toNat, 0)⟩
  | .fmvfg u gd fa => some ⟨u, [32 + fa.val], gd.val, 2, false, [fa.val], fun c =>
      ((vreg (coreOf c u.core) fa).toNat % 2 ^ 64, 0)⟩
  | _ => none

end Sys2Proof.Machine

/-- R93, R103, R115, R116: every scalar float instruction that runs issues its result, zero-extended, at its
distance, and its flags into FFLAGS at the same distance. -/
def Obligations.FloatInstructionsIssueTheirResults : Prop :=
  ∀ (i : Instr) (o : FloatOp) (s : State), floatOpOf i = some o → Runs s.chip o.u o.srcs [(o.dst, o.d)] o.fregs →
    let r := o.val s.chip
    exec i s = .next (s.withChip (retire
      (putFlags (putLate s.chip o.u o.dst o.d (BitVec.ofNat 64 r.1) false o.late 0 false) o.u 66 o.d r.2) o.u .seq))

namespace Sys2Proof.Machine

/-- R60 to R62, R81: a pattern of FP32, BF16 or FP16 that is no NaN is the value it stands for, exactly:
encoding that value again, in any allowed rounding mode, gives the pattern and raises no flag; and a NaN
encodes as the one quiet NaN. -/
def FloatPatternsEncodeExactly : Prop :=
  ∀ f ∈ [fmtFP32, fmtBF16, fmtFP16], ∀ (rm w : Nat), rm ≤ 4 → w < 2 ^ (f.eb + f.p) →
    ((fdec f w).isNan = false → fenc f rm 0 (fdec f w) = (w, 0)) ∧
    ((fdec f w).isNan = true → (fenc f rm 0 (fdec f w)).1 = qnan f)

/-- R61, R62, R79, R115: addition, multiplication, minimum and maximum do not depend on the operands' order;
FMIN and FMAX return the operand that is no NaN when exactly one is, and order -0 below +0; a result that is a
NaN is the quiet NaN. -/
def FloatOperandOrder : Prop :=
  ∀ (rm a b : Nat), rm ≤ 4 → a < 2 ^ 32 → b < 2 ^ 32 →
    fadd fmtFP32 rm a b = fadd fmtFP32 rm b a ∧ fmul fmtFP32 rm a b = fmul fmtFP32 rm b a ∧
    fmin fmtFP32 a b = fmin fmtFP32 b a ∧ fmax fmtFP32 a b = fmax fmtFP32 b a ∧
    ((fdec fmtFP32 a).isNan = true → (fdec fmtFP32 b).isNan = false →
      (fmin fmtFP32 a b).1 = b ∧ (fmax fmtFP32 a b).1 = b) ∧
    (fmin fmtFP32 0 (2 ^ 31)).1 = 2 ^ 31 ∧ (fmax fmtFP32 0 (2 ^ 31)).1 = 0 ∧
    ((fdec fmtFP32 (fadd fmtFP32 rm a b).1).isNan = true → (fadd fmtFP32 rm a b).1 = qnan fmtFP32) ∧
    ((fdec fmtFP32 (fmul fmtFP32 rm a b).1).isNan = true → (fmul fmtFP32 rm a b).1 = qnan fmtFP32)

end Sys2Proof.Machine

/-! ### Scalar loads and stores (R102, R103, R117 to R122, R321 to R323) -/

namespace Sys2Proof.Machine

/-- A scalar load or store: strand, register code of the data, float registers, base, mode, words, sign extension, and
whether a unit outside still computes. -/
structure MemOp where
  u : StrandId
  reg : Nat
  fregs : List Nat
  ra : Fin 32
  m : AMode
  n : Nat
  sgn : Bool
  late : Bool

/-- The loads of R117. -/
def loadOf : Instr → Option MemOp
  | .ldw u rt ra m late => some ⟨u, rt, [], ra, m, 1, false, late⟩
  | .ldws u rt ra m late => some ⟨u, rt, [], ra, m, 1, true, late⟩
  | .ldd u rt ra m late => some ⟨u, rt, [], ra, m, 2, false, late⟩
  | .ldds u rt ra m late => some ⟨u, rt, [], ra, m, 2, true, late⟩
  | .ldq u rt ra m late => some ⟨u, rt, [], ra, m, 4, false, late⟩
  | .ldf u ft ra m late => some ⟨u, 32 + ft.val, [ft.val], ra, m, 2, false, late⟩
  | _ => none

/-- The stores of R117. -/
def storeOf : Instr → Option MemOp
  | .stw u rt ra m => some ⟨u, rt, [], ra, m, 1, false, false⟩
  | .std u rt ra m => some ⟨u, rt, [], ra, m, 2, false, false⟩
  | .stq u rt ra m => some ⟨u, rt, [], ra, m, 4, false, false⟩
  | .stf u ft ra m => some ⟨u, 32 + ft.val, [ft.val], ra, m, 2, false, false⟩
  | _ => none

/-- Whether a mode updates its base (R119). -/
def updatesBase : AMode → Bool
  | .postInc _ | .preDec _ => true
  | .off _ | .indexed _ _ => false

/-- The word address of a memory instruction: the same effective address its meaning forms (R119). -/
def MemOp.addr (o : MemOp) (c : Chip) : Nat := (effAddr c o.u o.ra o.m).1.toNat

/-- The base update of R119, at distance 1. -/
def withBase (o : MemOp) (c0 c : Chip) : Chip :=
  match (effAddr c0 o.u o.ra o.m).2 with
  | some v => putReg c o.u o.ra 1 v
  | none => c

/-- Loaded words as a register value (R117). -/
def loadValue (o : MemOp) (v : Nat) : W64 :=
  if o.sgn then BitVec.ofInt 64 (natSigned v (16 * o.n)) else BitVec.ofNat 64 v

/-- R119: the effective address and the base update of each mode. -/
def EffectiveAddresses : Prop :=
  ∀ (c : Chip) (u : StrandId) (ra rb : Fin 32) (imm : BitVec 14) (sc : Fin 4),
    let g := fun r : Fin 32 => greg (strandOf c u) r
    effAddr c u ra (.off imm) = (BitVec.ofInt 64 ((g ra).toInt + imm.toInt), none) ∧
    effAddr c u ra (.postInc imm) = (g ra, some (BitVec.ofInt 64 ((g ra).toInt + imm.toInt))) ∧
    effAddr c u ra (.preDec imm) =
      (BitVec.ofInt 64 ((g ra).toInt - imm.toNat), some (BitVec.ofInt 64 ((g ra).toInt - imm.toNat))) ∧
    effAddr c u ra (.indexed rb sc) = (BitVec.ofInt 64 ((g ra).toInt + (g rb).toInt * 2 ^ sc.val), none)

/-- R103, R105, R117, R119, R283, R284, R286, R321, R322, R329: a load that runs issues at distance 4 the
words at its address with their poison, and asks for them: at the bank of its own classroom, whose service
computes the value; at the mesh port of another or at the HBM controller, and then also for RESULT_COMPUTED
when its command marks it late; through a fill on a miss of the cache. A hit needs no request. The base update
has distance 1. An HBM word takes its value and its mark when the controller accepts the read; that rows serve
requests and mark a load late is the model's choice (log entries 6, 7). -/
def LoadsIssueTheirData : Prop :=
  ∀ (i : Instr) (o : MemOp) (s : State), loadOf i = some o →
    let c := s.chip
    let st := strandOf c o.u
    let core := o.u.core.val
    let a := o.addr c
    let r := rdNat c st.spec a o.n
    let v := loadValue o r.1
    (updatesBase o.m = true → o.reg ≠ o.ra.val) →
    Runs c o.u (o.ra.val :: modeSrcs o.m) ((o.reg, 4) :: modeDsts o.ra o.m) o.fregs →
    addrFault c o.u (o.ra.val == 31) false (effAddr c o.u o.ra o.m).1 o.n o.n = none →
    tileHold st a (a + o.n - 1) = false → loadHold c core st.spec a = false → cacheHold c core a = false →
    let ends := fun c' : Chip => exec i s = .next (s.withChip (retire (withBase o c c') o.u .seq))
    let asks := fun c' : Chip => askRun c' core (physRd c st.spec a) o.n (.load core o.u.strand.val st.nextId) o.sgn
    (ownRoom core a = true → ends (asks (putLate c o.u o.reg 4 v r.2 false 1 false))) ∧
    (ownRoom core a = false → (cacheable core a && cacheOn c core) = false →
      ends (asks (putLate c o.u o.reg 4 v (r.2 && !inHbm a) o.late (askCount a) false))) ∧
    (ownRoom core a = false → (cacheable core a && cacheOn c core) = true →
      (∀ l, cacheHit (coreOf c core) a = some l →
        ends (putReg (modCore c core (fun k => cacheTouch k l)) o.u o.reg 4
          (loadValue o (wordsNat ((l.ws.drop (a % 32)).take o.n))))) ∧
      (cacheHit (coreOf c core) a = none →
        ends (asks (putLate (modCore c core (fun k => { k with fill := some ⟨a / 32, o.u.strand.val, st.nextId, true,
          (rdWords c st.spec (a - a % 32) 32).any Prod.snd && !inHbm a⟩ })) o.u o.reg 4 v (r.2 && !inHbm a) false 1 true))))

/-- Whether a write of the word would be accepted at once: it lies outside HBM, or its bank and pseudo-channel have room
(R330, R332). -/
def acceptedNow (c : Chip) (a : Nat) : Bool :=
  !inHbm a || (!bankFull (dramOf c (stackAt a) (lineBank (stackLine a))) && !pcFull c (stackAt a) (lineBank (stackLine a)))

/-- R102, R117, R119, R122, R286, R323, R330: a store that runs writes the low words of the register visible
at its slot: into a cache entry that holds them, to classroom memory at once, to HBM when its controller
accepts it, with a request at the bank or controller that holds them; all this while the core's store queue
has room (its 32 entries are the model's choice, log entry 50; that a classroom word is written at the store's
row is log entry 6). -/
def StoresWriteThrough : Prop :=
  ∀ (i : Instr) (o : MemOp) (s : State), storeOf i = some o →
    let c := s.chip
    let st := strandOf c o.u
    let core := o.u.core.val
    let a := o.addr c
    let l := atRun a (natWords (regVal c o.u o.reg).toNat o.n)
    Runs c o.u (o.reg :: o.ra.val :: modeSrcs o.m) (modeDsts o.ra o.m) o.fregs →
    addrFault c o.u (o.ra.val == 31) true (effAddr c o.u o.ra o.m).1 o.n o.n = none →
    tileHold st a (a + o.n - 1) = false → bankHold c core st.spec a = false → storeHold c core = false →
    exec i s = .next (s.withChip (retire (withBase o c
      (coreWrite (cacheStore c core l) core st.spec (.store core o.u.strand.val) l)) o.u .seq))

/-- The speculative ranges of every classroom lie in its window and apart from each other. -/
def SpecRangesApart (c : Chip) : Prop :=
  ∀ r : Fin 64, specHome c r + specSize c r ≤ 2 ^ 17 ∧ specShadow c r + specSize c r ≤ 2 ^ 17 ∧
    (specHome c r + specSize c r ≤ specShadow c r ∨ specShadow c r + specSize c r ≤ specHome c r ∨ specSize c r = 0)

/-- Frame of the scalar stores: once the store is accepted the words at the effective address hold the stored
words as the strand reads them; every other word outside the shadow ranges reads as before, and all of them
while an HBM store is not accepted yet (R330); the registers are as the integer frame says but for the base.
-/
def StoresChangeOnlyTheirWords : Prop :=
  ∀ (i : Instr) (o : MemOp) (s t : State), storeOf i = some o → SpecRangesApart s.chip →
    let c := s.chip
    let st := strandOf c o.u
    let a := o.addr c
    Runs c o.u (o.reg :: o.ra.val :: modeSrcs o.m) (modeDsts o.ra o.m) o.fregs →
    addrFault c o.u (o.ra.val == 31) true (effAddr c o.u o.ra o.m).1 o.n o.n = none →
    tileHold st a (a + o.n - 1) = false → bankHold c o.u.core st.spec a = false → storeHold c o.u.core = false →
    exec i s = .next t →
    (acceptedNow c a = true →
      ∀ j < o.n, (rdWord t.chip st.spec (a + j)).1 = BitVec.ofNat 16 ((regVal c o.u o.reg).toNat / 2 ^ (16 * j))) ∧
    (acceptedNow c a = false → ∀ x, (rdWord t.chip st.spec x).1 = (rdWord c st.spec x).1) ∧
    (∀ x, (x < a ∨ a + o.n ≤ x) → inShadow c x = false → (rdWord t.chip st.spec x).1 = (rdWord c st.spec x).1) ∧
    (∀ r : Fin 32, r ≠ o.ra → (∀ w ∈ st.pend, w.reg ≠ r.val) →
      greg (strandOf t.chip o.u) r = greg st r) ∧
    t.flash = s.flash ∧ t.fuses = s.fuses ∧ t.dev = s.dev ∧ t.pending = s.pending

/-- Frame of the scalar loads: every word reads as before (a load stores nothing), and of the general registers only the
base and the destination can change. -/
def LoadsChangeNoMemory : Prop :=
  ∀ (i : Instr) (o : MemOp) (s t : State), loadOf i = some o →
    let c := s.chip
    let st := strandOf c o.u
    let a := o.addr c
    (updatesBase o.m = true → o.reg ≠ o.ra.val) →
    Runs c o.u (o.ra.val :: modeSrcs o.m) ((o.reg, 4) :: modeDsts o.ra o.m) o.fregs →
    addrFault c o.u (o.ra.val == 31) false (effAddr c o.u o.ra o.m).1 o.n o.n = none →
    tileHold st a (a + o.n - 1) = false → loadHold c o.u.core st.spec a = false → cacheHold c o.u.core a = false →
    exec i s = .next t →
    (∀ sp x, rdWord t.chip sp x = rdWord c sp x) ∧
    (∀ r : Fin 32, r ≠ o.ra → (∀ w ∈ st.pend, w.reg ≠ r.val) → greg (strandOf t.chip o.u) r = greg st r) ∧
    t.flash = s.flash ∧ t.fuses = s.fuses ∧ t.dev = s.dev ∧ t.pending = s.pending

/-- R120, R121, R122, R146, R148, R152: the conditions on a data address in their order, with cause, DETAIL and FADDR:
alignment 0x07; the unmapped address 0x08; the stack limit 0x0B for an address based on g31; the region map 0x09. -/
def AddressFaultsInOrder : Prop :=
  ∀ (c : Chip) (u : StrandId) (base31 wr : Bool) (ea : W64) (n : Nat), 0 < n →
    let st := strandOf c u
    let a := ea.toNat
    let dir := if wr then 2 ^ 14 else 0
    let f := addrFault c u base31 wr ea n n
    (a % n ≠ 0 → f = some ⟨0x07, 0, a % 2 ^ 48⟩) ∧
    (a % n = 0 → 2 ^ 48 ≤ a → f = some ⟨0x08, dir + 1, a % 2 ^ 48⟩) ∧
    (a % n = 0 → a < 2 ^ 48 → (∃ j < n, reaches c u.core (level st) wr st.spec (a + j) = false) → f = some ⟨0x08, dir, a⟩) ∧
    (a % n = 0 → a < 2 ^ 48 → (∀ j < n, reaches c u.core (level st) wr st.spec (a + j) = true) →
      (base31 = true → a < (creg st 1).toNat → f = some ⟨0x0B, 0, a⟩) ∧
      ((base31 = false ∨ (creg st 1).toNat ≤ a) →
        (∀ j < n, rmFault (coreOf c u.core) (level st) (if wr then 1 else 0) (a + j) = none) → f = none) ∧
      ((base31 = false ∨ (creg st 1).toNat ≤ a) → ∀ j < n, ∀ d,
        rmFault (coreOf c u.core) (level st) (if wr then 1 else 0) (a + j) = some d →
        (∀ k < j, rmFault (coreOf c u.core) (level st) (if wr then 1 else 0) (a + k) = none) → f = some ⟨0x09, d, a + j⟩))

/-- R122, R152: a load that would update its own destination is illegal, and a load or store with an address fault takes
that fault; neither changes the base. -/
def MemoryInstructionFaults : Prop :=
  ∀ (i : Instr) (o : MemOp) (s : State) (e : Exc),
    let c := s.chip
    let st := strandOf c o.u
    let a := o.addr c
    let taken := fun e => exec i s = .next (s.withChip (takeExc (faultSlot c o.u) o.u e (insnWord i)))
    Ready c o.u → tileHold st a (a + o.n - 1) = false →
    (loadOf i = some o → loadHold c o.u.core st.spec a = false → cacheHold c o.u.core a = false →
      (updatesBase o.m = true → o.reg = o.ra.val → taken ⟨0x01, 0, 0⟩) ∧
      ((updatesBase o.m = true → o.reg ≠ o.ra.val) → LoopsClear st → Clean c o.u (o.ra.val :: modeSrcs o.m) →
        InOrder st ((o.reg, 4) :: modeDsts o.ra o.m) →
        addrFault c o.u (o.ra.val == 31) false (effAddr c o.u o.ra o.m).1 o.n o.n = some e → taken e)) ∧
    (storeOf i = some o → bankHold c o.u.core st.spec a = false → storeHold c o.u.core = false → LoopsClear st → Clean c o.u (o.reg :: o.ra.val :: modeSrcs o.m) →
      InOrder st (modeDsts o.ra o.m) →
      addrFault c o.u (o.ra.val == 31) true (effAddr c o.u o.ra o.m).1 o.n o.n = some e → taken e)

end Sys2Proof.Machine

/-! ### Exceptions (R106 to R109, R149 to R171, R599) -/

/-- R158, R162, R118, R326: TRAP and BRK complete and owe their exception at the next slot; PMASK issues the
poison bits of g0 to g31 and f0 to f31 at distance 2; NOP and ISYNC only use their slot (of ISYNC the model's
choice, log entry 16: no instruction is fetched ahead); CINV empties the core's cache, and a fill under way
installs no entry. -/
def Obligations.SystemInstructionsComplete : Prop :=
  ∀ (s : State) (u : StrandId), 
    let c := s.chip
    let ends := fun (i : Instr) (c' : Chip) => exec i s = .next (s.withChip (retire c' u .seq))
    (Runs c u [] [] [] →
      ends (.nop u) c ∧ ends (.isync u) c ∧
      (∀ n : Fin 32, ends (.trap u n) (modStrand c u (fun st => { st with owed := [⟨0x0E, n.val, 0⟩] }))) ∧
      ends (.brk u) (modStrand c u (fun st => { st with owed := [⟨0x0F, 0, 0⟩] })) ∧
      ends (.cinv u) (modCore c u.core (fun k => { k with
        cache := [], fill := k.fill.map (fun f => { f with install := false }) }))) ∧
    ∀ rd : Fin 32, Runs c u [] [(rd.val, 2)] [] → ∃ v : W64,
      ends (.pmask u rd) (putReg c u rd 2 v) ∧ ∀ n : Fin 64, v.getLsbD n.val = regPois c u n.val

namespace Sys2Proof.Machine

/-- R96, R332: RESULT_COMPUTED makes the oldest late write of its register computed, once the requests that it
made have been served, and what was due becomes visible; with no such scalar write, a code of an f register
names its vector register's oldest late write. While a request of that write is not served nothing changes.
That a command reports a late result is the model's choice (log entry 7). -/
def ResultComputedReleasesTheOldestLateWrite : Prop :=
  ∀ (s : State) (u : StrandId) (reg : Fin 136),
    let c := s.chip
    let st := strandOf c u
    let run := exec (.resultComputed u reg) s
    let waits := fun id : Nat => outstandingReq c (.load u.core.val u.strand.val id)
    let shows := fun st' : Strand => run = .next (s.withChip (commitDue (setStrand c u st') u))
    let late := fun w : PendW => w.reg = reg.val ∧ w.late = true
    let lateV := fun w : PendV => 32 ≤ reg.val ∧ w.reg = reg.val - 32 ∧ w.late = true
    (∀ p w q, st.pend = p ++ w :: q → (∀ x ∈ p, ¬ late x) → late w →
      (waits w.id = true → run = .next s) ∧
      (waits w.id = false → shows { st with pend := p ++ { w with late := false } :: q })) ∧
    (∀ p w q, (∀ x ∈ st.pend, ¬ late x) → st.pendV = p ++ w :: q → (∀ x ∈ p, ¬ lateV x) → lateV w →
      (waits w.id = true → run = .next s) ∧
      (waits w.id = false → shows { st with pendV := p ++ { w with late := false } :: q })) ∧
    ((∀ x ∈ st.pend, ¬ late x) → (∀ x ∈ st.pendV, ¬ lateV x) → run = .next (s.withChip (commitDue c u)))

/-- R106, R112, R152, R157, R243, R286: an exception that is taken stands in progress, its reads of the tables
asked for; memory and the strand's other state stay. EXCEPTION_ENTRY completes it once every pending value is
computed, the reads are served and no tile instruction is at its commit (the last is the model's choice, log
entry 6), and leaves the state alone before; with no entry in progress it takes the condition of orders 0 to 2
that stands at the strand's slot, or the illegal-instruction fault of the word fetched there. -/
def ExceptionEntryTakesWhatStands : Prop :=
  (∀ (c : Chip) (u : StrandId) (e : Exc) (insn : W32),
    strandOf (takeExc c u e insn) u = { strandOf c u with entering := some ⟨e, if noInsn e.cause then 0 else insn⟩, ret := none } ∧
    (takeExc c u e insn).mem = c.mem) ∧
  ∀ (s : State) (u : StrandId) (insn : W32),
    let c := s.chip
    let st := strandOf c u
    let run := exec (.exceptionEntry u insn) s
    let ready := allReady st = true ∧ outstandingReq c (.entry u.core u.strand) = false ∧ committing st = false
    (∀ e, st.entering = some e → ready →
      run = .next (s.withChip (completeEntry (modStrand c u (fun st => { st with entering := none })) u e.exc e.insn))) ∧
    (∀ e, st.entering = some e → ¬ ready → run = .next s) ∧
    (∀ e, canIssue c u = true → earlyExc c u = some e → run = .next (s.withChip (takeExc (earlySlot c u) u e insn))) ∧
    (Ready c u → legalWord insn = false →
      run = .next (s.withChip (takeExc (faultSlot c u) u ⟨0x01, 0, 0⟩ insn)))

/-- R152, R153: what stands at a strand's slot before its instruction: an owed exception first, then the
enabled interrupt of the lowest number while MODE.IEN is 1, then a fetch fault. -/
def OwedThenInterruptThenFetch : Prop :=
  ∀ (c : Chip) (u : StrandId),
    let st := strandOf c u
    let ipend := (creg st 28).toNat
    let imask := (creg st 29).toNat
    let on := fun i => natBit ipend i = true ∧ natBit imask i = true
    (∀ e r, st.owed = e :: r → earlyExc c u = some e) ∧
    (st.owed = [] → natBit (creg st 0).toNat 15 = true → ∀ i < 4, on i → (∀ j < i, ¬ on j) →
      earlyExc c u = some ⟨0x40 + i, 0, 0⟩) ∧
    (st.owed = [] → (natBit (creg st 0).toNat 15 = false ∨ ∀ i < 4, ¬ on i) → earlyExc c u = fetchFault c u)

/-- The table entry, the stack descriptor and the frame address that R157 uses for cause k, read as the
strand's hardware reads them: the entry's word 0, the handler's address, the privilege of the handler, the
descriptor's address. -/
structure Vectoring where
  w0 : Nat
  handler : Nat
  p : Nat
  desc : Nat
  top : Nat
  limit : Nat
  work : Nat
  valid : Bool
  sp : Nat

/-- The vectoring of cause k for a strand. -/
def vectoring (c : Chip) (u : StrandId) (k : Nat) : Vectoring :=
  let st := strandOf c u
  let tb := (creg st 17).toNat
  let ea := tb + 0x10 + 4 * k
  let w0 := (rdWord c st.spec ea).1.toNat
  let p := max (natBits w0 13 12) (level st)
  let da := tb + (if p = 1 then 0 else 8)
  { w0 := w0
    handler := (rdNat c st.spec (ea + 1) 3).1
    p := p
    desc := da
    top := (rdNat c st.spec da 3).1
    limit := (rdNat c st.spec (da + 3) 3).1
    work := (rdWord c st.spec (da + 6)).1.toNat
    valid := natBit (rdWord c st.spec (da + 7)).1.toNat 15
    sp := (creg st (if p = 1 then 18 else 19)).toNat }

/-- The checks of R157 that lead to the handler, and not to the double fault of R163. -/
def Vectors (c : Chip) (u : StrandId) (k : Nat) : Prop :=
  let v := vectoring c u k
  let tb := (creg (strandOf c u) 17).toNat
  hwFail c u false (tb + 0x10 + 4 * k) 4 = none ∧ natBit v.w0 15 = true ∧
  (natBits v.w0 13 12 = 1 ∨ natBits v.w0 13 12 = 2) ∧ v.handler % 2 = 0 ∧
  hwFail c u false v.desc 8 = none ∧ v.valid = true ∧ v.work % 16 = 0 ∧
  v.sp % 16 = 0 ∧ v.limit + 96 + v.work ≤ v.sp ∧ v.sp ≤ v.top ∧ hwFail c u true (v.sp - 96) 96 = none

end Sys2Proof.Machine

/-- R106, R157, R160, R161, R286: an entry that completes writes the 96-word frame below the stack of the
handler's privilege, as stores of the strand (through its cache), and leaves the strand at its handler with
FRAME, SPLIM, the stack register, g31, MODE and PRIV as R157 says, no branch pending and nothing parked left
to become visible; what is owed stays owed for the handler's first slots. A frame outside HBM stands in memory
at once. -/
def Obligations.ExceptionEntryWritesTheFrame : Prop :=
  ∀ (c : Chip) (u : StrandId) (e : Exc) (insn : W32), SpecRangesApart c →
    let st := strandOf c u
    (inDf st = false ∨ isAsync e.cause = true) →
    let x := parkPend (tileAbandon c u) u
    let c1 := x.1
    let st1 := strandOf c1 u
    let v := vectoring c1 u e.cause
    let f := v.sp - 96
    let ws := frameWords st1 e.cause e.detail e.faddr (isAsync e.cause) insn (recWords x.2)
    Vectors c1 u e.cause →
    let t := completeEntry c u e insn
    let st' := strandOf t u
    t.mem = (coreStore c1 u f ws).mem ∧
    st'.pc = v.handler ∧ st'.pb = none ∧ st'.pend = [] ∧ st'.pendV = [] ∧ st'.owed = st1.owed ∧ st'.entering = none ∧
    creg st' 30 = BitVec.ofNat 64 f ∧ greg st' 31 = BitVec.ofNat 64 f ∧
    creg st' (if v.p = 1 then 18 else 19) = BitVec.ofNat 64 (f - v.work) ∧ creg st' 1 = BitVec.ofNat 64 (f - v.work) ∧
    creg st' 16 = BitVec.ofNat 64 ((if inDf st1 then 4 else 0) + v.p) ∧
    creg st' 0 = (if natBit v.w0 14 then 0x8000 else 0) ∧ creg st' 5 = 0 ∧
    ((∀ j < 96, inHbm (f + j) = false) → (rdWords t st.spec f 96).map Prod.fst = ws)

/-- R163, R165, R168: when the handler cannot be reached the strand takes the double fault: the frame with
cause 0xFE, the failed cause and the reason in the core's double-fault area, the strand at the double-fault
vector as head with DF set; FADDR is that of the failed cause or the word that failed (of the double-fault
frame the model's choice, log entry 53). A synchronous fault in that state resets the core: its strands,
vector registers and cache, not its tile registers; CLS_TRIPLE takes both causes, the position and the strand
unless it holds a record already, and CORE_TRIPLE is reported either way. -/
def Obligations.DoubleAndThirdFaults : Prop :=
  ∀ (c : Chip) (u : StrandId) (x : Exc) (reason k : Nat) (fail : Option Nat) (insn : W32) (rec : List Word),
    let st := strandOf c u
    let a := dfArea u
    (inDf st = false → hwFail c u true (a + 0xA0) 96 = none →
      let t := doubleFault c u x reason fail insn rec
      let st' := strandOf t u
      (SpecRangesApart c → rec.length = 56 → (rdWords t st.spec (a + 0xA0) 96).map Prod.fst =
        frameWords st 0xFE (x.cause * 2 ^ 8 + reason) (fail.getD x.faddr) (isAsync x.cause) insn rec) ∧
      st'.pc = dfVec c u ∧ creg st' 16 = 6 ∧ creg st' 30 = BitVec.ofNat 64 (a + 0xA0) ∧ creg st' 1 = BitVec.ofNat 64 a ∧
      creg st' 0 = 0 ∧ creg st' 5 = 0 ∧ st'.dfCause = x.cause ∧ greg st' 31 = BitVec.ofNat 64 (a + 0xA0)) ∧
    (inDf st = true → ∀ e : Exc, isAsync e.cause = false → completeEntry c u e insn = thirdFault c u st.dfCause e.cause) ∧
    ∀ c3, let t := thirdFault c u k c3
      let b := clsB (coreRoom u.core)
      (∀ v : Fin 8, strandOf t ⟨u.core, v⟩ = strandReset v) ∧
      (coreOf t u.core).tiles = (coreOf c u.core).tiles ∧ (coreOf t u.core).v = [] ∧ (coreOf t u.core).cache = [] ∧
      (getF c b 0x018 7 7 = 1 → rawReg t b 0x018 = rawReg c b 0x018) ∧
      (getF c b 0x018 7 7 = 0 → rawReg t b 0x018 =
        BitVec.ofNat 32 (k * 2 ^ 24 + c3 * 2 ^ 16 + 2 ^ 7 + corePos u.core * 8 + u.strand.val)) ∧
      (∃ r, t.reports = c.reports ++ [r] ∧ r.code = 0x0102 ∧ r.items.head? = some u.core.val)

namespace Sys2Proof.Machine

/-- R96, R169, R170, R286: an XRET above pupil first asks for its frame and is withheld until it is read;
then, when the frame passes the checks of R169, it leaves the strand in the state its frame holds, with the
parked tile instructions back in flight. -/
def ReturnCompletes : Prop :=
  ∀ (s : State) (u : StrandId),
    let c := s.chip
    let st := strandOf c u
    let f := (creg st 30).toNat
    let who := Reader.entry u.core u.strand
    let ws := (rdWords c st.spec f 96).map Prod.fst
    let back := retire (modStrand { c with fresh := c.fresh + 22 } u (fun st => xretState st c.fresh ws)) u .restored
    RunsBranch c u [] [] → level st ≠ 0 →
    (st.ret ≠ some f → exec (.xret u) s = .next (s.withChip
      (passTurn (askReads (modStrand c u (fun st => { st with ret := some f })) u.core st.spec who f 96) u))) ∧
    (st.ret = some f → outstandingReq c who = true → exec (.xret u) s = .next (s.withChip (passTurn c u))) ∧
    (st.ret = some f → outstandingReq c who = false → xretFault c u = none →
      exec (.xret u) s = .next (s.withChip back) ∧
      (strandOf back u).pc = wordsNat ((ws.drop 4).take 3) ∧ (strandOf back u).flight = st.flight ++ st.parked ∧
      (strandOf back u).ret = none)

/-- The checks of R169 on a readable frame, by reason: when each fails. The first word of record entry j is
word 41 + 5 j. -/
def returnCheckFails (st : Strand) (ws : List Word) : Nat → Prop
  | 0x01 => 11 < recCount ws
  | 0x02 => ∃ j < min (recCount ws) 11, recK ws j < 1 ∨ 11 < recK ws j
  | 0x03 => ∃ i < min (recCount ws) 11, ∃ j < min (recCount ws) 11, i ≠ j ∧ recReg ws i = recReg ws j ∧ recK ws i = recK ws j
  | 0x04 => natBit (fw ws 0) 0 = true ∨ natBits (fw ws 40) 15 4 ≠ 0 ∨ fw ws 38 ≠ 0 ∨ fw ws 39 ≠ 0 ∨
      ∃ j < min (recCount ws) 11, natBits (recWord ws j) 10 8 ≠ 0 ∨ 135 < recReg ws j ∨ (88 ≤ recReg ws j ∧ recReg ws j ≤ 91)
  | 0x05 => level st < natBits (fw ws 0) 3 2 ∨ natBits (fw ws 0) 3 2 = 3 ∨
      (natBit (fw ws 0) 1 = true ∧ ¬ (inDf st = true ∧ natBits (fw ws 0) 3 2 = 2))
  | 0x06 => ¬ ((natBit (fw ws 0) 6 = false ∧ natBits (fw ws 0) 5 4 = 0) ∨
      (natBit (fw ws 0) 6 = true ∧ (natBits (fw ws 0) 5 4 = 1 ∨ natBits (fw ws 0) 5 4 = 2)))
  | 0x07 => fn ws 4 3 % 2 = 1 ∨ (natBit (fw ws 0) 6 = true ∧ fn ws 7 3 % 2 = 1)
  | 0x08 => (BitVec.ofNat 64 (fn ws 16 4) &&& ~~~ (0x8C07 : W64)) ≠ 0 ∨ natBits (fn ws 16 4) 11 10 = 3 ∨ 4 < natBits (fn ws 16 4) 2 0
  | 0x09 => fn ws 34 4 ≠ 0 ∧ (fn ws 31 3 < fn ws 28 3 ∨ fn ws 28 3 % 2 = 1 ∨ fn ws 31 3 % 2 = 1 ∨
      2047 < (fn ws 31 3 - fn ws 28 3) / 2 + 1)
  | 0x0A => st.pend ≠ [] ∨ st.pendV ≠ []
  | _ => False

/-- R143, R169: at pupil XRET raises the privileged-instruction fault; above it, once its frame is read, a
frame that cannot be read raises the return fault (cause 0x0D) with reason 0x0B, and one that fails a check
that with the lowest reason among the checks that fail; FRAME is in FADDR. -/
def ReturnFaults : Prop :=
  ∀ (s : State) (u : StrandId),
    let c := s.chip
    let st := strandOf c u
    let f := (creg st 30).toNat
    let ws := (rdWords c st.spec f 96).map Prod.fst
    let taken := fun e => exec (.xret u) s = .next (s.withChip (takeExc (faultSlot c u) u e (insnWord (.xret u))))
    (Ready c u → level st = 0 → taken ⟨0x02, 0, 0⟩) ∧
    (RunsBranch c u [] [] → level st ≠ 0 → st.ret = some f → outstandingReq c (.entry u.core u.strand) = false →
      ((hwFail c u false f 96).isSome = true → taken ⟨0x0D, 0x0B, f⟩) ∧
      (hwFail c u false f 96 = none → ∀ r, returnCheckFails st ws r → (∀ q < r, ¬ returnCheckFails st ws q) →
        taken ⟨0x0D, r, f⟩) ∧
      (hwFail c u false f 96 = none → (∀ r, ¬ returnCheckFails st ws r) → xretFault c u = none))

/-- What R108 and R170 ask of a pending write that a record can hold (R107): a remaining distance of 1 to 11,
a register code that an instruction writes, and a value that the register's map allows. -/
def Recordable (w : PendW) : Prop :=
  1 ≤ w.k ∧ w.k ≤ 11 ∧ w.reg < 136 ∧ recWrites w.reg = true ∧ ∀ n, recVal n w.reg w.val.toNat = w.val

/-- What R169 asks of the state that a frame saves for a handler of privilege p, and of its record. -/
def Returnable (st : Strand) (p : Nat) (rec : List PendW) : Prop :=
  st.pend = [] ∧ st.pendV = [] ∧ level st ≤ p ∧ (inDf st = true → level st = 2) ∧
  st.pc % 2 = 0 ∧ (∀ a n, st.pb = some (a, n) → a % 2 = 0) ∧
  creg st 0 &&& ~~~ (0x8C07 : W64) = 0 ∧ natBits (creg st 0).toNat 11 10 ≠ 3 ∧ natBits (creg st 0).toNat 2 0 ≤ 4 ∧
  (creg st 5 ≠ 0 → (creg st 3).toNat ≤ (creg st 4).toNat ∧ (creg st 3).toNat % 2 = 0 ∧ (creg st 4).toNat % 2 = 0 ∧
    ((creg st 4).toNat - (creg st 3).toNat) / 2 + 1 ≤ 2047) ∧
  (∀ w ∈ rec, ¬ (88 ≤ w.reg ∧ w.reg ≤ 91)) ∧ (rec.map (fun w => (w.reg, w.k))).Nodup

end Sys2Proof.Machine

/-- R107, R108, R161, R169, R170: a return through the frame that an entry wrote passes every check of R169,
where it can be read as written, and restores the strand: PC, pending branch, MODE, SPLIM, LSTART, LEND,
LCOUNT, PRIV, FRAME, g31, the stack register of the handler's privilege, and every parked write with its
value, poison bit and remaining distance. -/
def Obligations.ReturnUndoesEntry : Prop :=
  ∀ (st : Strand) (rec : List PendW) (cause detail faddr p work mode pc sp m : Nat) (insn : W32),
    st.pc < 2 ^ 48 → (∀ a n, st.pb = some (a, n) → a < 2 ^ 48 ∧ (n = 1 ∨ n = 2)) → level st ≤ 2 →
    creg st 16 = BitVec.ofNat 64 ((if inDf st then 4 else 0) + level st) → (creg st 30).toNat < 2 ^ 48 →
    (creg st 3).toNat < 2 ^ 48 → (creg st 4).toNat < 2 ^ 48 → rec.length ≤ 11 → (∀ w ∈ rec, Recordable w) →
    cause < 0xFE → (p = 1 ∨ p = 2) → 96 + work ≤ sp → sp < 2 ^ 64 → tget (fun _ => false) st.pois 31 = false →
    creg st (if p = 1 then 18 else 19) = BitVec.ofNat 64 sp →
    let xs := if p = 1 then 18 else 19
    let f := sp - 96
    let ws := frameWords st cause detail faddr (isAsync cause) insn (recWords rec)
    let h := atHandler (setCreg st xs (BitVec.ofNat 64 (f - work))) f (f - work) ((if inDf st then 4 else 0) + p) mode pc
    let r := xretState h m ws
    (Returnable st p rec → ∀ c u, strandOf c u = h → hwFail c u false f 96 = none →
      (rdWords c h.spec f 96).map Prod.fst = ws → xretFault c u = none) ∧
    r.pc = st.pc ∧ r.pb = st.pb ∧ (∀ n ∈ [0, 1, 3, 4, 5, 16, 30, xs], creg r n = creg st n) ∧
    (∀ n, greg r n = greg st n) ∧
    r.pend.map (fun w => (w.reg, w.val, w.pois, w.k)) = rec.map (fun w => (w.reg, w.val, w.pois, w.k))

/-! ### Long vectors (R173 to R203) -/

namespace Sys2Proof.Machine

/-- The strand carries out, now, a vector instruction that reads the general registers gsrcs and the vector
registers vsrcs, names the vector registers regs, and writes the scalar destinations dsts: it owns the
registers, and none of them has a write pending (R176, R200). -/
def VecRuns (c : Chip) (u : StrandId) (gsrcs vsrcs regs : List Nat) (dsts : List (Nat × Nat)) : Prop :=
  Ready c u ∧ LoopsClear (strandOf c u) ∧ Clean c u (gsrcs ++ vsrcs.map (fun n => 32 + n)) ∧ InOrder (strandOf c u) dsts ∧
  OwnsFree (strandOf c u) regs ∧ ∀ n ∈ regs, ∀ w ∈ (strandOf c u).pend, w.reg ≠ 32 + n

/-- R178, R179, R181, R202: VLSET and VLSETI set VTYPE, VL and gd at distance 1, VL to the lesser of AVL and
2,048 / SEW; VMFC reads any vc register at distance 2, VMTC writes one at distance 3; at head, a VMASK that
overlaps no other strand's. -/
def VectorControl : Prop :=
  ∀ (s : State) (u : StrandId) (g ra : Fin 32),
    let c := s.chip
    let st := strandOf c u
    let a := greg st ra
    let vlset := fun (i : Instr) (sew : Fin 4) (fmt : Bool) (avl : Nat) =>
      let vl := BitVec.ofNat 64 (min avl (2048 / (16 * 2 ^ sew.val)))
      exec i s = .next (s.withChip (retire (putReg (putReg (putReg c u 129 1
        (BitVec.ofNat 64 (sew.val + 4 * fmt.toNat))) u 128 1 vl) u g 1 vl) u .seq))
    (∀ (sew : Fin 4) fmt, sew ≠ 3 →
      (Runs c u [ra.val] [(g.val, 1), (128, 1), (129, 1)] [] → vlset (.vlset u g ra sew fmt) sew fmt a.toNat) ∧
      ∀ imm : BitVec 12, Runs c u [] [(g.val, 1), (128, 1), (129, 1)] [] →
        vlset (.vlseti u g sew fmt imm) sew fmt imm.toNat) ∧
    (∀ vc : Fin 8, Runs c u [128 + vc.val] [(g.val, 2)] [] →
      exec (.vmfc u g vc) s = .next (s.withChip (retire (putReg c u g 2 (vcreg st vc)) u .seq))) ∧
    (∀ vc : Fin 8, Runs c u [ra.val] [(128 + vc.val, 3)] [] →
      ((vc = 2 ∧ a.toNat < 128) ∨ (vc = 3 ∧ a.toNat < 4) ∨ (vc = 4 ∧ a.toNat < 32) ∨ vc = 5 ∨
        (vc = 6 ∧ a.toNat < 2 ^ 32 ∧ level st = 2 ∧
          ∀ v : Fin 8, v ≠ u.strand → vcreg (strandOf c ⟨u.core, v⟩) 6 &&& a = 0)) →
      exec (.vmtc u ra vc) s = .next (s.withChip (retire (putReg c u (128 + vc.val) 3 a) u .seq)))

/-- R177, R179, R181: VMTC of VL, VTYPE or vc7, or of a bit that reads 0, is illegal, as is VLSET of the
reserved SEW; a VMTC of VMASK below head is privileged; at head, a VMASK that overlaps other strands' raises
cause 0x14 with those strands in DETAIL. -/
def VectorControlFaults : Prop :=
  ∀ (s : State) (u : StrandId) (g ra : Fin 32),
    let c := s.chip
    let st := strandOf c u
    let a := greg st ra
    let taken := fun i e => exec i s = .next (s.withChip (takeExc (faultSlot c u) u e (insnWord i)))
    (Ready c u →
      (∀ vc : Fin 8, (vc = 0 ∨ vc = 1 ∨ vc = 7 ∨ (vc = 2 ∧ 128 ≤ a.toNat) ∨ (vc = 3 ∧ 4 ≤ a.toNat) ∨ (vc = 4 ∧ 32 ≤ a.toNat) ∨
        (vc = 6 ∧ 2 ^ 32 ≤ a.toNat)) → taken (.vmtc u ra vc) ⟨0x01, 0, 0⟩) ∧
      (∀ fmt, taken (.vlset u g ra 3 fmt) ⟨0x01, 0, 0⟩) ∧
      (a.toNat < 2 ^ 32 → level st < 2 → taken (.vmtc u ra 6) ⟨0x02, 0, 0⟩)) ∧
    (Runs c u [ra.val] [(134, 3)] [] → a.toNat < 2 ^ 32 → level st = 2 →
      ∀ ov, ov = (∑ v : Fin 8, if v ≠ u.strand ∧ vcreg (strandOf c ⟨u.core, v⟩) 6 &&& a ≠ 0 then 2 ^ v.val else 0) → ov ≠ 0 →
        taken (.vmtc u ra 6) ⟨0x14, ov, 0⟩)

/-- An element-wise vector instruction: registers, mask bit, distance, element width of the destination,
whether VTYPE and VL suit it, and the result and flags of element i. -/
structure VecOp where
  u : StrandId
  vd : Fin 32
  vsrcs : List Nat
  gsrcs : List Nat
  m : Bool
  d : Nat
  ew : Chip → Nat
  ok : Chip → Bool
  f : Chip → Nat → Nat × Nat

/-- The current SEW in bits. -/
def sewNow (c : Chip) (u : StrandId) : Nat := 16 * 2 ^ (vcreg (strandOf c u) 1).toNat.mod 4

/-- Element i of width w of vector register n (R173). -/
def el (c : Chip) (u : StrandId) (n : Fin 32) (w i : Nat) : Nat := (vreg (coreOf c u.core) n).toNat / 2 ^ (w * i) % 2 ^ w

/-- An integer instruction of R185. -/
def vi2 (u : StrandId) (vd va vb : Fin 32) (m : Bool) (f : Nat → Nat → Nat → Int) : VecOp :=
  ⟨u, vd, [va.val, vb.val], [], m, 3, fun c => sewNow c u, fun _ => true,
    fun c i => ((f (sewNow c u) (el c u va (sewNow c u) i) (el c u vb (sewNow c u) i) % 2 ^ sewNow c u).toNat, 0)⟩

/-- An integer compare of R185: it writes mask bits. -/
def vc2 (u : StrandId) (vd va vb : Fin 32) (m : Bool) (f : Nat → Nat → Nat → Bool) : VecOp :=
  ⟨u, vd, [va.val, vb.val], [], m, 3, fun _ => 1, fun _ => true,
    fun c i => ((f (sewNow c u) (el c u va (sewNow c u) i) (el c u vb (sewNow c u) i)).toNat, 0)⟩

/-- Round x / 2^s by the mode of VFIX and saturate to I16 (R188). -/
def vx2 (u : StrandId) (vd va vb : Fin 32) (m : Bool) (x : Int → Nat → Int) (s : Nat → Nat) : VecOp :=
  ⟨u, vd, [va.val, vb.val], [], m, 4, fun _ => 16, fun c => sewOf (strandOf c u) == 0,
    fun c i => fixRound (x (natSigned (el c u va 16 i) 16) (el c u vb 16 i)) (s (el c u vb 16 i)) (vfixMode (strandOf c u))⟩

/-- A float instruction of R186 on the format that VTYPE selects. -/
def vf (u : StrandId) (vd : Fin 32) (vsrcs : List Nat) (m : Bool) (mask : Bool)
    (f : Fmt → Nat → (Fin 32 → Nat) → Nat × Nat) : VecOp :=
  ⟨u, vd, vsrcs, [], m, 6, fun c => if mask then 1 else sewNow c u, fun c => (vfmt (strandOf c u)).isSome,
    fun c i => f ((vfmt (strandOf c u)).getD fmtFP32) (frm (strandOf c u)) (fun n => el c u n (sewNow c u) i)⟩

/-- A conversion of R190 between element widths. -/
def vcv (u : StrandId) (vd va : Fin 32) (m : Bool) (sw dw : Nat) (f : Nat → Nat → Nat × Nat) : VecOp :=
  ⟨u, vd, [va.val], [], m, 6, fun _ => dw, fun c => decide (vlOf (strandOf c u) ≤ 2048 / max sw dw),
    fun c i => f (vsr c u i) (el c u va sw i)⟩

/-- The element-wise instructions of R185, R186, R188 to R190, with the distances of R202. -/
def vecOpOf : Instr → Option VecOp
  | .vadd u vd va vb m => some (vi2 u vd va vb m (fun _ a b => a + b))
  | .vsub u vd va vb m => some (vi2 u vd va vb m (fun _ a b => (a : Int) - b))
  | .vand u vd va vb m => some (vi2 u vd va vb m (fun _ a b => (a &&& b : Nat)))
  | .vor u vd va vb m => some (vi2 u vd va vb m (fun _ a b => (a ||| b : Nat)))
  | .vxor u vd va vb m => some (vi2 u vd va vb m (fun _ a b => (a ^^^ b : Nat)))
  | .vshl u vd va vb m => some (vi2 u vd va vb m (fun w a b => (a * 2 ^ (b % w) : Nat)))
  | .vshr u vd va vb m => some (vi2 u vd va vb m (fun w a b => (a / 2 ^ (b % w) : Nat)))
  | .vsar u vd va vb m => some (vi2 u vd va vb m (fun w a b => natSigned a w / 2 ^ (b % w)))
  | .vmin u vd va vb m => some (vi2 u vd va vb m (fun w a b => min (natSigned a w) (natSigned b w)))
  | .vmax u vd va vb m => some (vi2 u vd va vb m (fun w a b => max (natSigned a w) (natSigned b w)))
  | .vminu u vd va vb m => some (vi2 u vd va vb m (fun _ a b => (min a b : Nat)))
  | .vmaxu u vd va vb m => some (vi2 u vd va vb m (fun _ a b => (max a b : Nat)))
  | .vmul u vd va vb m => some (vi2 u vd va vb m (fun _ a b => (a : Int) * b))
  | .vcmpeq u vd va vb m => some (vc2 u vd va vb m (fun _ a b => decide (a = b)))
  | .vcmplt u vd va vb m => some (vc2 u vd va vb m (fun w a b => decide (natSigned a w < natSigned b w)))
  | .vcmpltu u vd va vb m => some (vc2 u vd va vb m (fun _ a b => decide (a < b)))
  | .vmv u vd va m => some ⟨u, vd, [va.val], [], m, 3, fun c => sewNow c u, fun _ => true,
      fun c i => (el c u va (sewNow c u) i, 0)⟩
  | .vsplat u vd gb m => some ⟨u, vd, [], [gb.val], m, 3, fun c => sewNow c u, fun _ => true,
      fun c _ => ((greg (strandOf c u) gb).toNat % 2 ^ sewNow c u, 0)⟩
  | .vsadd u vd va vb m => some (vx2 u vd va vb m (fun a b => a + natSigned b 16) (fun _ => 0))
  | .vssub u vd va vb m => some (vx2 u vd va vb m (fun a b => a - natSigned b 16) (fun _ => 0))
  | .vsmulr u vd va vb m => some (vx2 u vd va vb m (fun a b => a * natSigned b 16) (fun _ => 15))
  | .vsshr u vd va vb m => some (vx2 u vd va vb m (fun a _ => a) (fun b => b % 16))
  | .vsshl u vd va vb m => some (vx2 u vd va vb m (fun a b => a * 2 ^ (b % 16)) (fun _ => 0))
  | .vfadd u vd va vb m => some (vf u vd [va.val, vb.val] m false (fun fm rm e => fadd fm rm (e va) (e vb)))
  | .vfsub u vd va vb m => some (vf u vd [va.val, vb.val] m false (fun fm rm e => fsub fm rm (e va) (e vb)))
  | .vfmul u vd va vb m => some (vf u vd [va.val, vb.val] m false (fun fm rm e => fmul fm rm (e va) (e vb)))
  | .vfmin u vd va vb m => some (vf u vd [va.val, vb.val] m false (fun fm _ e => fmin fm (e va) (e vb)))
  | .vfmax u vd va vb m => some (vf u vd [va.val, vb.val] m false (fun fm _ e => fmax fm (e va) (e vb)))
  | .vfabs u vd va m => some (vf u vd [va.val] m false (fun fm _ e => fabs fm (e va)))
  | .vfneg u vd va m => some (vf u vd [va.val] m false (fun fm _ e => fneg fm (e va)))
  | .vfcmpeq u vd va vb m => some (vf u vd [va.val, vb.val] m true
      (fun fm _ e => ((fcmpEq fm (e va) (e vb)).1.toNat, (fcmpEq fm (e va) (e vb)).2)))
  | .vfcmplt u vd va vb m => some (vf u vd [va.val, vb.val] m true
      (fun fm _ e => ((fcmpLt fm (e va) (e vb)).1.toNat, (fcmpLt fm (e va) (e vb)).2)))
  | .vfcmple u vd va vb m => some (vf u vd [va.val, vb.val] m true
      (fun fm _ e => ((fcmpLe fm (e va) (e vb)).1.toNat, (fcmpLe fm (e va) (e vb)).2)))
  | .vfma u vd va vb vc m => some (vf u vd [va.val, vb.val, vc.val] m false
      (fun fm rm e => ffma fm rm (e va) (e vb) (e vc)))
  | .vcvtFp32Bf16 u vd va m rm => if rm.val ≤ 5 then
      some (vcv u vd va m 32 16 (fun x a => fenc fmtBF16 rm x (fdec fmtFP32 a))) else none
  | .vcvtFp32Fp16 u vd va m rm => if rm.val ≤ 5 then
      some (vcv u vd va m 32 16 (fun x a => fenc fmtFP16 rm x (fdec fmtFP32 a))) else none
  | .vcvtBf16Fp32 u vd va m rm => if rm.val ≤ 5 then
      some (vcv u vd va m 16 32 (fun x a => fenc fmtFP32 rm x (fdec fmtBF16 a))) else none
  | .vcvtFp16Fp32 u vd va m rm => if rm.val ≤ 5 then
      some (vcv u vd va m 16 32 (fun x a => fenc fmtFP32 rm x (fdec fmtFP16 a))) else none
  | .vcvtFp32I16 u vd va m rm => if rm.val ≤ 5 then
      some (vcv u vd va m 32 16 (fun x a => toI16 rm x (fdec fmtFP32 a))) else none
  | .vcvtI16Fp32 u vd va m rm => if rm.val ≤ 5 then
      some (vcv u vd va m 16 32 (fun x a => fenc fmtFP32 rm x (ofI16 a))) else none
  | _ => none

/-- Mask registers a masked instruction reads: v0 (R182). -/
def v0If (m : Bool) : List Nat := if m then [0] else []

end Sys2Proof.Machine

/-- R182, R185, R186, R188, R190, R202: an element-wise vector instruction that runs issues, at its distance,
a value of vd whose active elements below VL are the results and whose other elements keep what vd held, and
ORs the active elements' flags into VFLAGS at that distance; with VL = 0 it issues nothing. -/
def Obligations.VectorElementResults : Prop :=
  ∀ (i : Instr) (o : VecOp) (s : State), vecOpOf i = some o →
    let c := s.chip
    let st := strandOf c o.u
    let active := fun j => j < vlOf st ∧ vactive (coreOf c o.u.core) o.m j = true
    (o.m = true → o.vd ≠ 0) → o.ok c = true →
    VecRuns c o.u o.gsrcs (o.vsrcs ++ v0If o.m) (o.vd.val :: o.vsrcs ++ v0If o.m) [] →
    (vlOf st = 0 → exec i s = .next (s.withChip (retire c o.u .seq))) ∧
    (vlOf st ≠ 0 → ∃ v : VReg,
      exec i s = .next (s.withChip (retire (putFlags (putVec c o.u o.vd o.d v false false 0) o.u 132 o.d
        (vflagsOf (vactive (coreOf c o.u.core) o.m) (fun j => (o.f c j).2) (vlOf st))) o.u .seq)) ∧
      (∀ j < 2048 / o.ew c, active j → velem v (o.ew c) j = (o.f c j).1 % 2 ^ o.ew c) ∧
      ∀ j < 2048 / o.ew c, ¬ active j → velem v (o.ew c) j = velem (vreg (coreOf c o.u.core) o.vd) (o.ew c) j)

namespace Sys2Proof.Machine

/-- R182, R187, R202: VMVXS issues element 0, zero-extended, at distance 3, whatever VL holds; a reduction
issues its tree's result over the active elements, 0 when there is none, the quiet NaN for a NaN (R62), into
fd at distance 10. -/
def VectorToScalar : Prop :=
  ∀ (s : State) (u : StrandId) (gd fd va : Fin 32) (m late : Bool),
    let c := s.chip
    let st := strandOf c u
    let leaf := fun j => if j < vlOf st ∧ vactive (coreOf c u.core) m j = true then some (el c u va (sewNow c u) j) else none
    let red := fun (i : Instr) (fm : Fmt) (op : Nat → Nat → Nat × Nat) =>
      let r := redDone fm (redNode leaf op 7 0)
      exec i s = .next (s.withChip (retire (putFlags (putLate c u (32 + fd.val) 10
        (BitVec.ofNat 64 r.1) false late 0 false) u 132 10 r.2) u .seq)) ∧
      ((redNode leaf op 7 0).1 = none → r.1 = 0) ∧
      ∀ v, (redNode leaf op 7 0).1 = some v → r.1 = if (fdec fm v).isNan then qnan fm else v
    (VecRuns c u [] [va.val] [va.val] [(gd.val, 3)] →
      exec (.vmvxs u gd va m) s = .next (s.withChip (retire
        (putReg c u gd 3 (BitVec.ofNat 64 (el c u va (sewNow c u) 0))) u .seq))) ∧
    (∀ fm, vfmt st = some fm →
      VecRuns c u [] (va.val :: v0If m) (fd.val :: va.val :: v0If m) [(32 + fd.val, 10)] →
      red (.vfredsum u fd va m late) fm (fadd fm (frm st)) ∧ red (.vfredmax u fd va m late) fm (fmax fm))

/-- A block conversion of R191: its operands, mask bit, rounding mode, format, and whether it packs. -/
structure BlockCvt where
  u : StrandId
  vd : Fin 32
  va : Fin 32
  vb : Fin 32
  m : Bool
  rm : Fin 8
  f : QFmt
  pack : Bool

/-- The block conversions of R191. -/
def blockCvt : Instr → Option BlockCvt
  | .vcvtFp32Q8 u vd va vb m rm => some ⟨u, vd, va, vb, m, rm, .q8, true⟩
  | .vcvtFp32Q6 u vd va vb m rm => some ⟨u, vd, va, vb, m, rm, .q6, true⟩
  | .vcvtFp32Q4 u vd va vb m rm => some ⟨u, vd, va, vb, m, rm, .q4, true⟩
  | .vcvtFp32I8 u vd va vb m rm => some ⟨u, vd, va, vb, m, rm, .i8, true⟩
  | .vcvtQ8Fp32 u vd va vb m rm => some ⟨u, vd, va, vb, m, rm, .q8, false⟩
  | .vcvtQ6Fp32 u vd va vb m rm => some ⟨u, vd, va, vb, m, rm, .q6, false⟩
  | .vcvtQ4Fp32 u vd va vb m rm => some ⟨u, vd, va, vb, m, rm, .q4, false⟩
  | .vcvtI8Fp32 u vd va vb m rm => some ⟨u, vd, va, vb, m, rm, .i8, false⟩
  | _ => none

/-- R191, R192, R202, R203: with M = 0 and VL 32 or 64, a block conversion from FP32 issues the element plane
into vd and the exponents into vb[15:0], each block of 32 elements quantized on its own, and the blocks'
flags; one to FP32 issues the element values of the plane in va under the exponents in vb, and the elements'
flags. Each has distance 6, and the other bits of its destinations keep what they hold. With another VL, or
with M set and vd not v0, it raises the vector-type fault. Where vd and vb name one register both writes are
issued, the exponents last, and a set M bit is found before v0 counts as read: the model's choices (log entry
52). -/
def BlockConversions : Prop :=
  ∀ (i : Instr) (o : BlockCvt) (s : State), blockCvt i = some o → o.rm.val ≤ 5 →
    let c := s.chip
    let st := strandOf c o.u
    let n := vlOf st
    let f := o.f
    let v := fun r : Fin 32 => vreg (coreOf c o.u.core) r
    let block := fun b => qblock f o.rm ((List.range 32).map (fun j =>
      (fdec fmtFP32 (el c o.u o.va 32 (32 * b + j)), vsr c o.u (32 * b + j))))
    let value := fun j => fenc fmtFP32 o.rm (vsr c o.u j)
      (qdec f ((v o.vb).toNat / 2 ^ (8 * (j / 32)) % 256) (planeElem f (v o.va) j))
    (o.m = false → (n = 32 ∨ n = 64) →
      VecRuns c o.u [] (if o.pack then [o.va.val] else [o.va.val, o.vb.val]) [o.vd.val, o.va.val, o.vb.val] [] →
      (o.pack = true → ∃ x y : VReg,
        exec i s = .next (s.withChip (retire (putFlags (putVec (putVec c o.u o.vd 6 x false false 0) o.u o.vb 6 y false false 0)
          o.u 132 6 (vflagsOf (fun _ => true) (fun b => (block b).2.2) (n / 32))) o.u .seq)) ∧
        (∀ b < n / 32, y.toNat / 2 ^ (8 * b) % 256 = (block b).1 ∧
          ∀ j < 32, planeElem f x (32 * b + j) = (block b).2.1.getD j 0 % 2 ^ f.bits) ∧
        x.toNat / 2 ^ (f.bits * n) = (v o.vd).toNat / 2 ^ (f.bits * n) ∧ y.toNat / 2 ^ 16 = (v o.vb).toNat / 2 ^ 16) ∧
      (o.pack = false → ∃ x : VReg,
        exec i s = .next (s.withChip (retire (putFlags (putVec c o.u o.vd 6 x false false 0) o.u 132 6
          (vflagsOf (fun _ => true) (fun j => (value j).2) n)) o.u .seq)) ∧
        (∀ j < n, velem x 32 j = (value j).1) ∧ ∀ j < 64, n ≤ j → velem x 32 j = velem (v o.vd) 32 j)) ∧
    ((n ≠ 32 ∧ n ≠ 64) ∨ o.m = true → (o.m = true → o.vd ≠ 0) → Ready c o.u → LoopsClear st →
      Clean c o.u (if o.pack then [32 + o.va.val] else [32 + o.va.val, 32 + o.vb.val]) →
      (∀ r ∈ [o.vd, o.va, o.vb], natBit (vcreg st 6).toNat r = true) →
      exec i s = .next (s.withChip (takeExc (faultSlot c o.u) o.u ⟨0x12, sewOf st, 0⟩ (insnWord i))))

/-- A vector memory instruction: its address form, data register, mask bit, whether its index elements
suffice, registers read beside the data. -/
structure VecMem where
  u : StrandId
  reg : Fin 32
  m : Bool
  gsrcs : List Nat
  vsrcs : List Nat
  ok : Chip → Bool
  form : Chip → VMem
  late : Bool

/-- The loads of R193. -/
def vloadOf : Instr → Option VecMem
  | .vld u vd ra m late => some ⟨u, vd, m, [ra.val], [], fun _ => true, fun c => unitForm c u ra vd, late⟩
  | .vlds u vd ra rb m late => some ⟨u, vd, m, [ra.val, rb.val], [], fun _ => true, fun c => strideForm c u ra rb vd, late⟩
  | .vldx u vd ra vi m iw sc late => if iw = 3 then none else
      some ⟨u, vd, m, [ra.val], [vi.val], fun c => !indexBad c u iw, fun c => indexForm c u ra vi iw sc vd, late⟩
  | .vlseg u vd ra m nf1 late => if nf1 = 0 then none else
      some ⟨u, vd, m, [ra.val], [], fun _ => true, fun c => segForm c u ra nf1 vd, late⟩
  | _ => none

/-- The stores of R193. -/
def vstoreOf : Instr → Option VecMem
  | .vst u vs ra m => some ⟨u, vs, m, [ra.val], [], fun _ => true, fun c => unitForm c u ra vs, false⟩
  | .vsts u vs ra rb m => some ⟨u, vs, m, [ra.val, rb.val], [], fun _ => true, fun c => strideForm c u ra rb vs, false⟩
  | .vstx u vs ra vi m iw sc => if iw = 3 then none else
      some ⟨u, vs, m, [ra.val], [vi.val], fun c => !indexBad c u iw, fun c => indexForm c u ra vi iw sc vs, false⟩
  | .vsseg u vs ra m nf1 => if nf1 = 0 then none else
      some ⟨u, vs, m, [ra.val], [], fun _ => true, fun c => segForm c u ra nf1 vs, false⟩
  | _ => none

/-- R193: the address of field j of element i in each form, modulo 2^64. -/
def VectorAddresses : Prop :=
  ∀ (c : Chip) (u : StrandId) (ra rb vi reg : Fin 32) (iw sc nf1 : Fin 4) (i j : Nat),
    let g := fun r : Fin 32 => (greg (strandOf c u) r).toNat
    let w := sewNow c u / 16
    ((unitForm c u ra reg).addr i j).toNat = (g ra + i * w) % 2 ^ 64 ∧
    ((strideForm c u ra rb reg).addr i j).toNat = (g ra + i * g rb) % 2 ^ 64 ∧
    (iw ≠ 3 → ((indexForm c u ra vi iw sc reg).addr i j).toNat =
      (g ra + el c u vi (16 * 2 ^ iw.val) i * 2 ^ sc.val) % 2 ^ 64) ∧
    ((segForm c u ra nf1 reg).addr i j).toNat = (g ra + (i * (nf1.val + 1) + j) * w) % 2 ^ 64

/-- The conditions under which a vector memory instruction runs: its registers, VRESUME below VL or 0 (R198), its group
inside v31 (R194), and no tile instruction in flight over its words (R224). -/
def VecMemRuns (c : Chip) (o : VecMem) (data : List Nat) : Prop :=
  let x := o.form c
  VecRuns c o.u o.gsrcs (data ++ o.vsrcs ++ v0If o.m) (group o.reg x.nf ++ o.vsrcs ++ v0If o.m) [(130, 1)] ∧
  o.ok c = true ∧ o.reg.val + x.nf ≤ 32 ∧ (vresume (strandOf c o.u) = 0 ∨ vresume (strandOf c o.u) < vlOf (strandOf c o.u))

/-- R175, R195 to R198, R202, R284, R329: a vector load none of whose elements fails issues, at distance 8,
each register of its group with the words of its active elements from VRESUME up and its other elements as
they are, also when every element is masked off, and VRESUME := 0 at distance 1. With every word outside HBM,
a register's poison bit is set exactly when a word read is poisoned (a word of HBM brings its mark when the
controller accepts the read, R330). A load that its command marks late and that leaves the own classroom waits
for RESULT_COMPUTED (log entry 7). Memory reads as before. -/
def VectorLoads : Prop :=
  ∀ (i : Instr) (o : VecMem) (s : State), vloadOf i = some o →
    let c := s.chip
    let st := strandOf c o.u
    let x := o.form c
    let es := vElems c o.u o.m
    (o.m = true → o.reg ≠ 0) → vlOf st ≤ 2048 / sewNow c o.u → VecMemRuns c o [] →
    firstFail c o.u x false es = none → vHold c o.u x false es = false →
    ∃ t, exec i s = .next (s.withChip t) ∧ (∀ sp a, rdWord t sp a = rdWord c sp a) ∧
      (0 < vlOf st → ∀ j < x.nf, ∃ w ∈ (strandOf t o.u).pendV, w.reg = o.reg.val + j ∧ w.k = 7 ∧
        (w.late = true ↔ o.late = true ∧ ∃ e ∈ es, ∃ f < x.nf, ownRoom o.u.core (x.addr e f).toNat = false) ∧
        ((∀ e ∈ es, ∀ f < x.nf, inHbm (x.addr e f).toNat = false) →
          (w.pois = true ↔ ∃ e ∈ es, ∃ f < x.nf, (rdNat c st.spec (x.addr e f).toNat (elemWords st)).2 = true)) ∧
        (∀ e ∈ es, velem w.val (sewNow c o.u) e = (rdNat c st.spec (x.addr e j).toNat (elemWords st)).1) ∧
        ∀ e < 2048 / sewNow c o.u, e ∉ es →
          velem w.val (sewNow c o.u) e = velem (vreg (coreOf c o.u.core) (o.reg.val + j)) (sewNow c o.u) e) ∧
      (0 < vlOf st → vcreg (strandOf t o.u) 2 = 0)

/-- The words that a vector store writes, in order: ascending elements, ascending fields (R195). -/
def storedWords (c : Chip) (o : VecMem) : List (Nat × Word × Bool) :=
  let x := o.form c
  (vElems c o.u o.m).flatMap (fun e => (List.range x.nf).flatMap (fun j =>
    atRun (x.addr e j).toNat (natWords (velem (vreg (coreOf c o.u.core) (o.reg.val + j)) (sewNow c o.u) e)
      (elemWords (strandOf c o.u)))))

/-- R193, R195, R198, R323, R330: a vector store none of whose elements fails writes the words of its active
elements from VRESUME up, in ascending order, past the scalar cache (the model's choice of R323 over R195, log
entry 61): classroom memory now (log entry 6), a line of HBM when its controller accepts it; no other word
changes, and VRESUME becomes 0. -/
def VectorStores : Prop :=
  ∀ (i : Instr) (o : VecMem) (s : State), vstoreOf i = some o →
    let c := s.chip
    let st := strandOf c o.u
    let x := o.form c
    let n := elemWords st
    let es := vElems c o.u o.m
    let c' := coreWrite c o.u.core st.spec (.store o.u.core o.u.strand) (storedWords c o)
    VecMemRuns c o (group o.reg x.nf) → firstFail c o.u x true es = none → vHold c o.u x true es = false →
    exec i s = .next (s.withChip (retire (if vlOf st = 0 then c' else putReg c' o.u 130 1 0) o.u .seq)) ∧
    (SpecRangesApart c →
      (∀ e ∈ es, ∀ j < x.nf, inHbm (x.addr e j).toNat = false → (∀ e' ∈ es, ∀ j' < x.nf, (e' = e ∧ j' = j) ∨
          (x.addr e' j').toNat + n ≤ (x.addr e j).toNat ∨ (x.addr e j).toNat + n ≤ (x.addr e' j').toNat) →
        (rdNat c' st.spec (x.addr e j).toNat n).1 = velem (vreg (coreOf c o.u.core) (o.reg.val + j)) (sewNow c o.u) e) ∧
      ∀ a, inShadow c a = false →
        (∀ e ∈ es, ∀ j < x.nf, a < (x.addr e j).toNat ∨ (x.addr e j).toNat + n ≤ a) →
        (rdWord c' st.spec a).1 = (rdWord c st.spec a).1)

/-- R196, R197: when element i is the first to fail, the elements below it have been performed, VRESUME is i, and the
element's exception is taken. -/
def VectorMemoryResumes : Prop :=
  ∀ (i : Instr) (o : VecMem) (s : State) (e : Nat) (x : Exc),
    let c := s.chip
    let es := vElems c o.u o.m
    let done := es.filter (fun j => decide (j < e))
    let taken := fun c' => exec i s = .next (s.withChip (takeExc (faultSlot c' o.u) o.u x (insnWord i)))
    (vloadOf i = some o → (o.m = true → o.reg ≠ 0) → VecMemRuns c o [] → vHold c o.u (o.form c) false done = false →
      firstFail c o.u (o.form c) false es = some (e, x) →
      taken (vLoadAct o.u (o.form c) o.late done (some (e, x)) c) ∧
      vcreg (strandOf (vLoadAct o.u (o.form c) o.late done (some (e, x)) c) o.u) 2 = BitVec.ofNat 64 e) ∧
    (vstoreOf i = some o → VecMemRuns c o (group o.reg (o.form c).nf) → vHold c o.u (o.form c) true done = false →
      firstFail c o.u (o.form c) true es = some (e, x) →
      taken (vStoreAct o.u (o.form c) done (some (e, x)) c) ∧
      vcreg (strandOf (vStoreAct o.u (o.form c) done (some (e, x)) c) o.u) 2 = BitVec.ofNat 64 e)

/-- What stands at a vector instruction that names these registers, in the order of R203: the lowest register
its strand does not own, cause 0x10; then e, if there is one; then the lowest register with a write pending,
cause 0x11, DETAIL[15] set when that is a scalar write. -/
def VecFaults (st : Strand) (regs : List Nat) (e : Option Exc) (taken : Exc → Prop) : Prop :=
  (∀ n ∈ regs, natBit (vcreg st 6).toNat n = false → (∀ k ∈ regs, natBit (vcreg st 6).toNat k = false → n ≤ k) →
    taken ⟨0x10, n, 0⟩) ∧
  ((∀ n ∈ regs, natBit (vcreg st 6).toNat n = true) →
    (∀ x, e = some x → taken x) ∧
    (e = none → ∀ n ∈ regs, ((∃ w ∈ st.pendV, w.reg = n) ∨ ∃ w ∈ st.pend, w.reg = 32 + n) →
      (∀ k ∈ regs, ((∃ w ∈ st.pendV, w.reg = k) ∨ ∃ w ∈ st.pend, w.reg = 32 + k) → n ≤ k) →
      ((∃ w ∈ st.pendV, w.reg = n) → taken ⟨0x11, n, 0⟩) ∧
      ((∀ w ∈ st.pendV, w.reg ≠ n) → taken ⟨0x11, 2 ^ 15 + n, 0⟩)))

/-- The vector-type, register-group and vector-resume conditions of a vector memory instruction, in the order
of R203. -/
def memCondition (c : Chip) (o : VecMem) : Option Exc :=
  let st := strandOf c o.u
  let x := o.form c
  if o.ok c = false then some ⟨0x12, sewOf st, 0⟩
  else if 32 < o.reg.val + x.nf then some ⟨0x15, o.reg, 0⟩
  else if vresume st ≠ 0 ∧ vlOf st ≤ vresume st then some ⟨0x13, vresume st, 0⟩
  else none

/-- R176, R183, R188, R190, R194, R198, R200, R203: a masked vector instruction that writes v0 is illegal;
otherwise ownership, the conditions of its own kind and the hazards come in that order: the vector-type fault
of an element-wise instruction whose format VTYPE or VL does not suit, of a gather whose VL exceeds its index
elements, the group past v31, a VRESUME not below VL. (That ownership and hazards are tested with VL = 0 too
is the model's choice, log entry 62.) -/
def VectorRegisterFaults : Prop :=
  ∀ (i : Instr) (s : State),
    let c := s.chip
    let taken := fun u e => exec i s = .next (s.withChip (takeExc (faultSlot c u) u e (insnWord i)))
    (∀ o : VecOp, vecOpOf i = some o → Ready c o.u →
      (o.m = true → o.vd = 0 → taken o.u ⟨0x01, 0, 0⟩) ∧
      ((o.m = true → o.vd ≠ 0) → LoopsClear (strandOf c o.u) →
        Clean c o.u (o.gsrcs ++ (o.vsrcs ++ v0If o.m).map (fun n => 32 + n)) →
        VecFaults (strandOf c o.u) (o.vd.val :: o.vsrcs ++ v0If o.m)
          (if o.ok c then none else some ⟨0x12, sewOf (strandOf c o.u), 0⟩) (taken o.u))) ∧
    ∀ (o : VecMem) (wr : Bool), (if wr then vstoreOf i else vloadOf i) = some o → Ready c o.u →
      vHold c o.u (o.form c) wr (vPlan c o.u o.m (o.form c) wr).1 = false →
      let data := group o.reg (o.form c).nf
      (wr = false → o.m = true → o.reg = 0 → taken o.u ⟨0x01, 0, 0⟩) ∧
      ((wr = false → o.m = true → o.reg ≠ 0) → LoopsClear (strandOf c o.u) →
        Clean c o.u (o.gsrcs ++ ((if wr then data else []) ++ o.vsrcs ++ v0If o.m).map (fun n => 32 + n)) →
        InOrder (strandOf c o.u) [(130, 1)] →
        VecFaults (strandOf c o.u) (data ++ o.vsrcs ++ v0If o.m) (memCondition c o) (taken o.u))

end Sys2Proof.Machine

/-! ### Tiles and matrix arrays (R206 to R247) -/

namespace Sys2Proof.Machine

/-- Conditions common to the tile instructions: the strand runs, and no tc register it uses has a write
pending (R213). -/
def TileRuns (c : Chip) (u : StrandId) (srcs : List Nat) (dsts : List (Nat × Nat)) (tcs : List Nat) : Prop :=
  Ready c u ∧ LoopsClear (strandOf c u) ∧ Clean c u srcs ∧ InOrder (strandOf c u) dsts ∧
  ∀ n ∈ tcs, ∀ w ∈ (strandOf c u).pend, w.reg ≠ 200 + n

/-- R211 to R216, R225, R247: TSHAPE installs a valid descriptor at distance 1 while no tile instruction is in
flight or parked; TMFC reads a tc register at distance 2; TMTC writes one at distance 3; TFENCE with nothing
in flight only uses its slot; TQDROP above pupil drops the parked instructions. The reserved tc7 reads 0 and
TFLAGS can be accessed while instructions are parked: the model's choices (log entries 26, 28). -/
def TileControl : Prop :=
  ∀ (s : State) (u : StrandId) (g : Fin 32),
    let c := s.chip
    let st := strandOf c u
    let v := greg st g
    let ends := fun i c' => exec i s = .next (s.withChip (retire c' u .seq))
    (TileRuns c u [g.val] [] [0] → st.flight = [] → st.parked = [] → shapeCheck v = none →
      ends (.tshape u g) (putReg c u 200 1 v)) ∧
    (∀ tc : Fin 8, TileRuns c u [] [(g.val, 2)] [tc.val] → (tc = 2 → st.flight = []) →
      ends (.tmfc u g tc) (putReg c u g 2
        (if tc = 7 then 0 else if tc = 5 then BitVec.ofNat 64 st.parked.length else tcreg st tc))) ∧
    (∀ tc : Fin 8, TileRuns c u [g.val] [] [tc.val] →
      ((tc = 1 ∧ v.toNat < 2 ^ 10 ∧ level st = 2 ∧ st.flight = [] ∧ st.parked = [] ∧
          ∀ x : Fin 8, x ≠ u.strand → tcreg (strandOf c ⟨u.core, x⟩) 1 &&& v = 0) ∨
        (tc = 2 ∧ v.toNat < 2 ^ 5 ∧ st.flight = []) ∨ tc = 3 ∨ (tc = 4 ∧ v.toNat < 2 ^ 40) ∨ tc = 6) →
      ends (.tmtc u g tc) (putReg c u (200 + tc.val) 3 v)) ∧
    (TileRuns c u [] [] [] → st.flight = [] → st.parked = [] → ends (.tfence u) c) ∧
    (TileRuns c u [] [] [] → level st ≠ 0 → st.flight.length < 4 →
      ends (.tqdrop u) (modStrand c u (fun st => { st with parked := [] })))

/-- R216: the shape checks in their order. -/
def ShapeChecks : Prop :=
  ∀ d : W64,
    let af := d.toNat % 8
    let wf := d.toNat / 8 % 8
    ((af = 7 ∨ wf = 7) → shapeCheck d = some 1) ∧
    (af ≠ 7 → wf ≠ 7 → 2 ^ 16 ≤ d.toNat → shapeCheck d = some 2) ∧
    (af ≠ 7 → wf ≠ 7 → d.toNat < 2 ^ 16 →
      (¬ (af < 4 ↔ wf < 4) → shapeCheck d = some 3) ∧
      ((af < 4 ↔ wf < 4) → ¬ (af = 2 ↔ wf = 2) → shapeCheck d = some 4) ∧
      (4 ≤ af → 4 ≤ wf → af ≠ wf → shapeCheck d = some 5) ∧
      ((af < 4 ↔ wf < 4) → (af = 2 ↔ wf = 2) → (4 ≤ af → af = wf) → shapeCheck d = none))

/-- A tile instruction that enters the queue: strand, general registers read, TMASK bits, what it latches, the
tile register it reads, whether it writes memory, and the runs of words it reaches. -/
structure TileIn where
  u : StrandId
  srcs : List Nat
  bits : List Nat
  kind : TileKind
  reads : Option Nat
  wr : Bool
  segs : List Seg

/-- The tile instructions of R226 to R241, where their operand conditions (R220) hold. -/
def tileIn (c : Chip) : Instr → Option TileIn
  | .tld u t ra rb =>
    let g := greg (strandOf c u)
    some ⟨u, planeSrcs (curAF c u) ra rb, [t.val], .tld t (g ra) (g rb), none, false,
      planeSegs (curAF c u) (shM (tcreg (strandOf c u) 0)) (g ra) (g rb) (tcreg (strandOf c u) 6) (ra.val == 31) (rb.val == 31)⟩
  | .tldT u t ra rb =>
    let g := greg (strandOf c u)
    if (qOf (curAF c u)).isSome ∨ rb ≠ 0 then none else
    some ⟨u, [ra.val], [t.val], .tldT t (g ra) (g rb), none, false,
      transSegs (curAF c u) (shM (tcreg (strandOf c u) 0)) (g ra) (tcreg (strandOf c u) 6) (ra.val == 31)⟩
  | .tst u t ra rb =>
    let g := greg (strandOf c u)
    some ⟨u, planeSrcs (curAF c u) ra rb, [t.val], .tst t (g ra) (g rb), some t.val, true,
      planeSegs (curAF c u) (shM (tcreg (strandOf c u) 0)) (g ra) (g rb) (tcreg (strandOf c u) 6) (ra.val == 31) (rb.val == 31)⟩
  | .twld u a ra rb =>
    let g := greg (strandOf c u)
    some ⟨u, planeSrcs (curWF c u) ra rb, [8 + a.val], .twld a (g ra) (g rb), none, false,
      weightSegs (curWF c u) (g ra) (g rb) (ra.val == 31) (rb.val == 31)⟩
  | .twldT u a ra rb =>
    let g := greg (strandOf c u)
    if curWF c u = 2 then none else
    some ⟨u, planeSrcs (curWF c u) ra rb, [8 + a.val], .twldT a (g ra) (g rb), none, false,
      weightSegs (curWF c u) (g ra) (g rb) (ra.val == 31) (rb.val == 31)⟩
  | .tmac u sl a t b swap sr =>
    if b.val < tGroups (curAF c u) ∧ (curAF c u = 2 → b.val % 2 = 0) ∧
        openAfter a sl (slotOf c u.core (slotKey a sl)).opened (strandOf c u).flight = true then
      some ⟨u, [], [t.val, 8 + a.val], .tmac sl a t b swap sr, some t.val, false, []⟩
    else none
  | .taccZero u sl a ra rb =>
    let d := greg (strandOf c u) ra
    let b := greg (strandOf c u) rb
    if d.toNat < 2 ^ 24 ∧ d.toNat % 4 ≠ 3 ∧ (d.toNat % 4 ≠ 0 → ownRoom u.core b.toNat = true ∧ b.toNat % 16 = 0) then
      some ⟨u, [ra.val, rb.val], [8 + a.val], .taccZero sl a d b, none, false, []⟩
    else none
  | .taccRead u sl a t fmt rm b =>
    if fmt.val ≠ 7 ∧ rm.val ≤ 5 ∧ b.val < tGroups fmt then
      some ⟨u, [], [t.val, 8 + a.val], .taccRead sl a t fmt rm b, none, false, []⟩
    else none
  | .taccSpill u sl a ra z =>
    let x := greg (strandOf c u) ra
    some ⟨u, [ra.val], [8 + a.val], .taccSpill sl a x z, none, true, spillSegs x (tcreg (strandOf c u) 6) (ra.val == 31)⟩
  | _ => none

/-- R209, R219 to R222, R228: a tile instruction that meets none of the tile causes enters the queue last,
with the general registers and TSHAPE, TEBASE, TESTRIDE and TSTR latched at its slot, nothing asked for and
nothing read yet; it commits later, and memory reads as before. That rb of TWLD is free where an IEEE format
does not use it is log entry 20. -/
def TileInstructionsEnterTheQueue : Prop :=
  ∀ (i : Instr) (o : TileIn) (s : State), tileIn s.chip i = some o →
    let c := s.chip
    let st := strandOf c o.u
    TileRuns c o.u o.srcs [] (tileTcs o.kind) → (∀ b ∈ o.bits, natBit (tcreg st 1).toNat b = true) → st.parked = [] →
    st.flight.length < 4 → (∀ t, o.reads = some t → (tileOf c o.u.core t).pois = false ∧ loadsTile st t = false) →
    segsFault c o.u o.wr o.segs = none →
    ∃ t, exec i s = .next (s.withChip t) ∧
      (strandOf t o.u).flight = st.flight ++
        [⟨o.kind, tcreg st 0, tcreg st 3, tcreg st 4, tcreg st 6, segsLo o.segs, segsHi o.segs, st.nextId, false, []⟩] ∧
      (coreOf t o.u.core).tiles = (coreOf c o.u.core).tiles ∧ (coreOf t o.u.core).banks = (coreOf c o.u.core).banks ∧
      (coreOf t o.u.core).slots = (coreOf c o.u.core).slots ∧ ∀ sp a, rdWord t sp a = rdWord c sp a

/-- R209, R213, R218, R219, R228, R245: without the TMASK bits a tile instruction raises cause 0x22 with the
lowest missing bit; while a tile control register that it uses, TFLAGS of TMAC and TACC.READ among them, has a
write pending it raises 0x29 with the lowest such register (the model's choice, log entry 26); while parked
instructions wait it raises cause 0x26; a tile whose poison bit is set raises 0x27 for its reader; then the
first failure of its runs of words. A TLD.T whose unused field rb is not 0 is illegal (log entry 20). -/
def TileInstructionFaults : Prop :=
  ∀ (i : Instr) (o : TileIn) (s : State), tileIn s.chip i = some o →
    let c := s.chip
    let st := strandOf c o.u
    let taken := fun e => exec i s = .next (s.withChip (takeExc (faultSlot c o.u) o.u e (insnWord i)))
    Ready c o.u → LoopsClear st → Clean c o.u o.srcs → st.flight.length < 4 →
    (∀ t, o.reads = some t → loadsTile st t = false) →
    (∀ b ∈ o.bits, natBit (tcreg st 1).toNat b = false → (∀ x ∈ o.bits, natBit (tcreg st 1).toNat x = false → b ≤ x) →
      taken ⟨0x22, b, 0⟩) ∧
    ((∀ b ∈ o.bits, natBit (tcreg st 1).toNat b = true) →
      let busy := fun n => ∃ w ∈ st.pend, w.reg = 200 + n
      (∀ n ∈ tileTcs o.kind, busy n → (∀ x ∈ tileTcs o.kind, busy x → n ≤ x) → taken ⟨0x29, n, 0⟩) ∧
      ((∀ n ∈ tileTcs o.kind, ¬ busy n) →
        (st.parked ≠ [] → taken ⟨0x26, 1, 0⟩) ∧
        (st.parked = [] →
          (∀ t, o.reads = some t → (tileOf c o.u.core t).pois = true → taken ⟨0x27, t, 0⟩) ∧
          ((∀ t, o.reads = some t → (tileOf c o.u.core t).pois = false) →
            ∀ e, segsFault c o.u o.wr o.segs = some e → taken e)))) ∧
    ∀ (t : Fin 8) (ra rb : Fin 32), rb ≠ 0 →
      exec (.tldT o.u t ra rb) s =
        .next (s.withChip (takeExc (faultSlot c o.u) o.u ⟨0x01, 0, 0⟩ (insnWord (.tldT o.u t ra rb))))

/-- R220, R228, R233: the tile operand fault, cause 0x24, with its reasons 1 to 6, and the slot-closed fault,
0x25, of TMAC. -/
def TileOperandFaults : Prop :=
  ∀ (s : State) (u : StrandId),
    let c := s.chip
    let st := strandOf c u
    let g := fun r : Fin 32 => greg st r
    let af := curAF c u
    let faults := fun (i : Instr) (srcs bits : List Nat) (k : TileKind) (e : Exc) =>
      Ready c u → LoopsClear st → Clean c u srcs → st.flight.length < 4 → (∀ b ∈ bits, natBit (tcreg st 1).toNat b = true) →
      (∀ n ∈ tileTcs k, ∀ w ∈ st.pend, w.reg ≠ 200 + n) → st.parked = [] →
      exec i s = .next (s.withChip (takeExc (faultSlot c u) u e (insnWord i)))
    (∀ (sl : Fin 32) (a : Fin 2) (t b : Fin 8) swap sr, loadsTile st t = false →
      let bad := tGroups af ≤ b.val ∨ (af = 2 ∧ b.val % 2 = 1)
      (bad → faults (.tmac u sl a t b swap sr) [] [t.val, 8 + a.val] (.tmac sl a t b swap sr) ⟨0x24, 1, 0⟩) ∧
      (¬ bad → openAfter a sl (slotOf c u.core (slotKey a sl)).opened st.flight = false →
        faults (.tmac u sl a t b swap sr) [] [t.val, 8 + a.val] (.tmac sl a t b swap sr) ⟨0x25, 32 * a.val + sl.val, 0⟩)) ∧
    (∀ (sl : Fin 32) (a : Fin 2) (t fmt rm b : Fin 8), fmt ≠ 7 → rm.val ≤ 5 → tGroups fmt ≤ b.val →
      faults (.taccRead u sl a t fmt rm b) [] [t.val, 8 + a.val] (.taccRead sl a t fmt rm b) ⟨0x24, 2, 0⟩) ∧
    (∀ (t : Fin 8) (ra : Fin 32), af < 4 →
      faults (.tldT u t ra 0) [ra.val] [t.val] (.tldT t (g ra) (g 0)) ⟨0x24, 3, 0⟩) ∧
    (∀ (a : Fin 2) (ra rb : Fin 32), curWF c u = 2 →
      faults (.twldT u a ra rb) [ra.val, rb.val] [8 + a.val] (.twldT a (g ra) (g rb)) ⟨0x24, 4, 0⟩) ∧
    ∀ (sl : Fin 32) (a : Fin 2) (ra rb : Fin 32),
      let d := (g ra).toNat
      let b := (g rb).toNat
      let bad := d % 4 = 3 ∨ 2 ^ 24 ≤ d
      (bad → faults (.taccZero u sl a ra rb) [ra.val, rb.val] [8 + a.val] (.taccZero sl a (g ra) (g rb)) ⟨0x24, 5, 0⟩) ∧
      (¬ bad → d % 4 ≠ 0 → (ownRoom u.core b = false ∨ b % 16 ≠ 0) →
        faults (.taccZero u sl a ra rb) [ra.val, rb.val] [8 + a.val] (.taccZero sl a (g ra) (g rb)) ⟨0x24, 6, 0⟩)

/-- R210, R212, R216 to R219, R245, R247: where the tile control instructions fault: TSHAPE while instructions
are in flight or parked, or of a descriptor that fails a check; TMTC of a register or bit that it may not
write, of TMASK below head, over another strand's bits or while instructions are in flight or parked; TQDROP
at pupil; TFENCE while instructions are parked. -/
def TileControlFaults : Prop :=
  ∀ (s : State) (u : StrandId) (g : Fin 32),
    let c := s.chip
    let st := strandOf c u
    let v := greg st g
    let faults := fun i e => exec i s = .next (s.withChip (takeExc (faultSlot c u) u e (insnWord i)))
    let free := fun n => ∀ w ∈ st.pend, w.reg ≠ 200 + n
    let width := fun n => if n = 1 then 10 else if n = 2 then 5 else if n = 4 then 40 else 64
    Ready c u → LoopsClear st →
    (Clean c u [g.val] → free 0 → st.flight.length < 4 →
      (st.flight ≠ [] ∨ st.parked ≠ [] → faults (.tshape u g) ⟨0x20, 8 * st.parked.length + st.flight.length, 0⟩) ∧
      (st.flight = [] → st.parked = [] → ∀ n, shapeCheck v = some n → faults (.tshape u g) ⟨0x21, n, 0⟩)) ∧
    (∀ tc : Fin 8, (tc = 2 → st.flight = []) →
      (tc = 0 ∨ tc = 5 ∨ tc = 7 ∨ 2 ^ width tc.val ≤ v.toNat → faults (.tmtc u g tc) ⟨0x01, 0, 0⟩)) ∧
    (v.toNat < 2 ^ 10 → level st ≠ 2 → faults (.tmtc u g 1) ⟨0x02, 0, 0⟩) ∧
    (v.toNat < 2 ^ 10 → level st = 2 → Clean c u [g.val] →
      let ov := ∑ x : Fin 8, if x ≠ u.strand ∧ tcreg (strandOf c ⟨u.core, x⟩) 1 &&& v ≠ 0 then 2 ^ x.val else 0
      (ov ≠ 0 → faults (.tmtc u g 1) ⟨0x23, ov, 0⟩) ∧
      (ov = 0 → free 1 → st.parked ≠ [] → faults (.tmtc u g 1) ⟨0x26, 1, 0⟩) ∧
      (ov = 0 → free 1 → st.parked = [] → st.flight ≠ [] → faults (.tmtc u g 1) ⟨0x26, 0, 0⟩)) ∧
    (level st = 0 → st.flight.length < 4 → faults (.tqdrop u) ⟨0x02, 0, 0⟩) ∧
    (st.flight = [] → st.parked ≠ [] → faults (.tfence u) ⟨0x26, 1, 0⟩)

end Sys2Proof.Machine

/-! ### Commits (R206 to R208, R223, R226 to R242, R256 to R273, R600) -/

namespace Sys2Proof.Machine

/-- The oldest tile instruction of a strand commits at the next TILE_COMMIT: it has asked for its lines, and
they are served. -/
def Commits (c : Chip) (u : StrandId) (op : TileOp) (r : List TileOp) : Prop :=
  (strandOf c u).flight = op :: r ∧ op.asked = true ∧ outstandingReq c (.tile u.core u.strand op.id) = false

/-- A load of the tile unit. -/
def isTileLoad : TileKind → Bool
  | .tld .. | .tldT .. | .twld .. | .twldT .. => true
  | _ => false

/-- R223, R237, R283, R286, R329: TILE_COMMIT acts on the oldest instruction in flight alone. A load first
asks for the lines of its runs; while a request of the oldest is outstanding nothing changes; then it commits
and leaves the queue, and the strand's place, general and control registers stay. That an instruction asks
when it is the oldest is the model's choice (log entry 6). -/
def CommitsTakeTheOldest : Prop :=
  ∀ (s : State) (u : StrandId),
    ((strandOf s.chip u).flight = [] → exec (.tileCommit u) s = .next s) ∧
    ∀ op r, (strandOf s.chip u).flight = op :: r →
      let waits := fun c => outstandingReq c (.tile u.core u.strand op.id)
      let begun := setAsked u op (askOp u op s.chip)
      (op.asked = true → waits s.chip = true → exec (.tileCommit u) s = .next s) ∧
      (op.asked = false → isTileLoad op.kind = true → waits begun = true →
        exec (.tileCommit u) s = .next (s.withChip begun)) ∧
      (op.asked = true ∧ waits s.chip = false ∨ op.asked = false ∧ isTileLoad op.kind = true ∧ waits begun = false →
        ∃ t, exec (.tileCommit u) s = .next (s.withChip t) ∧ (strandOf t u).flight.map TileOp.id = r.map TileOp.id ∧
          (strandOf t u).pc = (strandOf s.chip u).pc ∧ (∀ n, greg (strandOf t u) n = greg (strandOf s.chip u) n) ∧
          (∀ n, creg (strandOf t u) n = creg (strandOf s.chip u) n))

/-- R206, R207, R208, R226: the commit of a TLD puts row r of the element plane into row r of the tile, the
exponent bytes of a block format beside it, for the rows below M, each word as its request returned it; the
other rows keep what they held; a poisoned word poisons the tile, and a load of all 32 rows without one clears
its poison. Memory reads as before. -/
def TileLoadCommits : Prop :=
  ∀ (c : Chip) (u : StrandId) (op : TileOp) (r : List TileOp) (t : Nat) (ra rb : W64),
    Commits c u op r → op.kind = .tld t ra rb →
    let sp := (strandOf c u).spec
    let af := shAF op.shape
    let m := shM op.shape
    let n := tGroups af * tGroupWords af
    let elems := fun row => (rowAt ra (tES op.tstr) row).toNat
    let exps := fun row => (rowAt rb (tXS op.tstr) row).toNat
    let c' := tileCommit u c
    let old := tileOf c u.core t
    let new := tileOf c' u.core t
    (∀ row < m, ∀ j < n, tget (fun _ => 0) new.data (64 * row + j) = (opWord c sp op (elems row + j)).1) ∧
    (∀ row < 32, m ≤ row → ∀ j < 64, tget (fun _ => 0) new.data (64 * row + j) = tget (fun _ => 0) old.data (64 * row + j)) ∧
    (af < 4 → ∀ row < m, ∀ g < tGroups af,
      tExp new row g = (opNat c sp op (exps row) (tExpWords af)).1 / 2 ^ (8 * g) % 256) ∧
    (new.pois = true ↔
      (∃ row < m, (∃ j < n, (opWord c sp op (elems row + j)).2 = true) ∨ (opNat c sp op (exps row) (tExpWords af)).2 = true) ∨
        (m < 32 ∧ old.pois = true)) ∧
    ∀ x a, rdWord c' x a = rdWord c x a

/-- R227, R230 to R232, R600: the commit of a TLD.T puts element i of memory row i into element i of its row;
that of a TWLD or TWLD.T fills the shadow bank of its array with the codes and exponents of the stored blocks,
cell (k, n) from element k of block n, or transposed from element n of block k, marked where a word it takes
is poisoned. The other banks, and memory, stay. -/
def TransposedAndWeightLoadsCommit : Prop :=
  ∀ (c : Chip) (u : StrandId) (op : TileOp) (r : List TileOp), Commits c u op r →
    let sp := (strandOf c u).spec
    let c' := tileCommit u c
    (∀ (t : Nat) (ra rb : W64), op.kind = .tldT t ra rb → 4 ≤ shAF op.shape → shAF op.shape < 7 →
      let af := shAF op.shape
      let w := tElemWords af
      let word := fun row i k => opWord c sp op ((rowAt ra (tES op.tstr) i + BitVec.ofNat 64 (row * w)).toNat + k)
      let new := tileOf c' u.core t
      (∀ row < shM op.shape, ∀ i < 32 * tGroups af, ∀ k < w,
        tget (fun _ => 0) new.data (64 * row + w * i + k) = (word row i k).1) ∧
      (∀ row < 32, shM op.shape ≤ row → ∀ j < 64,
        tget (fun _ => 0) new.data (64 * row + j) = tget (fun _ => 0) (tileOf c u.core t).data (64 * row + j)) ∧
      (new.pois = true ↔ (∃ row < shM op.shape, ∃ i < 32 * tGroups af, ∃ k < w, (word row i k).2 = true) ∨
        (shM op.shape < 32 ∧ (tileOf c u.core t).pois = true))) ∧
    (∀ (a : Nat) (ra rb : W64) (trans : Bool), op.kind = (if trans then .twldT a ra rb else .twld a ra rb) →
      let wf := shWF op.shape
      wf < 7 → (trans = true → wf ≠ 2) →
      let w := tGroupWords wf
      let bits := match qOf wf with | some f => f.bits | none => 16 * tElemWords wf
      let k0 := coreOf c u.core
      let shadow := shadowBank k0 a
      ∀ k < (if wf = 2 then 64 else 32), ∀ n < 32,
        let blk := if trans then k else if wf = 2 then 2 * n + k / 32 else n
        let e := if trans then n else k % 32
        let plane := ra.toNat + blk * w
        ∃ p : Bool, tget (fun _ => none) (bankAt (coreOf c' u.core) shadow) (32 * k + n) =
            some ⟨wf, (opNat c sp op plane w).1 / 2 ^ (bits * e) % 2 ^ bits,
              if wf < 4 then (opWord c sp op (rb.toNat + blk / 2)).1.toNat / 2 ^ (8 * (blk % 2)) % 256 else 0, p⟩ ∧
          (p = true ↔ (∃ j < w, 16 * j < bits * e + bits ∧ bits * e < 16 * (j + 1) ∧ (opWord c sp op (plane + j)).2 = true) ∨
            (wf < 4 ∧ (opWord c sp op (rb.toNat + blk / 2)).2 = true)) ∧
          (∀ b, b ≠ shadow → bankAt (coreOf c' u.core) b = bankAt k0 b) ∧ ∀ x a, rdWord c' x a = rdWord c x a)

/-- The words that row r of a TST writes (R226): the elements, then the exponents, the high byte of Q6's third
word 0. -/
def storedRow (t : Tile) (op : TileOp) (ra rb : W64) (r : Nat) : List (Nat × Word × Bool) :=
  let af := shAF op.shape
  atRun (rowAt ra (tES op.tstr) r).toNat
      ((List.range (tGroups af * tGroupWords af)).map (fun j => tget (fun _ => 0) t.data (64 * r + j))) ++
    (if af < 4 then atRun (rowAt rb (tXS op.tstr) r).toNat ((List.range (tExpWords af)).map (fun w =>
      BitVec.ofNat 16 (tExp t r (2 * w) + if 2 * w + 1 < tGroups af then 256 * tExp t r (2 * w + 1) else 0))) else [])

/-- R226, R229, R241, R330: a TST writes its rows, and a TACC.SPILL the 32 rows of its slot as FP32, in
ascending row order, when it is the oldest; it leaves the queue once its requests are served. With Z the slot
is +0 then; its state stays otherwise. That the words are written when the requests are made is the model's
choice (log entry 6). -/
def TileStoresWriteTheirRows : Prop :=
  ∀ (s : State) (u : StrandId) (op : TileOp) (r : List TileOp),
    let c := s.chip
    let st := strandOf c u
    let writes := fun l => coreWrite c u.core st.spec (.tile u.core u.strand op.id) l
    let begun := fun c' => (outstandingReq (setAsked u op c') (.tile u.core u.strand op.id) = true →
        exec (.tileCommit u) s = .next (s.withChip (setAsked u op c'))) ∧
      (outstandingReq (setAsked u op c') (.tile u.core u.strand op.id) = false →
        exec (.tileCommit u) s = .next (s.withChip (landOp u (setAsked u op c'))))
    st.flight = op :: r → op.asked = false →
    (∀ (t : Nat) (ra rb : W64), op.kind = .tst t ra rb → shAF op.shape < 7 →
      begun (writes ((List.range (shM op.shape)).flatMap (storedRow (tileOf c u.core t) op ra rb)))) ∧
    ∀ (sl a : Nat) (ra : W64) (z : Bool), op.kind = .taccSpill sl a ra z →
      let x := slotOf c u.core (slotKey a sl)
      let c' := writes ((List.range 32).flatMap (fun row => atRun (rowAt ra (tES op.tstr) row).toNat
        ((List.range 64).map (fun j => BitVec.ofNat 16 ((slotVal x (32 * row + j / 2)).toNat / 2 ^ (16 * (j % 2)))))))
      (z = false → begun c') ∧
      (z = true → ∃ c'', begun c'' ∧ (∀ n < 1024, slotVal (slotOf c'' u.core (slotKey a sl)) n = 0) ∧
        (slotOf c'' u.core (slotKey a sl)).opened = x.opened ∧ (slotOf c'' u.core (slotKey a sl)).bcount = x.bcount ∧
        c''.mem = c'.mem)

end Sys2Proof.Machine

/-! Slots and their buffers -/

namespace Sys2Proof.Machine

/-- The buffer of a slot can be reached by its strand's spill path and holds no poisoned word (R270, R272). -/
def BufferClean (c : Chip) (u : StrandId) (buf len : Nat) : Prop :=
  let st := strandOf c u
  ∀ w < len, ownRoom u.core (buf + w) = true ∧ (rdWord c st.spec (buf + w)).2 = false ∧
    ∀ wr, reaches c u.core (level st) wr st.spec (buf + w) = true

/-- DEPTH, LEVEL of entry e and total k of entry e of a buffer (R266). -/
def bufDepth (c : Chip) (sp : Bool) (buf : Nat) : Nat := (rdWord c sp buf).1.toNat % 32
def bufLevel (c : Chip) (sp : Bool) (buf e : Nat) : Nat := (rdWord c sp (buf + 0x010 + e)).1.toNat % 32
def bufTotal (c : Chip) (sp : Bool) (buf e k : Nat) : Nat := (rdNat c sp (buf + 0x020 + e * 0x800 + 2 * k) 2).1

/-- Entries d - 1 down to 0 of a TREE buffer: their levels, and their totals of slot element k. -/
def bufStack (c : Chip) (sp : Bool) (buf d k : Nat) : List (Nat × Nat) :=
  (List.range d).reverse.map (fun e => (bufLevel c sp buf e, bufTotal c sp buf e k))

/-- R268, TREE mode: chunk total v of level l climbs while m is odd, and is pushed; the flags of its combinations. -/
def treePush : Nat → Nat → Nat → Nat → Nat → List (Nat × Nat) → List (Nat × Nat) × Nat
  | 0, _, l, v, fl, st => ((l, v) :: st, fl)
  | n + 1, m, l, v, fl, st =>
    if m % 2 = 0 then ((l, v) :: st, fl)
    else
      match st with
      | (k, e) :: r => if k = l then treePush n (m / 2) (l + 1) (fplus e v).1 (fl ||| (fplus e v).2) r
        else treePush n (m / 2) (l + 1) v fl st
      | [] => treePush n (m / 2) (l + 1) v fl []

/-- R269, TREE mode: the fold of the entries, top first, onto a part result that may be absent; its flags. -/
def treeFold : List (Nat × Nat) → Option Nat → Nat → Option Nat × Nat
  | [], v, fl => (v, fl)
  | e :: r, none, fl => treeFold r (some e.2) fl
  | e :: r, some v, fl => treeFold r (some (fplus e.2 v).1) (fl ||| (fplus e.2 v).2)

/-- R238, R239, R240, R267: the commit of a TACC.ZERO opens the slot at +0 with the fields of its descriptor,
TEBASE and TESTRIDE, and in CHUNK and TREE mode writes DEPTH 0 in its buffer; the commit of a TACC.READ leaves
it CLOSED. -/
def SlotsOpenAndClose : Prop :=
  ∀ (c : Chip) (u : StrandId) (op : TileOp) (r : List TileOp), Commits c u op r →
    let st := strandOf c u
    (∀ (sl a : Nat) (d b : W64), op.kind = .taccZero sl a d b →
      let c' := tileCommit u c
      let x := slotOf c' u.core (slotKey a sl)
      (d.toNat % 4 = 0 ∨ BufferClean c u (b.toNat % 2 ^ 48) 1) →
      x.opened = true ∧ x.amode = d.toNat % 4 ∧ x.cblk = d.toNat / 4 % 64 + 1 ∧ x.j0 = d.toNat / 2 ^ 8 % 2 ^ 16 ∧ x.bcount = 0 ∧
      x.tensor = op.tebase.toNat / 2 ^ 40 ∧ x.ebase = op.tebase.toNat % 2 ^ 40 ∧ x.buf = b.toNat % 2 ^ 48 ∧
      x.estride = op.testride.toNat % 2 ^ 40 ∧ x.promoted = false ∧ (∀ n < 1024, slotVal x n = 0) ∧
      (d.toNat % 4 ≠ 0 → bufDepth c' st.spec x.buf = 0)) ∧
    ∀ sl a t fmt rm b : Nat, op.kind = .taccRead sl a t fmt rm b →
      (slotOf (tileCommit u c) u.core (slotKey a sl)).opened = false

/-- The block sum of slot element (i, j) that a TMAC adds from group b of its tile and rows k0 on of a bank
(R234, R600). -/
def macSum (k : Core) (op : TileOp) (t b : Nat) (bk : Bank) (k0 i j : Nat) : FV × Nat :=
  blockSum (ieeeOf (shAF op.shape)).isSome (groupVals (tget (fun _ => tileReset) k.tiles t) (shAF op.shape) i b)
    ((List.range 32).map (fun l => match tget (fun _ => none) bk (32 * (k0 + l) + j) with
      | some v => (cellVal (shWF op.shape) v, v.pois)
      | none => (.nan false, false)))

/-- R86, R235, R257: block sum x added into the value v of slot element (i, j), as block q of the slot. -/
def macAdd (c : Chip) (x : Slot) (sr : Bool) (q i j v : Nat) (s : FV × Nat) : Nat × Nat :=
  let chunk := x.j0 + q / x.cblk
  addBlock (if sr then 5 else 0)
    (srBits c.seed x.tensor ((x.ebase + i * x.estride + j) % 2 ^ 40) (if x.amode = 2 then min chunk 65535 else chunk % 2 ^ 16) 0) v s

/-- What a TMAC outside Q4 makes of slot element n = 32 i + j: the sum below M and N, else the value as it is;
its flags. -/
def macElem (c : Chip) (u : StrandId) (op : TileOp) (x : Slot) (bk : Bank) (t b : Nat) (sr : Bool) (n : Nat) : Nat × Nat :=
  if n / 32 < shM op.shape ∧ n % 32 < shN op.shape then
    macAdd c x sr x.bcount (n / 32) (n % 32) (slotVal x n).toNat (macSum (coreOf c u.core) op t b bk 0 (n / 32) (n % 32))
  else ((slotVal x n).toNat, 0)

/-- The bank that a TMAC uses: the active one, after its exchange (R232). -/
def macBank (c : Chip) (u : StrandId) (a : Nat) (swap : Bool) : Bank :=
  bankAt (coreOf c u.core) (if swap then shadowBank (coreOf c u.core) a else activeBank (coreOf c u.core) a)

/-- Every cell of rows k0 to k0 + 31 that a TMAC uses is specified (R600). -/
def BankKnown (op : TileOp) (bk : Bank) (k0 : Nat) : Prop :=
  ∀ l < 32, ∀ j < shN op.shape, ∃ v, tget (fun _ => none) bk (32 * (k0 + l) + j) = some v ∧ v.wf = shWF op.shape

/-- Whether block q of a slot ends a chunk that is promoted (R264, R265, R268). -/
def promotes (x : Slot) (q : Nat) : Prop :=
  x.amode ≠ 0 ∧ (q + 1) % 2 ^ 32 % x.cblk = 0 ∧ ¬ (x.amode = 2 ∧ 65535 ≤ x.j0 + q / x.cblk)

/-- TFLAGS takes exactly the flags that p says beside those it held (R214). -/
def FlagsAre (c c' : Chip) (u : StrandId) (p : Nat → Prop) : Prop :=
  ∀ b < 64, natBit (tcreg (strandOf c' u) 2).toNat b = true ↔ natBit (tcreg (strandOf c u) 2).toNat b = true ∨ p b

/-- R232 to R235, R256, R257, R600: the commit of a TMAC that ends no chunk, from a bank loaded under the
instruction's weight format, adds to each element below M and N the block sum of its row's group and its
column, rounded once (RNE, or SR with the element's bits), in Q4 that of group b and then that of group b + 1;
the other elements keep their values, the block count rises by one, or two, the flags go to TFLAGS, and memory
reads as before. -/
def TileMultiplyAdds : Prop :=
  ∀ (c : Chip) (u : StrandId) (op : TileOp) (r : List TileOp) (sl a t b : Nat) (swap sr : Bool),
    Commits c u op r → op.kind = .tmac sl a t b swap sr →
    let n := u.core.val
    let bk := macBank c u a swap
    let x := slotOf c n (slotKey a sl)
    let c' := tileCommit u c
    let y := slotOf c' n (slotKey a sl)
    BankKnown op bk 0 → ¬ promotes x x.bcount →
    tget (fun _ => false) (coreOf c' n).active a = (tget (fun _ => false) (coreOf c n).active a != swap) ∧
    (∀ sp w, rdWord c' sp w = rdWord c sp w) ∧
    (shAF op.shape ≠ 2 →
      (∀ k < 1024, slotVal y k = BitVec.ofNat 32 (macElem c u op x bk t b sr k).1) ∧
      y.bcount = (x.bcount + 1) % 2 ^ 32 ∧
      FlagsAre c c' u (fun f => ∃ k < 1024, natBit (macElem c u op x bk t b sr k).2 f = true)) ∧
    (shAF op.shape = 2 → BankKnown op bk 32 → ¬ promotes x ((x.bcount + 1) % 2 ^ 32) →
      let second := fun k => macAdd c x sr ((x.bcount + 1) % 2 ^ 32) (k / 32) (k % 32)
        ((macElem c u op x bk t b sr k).1 % 2 ^ 32)
        (macSum (coreOf c n) op t (b + 1) bk 32 (k / 32) (k % 32))
      (∀ k < 1024, slotVal y k =
        if k / 32 < shM op.shape ∧ k % 32 < shN op.shape then BitVec.ofNat 32 (second k).1 else slotVal x k) ∧
      y.bcount = ((x.bcount + 1) % 2 ^ 32 + 1) % 2 ^ 32)

/-- R256, R258, R264, R266, R268: the commit of a TMAC outside Q4 that ends a chunk promotes the chunk total
and leaves the slot at +0. In CHUNK mode the first total enters entry 0 and each later one is added to it; in
TREE mode the stack of entries takes it by the procedure of R268. Flags of the additions and combinations go
to TFLAGS. -/
def ChunksArePromoted : Prop :=
  ∀ (c : Chip) (u : StrandId) (op : TileOp) (r : List TileOp) (sl a t b : Nat) (swap sr : Bool),
    Commits c u op r → op.kind = .tmac sl a t b swap sr → SpecRangesApart c →
    let sp := (strandOf c u).spec
    let bk := macBank c u a swap
    let x := slotOf c u.core (slotKey a sl)
    let c' := tileCommit u c
    let y := slotOf c' u.core (slotKey a sl)
    let total := fun k => macElem c u op x bk t b sr k
    let d := bufDepth c sp x.buf
    shAF op.shape ≠ 2 → BankKnown op bk 0 → promotes x x.bcount → BufferClean c u x.buf (bufLen x) →
    (x.amode = 1 ∨ x.amode = 2 →
      (∀ k < 1024, slotVal y k = 0) ∧ y.bcount = (x.bcount + 1) % 2 ^ 32 ∧ y.promoted = true ∧ y.opened = x.opened) ∧
    (x.amode = 1 →
      let sum := fun k => fplus (bufTotal c sp x.buf 0 k) ((total k).1 % 2 ^ 32)
      (d = 0 → bufDepth c' sp x.buf = 1 ∧ bufLevel c' sp x.buf 0 = 0 ∧
        (∀ k < 1024, bufTotal c' sp x.buf 0 k = (total k).1 % 2 ^ 32) ∧
        FlagsAre c c' u (fun f => ∃ k < 1024, natBit (total k).2 f = true)) ∧
      (0 < d → bufDepth c' sp x.buf = d ∧
        (∀ k < 1024, bufTotal c' sp x.buf 0 k = (sum k).1 % 2 ^ 32) ∧
        FlagsAre c c' u (fun f => ∃ k < 1024, natBit (total k).2 f = true ∨ natBit (sum k).2 f = true))) ∧
    (x.amode = 2 → d ≤ 16 →
      let push := fun k => treePush 17 (x.j0 + x.bcount / x.cblk) 0 ((total k).1 % 2 ^ 32) 0 (bufStack c sp x.buf d k)
      (push 0).1.length ≤ 16 →
      bufDepth c' sp x.buf = (push 0).1.length ∧
      (∀ k < 1024, bufStack c' sp x.buf (push 0).1.length k = (push k).1.map (fun e => (e.1, e.2 % 2 ^ 32))) ∧
      FlagsAre c c' u (fun f => ∃ k < 1024, natBit (total k).2 f = true ∨ natBit (push k).2 f = true))

/-- R240, R258, R263, R269: the commit of a TACC.READ of an OPEN CHUNK or TREE slot closes the reduction: the
slot takes the result of R269 and DEPTH becomes 0. -/
def ReductionsClose : Prop :=
  ∀ (c : Chip) (u : StrandId) (op : TileOp) (r : List TileOp) (sl a t fmt rm b : Nat),
    Commits c u op r → op.kind = .taccRead sl a t fmt rm b → SpecRangesApart c →
    let sp := (strandOf c u).spec
    let x := slotOf c u.core (slotKey a sl)
    let c' := tileCommit u c
    let y := slotOf c' u.core (slotKey a sl)
    let d := bufDepth c sp x.buf
    let part := x.bcount % x.cblk ≠ 0 ∨ (0 < x.bcount ∧ x.promoted = false)
    x.opened = true → x.spoiled = false → BufferClean c u x.buf (bufLen x) → (x.amode = 1 ∨ x.amode = 2) → d ≤ 16 →
    bufDepth c' sp x.buf = 0 ∧
    (x.amode = 1 → ∀ k < 1024,
      (d = 0 → slotVal y k = slotVal x k) ∧
      (0 < d → part → slotVal y k = BitVec.ofNat 32 (fplus (bufTotal c sp x.buf 0 k) (slotVal x k).toNat).1) ∧
      (0 < d → ¬ part → slotVal y k = BitVec.ofNat 32 (bufTotal c sp x.buf 0 k))) ∧
    (x.amode = 2 → ∀ k < 1024,
      let last := 0 < x.bcount ∧ 65535 ≤ x.j0 + (x.bcount - 1) / x.cblk
      ∀ p, (p = true ↔ part ∨ last) →
        slotVal y k = BitVec.ofNat 32
          ((treeFold (bufStack c sp x.buf d k) (if p then some (slotVal x k).toNat else none) 0).1.getD 0))

/-- R86, R214, R240: the commit of a TACC.READ converts the slot, as its close leaves it, into group b of the
tile, for all 32 rows, in format FMT with rounding mode RM: a block format's row is one block with its
exponent. The other words stay, and so does the tile's poison bit. Of a slot in SEQ mode, or CLOSED, the flags
are those of the conversion. -/
def TaccReadConverts : Prop :=
  ∀ (c : Chip) (u : StrandId) (op : TileOp) (r : List TileOp) (sl a t fmt rm b : Nat),
    Commits c u op r → op.kind = .taccRead sl a t fmt rm b → fmt < 7 → rm ≤ 5 → b < tGroups fmt →
    let x := slotOf c u.core (slotKey a sl)
    let c' := tileCommit u c
    let y := slotOf c' u.core (slotKey a sl)
    let old := tileOf c u.core t
    let new := tileOf c' u.core t
    let value := fun i j => (fdec fmtFP32 (slotVal y (32 * i + j)).toNat,
      srBits c.seed y.tensor ((y.ebase + i * y.estride + j) % 2 ^ 40) 0 1)
    (x.opened = false ∨ x.amode = 0 ∨ (x.spoiled = false ∧ BufferClean c u x.buf (bufLen x))) →
    new.pois = old.pois ∧
    (∀ i < 32, ∀ w < 64, (w < b * tGroupWords fmt ∨ (b + 1) * tGroupWords fmt ≤ w) →
      tget (fun _ => 0) new.data (64 * i + w) = tget (fun _ => 0) old.data (64 * i + w)) ∧
    (∀ f, qOf fmt = some f → ∀ i < 32,
      let q := qblock f rm ((List.range 32).map (value i))
      tExp new i b = q.1 % 256 ∧
      (∀ j < 32, wordsNat (groupWords new fmt i b) / 2 ^ (f.bits * j) % 2 ^ f.bits = q.2.1.getD j 0) ∧
      ∀ g, g ≠ b → g < 8 → tExp new i g = tExp old i g) ∧
    (∀ f, ieeeOf fmt = some f → ∀ i < 32, ∀ j < 32,
      wordsNat (groupWords new fmt i b) / 2 ^ (16 * tElemWords fmt * j) % 2 ^ (16 * tElemWords fmt) =
        (fenc f rm (value i j).2 (value i j).1).1) ∧
    (x.opened = false ∨ x.amode = 0 → (∀ k < 1024, slotVal y k = slotVal x k) ∧
      FlagsAre c c' u (fun k => ∃ i < 32,
        (∃ f, qOf fmt = some f ∧ natBit (qblock f rm ((List.range 32).map (value i))).2.2 k = true) ∨
        ∃ f, ieeeOf fmt = some f ∧ ∃ j < 32, natBit (fenc f rm (value i j).2 (value i j).1).2 k = true))

/-- R220, R270: a commit whose slot's buffer the spill path does not reach writes nothing: the instruction
leaves the queue, its slot is CLOSED, and the strand owes cause 0x08 with the failing word, DETAIL[14] set for
a write, also when a WAIT has ended its lesson. -/
def BufferFaults : Prop :=
  ∀ (c : Chip) (u : StrandId) (op : TileOp) (r : List TileOp) (key buf : Nat) (wr : Bool),
    let st := strandOf c u
    let c' := tileCommit u c
    st.flight = op :: r → (∀ x ∈ r, x.id ≠ op.id) → (op.asked = true → outstandingReq c (.tile u.core u.strand op.id) = false) →
    ((∃ sl a d b, op.kind = .taccZero sl a d b ∧ d.toNat % 4 ≠ 0 ∧ key = slotKey a sl ∧ buf = b.toNat % 2 ^ 48 ∧ wr = true) ∨
      (∃ sl a t b swap sr, op.kind = .tmac sl a t b swap sr ∧ key = slotKey a sl ∧ wr = false ∧ shAF op.shape ≠ 2 ∧
        promotes (slotOf c u.core key) (slotOf c u.core key).bcount ∧ buf = (slotOf c u.core key).buf) ∨
      ∃ sl a t fmt rm b, op.kind = .taccRead sl a t fmt rm b ∧ key = slotKey a sl ∧ wr = false ∧
        (slotOf c u.core key).opened = true ∧ (slotOf c u.core key).amode ≠ 0 ∧ buf = (slotOf c u.core key).buf) →
    (ownRoom u.core buf = false ∨ reaches c u.core (level st) wr st.spec buf = false) →
    (strandOf c' u).flight = r ∧ (strandOf c' u).owed = st.owed ++ [⟨0x08, if wr then 2 ^ 14 else 0, buf⟩] ∧
    (strandOf c' u).run = (if st.run = .ending then .active else st.run) ∧
    (slotOf c' u.core key).opened = false ∧ tcreg (strandOf c' u) 2 = tcreg st 2 ∧
    (coreOf c' u.core).tiles = (coreOf c u.core).tiles ∧ (coreOf c' u.core).banks = (coreOf c u.core).banks ∧
    (coreOf c' u.core).active = (coreOf c u.core).active

end Sys2Proof.Machine

/-! ### Classroom memory and the DMA engine (R282 to R309, R321, R322) -/

namespace Sys2Proof.Machine

/-- How many requesters a bank passes over from the one after the last served to r (R285). -/
def rqTurn (last r : Nat) : Nat := (r + 33 - last) % 17

/-- R283 to R285, R292: a bank serves the oldest request of the requester whose turn is next after the one it
served last and takes it from its queue; a read takes the marks of the words it names; the load that made it
waits for one request fewer; requests that waited at their requesters take the entries that are free. A bank
with no request changes nothing. -/
def BanksServeInTurn : Prop :=
  ∀ (s : State) (cl : Fin 64) (bank : Fin 16),
    let c := s.chip
    let q := bankQ (roomOf c cl) bank
    (q.q = [] → exec (.bankAccess cl bank []) s = .next s) ∧
    ∀ (p rest : List BankReq) (e : BankReq),
      q.q = p ++ e :: rest → (∀ x ∈ p, x.rq ≠ e.rq) → e.rq < 17 → q.last < 17 →
      (∀ x ∈ q.q, x.rq < 17 ∧ rqTurn q.last e.rq ≤ rqTurn q.last x.rq) →
      let a := clsAddr cl (32 * e.line)
      let c1 := modRoom c cl (fun m => { m with banks := tput (fun _ => bankQReset) m.banks bank ⟨p ++ rest, e.rq⟩ })
      let c2 := markGroups e a c1
      let c3 := match e.who with
        | .load core v id =>
          let u := strandId core v
          commitDue (modStrand c2 u (fun st => { st with
            pend := st.pend.map (fun w => if w.id = id then { w with waits := w.waits - 1 } else w)
            pendV := st.pendV.map (fun w => if w.id = id then { w with waits := w.waits - 1 } else w) })) u
        | _ => c2
      exec (.bankAccess cl bank []) s = .next (s.withChip (refillBanks c3)) ∧
      (e.wr = true ∨ (∀ g < 8, poisAt c (a + 4 * g) = false) → c2 = c1) ∧
      ∀ core v id, e.who = .load core v id → e.wr = false → e.line < 2 ^ 17 →
        (∃ x ∈ e.ws, x.1 < 32 ∧ poisAt c (a + x.1) = true) →
        ∀ w ∈ (strandOf c2 (strandId core v)).pend, w.id = id → w.pois = true

/-- R292 to R294: a single-bit error that an access meets is corrected and counted; an uncorrectable one
poisons its group and the words it returns, counts, is recorded in CLS_ERR unless a record stands, and is
reported with its word address (the item is the model's choice, log entry 33). (No other request waits for the
bank; a write of the whole group reads no old words, and meets neither.) -/
def ClassroomErrors : Prop :=
  ∀ (s : State) (cl : Fin 64) (bank : Fin 16) (e : BankReq) (g : Fin 8),
    let c := s.chip
    let q := bankQ (roomOf c cl) bank
    let off := 32 * e.line + 4 * g.val
    let b := BlockId.cls cl
    q.q = [e] → (∀ x ∈ c.waiting, x.1 ≠ cl.val ∨ x.2.1 ≠ bank.val) → e.rq < 17 → q.last < 17 → off < clsWords →
    ((e.wr = true ∧ (inGroup g.val e).eraseDups.length = 4) → ∀ err,
      ∃ t, exec (.bankAccess cl bank [(g, err)]) s = .next (s.withChip t) ∧ t.mem = c.mem ∧ t.pois = c.pois ∧
        t.reports = c.reports ∧ rawReg t b 0x022 = rawReg c b 0x022) ∧
    (¬ (e.wr = true ∧ (inGroup g.val e).eraseDups.length = 4) →
      (∃ t, exec (.bankAccess cl bank [(g, .single)]) s = .next (s.withChip t) ∧ t.mem = c.mem ∧ t.pois = c.pois ∧
        getF t b 0x022 31 16 = min 65535 (getF c b 0x022 31 16 + 1) ∧ t.reports = c.reports) ∧
      ∃ t, exec (.bankAccess cl bank [(g, .uncorrectable)]) s = .next (s.withChip t) ∧ t.mem = c.mem ∧
        poisAt t (clsAddr cl off) = true ∧ getF t b 0x022 7 0 = min 255 (getF c b 0x022 7 0 + 1) ∧
        getF t b 0x024 31 31 = 1 ∧ (getF c b 0x024 31 31 = 0 → getF t b 0x024 21 0 = off) ∧
        (getF c b 0x024 31 31 = 1 → rawReg t b 0x024 = rawReg c b 0x024) ∧
        t.reports = c.reports ++ [⟨0x40 + cl.val, 0x0103, [clsAddr cl off]⟩] ∧
        ∀ core v id, e.who = .load core v id → e.wr = false → (∃ x ∈ e.ws, x.1 / 4 = g.val) →
          ∀ w ∈ (strandOf t (strandId core v)).pend, w.id = id → w.pois = true)

/-- R322, R326: the outstanding fill of a core returns when its request has been served: its line is the most
recently used of at most 48, unless a CINV came in between or a word of the line was poisoned, and its load
waits for it no longer. With no fill outstanding, or while its request is outstanding, nothing changes. That
the line is installed as memory holds it at the return is the model's choice (log entry 61). -/
def CacheFillReturns : Prop :=
  ∀ (s : State) (core : Fin 1024),
    let c := s.chip
    let run := exec (.cacheFill core) s
    ((coreOf c core).fill = none → run = .next s) ∧
    ∀ f : Fill, (coreOf c core).fill = some f →
      let u := strandId core f.strand
      let who := Reader.load core.val f.strand f.id
      let ws := (rdWords c (strandOf c u).spec (32 * f.line) 32).map Prod.fst
      let old := (coreOf c core).cache
      (outstandingReq c who = true → run = .next s) ∧
      (outstandingReq c who = false → ∃ t, run = .next (s.withChip t) ∧ (coreOf t core).fill = none ∧
        (coreOf t core).cache = (if f.install = true ∧ f.pois = false then
          (⟨f.line, ws⟩ :: old.filter (fun x => x.line != f.line)).take 48 else old) ∧
        (∀ w ∈ (strandOf t u).pend, w.id = f.id → w.fillw = false) ∧ t.mem = c.mem)

/-- Field [hi:lo] of the 256-bit number a descriptor's 16 words make. -/
def descBits (d hi lo : Nat) : Nat := d / 2 ^ lo % 2 ^ (hi + 1 - lo)

/-- R286, R295, R296, R299, R301, R302, R317: a RUNNING engine with room asks for the next descriptor of a
list through the mesh port of its classroom, and once that read has been served activates it: one that passes
the checks joins the active descriptors with its fields and, when SPEC, opens the speculation epoch; one that
fails gets its STATUS, the error record when it is free, a report, and its list stops. -/
def DmaActivates : Prop :=
  ∀ (s : State) (cl : Fin 64) (l : DmaList) (d : Nat) (pz : Bool),
    let c := s.chip
    let e := dmaOf c cl
    let who := Reader.desc cl.val l.id
    let onList := fun (f : DmaList → DmaList) c =>
      modDma c cl (fun e => { e with lists := e.lists.map (fun m => if m.id = l.id then f m else m) })
    let c0 := if l.asked then c else
      (segLines l.next 16).foldl (fun c x => portAsk c x.1 x.2 false who) (onList (fun m => { m with asked := true }) c)
    let c1 := onList (fun m => { m with next := m.next + 16, left := m.left - 1, asked := false }) c0
    bState c (.dma cl) = 2 → e.active.length < 32 → nextList c e = some l → rdNat c false l.next 16 = (d, pz) →
    (outstandingReq c0 who = true → exec (.dmaActivate cl) s = .next (s.withChip c0)) ∧
    (outstandingReq c0 who = false →
      (∀ code, dCheck l.next d pz = some code →
        exec (.dmaActivate cl) s = .next (s.withChip (dmaFail c1 cl l.id l.next code))) ∧
      (dCheck l.next d pz = none →
        let desc : DmaDesc :=
          { id := e.nextId, list := l.id, addr := l.next, kind := descBits d 15 12, spec := natBit d 11, irq := natBit d 10
            icores := descBits d 31 16, istrands := descBits d 39 32, src := descBits d 95 48, dst := descBits d 143 96
            rowlen := descBits d 175 144, rows := descBits d 191 176, sstride := natSigned (descBits d 223 192) 32
            dstride := natSigned (descBits d 255 224) 32, row := 0, col := 0, pieces := 0, pois := false, err := none }
        ∃ t, exec (.dmaActivate cl) s = .next (s.withChip t) ∧ (dmaOf t cl).active = e.active ++ [desc] ∧
          (dmaOf t cl).lists = (dmaOf c1 cl).lists ∧ (desc.spec = true → getF t (.cls cl) 0x020 31 31 = 1) ∧ t.mem = c.mem))

/-- R296, R302: the checks of a descriptor and the STATUS each gives: 0x86 an address that is no multiple of
16 or a poisoned word, 0x83 a reserved field, 0x84 a length or a row count out of range. Their order is the
model's choice (log entry 32). -/
def DescriptorChecks : Prop :=
  ∀ (addr d : Nat) (pz : Bool),
    let kind := descBits d 15 12
    let rowlen := descBits d 175 144
    let rows := descBits d 191 176
    let reserved := 2 < kind ∨ descBits d 8 8 = 1 ∨ descBits d 47 40 ≠ 0 ∨ (kind = 2 ∧ descBits d 95 64 ≠ 0)
    ((addr % 16 ≠ 0 ∨ pz = true) → dCheck addr d pz = some 0x86) ∧
    (addr % 16 = 0 → pz = false →
      (reserved → dCheck addr d pz = some 0x83) ∧
      (¬ reserved → (rowlen = 0 ∨ 4194304 < rowlen ∨ rows = 0) → dCheck addr d pz = some 0x84) ∧
      (¬ reserved → 1 ≤ rowlen → rowlen ≤ 4194304 → 1 ≤ rows → dCheck addr d pz = none))

/-- R298 to R300, R308: a RUNNING engine with a free tag issues one piece of the first descriptor in turn that
the bank quota does not hold: it reads the source words (a FILL takes its value), and the piece holds a tag
that no other holds and waits for its write. A cycle in which the quota holds a piece is counted, while every
tag is in use too. -/
def DmaPiecesIssue : Prop :=
  ∀ (s : State) (cl : Fin 64),
    let c := s.chip
    let e := dmaOf c cl
    let ready := (dmaOrder e).filter (fun d => !dmaIssued d)
    let counted := if ready.any (pieceHeld c cl) then bumpF c (.dma cl) 0x01A 31 0 1 else c
    bState c (.dma cl) = 2 →
    ((512 ≤ e.pieces.length ∨ getF c (.dma cl) 0x010 25 16 ≤ e.pieces.length) →
      exec (.dmaPieceIssue cl) s = .next (s.withChip counted)) ∧
    ∀ d : DmaDesc, e.pieces.length < 512 → e.pieces.length < getF c (.dma cl) 0x010 25 16 →
      ready.head? = some d → pieceHeld c cl d = false → pieceError c cl d = none →
      let p := pieceAt d
      let source := if d.kind = 2 then List.replicate p.2.2 (BitVec.ofNat 16 d.src, false) else rdWords c d.spec p.1.toNat p.2.2
      ∃ t ws, exec (.dmaPieceIssue cl) s = .next (s.withChip t) ∧ (dmaOf t cl).last = d.id ∧ t.mem = c.mem ∧
        (dmaOf t cl).pieces = e.pieces ++ [⟨freeTag e, d.id, p.2.1.toNat, ws, pieceBanks d p.1 p.2.1, false⟩] ∧
        ws.map Prod.fst = source.map Prod.fst ∧ (d.kind = 2 ∨ inHbm p.1.toNat = false → ws = source) ∧
        ∀ q ∈ e.pieces, q.tag ≠ freeTag e

/-- R298, R301, R302, R330, R332: once its read has been served a piece makes its destination write, with its
marks; once that is performed its tag is freed, and the last piece of a descriptor ends it, with STATUS 0x01,
or 0x02 when a word was poisoned. While its read or its write is outstanding, with a ticket or at a bank, the
piece keeps its tag. A destination that the engine does not reach gives the descriptor error 0x82. -/
def DmaPiecesWrite : Prop :=
  ∀ (s : State) (cl : Fin 64) (i : Nat) (p : DmaPiece) (d : DmaDesc),
    let c := s.chip
    let e := dmaOf c cl
    let run := exec (.dmaPieceWrite cl i) s
    let who := Reader.piece cl.val p.tag
    let c1 := engineWrite c (1024 + cl.val) d.spec who (pieceWords p.dst p.ws)
    e.pieces[i]? = some p → e.active.find? (fun d => d.id == p.desc) = some d →
    (outstandingReq c who = true → run = .next s) ∧
    (outstandingReq c who = false →
      (p.sent = true → run = .next (s.withChip (pieceDone c cl i p d true))) ∧
      (p.sent = false → dmaReaches c cl p.dst = false → run = .next (s.withChip (pieceDone c cl i p d false))) ∧
      (p.sent = false → dmaReaches c cl p.dst = true →
        (outstandingReq c1 who = false → run = .next (s.withChip (pieceDone c1 cl i p d true))) ∧
        (outstandingReq c1 who = true → run = .next (s.withChip (modDma c1 cl (fun e => { e with
          pieces := e.pieces.map (fun x => if x.tag = p.tag then { x with sent := true } else x) })))))) ∧
    (SpecRangesApart c → inHbm p.dst = false → (∀ j < p.ws.length, dmaReaches c cl ((p.dst + j : Nat) : Int) = true) →
      (∀ j < p.ws.length, (rdWord c1 d.spec (p.dst + j)).1 = (p.ws.getD j (0, false)).1) ∧
      ∀ a, inShadow c a = false → (a < p.dst ∨ p.dst + p.ws.length ≤ a) →
        (rdWord c1 d.spec a).1 = (rdWord c d.spec a).1) ∧
    (dmaOf (pieceDone c cl i p d true) cl).pieces = e.pieces.eraseIdx i ∧
    (d.rows ≤ d.row → d.pieces = 1 → d.err = none → inHbm d.addr = false → inShadow c d.addr = false →
      let t := pieceDone c cl i p d true
      (rdWord t false d.addr).1.toNat % 256 = (if d.pois = true ∨ p.ws.any Prod.snd = true then 2 else 1) ∧
      ∀ x ∈ (dmaOf t cl).active, x.id ≠ d.id)

end Sys2Proof.Machine

/-! ### HBM (R327 to R357) -/

namespace Sys2Proof.Machine

/-- R329, R330, R332: a RUNNING controller with room takes a request: a write is performed then, a read will
return what its line holds then. With 32 entries taken or held, or earlier tickets out, it refuses a new
request with a ticket, and counts it; the earliest ticket is recalled when an entry is free, and recalled
requests are admitted in ticket order; a request of the package's own agents is issued again at once. A
request whose pseudo-channel's queue is full waits. A stack that is not RUNNING takes nothing. That an earlier
ticket refuses, and that a full pseudo-channel makes wait, is log entry 30 (DEDUCED and DESIGN CHOICE). -/
def HbmAdmission : Prop :=
  ∀ (s : State) (k : Fin 8) (src : Nat) (line : BitVec 30) (wr : Bool) (mask : BitVec 32) (ws : List Word),
    let c := s.chip
    let b := lineBank line.toNat
    let d := dramOf c k b
    let a := k.val * 2 ^ 35 + line.toNat * 32
    let r : HReq := ⟨src, line.toNat, wr, if wr then mask else 0, .none, false, [], false,
      if wr then ((List.range 32).filter (fun i => mask.getLsbD i)).map (fun i => (a + i, ws.getD i 0, false)) else []⟩
    let taken : HReq := if wr then r else { r with data := (List.range 32).map (fun i => (a + i, rdWord c false (a + i))) }
    let run := exec (.hbmRequest k src line wr mask ws) s
    let takes := fun old : List HReq => ∃ t, run = .next (s.withChip t) ∧ (dramOf t k b).q = d.q ++ [taken] ∧
      (dramOf t k b).recalled = old ∧
      (wr = false → ∀ x, (rdWord t false x).1 = (rdWord c false x).1) ∧
      (wr = true → ∀ i < 32, (rdWord t false (a + i)).1 =
        if mask.getLsbD i then ws.getD i 0 else (rdWord c false (a + i)).1)
    (bState c (.hmc k) ≠ 2 → run = .next s) ∧
    (bState c (.hmc k) = 2 → r ∉ d.recalled →
      (d.q.length + d.recalled.length < 32 → d.tickets = [] → pcCount c k b < 128 → takes d.recalled) ∧
      (d.q.length + d.recalled.length < 32 → d.tickets = [] → 128 ≤ pcCount c k b → run = .next s) ∧
      ((32 ≤ d.q.length + d.recalled.length ∨ d.tickets ≠ []) →
        ∃ t, run = .next (s.withChip t) ∧ (dramOf t k b).tickets = d.tickets ++ [r] ∧
          t.mem = c.mem ∧ (getF c (.hmc k) 0x01A 31 0 < 2 ^ 32 - 1 →
            getF t (.hmc k) 0x01A 31 0 = getF c (.hmc k) 0x01A 31 0 + 1))) ∧
    (bState c (.hmc k) = 2 → ∀ old, d.recalled = r :: old → pcCount c k b < 128 → takes old) ∧
    ∀ (bank : Fin 4096) x xs, (dramOf c k bank).tickets = x :: xs → bState c (.hmc k) = 2 →
      (dramOf c k bank).q.length + (dramOf c k bank).recalled.length < 32 →
      (x.auto = false → exec (.ticketRecall k bank) s = .next (s.withChip (modDram c k bank (fun d =>
        { d with tickets := xs, recalled := d.recalled ++ [x] })))) ∧
      (x.auto = true → (dramOf c k bank).recalled = [] → pcCount c k bank < 128 →
        exec (.ticketRecall k bank) s = .next (s.withChip
          (acceptLine (modDram c k bank (fun d => { d with tickets := xs })) k bank x)))

/-- R327, R328: the DRAM bank of a word of HBM takes its stack from bits [37:35] and mixes the row into the rest; no two
lines of a stack share a bank, a row and the column bits left. -/
def LinesSpreadOverBanks : Prop :=
  (∀ a, a < hbmEnd → deviceBank a / 4096 = a / 2 ^ 35 ∧ deviceBank a < 32768) ∧
  ∀ x y, x < 2 ^ 30 → y < 2 ^ 30 → lineBank x = lineBank y → lineRow x = lineRow y → x / 64 % 16 = y / 64 % 16 → x = y

/-- R329, R330, R333, R337 to R341: a bank performs its oldest request, and a read returns its line, marked
when it is poisoned. A corrected error counts; an uncorrectable one poisons the line unless a write of all of
it has been accepted since, counts, is recorded when no record stands, and reports the line and its row; a
miscorrected one leaves its words in the line and counts as corrected; a write of all 32 words meets none; a
line already poisoned counts nothing. The reports' items are log entry 33. (No request waits for room in a
pseudo-channel.) -/
def DramAccesses : Prop :=
  ∀ (s : State) (k : Fin 8) (bank : Fin 4096) (r : HReq) (rest : List HReq),
    let c := s.chip
    let b := BlockId.hmc k
    let a := k.val * 2 ^ 35 + r.line * 32
    let later := fun x : HReq => x ∈ rest ∧ x.wr = true ∧ x.line = r.line
    let renewed := ∃ x, later x ∧ x.mask = BitVec.allOnes 32
    let marked := ∃ x, later x ∧ ∃ w ∈ x.data, w.2.2 = true
    let held := r.data.map (fun x => x.2.1)
    let returns := fun (t : Chip) ws p => r.wr = false → (stackOf t k).out = some ⟨r.src, r.line, ws, p⟩
    (dramOf c k bank).q = r :: rest → r.line < 2 ^ 30 → (stackOf c k).stalled = [] →
    (∀ err, ¬ (r.wr = true ∧ r.mask = BitVec.allOnes 32) → poisAt c a = false →
      ∃ t, exec (.dramAccess k bank err) s = .next (s.withChip t) ∧ (dramOf t k bank).q = rest ∧
        (err = .none → t.mem = c.mem ∧ t.reports = c.reports ∧ returns t held (r.data.any (fun x => x.2.2))) ∧
        (err = .corrected → t.mem = c.mem ∧ t.reports = c.reports ∧ returns t held (r.data.any (fun x => x.2.2)) ∧
          getF t b 0x014 31 16 = min 65535 (getF c b 0x014 31 16 + 1)) ∧
        (∀ ws, err = .miscorrected ws → r.wr = false → t.reports = c.reports ∧
          returns t ws (r.data.any (fun x => x.2.2)) ∧ getF t b 0x014 31 16 = min 65535 (getF c b 0x014 31 16 + 1) ∧
          ((∀ x, ¬ later x) → r.mask = 0 → ∀ i < 32, (rdWord t false (a + i)).1 = ws.getD i 0)) ∧
        (err = .uncorrectable → t.mem = c.mem ∧ (poisAt t a = true ↔ ¬ renewed) ∧
          getF t b 0x014 7 0 = min 255 (getF c b 0x014 7 0 + 1) ∧
          (getF c b 0x018 31 31 = 0 → getF t b 0x018 31 31 = 1 ∧
            getF t b 0x016 31 0 + 2 ^ 32 * getF t b 0x018 15 0 = a) ∧
          t.reports = c.reports ++ [⟨8 + k.val, 0x0201, [k.val, r.line, if r.wr then 1 else 0]⟩,
            ⟨8 + k.val, 0x0202, [k.val, lineBank r.line * 16384 + lineRow r.line]⟩] ∧ returns t held true)) ∧
    (∀ err, r.wr = true → (r.mask = BitVec.allOnes 32 ∨ poisAt c a = true) →
      exec (.dramAccess k bank err) s = .next (s.withChip (restall k (modDram c k bank (fun d => { d with q := rest }))))) ∧
    ∀ err, r.wr = false → poisAt c a = true → ¬ marked →
      ∃ t, exec (.dramAccess k bank err) s = .next (s.withChip t) ∧ t.mem = c.mem ∧ t.pois = c.pois ∧
        t.reports = c.reports ∧ returns t held true

/-- R340, R342, R343, R351: a refresh of a powered stack that does not refresh itself moves its bank on by 8
rows of 16,384; patrol scrub moves on by one line of 2^30 while the controller runs with scrub on and the
line's bank idle; a temperature sets TEMP and the band, which rises with its lower bound and falls only 3
degrees below it; band 3 is reported (the items are log entry 33). -/
def RefreshAndScrub : Prop :=
  ∀ (s : State) (k : Fin 8),
    let c := s.chip
    let x := stackOf c k
    (∀ bank : Fin 4096, x.powered = true → x.selfRefresh = false →
      ∃ t, exec (.refresh k bank) s = .next (s.withChip t) ∧
        (dramOf t k bank).refRow = ((dramOf c k bank).refRow + 8) % 16384 ∧ (dramOf t k bank).q = (dramOf c k bank).q) ∧
    (bState c (.hmc k) = 2 → getF c (.hmc k) 0x010 0 0 = 1 → (dramOf c k (lineBank x.scrubLine)).q = [] →
      ∃ t, exec (.patrolScrub k .none) s = .next (s.withChip t) ∧ t.mem = c.mem ∧
        (stackOf t k).scrubLine = (if x.scrubLine + 1 = 2 ^ 30 then 0 else x.scrubLine + 1)) ∧
    (∀ temp : BitVec 8, ∃ t, exec (.refreshBandChange k temp) s = .next (s.withChip t) ∧
      getF t (.hmc k) 0x012 7 0 = temp.toNat ∧
      let old := getF c (.hmc k) 0x012 17 16
      let new := getF t (.hmc k) 0x012 17 16
      (105 ≤ temp.toNat → new = 3) ∧ (temp.toNat < 105 → 102 < temp.toNat → old = 3 → new = 3) ∧
      (temp.toNat ≤ 82 → new = 0) ∧ (old = 1 → 82 < temp.toNat → temp.toNat < 95 → new = 1) ∧
      (old ≤ 1 → 95 ≤ temp.toNat → temp.toNat < 105 → new = 2) ∧
      t.reports = if new = 3 ∧ old ≠ 3 then c.reports ++ [⟨8 + k.val, 0x0203, [k.val, temp.toNat]⟩] else c.reports)

/-- R348, R356, R357: a wipe of a STOPPED stack sets its busy bit, and when it ends every word of the stack
reads 0 without poison, and every other word of HBM as before; in any other state it is a rejected
configuration. -/
def WipesZeroTheStack : Prop :=
  ∀ (s : State) (k : Fin 8),
    let c := s.chip
    (bState c (.hmc k) = 0 → getF c (.hmc k) 0x01E 2 2 = 0 →
      ∃ t, exec (.wipe k) s = .next (s.withChip t) ∧ (stackOf t k).wiping = true ∧ getF t (.hmc k) 0x01E 2 2 = 1) ∧
    (bState c (.hmc k) ≠ 0 → exec (.wipe k) s = .next (s.withChip (cfgReject c (.hmc k) (0x01E * 64)))) ∧
    ((stackOf c k).wiping = true → ∃ t, exec (.wipeEnd k) s = .next (s.withChip t) ∧ (stackOf t k).wiping = false ∧
      getF t (.hmc k) 0x01E 2 2 = 0 ∧
      (∀ a, a / 2 ^ 35 = k.val → getF c (.hmc k) 0x010 1 1 = 0 → rdWord t false a = (0, false)) ∧
      ∀ a, a < hbmEnd → a / 2 ^ 35 ≠ k.val → rdWord t false a = rdWord c false a)

/-- R15, R348: while the controller is STOPPED a key register takes its value, and KEY_LOADED is set once all
sixteen have been written since the last clear; KEY_CLEAR zeroes them and KEY_LOADED; otherwise both are
rejected configurations. -/
def MemoryKeys : Prop :=
  ∀ (s : State) (k : Fin 8),
    let c := s.chip
    let b := BlockId.hmc k
    (bState c b = 0 → ∃ t, exec (.hmcKeyClear k) s = .next (s.withChip t) ∧ (stackOf t k).keysSet = 0 ∧
      getF t b 0x010 2 2 = 0 ∧ ∀ n < 16, rawReg t b (0x020 + 2 * n) = 0) ∧
    (bState c b ≠ 0 → exec (.hmcKeyClear k) s = .next (s.withChip (cfgReject c b (0x01E * 64 + 1)))) ∧
    ∀ (n : Fin 16) (v : W32),
      (bState c b = 0 → ∃ t, exec (.hmcKeyWrite k n v) s = .next (s.withChip t) ∧ rawReg t b (0x020 + 2 * n.val) = v ∧
        (stackOf t k).keysSet = (stackOf c k).keysSet ||| 2 ^ n.val ∧
        ((stackOf c k).keysSet ||| 2 ^ n.val = 65535 → getF t b 0x010 2 2 = 1)) ∧
      (bState c b ≠ 0 → v ≠ rawReg c b (0x020 + 2 * n.val) →
        exec (.hmcKeyWrite k n v) s = .next (s.withChip (cfgReject c b ((0x020 + 2 * n.val) * 64))))

end Sys2Proof.Machine

/-! ### The Pump and the Syllabus (R359 to R402) -/

namespace Sys2Proof.Machine

/-- R386: without a period, a curve of constant shape is at PEAK once its warm-up is over, and a linear or
cosine curve is at FLOOR once its decay is over. -/
def SyllabusEnds : Prop :=
  ∀ (cv : Curve) (s : Nat), cv.period = 0 → cv.warm ≤ s - cv.start →
    (cv.shape = 0 → cv.peak < 2 ^ 32 → (fdec fmtFP32 cv.peak).isNan = false → (rateOf cv s 0).1 = cv.peak) ∧
    ((cv.shape = 1 ∨ cv.shape = 2) → cv.warm + cv.decay ≤ s - cv.start → (rateOf cv s 0).1 = cv.floor)

/-- R368, R369, R370: what pass 1 makes of one group: the vote it casts (a bad descriptor 3, a poisoned state
record 4, a frozen STRICT segment 2, each for ABORT; a wrong STEP 1 for ABORT), kept only when it ranks above
the vote so far; a frozen segment outside the norm casts nothing and has a zero entry. -/
def PumpGroupVotes : Prop :=
  ∀ (c : Chip) (k s g : Nat) (x : Vote),
    let d := pdescOf c k g
    let y := pass1Group c k s g x
    let keeps := fun (v why : Nat) => if x.vote < v then (⟨v, why, g⟩ : Vote) else x
    (descOk k d = false → y = (keeps 2 3, normZero, [])) ∧
    (descOk k d = true →
      ((rdWords c false d.base 32).any Prod.snd = true → y = (keeps 2 4, normZero, [])) ∧
      ((rdWords c false d.base 32).any Prod.snd = false →
        (d.frozen = true → d.strict = true → y = (keeps 2 2, normZero, [])) ∧
        (d.frozen = true → d.strict = false → d.normFrozen = false → y = (x, normZero, [])) ∧
        (d.frozen = false → x.vote < 2 → (rdNat c false d.base 2).1 ≠ s → y.1 = ⟨2, 1, g⟩) ∧
        (d.frozen = false → (rdNat c false d.base 2).1 = s →
          (∀ e < d.count, (rdWord c false (d.aG + e)).2 = false ∧ (rdWord c false (d.aG + e)).1.toNat / 2 ^ 7 % 2 ^ 8 ≠ 255) →
          y.2.1.gn2 ≠ 0x7F800000 → y.1 = x ∧ y.2.1.nf = false ∧ y.2.1.pg = true)))

/-- R80, R368, R371, R372, R397, R399, R400: PASS_1_COMPLETE of a Pump in pass 1 that runs, with its memory
controller, ORs the flags of its roundings into FLAGS, sets the vote with its reason and group, writes the
head of the norm-out record (vote, reason and group, step, Pump), reports the reason of an abort, and leaves
the Pump idle with its pass done. That a pass acts when it completes is log entry 35, that a report's items
begin with the stack number log entry 33. -/
def PassOneCompletes : Prop :=
  ∀ (s : State) (k : Fin 8),
    let c := s.chip
    let b := BlockId.pmp k
    let p := (stackOf c k).pump
    let v := (pass1 c k p.step.toNat).2
    let out := nOut c k
    p.pass = 1 → pumpRuns c k = true → inHbm out = true → inHbm (out + 32800) = true →
    (∀ g ∈ validGroups c k, (pdescOf c k g).aRS + 2 * (pdescOf c k g).rows + 2 * (pdescOf c k g).cols ≤ out ∨
      out + 32800 ≤ (pdescOf c k g).aRS) →
    ∃ t, exec (.pass1Complete k) s = .next (s.withChip t) ∧
      getF t b 0x01A 31 30 = v.vote % 4 ∧ getF t b 0x01A 27 16 = v.group % 4096 ∧ getF t b 0x01A 15 12 = v.reason % 16 ∧
      getF t b 0x01E 31 30 = 0 ∧ getF t b 0x01E 11 0 = (validGroups c k).getLastD 0 ∧
      getF t b 0x020 4 0 = getF c b 0x020 4 0 |||
        (validGroups c k).foldl (fun f g => f ||| pass1Flags c k g) 0 % 32 ∧
      (stackOf t k).pump = ⟨0, p.step, true⟩ ∧
      (rdWord t false out).1.toNat = v.vote % 65536 ∧
      (rdWord t false (out + 1)).1 = BitVec.ofNat 16 (v.reason * 2 ^ 12 + v.group) ∧
      (rdNat t false (out + 2) 2).1 = p.step.toNat ∧ (rdWord t false (out + 4)).1 = BitVec.ofNat 16 k ∧
      t.reports = c.reports ++
        (if 1 ≤ v.reason ∧ v.reason ≤ 4 then [⟨8 + k.val, 0x0210 + v.reason, [k.val, v.group]⟩] else [])

/-- R374 to R376, R393: PASS_2_COMPLETE under SKIP advances STEP of every VALID segment that is not frozen, by
one, and leaves every other word of memory as it was; under GO with a stale norm record it writes nothing and
reports it; either way the Pump is idle with its pass done (log entries 33, 35 as for pass 1). -/
def PassTwoCompletes : Prop :=
  ∀ (s : State) (k : Fin 8),
    let c := s.chip
    let b := BlockId.pmp k
    let p := (stackOf c k).pump
    pumpRuns c k = true →
    (p.pass = 3 → (∀ g ∈ liveGroups c k, inHbm ((pdescOf c k g).base + 1) = true) →
      ∃ t, exec (.pass2Complete k) s = .next (s.withChip t) ∧ (stackOf t k).pump = ⟨0, p.step, true⟩ ∧
        (∀ g ∈ liveGroups c k, (∀ h ∈ liveGroups c k, h = g ∨
            (pdescOf c k h).base + 2 ≤ (pdescOf c k g).base ∨ (pdescOf c k g).base + 2 ≤ (pdescOf c k h).base) →
          (rdNat t false (pdescOf c k g).base 2).1 = (p.step.toNat + 1) % 2 ^ 32) ∧
        ∀ a, (∀ g ∈ liveGroups c k, a ≠ (pdescOf c k g).base ∧ a ≠ (pdescOf c k g).base + 1) →
          (rdWord t false a).1 = (rdWord c false a).1) ∧
    (p.pass = 2 → normStale c k p.step.toNat = true →
      ∃ t, exec (.pass2Complete k) s = .next (s.withChip t) ∧ (stackOf t k).pump = ⟨0, p.step, true⟩ ∧ t.mem = c.mem ∧
        (stackOf t k).torn = true ∧ t.reports = c.reports ++ [⟨8 + k.val, 0x0215, [k.val]⟩]) ∧
    (p.pass = 2 → normStale c k p.step.toNat = false →
      ∃ t, exec (.pass2Complete k) s = .next (s.withChip t) ∧ (stackOf t k).pump = ⟨0, p.step, true⟩ ∧
        getF t b 0x01E 31 30 = 0)

/-- R380, R381: the four rules on one element, each operation rounded to FP32 with RNE in the order of the
parentheses. -/
def UpdateRules : Prop :=
  ∀ (d : PDesc) (x : SegVals) (rc : RowCol) (e w m v g : Nat),
    let add := fun a b => (fadd fmtFP32 0 a b).1
    let sub := fun a b => (fsub fmtFP32 0 a b).1
    let mul := fun a b => (fmul fmtFP32 0 a b).1
    let quo := fun a b => (fdivide fmtFP32 0 a b).1
    let root := fun a => (fsqrtOp fmtFP32 0 a).1
    let one := 0x3F800000
    let y := ((ruleElem d x rc e w m v g).run 0).1
    let gh := mul x.kappa g
    let moment := fun beta old z => add (mul beta old) (mul (sub one beta) z)
    (d.rule = 0 →
      let h := add gh (mul d.wd w)
      y.m = add (mul d.beta1 m) h ∧ y.w = sub w (mul x.eta (if d.nesterov then add h (mul d.beta1 y.m) else y.m))) ∧
    (d.rule = 1 ∨ d.rule = 2 →
      y.m = moment d.beta1 m gh ∧ y.v = moment d.beta2 v (mul gh gh) ∧
      y.d = add (quo (quo y.m x.b1) (add (root (quo y.v x.b2)) d.eps)) (mul d.wd w) ∧
      y.w = sub w (mul (if d.rule = 2 then mul x.eta x.phi else x.eta) y.d)) ∧
    (d.rule = 3 →
      let vh := quo (quo (mul (rc.r.getD (e / d.cols) 0) (rc.k.getD (e % d.cols) 0)) rc.rho) x.b2
      y.m = moment d.beta1 m (quo gh (root vh)) ∧ y.d = add (quo y.m x.b1) (mul d.wd w) ∧ y.w = sub w (mul x.eta y.d))

/-- Whether pass 2 reads a poisoned word for element e of a segment (R391). -/
def updatePoisoned (c : Chip) (d : PDesc) (e : Nat) : Prop :=
  (rdNat c false (d.aW + 2 * e) 2).2 = true ∨ (rdWord c false (d.aM + e)).2 = true ∨
  (d.hasV = true ∧ (rdWord c false (d.aV + e)).2 = true) ∨
  (d.rule = 3 ∧ ((∃ i < d.rows, (rdNat c false (d.aRV + 2 * i) 2).2 = true) ∨
    (rdNat c false (d.aKV + 2 * (e % d.cols)) 2).2 = true))

/-- The values of a whole segment, its rule-4 statistics, and the results of element e, from what memory holds
(R376, R381, R390). -/
def updateVals (c : Chip) (k g : Nat) : SegVals :=
  ((segVals c (pdescOf c k g) k g
    ((clipFactor (rawReg c (pmpB k) 0x010).toNat (rdNat c false (nIn c k) 2).1).run 0).1).run 0).1
def updateStats (c : Chip) (k g : Nat) : RowCol :=
  if (pdescOf c k g).rule = 3 then ((rowCol c (pdescOf c k g) (updateVals c k g)).run 0).1 else ⟨[], [], 0, [], []⟩
def updateElem (c : Chip) (k g e : Nat) : Elem :=
  let d := pdescOf c k g
  ((ruleElem d (updateVals c k g) (updateStats c k g) e (rdNat c false (d.aW + 2 * e) 2).1
    (pWiden (rdWord c false (d.aM + e)).1.toNat) (pWiden (if d.hasV then (rdWord c false (d.aV + e)).1.toNat else 0))
    (pWiden (if (rdWord c false (d.aG + e)).2 then 0x7FC0 else (rdWord c false (d.aG + e)).1.toNat))).run 0).1

/-- R376 to R379, R381, R382, R391, R393, R401: PASS_2_COMPLETE under GO with a good norm-in record updates
every live segment, of each rule: an element whose words carry no poison takes the w′ of its rule, and m′ and
v′ rounded to BF16, any other keeps W, M and V; a Q8 block of such elements is converted from the new weights,
any other keeps its codes and exponent; rule 4 writes its statistics; STEP and UPDATES move on by one, BP1 and
BP2 with rules 2 to 4. No other word changes. Skipped segments and poison events are counted, the events
reported (log entries 33, 35). -/
def PassTwoUpdates : Prop :=
  ∀ (s : State) (k : Fin 8),
    let c := s.chip
    let b := BlockId.pmp k
    let p := (stackOf c k).pump
    let st := p.step.toNat
    let live := liveGroups c k
    let events := live.flatMap (fun g => (poisonEvents c (pdescOf c k g)).map (fun e => (g, e)))
    pumpRuns c k = true → p.pass = 2 → normStale c k st = false → fpFinite (rdNat c false (nIn c k) 2).1 = true →
    (∀ g ∈ live, descOk k (pdescOf c k g) = true) →
    (∀ g ∈ live, ∀ h ∈ live, g = h ∨ (pdescOf c k g).aEnd ≤ (pdescOf c k h).base ∨ (pdescOf c k h).aEnd ≤ (pdescOf c k g).base) →
    ∃ t, exec (.pass2Complete k) s = .next (s.withChip t) ∧ (stackOf t k).pump = ⟨0, p.step, true⟩ ∧
      t.reports = c.reports ++ events.map (fun x => ⟨8 + k.val, 0x0214, [k.val, x.1, x.2]⟩) ∧
      getF t b 0x022 31 16 = min 65535 (getF c b 0x022 31 16 + ((validGroups c k).length - live.length)) ∧
      getF t b 0x022 15 0 = min 65535 (getF c b 0x022 15 0 + events.length) ∧
      (stackOf t k).torn = ((stackOf c k).torn || !events.isEmpty) ∧
      (∀ a, (∀ g ∈ live, a < (pdescOf c k g).base ∨ (pdescOf c k g).aEnd ≤ a) → (rdWord t false a).1 = (rdWord c false a).1) ∧
      ∀ g ∈ live,
        let d := pdescOf c k g
        let y := updateElem c k g
        let same := fun a => (rdWord t false a).1 = (rdWord c false a).1
        let byte := fun t a i => (rdWord t false (a + i / 2)).1.toNat / 2 ^ (8 * (i % 2)) % 256
        (rdNat t false d.base 2).1 = (st + 1) % 2 ^ 32 ∧
        (rdNat t false (d.base + 2) 2).1 = ((rdNat c false (d.base + 2) 2).1 + 1) % 2 ^ 32 ∧
        (rdNat t false (d.base + 4) 2).1 = (if d.rule = 0 then (rdNat c false (d.base + 4) 2).1 else (updateVals c k g).p1 % 2 ^ 32) ∧
        (rdNat t false (d.base + 6) 2).1 = (if d.rule = 0 then (rdNat c false (d.base + 6) 2).1 else (updateVals c k g).p2 % 2 ^ 32) ∧
        (∀ e < d.count,
          (updatePoisoned c d e → same (d.aW + 2 * e) ∧ same (d.aW + 2 * e + 1) ∧ same (d.aM + e) ∧
            (d.hasV = true → same (d.aV + e))) ∧
          (¬ updatePoisoned c d e →
            (rdNat t false (d.aW + 2 * e) 2).1 = (y e).w % 2 ^ 32 ∧
            (rdWord t false (d.aM + e)).1 = BitVec.ofNat 16 ((roundMV c d st e 0 (y e).m).run 0).1 ∧
            (d.hasV = true → (rdWord t false (d.aV + e)).1 = BitVec.ofNat 16 ((roundMV c d st e 1 (y e).v).run 0).1))) ∧
        (∀ n < d.count / 32,
          let q := qblock .q8 0 ((List.range 32).map (fun j => (fdec fmtFP32 (y (32 * n + j)).w, 0)))
          ((∃ j < 32, updatePoisoned c d (32 * n + j)) →
            byte t d.aQX n = byte c d.aQX n ∧ ∀ j < 32, byte t (d.aQE + 16 * n) j = byte c (d.aQE + 16 * n) j) ∧
          ((∀ j < 32, ¬ updatePoisoned c d (32 * n + j)) →
            byte t d.aQX n = q.1 % 256 ∧ ∀ j < 32, byte t (d.aQE + 16 * n) j = q.2.1.getD j 0 % 256)) ∧
        (d.rule = 3 →
          (∀ i < d.rows, (rdNat c false (d.aRV + 2 * i) 2).2 = false →
            (rdNat t false (d.aRV + 2 * i) 2).1 = (updateStats c k g).r.getD i 0 % 2 ^ 32) ∧
          ∀ j < d.cols, (rdNat c false (d.aKV + 2 * j) 2).2 = false →
            (rdNat t false (d.aKV + 2 * j) 2).1 = (updateStats c k g).k.getD j 0 % 2 ^ 32)

end Sys2Proof.Machine

/-! ### Registers, blocks and the ring (R14 to R17, R29 to R35, R42 to R57, R324, R348, R461, R539, R542, R550) -/

namespace Sys2Proof.Machine

/-- The command answers a next state that differs in the package only, and the package has P. -/
abbrev ChipAnswers (i : Instr) (s : State) (P : Chip → Prop) : Prop := ∃ t, exec i s = .next (s.withChip t) ∧ P t

/-- The command answers a next state that has P. -/
abbrev Answers (i : Instr) (s : State) (P : State → Prop) : Prop := ∃ t, exec i s = .next t ∧ P t

/-- The entries that a command logs wait for the flash: fewer than 120 did before it (128 are written at once, R535). -/
abbrev LogHasRoom (s : State) : Prop := s.dev.warden.waiting.length < 120

/-- R43, R44, R47, R48, R568, R573, R574: the states of a block. A level of RUN starts a STOPPED block that
nothing holds and stops a RUNNING one that has its clock; STARTING ends by its checks alone, STOPPING by
draining alone, and neither goes on without the block's clock; a failed check clears RUN and names the pair. A
hung block is reported by its Reeve and stays in STOPPING (its number in the report is the model's choice, log
entry 56). -/
def BlocksMoveBetweenStates : Prop :=
  ∀ (s : State) (b : BlockId),
    let c := s.chip
    (bState c b = 0 → startHeld c b = false →
      ChipAnswers (.run b true) s (fun t => bState t b = 1 ∧ bRun t b = true)) ∧
    (bState c b = 0 → startHeld c b = true →
      ChipAnswers (.run b true) s (fun t => bState t b = 0 ∧ bRun t b = true)) ∧
    (bState c b = 0 → ChipAnswers (.run b false) s (fun t => bState t b = 0 ∧ bRun t b = false)) ∧
    (bState c b = 2 → ChipAnswers (.run b true) s (fun t => bState t b = 2 ∧ bRun t b = true)) ∧
    (bState c b = 2 → hasClock c b = true → ChipAnswers (.run b false) s (fun t => bState t b = 3 ∧ bRun t b = false)) ∧
    (bState c b = 2 → hasClock c b = false → ChipAnswers (.run b false) s (fun t => bState t b = 2 ∧ bRun t b = false)) ∧
    (∀ v, bState c b = 1 ∨ bState c b = 3 →
      ChipAnswers (.run b v) s (fun t => bState t b = bState c b ∧ bRun t b = v)) ∧
    (s.dev.warden.lateStart = [] →
      (bState c b = 1 → hasClock c b = false → exec (.agreementCheck b) s = .next s) ∧
      (bState c b = 1 → hasClock c b = true → (disagreement c b).1 = none →
        ChipAnswers (.agreementCheck b) s (fun t => bState t b = if bRun c b then 2 else 3)) ∧
      (∀ fa fb, bState c b = 1 → hasClock c b = true → (disagreement c b).1 = some (fa, fb) →
        ChipAnswers (.agreementCheck b) s (fun t => bState t b = 0 ∧ bRun t b = false ∧ getF t b 0x002 5 5 = 1 ∧
          rawReg t b 0x006 = BitVec.ofNat 32 (fa * 2 ^ 16 + fb))) ∧
      (bState c b ≠ 1 → exec (.agreementCheck b) s = .next s)) ∧
    (bState c b = 3 → blockDry c b = true → hasClock c b = true → tget (fun _ => false) c.hung (blockKey b) = false →
      ChipAnswers (.blockDrained b) s (fun t => bState t b = if bRun c b && !startHeld c b then 1 else 0)) ∧
    (bState c b = 3 → (blockDry c b = false ∨ hasClock c b = false ∨ tget (fun _ => false) c.hung (blockKey b) = true) →
      exec (.blockDrained b) s = .next s) ∧
    (bState c b = 3 → ChipAnswers (.stopHung b) s (fun t => bState t b = 3 ∧ tget (fun _ => false) t.hung (blockKey b) = true ∧
      ((stopBound (blockKind b)).isSome = true → getF t b 0x002 9 9 = 1) ∧
      t.reports = c.reports ++ [⟨blockReeve b, 0x0101, [blockKey b]⟩])) ∧
    (bState c b ≠ 3 → exec (.stopHung b) s = .next s ∧ exec (.blockDrained b) s = .next s)

/-- R53, R359: a Pump that waits for its memory controller after a wake starts when that controller runs, and
stays STOPPED, its RUN 0, when the controller's start fails. -/
def PumpsStartAfterTheirControllers : Prop :=
  ∀ (s : State) (k : Fin 8), let c := s.chip
    s.dev.warden.lateStart = [.pmp k] → bState c (.hmc k) = 1 → hasClock c (.hmc k) = true → bRun c (.hmc k) = true →
    bState c (.pmp k) = 0 →
    ((disagreement c (.hmc k)).1 = none → startHeld c (.pmp k) = false → Answers (.agreementCheck (.hmc k)) s (fun t =>
      bState t.chip (.hmc k) = 2 ∧ bState t.chip (.pmp k) = 1 ∧ bRun t.chip (.pmp k) = true ∧ t.dev.warden.lateStart = [])) ∧
    ((disagreement c (.hmc k)).1 ≠ none → Answers (.agreementCheck (.hmc k)) s (fun t =>
      bState t.chip (.hmc k) = 0 ∧ bState t.chip (.pmp k) = 0 ∧ bRun t.chip (.pmp k) = bRun c (.pmp k) ∧
      t.dev.warden.lateStart = []))

/-- R46, R57: the two pairs of a classroom in their order. -/
def ClassroomPairs : Prop :=
  ∀ (s : State) (cl : Fin 64),
    let c := s.chip
    let b := BlockId.cls cl
    let core := rawReg c b 0x010
    let en := fun (p : Nat) => core.getLsbD p
    let pg := fun (p : Nat) => core.getLsbD (16 + p)
    let fuse := fun (p : Nat) => (rawReg c b 0x012).getLsbD p
    bState c b = 1 → hasClock c b = true → s.dev.warden.lateStart = [] →
    ((∃ p < 16, en p = true ∧ fuse p = false) →
      ChipAnswers (.agreementCheck b) s (fun t => rawReg t b 0x006 = 0x04000480)) ∧
    ((∀ p < 16, en p = true → fuse p = true) → (∃ p < 16, pg p = true ∧ en p = false) →
      ChipAnswers (.agreementCheck b) s (fun t => rawReg t b 0x006 = 0x04100400))

/-- R14, R15, R44, R45, R50, R51, R399: a read returns the register and clears its RC fields, a read of the
progress of a Pump in a pass shows a VALID group that is not before the one shown last; a write of RWS fields
is taken while the block is STOPPED, otherwise discarded, and a discarded write of another value sets
CFG_REJECT, counts once and, when CFG_REJECT was 0, leaves the lowest field code that differed; 1 clears a
sticky bit of xxx_STAT, STATE ignores a write. -/
def RegistersReadAndWritten : Prop :=
  ∀ (s : State) (b : BlockId) (off : BitVec 10) (v : W32),
    let c := s.chip
    let o := off.toNat
    let k := regKey c b o
    let rows := fieldsAt (blockKind b) o
    let differs := fun (f : FieldRow) => natBits v.toNat f.hi f.lo ≠ getF c b k f.hi f.lo
    (o % 2 = 1 → ChipAnswers (.rcRead b off) s (fun t => t = { c with readOut := 0 })) ∧
    (∀ k, b = .pmp k → o = 0x01E → (stackOf c k).pump.pass ≠ 0 → ChipAnswers (.rcRead b off) s (fun t =>
      t.readOut = regRead t b o ∧ getF t b 0x01E 31 30 = getF c b 0x01E 31 30 ∧
      (getF t b 0x01E 11 0 = getF c b 0x01E 11 0 ∨
        (getF t b 0x01E 11 0 ∈ validGroups c k ∧ getF c b 0x01E 11 0 ≤ getF t b 0x01E 11 0)) ∧
      ∀ n, n ≠ 0x01E → rawReg t b n = rawReg c b n)) ∧
    (o % 2 = 0 → (∀ k, b = .pmp k → o ≠ 0x01E ∨ (stackOf c k).pump.pass = 0) → ChipAnswers (.rcRead b off) s (fun t => t.readOut = regRead c b o ∧
      (∀ f ∈ rows, getF t b k f.hi f.lo = if f.acc = .rc then 0 else getF c b k f.hi f.lo) ∧
      ∀ n, n ≠ k → rawReg t b n = rawReg c b n)) ∧
    ((∀ f ∈ rows, f.acc = .rws) → o ≠ 0 →
      (bState c b = 0 → ChipAnswers (.registerWrite b off v) s (fun t =>
        (∀ f ∈ rows, getF t b k f.hi f.lo = natBits v.toNat f.hi f.lo) ∧ ∀ n, n ≠ k → rawReg t b n = rawReg c b n)) ∧
      (bState c b ≠ 0 → (∀ f ∈ rows, ¬ differs f) → exec (.registerWrite b off v) s = .next s) ∧
      (bState c b ≠ 0 → (∃ f ∈ rows, differs f) → ChipAnswers (.registerWrite b off v) s (fun t =>
        (∀ n, n ≠ 2 → n ≠ 4 → rawReg t b n = rawReg c b n) ∧ getF t b 0x002 4 4 = 1 ∧
        getF t b 0x004 31 24 = min 255 (getF c b 0x004 31 24 + 1) ∧
        (getF c b 0x002 4 4 = 1 → getF t b 0x004 15 0 = getF c b 0x004 15 0) ∧
        (getF c b 0x002 4 4 = 0 → ∃ f ∈ rows, differs f ∧ getF t b 0x004 15 0 = fieldCode f ∧
          ∀ x ∈ rows, differs x → fieldCode f ≤ fieldCode x)))) ∧
    ChipAnswers (.registerWrite b 2 v) s (fun t => bState t b = bState c b ∧
      ∀ i ∈ [4, 5, 8, 9], getF t b 0x002 i i = if natBit v.toNat i then 0 else getF c b 0x002 i i)

/-- R324, R460, R461, R539, R542, R550: the writes with an effect of their own. -/
def WritesWithEffects : Prop :=
  (∀ (s : State) (n : Fin 16),
    let c := s.chip
    let b := BlockId.eth n
    (bState c b = 0 → ChipAnswers (.ethKeyClear n) s (fun t => getF t b 0x012 0 0 = 0 ∧
      tget (fun _ => 0) t.ethKeys n = 0 ∧ ∀ i : Fin 13, rawReg t b (0x030 + 2 * i.val) = 0)) ∧
    (bState c b ≠ 0 → ChipAnswers (.ethKeyClear n) s (fun t => getF t b 0x002 4 4 = 1 ∧
      ∀ i : Fin 13, rawReg t b (0x030 + 2 * i.val) = rawReg c b (0x030 + 2 * i.val))) ∧
    ∀ (i : Fin 13) (v : W32),
      (bState c b = 0 → ChipAnswers (.ethKeyWrite n i v) s (fun t => rawReg t b (0x030 + 2 * i.val) = v ∧
        tget (fun _ => 0) t.ethKeys n = tget (fun _ => 0) c.ethKeys n ||| 2 ^ i.val ∧
        (tget (fun _ => 0) t.ethKeys n = 2 ^ 13 - 1 → getF t b 0x012 0 0 = 1) ∧
        (tget (fun _ => 0) t.ethKeys n ≠ 2 ^ 13 - 1 → getF t b 0x012 0 0 = getF c b 0x012 0 0))) ∧
      (bState c b ≠ 0 → v ≠ rawReg c b (0x030 + 2 * i.val) → ChipAnswers (.ethKeyWrite n i v) s (fun t =>
        rawReg t b (0x030 + 2 * i.val) = rawReg c b (0x030 + 2 * i.val) ∧ getF t b 0x002 4 4 = 1))) ∧
  (∀ (s : State) (cl : Fin 64) (mask : BitVec 16),
    let core := fun (p : Fin 16) => 16 * cl.val + p.val
    ChipAnswers (.scacheInv cl mask) s (fun t => t.mem = s.chip.mem ∧
      (∀ p, mask.getLsbD p.val = true → (coreOf t (core p)).cache = [] ∧
        (coreOf t (core p)).fill = (coreOf s.chip (core p)).fill.map (fun f => { f with install := false })) ∧
      ∀ n, (∀ p, mask.getLsbD p.val = true → n ≠ core p) → coreOf t n = coreOf s.chip n)) ∧
  (∀ (s : State) (n : Fin 16) (m : Fin 4),
    let c := s.chip
    (tget (fun _ => false) c.portOff n = false → ChipAnswers (.padHold (.eth n)) s (fun t => getF t (.eth n) 0x022 0 0 = 0)) ∧
    (tget (fun _ => false) c.portOff n = true → exec (.padHold (.eth n)) s = .next s) ∧
    (tget (fun _ => false) c.meshOn m = true → ChipAnswers (.padHold (.mesh m)) s (fun t => getF t (.mesh m) 0x010 0 0 = 0)) ∧
    (tget (fun _ => false) c.meshOn m = false → exec (.padHold (.mesh m)) s = .next s)) ∧
  ∀ (s : State) (cl : Fin 64) (lvl : Fin 8),
    let c := s.chip
    let b := BlockId.cls cl
    let aim := max (max lvl.val (tget (fun _ => 0) c.floors (cl.val / 16)))
      (if tget (fun _ => false) c.plHold (cl.val / 16) then 1 else 0)
    ChipAnswers (.plReq cl lvl) s (fun t => getF t b 0x028 2 0 = lvl ∧ getF t b 0x028 6 4 = getF c b 0x028 6 4 ∧
      (roomOf t cl).levelTo = if aim = getF c b 0x028 6 4 then none else some aim) ∧
    (∀ l < 8, (roomOf c cl).levelTo = some l → ChipAnswers (.levelChangeDone cl) s (fun t => getF t b 0x028 6 4 = l ∧
      getF t b 0x028 2 0 = getF c b 0x028 2 0 ∧ (roomOf t cl).levelTo = none)) ∧
    ((roomOf c cl).levelTo = none → exec (.levelChangeDone cl) s = .next s) ∧
    ChipAnswers (.clk cl) s (fun t => getF t b 0x028 17 17 = 1 ∧ getF t b 0x028 6 4 = getF c b 0x028 6 4)

/-- R30 to R33, R36, R579, R580: once phase 2 has loaded the fuses (before, nothing answers), a transaction
with fewer than 16 outstanding goes out: it is performed at its target and its response waits, an error where
the originator or the space has no such target; to a block under reset it is held. A seventeenth waits at its
originator until one of the sixteen completes. The responses of an originator come back in the order of its
transactions, a read's with the value read (that transactions to different targets are performed in their
order too is the model's choice, log entry 56). -/
def RingTransactions : Prop :=
  ∀ (s : State) (o : RingOrigin) (node : Fin 128) (off : BitVec 16) (wr : Option W32),
    let c := s.chip
    let d := s.dev
    let k := originKey o
    let q : RingReq := ⟨k, node, off.toNat, wr⟩
    let target := if ringTarget k node then blockAt node (off.toNat / 0x400) else none
    let reg := off.toNat % 0x400
    (ringUp s = false → exec (.ringRequest o node off wr) s = .next s) ∧
    (ringUp s = true →
      (16 ≤ outstanding o s → Answers (.ringRequest o node off wr) s (fun t => t.chip = c ∧ t.dev.ring = d.ring ∧
        t.dev.ringWait = d.ringWait ++ [q])) ∧
      (outstanding o s < 16 → nodeInReset s node = true → Answers (.ringRequest o node off wr) s (fun t => t.chip = c ∧
        t.dev.ring = d.ring ++ [⟨k, none, false, some q⟩] ∧ t.dev.ringWait = d.ringWait)) ∧
      (outstanding o s < 16 → nodeInReset s node = false →
        (target = none → Answers (.ringRequest o node off wr) s (fun t => t.chip = c ∧
          t.dev.ring = d.ring ++ [⟨k, none, true, none⟩] ∧ t.dev.ringWait = d.ringWait)) ∧
        (∀ b, target = some b → Answers (.ringRequest o node off wr) s (fun t => t.dev.ringWait = d.ringWait ∧
          (∀ v, wr = some v → t.chip = busWrite b reg v c ∧ t.dev.ring = d.ring ++ [⟨k, none, false, none⟩]) ∧
          (wr = none → t.chip = busRead b reg c ∧ t.dev.ring = d.ring ++ [⟨k, some (busRead b reg c).readOut, false, none⟩]))))) ∧
    ((∀ y ∈ d.ring, y.origin ≠ k ∨ y.held.isSome = true) → exec (.ringResponse o) s = .next s) ∧
    ∀ p x r, d.ring = p ++ x :: r → (∀ y ∈ p, y.origin ≠ k ∨ y.held.isSome = true) → x.origin = k → x.held = none →
      ((∀ y ∈ d.ringWait, y.origin ≠ k) → Answers (.ringResponse o) s (fun t => t.dev.ring = p ++ r ∧ t.dev.ringErr = x.err ∧
        (∀ v, x.val = some v → t.chip = { c with readOut := v }) ∧ (x.val = none → t.chip = c))) ∧
      (∀ a w b, d.ringWait = a ++ w :: b → (∀ y ∈ a, y.origin ≠ k) → w.origin = k → Answers (.ringResponse o) s (fun t =>
        (∃ y, t.dev.ring = p ++ r ++ [y] ∧ y.origin = k) ∧ t.dev.ringWait = a ++ b ∧ t.dev.ringErr = x.err ∧
        ∀ v, x.val = some v → t.chip.readOut = v))

/-- R35, R341, R376, R391, R427, R472: the oldest report of a node reaches the Warden, who logs it with its
node, its code and its items (what the items are where no rule names them is the model's choice, log entry 33;
the entry waits for the flash while fewer than 120 do); a CORE_TRIPLE of a core with a lesson halts the school
of a running job, a stale norm record or a poisoned update leaves the shard TORN. -/
def ReportsReachTheLog : Prop :=
  ∀ (s : State) (node : Fin 128),
    (fwUp s = false ∨ (∀ x ∈ s.chip.reports, x.node ≠ node) → exec (.report node) s = .next s) ∧
    ∀ (p q : List Report) (r : Report), fwUp s = true → s.chip.reports = p ++ r :: q →
    (∀ x ∈ p, x.node ≠ node) → r.node = node →
    Answers (.report node) s (fun t => t.chip.reports = p ++ q ∧
      (LogHasRoom s → ∃ e ∈ t.dev.warden.waiting, e.src = node.val ∧ e.code = r.code ∧
        e.time = s.chip.nowUs ∧ (r.code ≠ 0x0103 → e.data = r.items.take 3)) ∧
      (r.code = 0x0215 ∨ (r.code = 0x0214 ∧ r.items.length = 3) → t.dev.bell.torn = true) ∧
      (∀ j, r.code = 0x0102 → r.items.getD 1 0 = 1 → jobOf s = some j → dstate s = 4 →
        (j.rank, stepNow s) ∉ s.dev.bell.halts → t.dev.bell.halted = true))

end Sys2Proof.Machine

/-! ### Periods, lessons and bells (R139, R367, R419 to R431, R452 to R454) -/

namespace Sys2Proof.Machine

/-- R139, R419, R544: WAIT ends a lesson when MODE.SLEEP is 0 (the strand is withheld at it until LESSON_END);
otherwise it uses its slot, and the strand leaves issue for the state SLEEP names unless an enabled wake event
is pending already. -/
def WaitLeavesIssue : Prop :=
  ∀ (s : State) (u : StrandId),
    let c := s.chip
    let st := strandOf c u
    let sleep := natBits (creg st 0).toNat 11 10
    Runs c u [] [] [] →
    (sleep = 0 → st.lesson.isSome = true →
      exec (.wait u) s = .next (s.withChip (modStrand (tookSlot c u) u (fun st => { st with run := .ending })))) ∧
    (sleep ≠ 0 ∨ st.lesson = none →
      let run := if (creg st 28 &&& creg st 29) ≠ 0 then RunState.active else if sleep = 0 then .idle else .waiting sleep
      exec (.wait u) s = .next (s.withChip (retire (modStrand c u (fun st => { st with run := run })) u .seq)))

/-- R295, R408, R419, R423, R549: the release of a RUNNING classroom starts each of its lessons of the period
in its strand, with the values of the lesson's entry, and its DMA lists; other registers of a strand with no
write pending stay. A classroom that rests wakes for it; while the Breach is latched its wake is refused and
the release waits. -/
def ClassroomReleaseStartsLessons : Prop :=
  ∀ (s : State) (cl : Fin 64) (j : Job),
    let c := s.chip
    let b := s.dev.bell
    let p := periodNow s
    let ls := (j.lessons p).filter (fun l => l.2.cl == cl.val)
    let rests := (roomOf c cl).power = .recess ∨ (roomOf c cl).power = .closed
    jobOf s = some j → b.live = true → b.halted = false → natBit b.relCls cl = true → bState c .bel = 2 →
    bState c (.cls cl) = 2 →
    (rests → s.dev.power.breach = true → Answers (.classroomRelease cl) s (fun t =>
      t.chip = c ∧ t.dev.bell = b ∧ t.dev.power.refusals ≠ [])) ∧
    ((rests → s.dev.power.breach = false) → (ls.map (fun l => l.2.id)).Nodup →
    Answers (.classroomRelease cl) s (fun t =>
      natBit t.dev.bell.relCls cl = false ∧ (∀ q, q ≠ cl.val → natBit t.dev.bell.relCls q = natBit b.relCls q) ∧
      (roomOf t.chip cl).power = .run ∧
      (∀ l ∈ ls,
        let old := strandOf c l.2.id
        let st := strandOf t.chip l.2.id
        st.pc = l.2.entry ∧ st.lesson = some l.1 ∧ st.run = .active ∧ st.spec = l.2.spec ∧ st.pb = none ∧ st.pend = [] ∧
        level st = 0 ∧ creg st 0 = BitVec.ofNat 64 l.2.mode ∧ creg st 5 = 0 ∧ greg st 1 = BitVec.ofNat 64 l.2.arg ∧
        vcreg st 6 = BitVec.ofNat 64 l.2.vmask ∧ vcreg st 2 = 0 ∧ tcreg st 1 = BitVec.ofNat 64 l.2.tmask ∧
        (l.2.spec = true → getF t.chip (.cls cl) 0x020 31 31 = 1) ∧
        (old.pend = [] → ∀ n, n ≠ 1 → greg st n = greg old n)) ∧
      (∀ d ∈ j.dmas p, d.2.cl = cl.val → ∃ l ∈ (dmaOf t.chip cl).lists,
        l.next = d.2.list ∧ l.left = d.2.ndesc ∧ l.stopped = false)))

/-- The fold digest of R429 over words with their addresses. -/
def foldOf (ws : List (Word × Nat)) : Nat :=
  ws.foldl (fun d x => (srMix (BitVec.ofNat 64 d ^^^ ((x.1.setWidth 64) ||| (BitVec.ofNat 64 x.2 <<< 16)))).toNat) 0

/-- The words of a lesson's OUT ranges in entry order, with poison and address. -/
def outWords (j : Job) (l : Les) (c : Chip) : List ((Word × Bool) × Nat) :=
  ((j.ranges l).filter (fun r => r.out)).flatMap (fun r =>
    (List.range r.count).map (fun i => (rdWord c false (r.first + i), r.first + i)))

/-- R419, R429: a lesson whose strand is withheld at its last WAIT, with everything it issued complete and its
stores performed, ends: its pending writes are visible, the strand is idle. In a recording step its digest and
poison word stand in the digest log, in a replay in the area after it; in a normal step memory stays. -/
def LessonsEnd : Prop :=
  ∀ (s : State) (u : StrandId) (j : Job) (i : Nat),
    let c := s.chip
    let st := strandOf c u
    let mode := getF c .bel 0x010 1 0
    let a := j.dlog + (if mode = 2 then 8 * j.nles else 0) + 8 * i
    let ws := outWords j (j.les i) c
    jobOf s = some j → st.lesson = some i → st.run = .ending →
    (strandQuiet st = false ∨ strandStores c u ≠ 0 → exec (.lessonEnd u) s = .next s) ∧
    (strandQuiet st = true → strandStores c u = 0 → Answers (.lessonEnd u) s (fun t =>
      (strandOf t.chip u).lesson = none ∧ (strandOf t.chip u).run = .idle ∧ (strandOf t.chip u).pend = [] ∧
      (mode ≠ 1 → mode ≠ 2 → t.chip.mem = c.mem) ∧
      ((mode = 1 ∨ mode = 2) → inHbm (a + 7) = true → (∀ q < 8, engineReaches c (j.les i).cl (a + q) = true) →
        (∀ x ∈ ws, prefectReaches c (j.les i).cl x.2 = true) → (rdWords t.chip false a 8).map Prod.fst =
        natWords (foldOf (ws.map (fun x => (x.1.1, x.2)))) 4 ++ [if ws.any (fun x => x.1.2) then 1 else 0, 0, 0, 0])))

/-- R367, R375, R399, R423: the release of a Pump starts the period's pass with the step number, at its first
VALID group: pass 1, pass 2 after an outcome GO, the pass that only steps after another. -/
def PumpReleaseStartsThePass : Prop :=
  ∀ (s : State) (k : Fin 8) (j : Job),
    let c := s.chip
    let b := s.dev.bell
    let per := j.per (periodNow s)
    let pass := if per.pump = 1 then 1 else if getF c .bel 0x014 31 30 = 0 then 2 else 3
    jobOf s = some j → b.live = true → b.halted = false → natBit b.relPmp k = true → bState c .bel = 2 →
    bState c (.pmp k) = 2 →
    Answers (.pumpRelease k) s (fun t => natBit t.dev.bell.relPmp k = false ∧
      (stackOf t.chip k).pump = ⟨pass, BitVec.ofNat 32 (stepNow s), false⟩ ∧ getF t.chip (.pmp k) 0x01E 31 30 = pass ∧
      getF t.chip (.pmp k) 0x01E 11 0 = (validGroups c k).headD 0 ∧
      (per.pump = 1 → rawReg t.chip (.pmp k) 0x01C = BitVec.ofNat 32 (stepNow s)))

/-- R291, R421, R427, R456: what must hold for a device to be ready for the bell that ends its period: no
lesson runs or was cut short by a reset, every store is performed, every release has come, no input that the
next period reads is on its way, and in a period that runs every DMA list and window is complete and every
Pump has done its pass. -/
def PeriodComplete (j : Job) (s : State) : Prop :=
  let p := periodNow s
  let b := s.dev.bell
  b.relCls = 0 ∧ b.relPmp = 0 ∧ lessonStrands s.chip = [] ∧ (∀ e ∈ s.chip.cores, e.2.cut = false) ∧
  storesOf s.chip (fun _ _ => true) = 0 ∧ stagedFirst j s = false ∧
  (b.runs = true → (∀ d ∈ j.dmas p, listsDone s.chip d.2.cl = true) ∧
    (∀ w ∈ j.windows p, (winOf s (winKey (stepNow s) w.1)).done = true) ∧
    ((j.per p).pump ≠ 0 → ∀ k < 8, (stackOf s.chip k).pump.done = true))

/-- The READY frame of R441, R452 for a vote. -/
def readyFrame (j : Job) (s : State) (v : BVote) : Frame :=
  frameOf j ((j.rank - 1) / 8) (stepNow s) (periodNow s) 0 0 0 (v.vote * 2 ^ 30) false false
    [BitVec.ofNat 16 (v.reason * 2 ^ 12 + v.group), BitVec.ofNat 16 v.rank, BitVec.ofNat 16 v.pump, 0]

/-- R421, R452, R453: DEVICE_READY makes a device ready exactly when its period is complete; once every child
has sent READY, the root sets the ring, and another rank sends READY with its subtree's vote to its parent on
ports 0 and 8; READY_REPEAT sends it again until the ring is set. The model's choices, log entry 41: the
moment of readiness in ns from the microseconds that the state counts, and 0 in the fourth word of READY's
payload. -/
def DevicesBecomeReady : Prop :=
  ∀ (s : State) (j : Job),
    let b := s.dev.bell
    let kids := childrenOf j.rank j.size
    jobOf s = some j → b.live = true →
    (dstate s = 4 → b.ready = false → b.halted = false → bState s.chip .bel = 2 →
      (¬ PeriodComplete j s → exec .deviceReady s = .next s) ∧
      (PeriodComplete j s → Answers .deviceReady s (fun t => t.dev.bell.ready = true ∧
        t.dev.bell.readyAt = 1000 * s.chip.nowUs ∧ t.chip = s.chip ∧
        ((∃ q ∈ kids, tget (fun _ => none) b.kids q = none) → t.dev.bell.ringDue = b.ringDue ∧ t.dev.eth = s.dev.eth) ∧
        ((∀ q ∈ kids, (tget (fun _ => none) b.kids q).isSome = true) → b.ringDue = none → b.sentReady = false →
          (j.rank = 0 → t.dev.bell.ringDue = some (treeDepth j.size * j.linkLat, treeVote j s)) ∧
          (j.rank ≠ 0 → t.dev.bell.sentReady = true ∧ ∀ n, (n = 0 ∨ n = 8) →
            (ethOf t n).ctl = (ethOf s n).ctl ++ [(4, readyFrame j s (treeVote j s))]))))) ∧
    (b.sentReady = false ∨ b.ringDue.isSome = true → exec .readyRepeat s = .next s) ∧
    (b.sentReady = true → b.ringDue = none → j.rank ≠ 0 → Answers .readyRepeat s (fun t => t.chip = s.chip ∧
      ∀ n, (n = 0 ∨ n = 8) → (ethOf t n).ctl = (ethOf s n).ctl ++ [(4, readyFrame j s (treeVote j s))]))

/-- R375, R423, R424: a ring that nothing disturbs: after GO or SKIP, or at a bell without a vote, the next
period is released with the step number advanced past the last period; a vote outcome is shown and closes
every open epoch. After the last period of the last step the job is done; ABORT, and an abort by the Warden,
halt the school (which items the entry of an ABORT holds is the model's choice, log entry 33). -/
def BellsReleaseTheNextPeriod : Prop :=
  ∀ (s : State) (j : Job) (r ns : Nat) (v : BVote),
    let b := s.dev.bell
    let p := periodNow s
    let st := stepNow s
    let last := p + 1 = j.nper
    jobOf s = some j → b.ringDue = some (r, v) → dstate s = 4 → b.halted = false → b.live = true →
    bState s.chip .bel = 2 → b.replay = none → b.ckpt = none → p < j.nper → j.nper ≤ 4096 → v.vote < 3 →
    (b.wardenAbort = false → ¬ ((j.per p).vote = true ∧ v.vote = 2) → ¬ (last ∧ st = j.lastStep) →
      Answers (.bellRing ns) s (fun t =>
        let per := j.per (periodNow t)
        periodNow t = (if p + 1 = j.nper then 0 else p + 1) ∧
        stepNow t = (if p + 1 = j.nper then (st + 1) % 2 ^ 32 else st) ∧
        t.dev.bell.live = true ∧ t.dev.bell.rung = some (st, p, v) ∧ t.dev.bell.ringDue = none ∧ t.dev.bell.ready = false ∧
        t.dev.bell.runs = per.runsIn (stepNow t) ∧
        (∀ c < 64, natBit t.dev.bell.relCls c = true ↔ per.runsIn (stepNow t) = true ∧ c ∈ j.rooms (periodNow t)) ∧
        ((j.per p).vote = true → getF t.chip .bel 0x014 31 30 = v.vote ∧
          ∀ cl : Fin 64, getF t.chip (.cls cl) 0x020 31 31 = 0) ∧
        ((j.per p).vote = false → getF t.chip .bel 0x014 31 30 = getF s.chip .bel 0x014 31 30))) ∧
    (b.wardenAbort = false → ¬ ((j.per p).vote = true ∧ v.vote = 2) → last → st = j.lastStep →
      Answers (.bellRing ns) s (fun t => dstate t = 5 ∧ t.dev.bell.live = false ∧ t.dev.bell.past = true ∧
        (LogHasRoom s → ∃ e ∈ t.dev.warden.waiting, e.code = 0x0303) ∧ ∀ n ∈ j.ports, bRun t.chip (.eth (Fin.ofNat 16 n)) = false)) ∧
    (b.wardenAbort = true → ¬ ((j.per p).vote = true ∧ v.vote = 2) → b.halts = [] →
      Answers (.bellRing ns) s (fun t => t.dev.bell.live = false ∧ t.dev.bell.halted = true ∧
        stepNow t = (if last then (st + 1) % 2 ^ 32 else st))) ∧
    ((j.per p).vote = true → v.vote = 2 → b.halts = [] →
      Answers (.bellRing ns) s (fun t => t.dev.bell.live = false ∧ t.dev.bell.halted = true ∧ periodNow t = p ∧
        getF t.chip .bel 0x014 31 30 = 2 ∧
        (LogHasRoom s → 1 ≤ v.reason → v.reason ≤ 4 →
          ∃ e ∈ t.dev.warden.waiting, e.code = 0x0210 + v.reason ∧ e.data = [v.pump, v.group])))

/-- R425, R426, R427, R471, R472: a device that is not ready in time is logged with the period and the mask of
the classrooms that have not completed it (a lesson, a lesson cut by a reset, a DMA list, a release or a store
is left); another rank whose readiness is missing (no child whose READY is here, nor below one) is logged;
both halt the school: no release is left, and every strand that runs a lesson has IPEND.BELL. HALT_STOP clears
RUN of the job's blocks, ends DSTATE 4 and a replay, and marks the shard TORN when a pass 2 is or was cut
short. The layout of that mask and which ranks can be silent here are the model's choice, log entry 41; the
job's ports, memory controllers and meshes keep RUN, log entry 36. -/
def HaltsStopTheSchool : Prop :=
  ∀ (s : State) (j : Job),
    let b := s.dev.bell
    let p := periodNow s
    let halts := fun (t : State) =>
      t.dev.bell.halted = true ∧ t.dev.bell.stopping = true ∧ t.dev.bell.relCls = 0 ∧ t.dev.bell.relPmp = 0 ∧
      t.dev.bell.ringDue = none ∧
      ∀ u, (strandOf s.chip u).lesson.isSome = true → natBit (creg (strandOf t.chip u) 28).toNat 3 = true
    jobOf s = some j →
    (dstate s = 4 → b.live = true → b.ready = false → b.halted = false → (j.rank, stepNow s) ∉ b.halts →
      Answers .periodHang s (fun t => halts t ∧ (s.dev.warden.waiting.length + (openWindows j p s).length < 110 →
        ∃ e ∈ t.dev.warden.waiting, ∃ m, e.code = 0x0305 ∧ e.data = [p, m % 2 ^ 32, m / 2 ^ 32] ∧
          ∀ r < 64, (natBit m r = true ↔ natBit b.relCls r = true ∨ (∃ u ∈ lessonStrands s.chip, coreRoom u.core = r) ∨
            (∃ d ∈ j.dmas p, d.2.cl = r ∧ listsDone s.chip r = false) ∨
            ∃ k ∈ s.chip.cores, coreRoom k.1 = r ∧ (k.2.cut = true ∨ storesOut s.chip k.1 ≠ 0))))) ∧
    (b.ready = true ∨ b.halted = true ∨ b.live = false → exec .periodHang s = .next s) ∧
    (∀ q : Fin 1024, dstate s = 4 → b.live = true → b.ready = true → b.ringDue = none → b.halted = false →
      let heard := fun (r : Nat) => (tget (fun _ => none) b.kids r).isSome = true
      let missing := q.val < j.size ∧ q.val ≠ j.rank ∧ ∀ r ∈ upTree q 5, ¬ heard r
      (missing → (j.rank, stepNow s) ∉ b.halts → Answers (.peerSilent q) s (fun t => halts t ∧
        (LogHasRoom s → ∃ e ∈ t.dev.warden.waiting, e.code = 0x0306 ∧ e.data = [q.val]))) ∧
      (¬ missing → exec (.peerSilent q) s = .next s)) ∧
    (b.stopping = false ∨ fwUp s = false → exec .haltStop s = .next s) ∧
    (b.stopping = true → fwUp s = true → Answers .haltStop s (fun t => t.dev.bell.stopping = false ∧ t.dev.bell.live = false ∧
      t.dev.bell.replay = none ∧ (dstate s = 4 → dstate t = 5) ∧ (dstate s ≠ 4 → dstate t = dstate s) ∧
      (shardTorn s = true ∨ (∃ k < 8, 2 ≤ (stackOf s.chip k).pump.pass) → t.dev.bell.torn = true) ∧
      (shardTorn s = false → (∀ k < 8, (stackOf s.chip k).pump.pass < 2) → t.dev.bell.torn = false) ∧
      ∀ x ∈ jobBlocks j, bRun t.chip x = false))

end Sys2Proof.Machine

/-! ### The school transport and RoCEv2 (R417, R418, R434 to R436, R441 to R457, R512) -/

namespace Sys2Proof.Machine

/-- The commands that are a received school frame: its port, its type (R441), the frame. -/
def frameCmd : Instr → Option (Fin 16 × Nat × Frame)
  | .data p f _ => some (p, 1, f)
  | .done p f => some (p, 2, f)
  | .nak p f => some (p, 3, f)
  | .ready p f => some (p, 4, f)
  | .ring p f => some (p, 5, f)
  | .halt p f => some (p, 6, f)
  | .agree p f => some (p, 7, f)
  | .probe p f => some (p, 8, f)
  | .probeReply p f _ => some (p, 9, f)
  | _ => none

/-- A packet number that passes the replay check of R435 against a channel. -/
def ReplayPasses (r : Replay) (pn : Nat) : Prop := pn ≠ 0 ∧ (r.hi < pn ∨ (r.hi < pn + 64 ∧ pn ∉ r.seen))

/-- The replay record of the channel from a rank. -/
def chanOf (s : State) (p q : Nat) : Replay := tget (fun _ => ⟨0, []⟩) (ethOf s p).rx q

/-- R435: the channel of a frame is the rank, another than this device's, whose port has the MAC address of
its SCI; where several have it, the lowest. -/
def OnChannel (j : Job) (p : Nat) (f : Frame) (q : Nat) : Prop :=
  q < j.size ∧ q ≠ j.rank ∧ j.mac q p = f.sci ∧ ∀ r < q, r ≠ j.rank → j.mac r p ≠ f.sci

/-- R435, R460: the ICV of a genuine frame on the channel of rank q: the tag of GCM-AES-256-XPN under SAK over
the frame's bytes, its IV the channel's SSCI and the packet number masked with the salt. -/
def ChannelIcv (j : Job) (c : Chip) (p typ q : Nat) (f : Frame) : List Byte :=
  let key := keyRegs c p 0x030 8
  let iv := xorBytes (natBE ((rawReg c (ethB p) 0x048).toNat + q) 4 ++ natBE f.pn 8) (keyRegs c p 0x040 3)
  let outer := outerBytes (macBytes c p) (natBytesLE (j.mac q p) 6) f.pn
  ofNats (gcmTag key iv outer (gcmCtr key iv (innerBytes j c p typ f)))

/-- A frame of a type passes MACsec: its channel is known, its ICV is the channel's, its packet number is new. -/
abbrev Authentic (s : State) (p typ : Nat) (f : Frame) (j : Job) : Prop :=
  ∃ q, OnChannel j p f q ∧ f.icv = ChannelIcv j s.chip p typ q f ∧ ReplayPasses (chanOf s p q) f.pn

/-- A RUNNING school port with its link up. -/
abbrev SchoolPort (s : State) (p : Fin 16) : Prop :=
  bState s.chip (.eth p) = 2 ∧ getF s.chip (.eth p) 0x010 10 10 = 1 ∧ getF s.chip (.eth p) 0x01A 31 31 = 1

/-- The checks of R442 before a frame's type is acted on. -/
abbrev Accepts (s : State) (p : Fin 16) (typ : Nat) (f : Frame) (j : Job) : Prop :=
  SchoolPort s p ∧ Authentic s p typ f j ∧ schoolJob s = some j ∧ f.ver = 3 ∧ f.udpErr = 0 ∧
  f.dst = j.rank ∧ f.job.toNat = j.tag ∧ f.src < j.size

/-- R435, R436, R442: a frame of no channel, or that fails the ICV or the replay check, counts in ICV_FAIL and
in DROPPED, one that fails a later common check in DROPPED alone; neither does anything else but, past the
MACsec checks, take its packet number into the replay window of its channel. A port that is not RUNNING with
its link up takes nothing. That C-tag and traffic class of a received frame are the port's own settings is the
model's choice, log entry 41. -/
def FramesAreChecked : Prop :=
  ∀ (i : Instr) (s : State) (p : Fin 16) (typ : Nat) (f : Frame) (j : Job), frameCmd i = some (p, typ, f) →
    (¬ SchoolPort s p → exec i s = .next s) ∧
    (SchoolPort s p → schoolJob s = some j →
    let b := BlockId.eth p
    let dropped := fun (t : State) => getF t.chip b 0x01E 15 0 = min 65535 (getF s.chip b 0x01E 15 0 + 1) ∧
      t.chip.mem = s.chip.mem ∧ t.dev.bell = s.dev.bell ∧ t.dev.wins = s.dev.wins ∧ t.dev.warden = s.dev.warden
    (¬ Authentic s p typ f j → Answers i s (fun t => dropped t ∧ t.dev = s.dev ∧
      getF t.chip b 0x01E 31 16 = min 65535 (getF s.chip b 0x01E 31 16 + 1))) ∧
    (∀ q, OnChannel j p f q → f.icv = ChannelIcv j s.chip p typ q f → ReplayPasses (chanOf s p q) f.pn →
      (f.ver ≠ 3 ∨ f.udpErr ≠ 0 ∨ f.dst ≠ j.rank ∨ f.job.toNat ≠ j.tag ∨ j.size ≤ f.src) →
      Answers i s (fun t => dropped t ∧ getF t.chip b 0x01E 31 16 = getF s.chip b 0x01E 31 16 ∧
        (chanOf t p q).hi = max (chanOf s p q).hi f.pn)))

/-- R434, R435, R439, R440, R458: how a frame stands on the wire: the destination port's MAC address and this
port's, the SecTAG with its EtherType, the low half of the packet number and the SCI (this MAC address and
port number 1); what MACsec protects begins with the C-tag of the port, if VLAN_EN is 1, and the EtherType of
IPv6. -/
def FramesOnTheWire : Prop :=
  ∀ (j : Job) (c : Chip) (p : Fin 16) (typ : Nat) (f : Frame),
    let mac := (rawReg c (.eth p) 0x016).toNat + getF c (.eth p) 0x018 15 0 * 2 ^ 32
    let tag := getF c (.eth p) 0x010 15 13 * 2 ^ 13 + getF c (.eth p) 0x010 27 16
    (frameBytes j c p typ f).take 28 = natBytes (j.mac f.dst p) 6 ++ natBytes mac 6 ++ [0x88, 0xE5, 0x2C, 0x00] ++
      (natBytes f.pn 4).reverse ++ natBytes mac 6 ++ [0x00, 0x01] ∧
    (getF c (.eth p) 0x010 12 12 = 1 → (innerBytes j c p typ f).take 6 = [0x81, 0x00, tag / 256, tag % 256, 0x86, 0xDD]) ∧
    (getF c (.eth p) 0x010 12 12 = 0 → (innerBytes j c p typ f).take 2 = [0x86, 0xDD]) ∧
    (schoolHeader typ f).length = 32

/-- A window of the period that a running job has released, by table index. -/
abbrev InPeriod (j : Job) (s : State) (i : Nat) (w : Win) : Prop :=
  jobOf s = some j ∧ dstate s = 4 ∧ s.dev.bell.live = true ∧ s.dev.bell.runs = true ∧ i < 2 ^ 20 ∧
  (i, w) ∈ j.windows (periodNow s)

/-- Whether a window has a frame to send: not abandoned or complete, and a frame unsent or asked for again. -/
abbrev HasFrame (s : State) (k : Nat) (w : Win) : Prop :=
  (winOf s k).eligible = true ∧ (winOf s k).done = false ∧ (winOf s k).failed = false ∧
  ((winOf s k).again ≠ [] ∨ (winOf s k).next * 4096 < w.len)

/-- R286, R329, R439 to R443, R446: WINDOW_START makes a send window of the period eligible; a port with its
link up sends its waiting control frames first (always before data: the reserve of R443 is timing, the model's
choice, log entry 41), then the lowest frame of the eligible window with the earliest DEADLINE, with the words
of memory, a new packet number and LAST on the last frame; a frame whose words are not there yet asks for them
and waits (log entries 6, 21); one sent a 33rd time abandons its window and is logged; a timer without DONE
sends the last frame again. -/
def WindowsAreSent : Prop :=
  ∀ (s : State) (j : Job) (i : Nat) (w : Win) (p : Fin 16),
    let k := winKey (stepNow s) i
    let x := winOf s k
    let frames := (w.len + 4095) / 4096
    (InPeriod j s i w → w.recv = false →
      Answers (.windowStart i) s (fun t => (winOf t k).eligible = true ∧ (∀ n, n ≠ k → winOf t n = winOf s n) ∧
        t.chip = s.chip)) ∧
    (∀ typ f rest jj, SchoolPort s p → schoolJob s = some jj → (ethOf s p).ctl = (typ, f) :: rest →
      let g : Frame := { f with pn := (ethOf s p).pn, sci :=
        (rawReg s.chip (.eth p) 0x016).toNat + getF s.chip (.eth p) 0x018 15 0 * 2 ^ 32 }
      Answers (.frameTransmit p) s (fun t => (ethOf t p).wire = some (typ, g) ∧
        (ethOf t p).bytes = frameBytes jj s.chip p typ g ∧ (ethOf t p).pn = (ethOf s p).pn + 1 ∧
        (ethOf t p).ctl = rest ∧ t.chip = s.chip)) ∧
    (∀ n, SchoolPort s p → (ethOf s p).ctl = [] → InPeriod j s i w → w.recv = false → w.port = p → HasFrame s k w →
      (n ∈ x.again ∨ (n = x.next ∧ n < frames)) → (∀ m ∈ x.again, n ≤ m) → (x.next < frames → n ≤ x.next) →
      (∀ y ∈ j.windows (periodNow s), y.2.recv = false → y.2.port = p.val → HasFrame s (winKey (stepNow s) y.1) y.2 →
        y = (i, w) ∨ w.deadline < y.2.deadline ∨ (w.deadline = y.2.deadline ∧ i < y.1 ∧ y.1 < 2 ^ 20)) →
      (frameHeld p k w n s = true → Answers (.frameTransmit p) s (fun t => (ethOf t p).wire = (ethOf s p).wire ∧
        (ethOf t p).pn = (ethOf s p).pn ∧ winOf t k = { x with asked := some n } ∧ t.chip.mem = s.chip.mem)) ∧
      (frameHeld p k w n s = false → tget (fun _ => 0) x.count n < 32 →
        (∀ e < min 4096 (w.len - 4096 * n), portReaches s.chip p (w.addr + 4096 * n + e) = true) → Answers (.frameTransmit p) s (fun t =>
        ∃ f, (ethOf t p).wire = some (1, f) ∧ f.pn = (ethOf s p).pn ∧ (ethOf t p).pn = (ethOf s p).pn + 1 ∧
          f.src = j.rank ∧ f.dst = w.peer ∧ f.wid = w.wid ∧ f.frame = n ∧ f.op = w.op ∧ f.step.toNat = stepNow s ∧
          f.period = periodNow s ∧ (f.last = true ↔ n + 1 = frames) ∧
          f.payload = (rdWords s.chip false (w.addr + 4096 * n) (min 4096 (w.len - 4096 * n))).map Prod.fst ∧
          (f.poison = true ↔ ∃ e ∈ rdWords s.chip false (w.addr + 4096 * n) (min 4096 (w.len - 4096 * n)), e.2 = true) ∧
          tget (fun _ => 0) (winOf t k).count n = tget (fun _ => 0) x.count n + 1 ∧ n ∉ (winOf t k).again ∧
          (n = x.next → (winOf t k).next = n + 1) ∧ t.chip.mem = s.chip.mem)) ∧
      (frameHeld p k w n s = false → 32 ≤ tget (fun _ => 0) x.count n → (j.rank, stepNow s) ∉ s.dev.bell.halts →
        Answers (.frameTransmit p) s (fun t => (winOf t k).failed = true ∧ t.dev.bell.halted = true ∧
          (ethOf t p).pn = (ethOf s p).pn + 1 ∧ (LogHasRoom s →
            ∃ e ∈ t.dev.warden.waiting, e.code = 0x0403 ∧ e.data = [p.val, w.peer])))) ∧
    (InPeriod j s i w → w.recv = false → w.port = p → getF s.chip (.eth p) 0x01A 31 31 = 1 → x.done = false →
      x.failed = false → x.again = [] → frames ≤ x.next →
      Answers (.doneTimeout p i) s (fun t => (winOf t k).again = [frames - 1] ∧ (winOf t k).next = x.next))

/-- R445: the step and period after the current ones. -/
def NextOf (j : Job) (s : State) (st per : Nat) : Prop :=
  if periodNow s + 1 = j.nper then st = (stepNow s + 1) % 2 ^ 32 ∧ per = 0 else st = stepNow s ∧ per = periodNow s + 1

/-- A window, by table index, of the period that a running job has released, or, once the device is ready, of
the next. -/
def TakesFrames (j : Job) (s : State) (st per i : Nat) (w : Win) : Prop :=
  jobOf s = some j ∧ dstate s = 4 ∧ i < 2 ^ 20 ∧ (i, w) ∈ j.windows per ∧
  (∀ y ∈ j.windows per, y.2.recv = true → y.2.port = w.port → y.2.peer = w.peer → y.2.wid = w.wid → y = (i, w)) ∧
  ((s.dev.bell.live = true ∧ s.dev.bell.runs = true ∧ st = stepNow s ∧ per = periodNow s) ∨
    (s.dev.bell.ready = true ∧ (j.per per).runsIn st = true ∧ NextOf j s st per))

/-- R442, R444, R445: an accepted DATA frame of a receive window of the period, or of the next one once this
device is ready, with OP 0 puts its words at ADDR + 4,096 x FRAME, poisoned when the frame is, with OP 1 adds
them pair by pair; a frame missing in order moves the lowest missing one on, and the last completes the window
and sends DONE (which names its window by the operand wid: the model's choice, log entry 58); another OP, a
duplicate and a frame out of reach are dropped. -/
def DataFramesArrive : Prop :=
  ∀ (s : State) (j : Job) (i : Nat) (w : Win) (p : Fin 16) (f : Frame) (late : Nat),
    let c := s.chip
    let b := BlockId.eth p
    let k := winKey f.step.toNat i
    let x := winOf s k
    let a := w.addr + 4096 * f.frame
    let n := min 4096 (w.len - 4096 * f.frame)
    let fresh := x.low ≤ f.frame ∧ f.frame ∉ x.above ∧ f.frame ≤ x.low + 64 ∧ f.frame * 4096 < w.len
    Accepts s p 1 f j → TakesFrames j s f.step.toNat f.period i w →
    (w.recv = true ∧ w.port = p.val ∧ w.peer = f.src ∧ w.wid = f.wid) →
    (∀ e < n, inHbm (a + e) = true ∧ portReaches c p (a + e) = true) →
    (f.op ≠ w.op → Answers (.data p f late) s (fun t => t.chip.mem = c.mem ∧ winOf t k = x ∧
      t.chip.reports = c.reports ++ [⟨blockNode b, 0x0402, [i]⟩] ∧
      getF t.chip b 0x01E 15 0 = min 65535 (getF c b 0x01E 15 0 + 1))) ∧
    (f.op = w.op → x.done = true → Answers (.data p f late) s (fun t => t.chip.mem = c.mem ∧ winOf t k = x ∧
      ∃ g, (ethOf t p).ctl = (ethOf s p).ctl ++ [(2, g)] ∧ g.dst = f.src ∧ g.wid = w.wid)) ∧
    (f.op = w.op → x.done = false → ¬ fresh → Answers (.data p f late) s (fun t => t.chip.mem = c.mem ∧ winOf t k = x ∧
      (ethOf t p).ctl = (ethOf s p).ctl ∧ getF t.chip b 0x01E 15 0 = min 65535 (getF c b 0x01E 15 0 + 1))) ∧
    (f.op = w.op → x.done = false → fresh → f.payload.length = n → Answers (.data p f late) s (fun t =>
      (w.op ≠ 1 → ∀ e < n, (rdWord t.chip false (a + e)).1 = f.payload.getD e 0 ∧
        (f.poison = true → (rdWord t.chip false (a + e)).2 = true)) ∧
      (w.op = 1 → ∀ e, 2 * e + 1 < n → (rdNat t.chip false (a + 2 * e) 2).1 = (fplus (rdNat c false (a + 2 * e) 2).1
        ((f.payload.getD (2 * e) 0).toNat + 65536 * (f.payload.getD (2 * e + 1) 0).toNat)).1) ∧
      (∀ y, (y < a ∨ a + n ≤ y) → (rdWord t.chip false y).1 = (rdWord c false y).1) ∧
      (x.low < f.frame → (winOf t k).low = x.low ∧ (winOf t k).above = x.above ++ [f.frame] ∧ (winOf t k).done = false) ∧
      (x.low = f.frame → x.above = [] → (winOf t k).low = x.low + 1 ∧
        ((winOf t k).done = true ↔ w.len ≤ 4096 * (x.low + 1)) ∧
        (w.len ≤ 4096 * (x.low + 1) →
          (∃ g, (ethOf t p).ctl = (ethOf s p).ctl ++ [(2, g)] ∧ g.dst = f.src ∧ g.wid = w.wid) ∧
          (s.dev.bell.replay = none → w.lateLimit < late →
            getF t.chip .bel 0x016 31 16 = min 65535 (getF c .bel 0x016 31 16 + 1) ∧
            ∃ e ∈ t.dev.warden.waiting, e.code = 0x0304)))))

/-- Whether a NAK's payload lists a frame (R441). -/
def nakLists (f : Frame) (m : Nat) : Prop :=
  ∃ r < min 64 f.aux, wordsNat ((f.payload.drop (4 * r)).take 2) ≤ m ∧
    m < wordsNat ((f.payload.drop (4 * r)).take 2) + wordsNat ((f.payload.drop (4 * r + 2)).take 2)

/-- R444, R445, R446: DONE completes a send window at the sender; NAK asks for the frames it lists that were
sent; one that names another step or period does nothing; the receiver's timer sends NAK for exactly the
frames missing below one that has arrived. That a frame's operand wid says which window DONE and NAK answer is
the model's choice, log entry 58. -/
def RetransmissionFrames : Prop :=
  ∀ (s : State) (j : Job) (i : Nat) (w : Win) (p : Fin 16) (f : Frame),
    let k := winKey (stepNow s) i
    let x := winOf s k
    let hit := fun (y : Win) => y.recv = false ∧ y.port = p.val ∧ y.peer = f.src ∧ y.wid = f.wid
    (dstate s = 4 → (f.step.toNat ≠ stepNow s ∨ f.period ≠ periodNow s) →
      ∀ a, (a = .done p f ∧ Accepts s p 2 f j ∨ a = .nak p f ∧ Accepts s p 3 f j) → Answers a s (fun t => t.chip = s.chip ∧ t.dev.wins = s.dev.wins ∧ t.dev.bell = s.dev.bell)) ∧
    (InPeriod j s i w → hit w → (∀ y ∈ j.windows (periodNow s), hit y.2 → y = (i, w)) →
      f.step.toNat = stepNow s → f.period = periodNow s →
      (Accepts s p 2 f j → s.dev.bell.recov = [] → Answers (.done p f) s (fun t => (winOf t k).done = true ∧ (winOf t k).again = [] ∧
        t.chip = s.chip ∧ t.dev.bell = s.dev.bell)) ∧
      (Accepts s p 3 f j → x.done = false → Answers (.nak p f) s (fun t => t.chip = s.chip ∧ (winOf t k).next = x.next ∧
        ∀ m, m ∈ (winOf t k).again ↔ m ∈ x.again ∨ (nakLists f m ∧ m < x.next ∧ m * 4096 < w.len)))) ∧
    (InPeriod j s i w → w.recv = true → w.port = p → getF s.chip (.eth p) 0x01A 31 31 = 1 → x.done = false → x.above ≠ [] →
      x.above.length ≤ 64 → x.low < 2 ^ 30 → (∀ m ∈ x.above, x.low < m ∧ m ≤ x.low + 64) →
      Answers (.nakTimer p i) s (fun t => t.chip = s.chip ∧ ∃ g, (ethOf t p).ctl = (ethOf s p).ctl ++ [(3, g)] ∧
        g.dst = w.peer ∧ g.wid = w.wid ∧ ∀ m, nakLists g m ↔ x.low ≤ m ∧ m ∉ x.above ∧ ∃ y ∈ x.above, m < y))

/-- R452 to R454: READY of a child counts once for the current bell, and a READY for the bell rung last is
answered with RING and REMAIN 0; RING of the parent sets the ring with its REMAIN and outcome and goes on to
every child, less the child's latency; HALT halts a running device once for each originator and step, and goes
on to every other neighbour whatever the device does. Frames go out on ports 0 and 8. The outcome in RING's
fourth payload word is the model's choice, log entry 41. -/
def BellFrames : Prop :=
  ∀ (s : State) (j : Job) (p : Fin 16) (f : Frame),
    let b := s.dev.bell
    let kids := childrenOf j.rank j.size
    let v : BVote := ⟨f.aux / 2 ^ 30 % 4, (f.payload.getD 0 0).toNat / 2 ^ 12, (f.payload.getD 0 0).toNat % 2 ^ 12,
      (f.payload.getD 1 0).toNat, (f.payload.getD 2 0).toNat⟩
    let now := f.step.toNat = stepNow s ∧ f.period = periodNow s
    let sent := fun (t : State) (typ : Nat) (ok : Frame → Prop) => ∀ n, (n = 0 ∨ n = 8) → ∃ g, (typ, g) ∈ (ethOf t n).ctl ∧ ok g
    jobOf s = some j →
    (Accepts s p 4 f j →
      (f.src ∈ kids → b.live = true → now → tget (fun _ => none) b.kids f.src = none → b.ready = false →
        Answers (.ready p f) s (fun t => t.dev.bell = { b with kids := tput (fun _ => none) b.kids f.src (some v) } ∧
          t.chip = s.chip)) ∧
      (f.src ∈ kids → b.live = true → now → (tget (fun _ => none) b.kids f.src).isSome = true →
        Answers (.ready p f) s (fun t => t.dev.bell = b ∧ t.chip = s.chip)) ∧
      (∀ x, f.src ∈ kids → b.live = false → b.rung = some (f.step.toNat, f.period, x) →
        Answers (.ready p f) s (fun t => t.dev.bell = b ∧ sent t 5 (fun g => g.dst = f.src ∧ g.aux = 0)))) ∧
    (Accepts s p 5 f j → j.rank ≠ 0 → f.src = (j.rank - 1) / 8 → b.live = true → b.sentReady = true → b.ringDue = none → b.halted = false → now →
      Answers (.ring p f) s (fun t =>
        t.dev.bell.ringDue = some (f.aux, { v with vote := (f.payload.getD 3 0).toNat % 4 }) ∧ t.chip = s.chip ∧
        ∀ q ∈ kids, sent t 5 (fun g => g.dst = q ∧ g.aux = f.aux - tget (fun _ => 0) b.lat q))) ∧
    (Accepts s p 6 f j → (f.aux, f.step.toNat) ∉ b.halts → Answers (.halt p f) s (fun t =>
      (dstate s = 4 → t.dev.bell.halted = true ∧
        ∀ u, (strandOf s.chip u).lesson.isSome = true → natBit (creg (strandOf t.chip u) 28).toNat 3 = true) ∧
      (dstate s ≠ 4 → t.dev.bell.halted = b.halted ∧ t.chip = s.chip) ∧
      (f.aux, f.step.toNat) ∈ t.dev.bell.halts ∧
      ∀ q, (q ∈ kids ∨ (j.rank ≠ 0 ∧ q = (j.rank - 1) / 8)) → q ≠ f.src →
        sent t 6 (fun g => g.dst = q ∧ g.aux = f.aux ∧ g.step = f.step ∧ g.payload.head? = some (f.payload.getD 0 0)))) ∧
    (Accepts s p 6 f j → (f.aux, f.step.toNat) ∈ b.halts → Answers (.halt p f) s (fun t => t.dev.bell = b ∧ t.chip = s.chip))

/-- R418, R448, R452, R512: PROBE is answered; PROBE_REPLY lowers the count of probes and keeps half the
largest round trip; AGREE of a child is kept until this device has its own result; the parent's acceptance
ends a load with DSTATE 3, the job and its measurement, its refusal with DSTATE 1, no bundle and M2 zero; that
of a rejoin forgets what an earlier recovery brought (log entry 42). AGREE's payload and the outcome that
comes down the tree with AUX 1 are the model's choice, log entry 41. -/
def SchoolAgreement : Prop :=
  ∀ (s : State) (j : Job) (p : Fin 16) (f : Frame) (rtt : Nat),
    let b := s.dev.bell
    (Accepts s p 8 f j → Answers (.probe p f) s (fun t => t.chip = s.chip ∧ ∃ g, (ethOf t p).ctl = (ethOf s p).ctl ++ [(9, g)] ∧
      g.dst = f.src ∧ g.aux = f.aux)) ∧
    (Accepts s p 9 f j → 2 ≤ b.probes → Answers (.probeReply p f rtt) s (fun t => t.dev.bell.probes = b.probes - 1 ∧
      tget (fun _ => 0) t.dev.bell.lat f.src = max (tget (fun _ => 0) b.lat f.src) (rtt / 2) ∧ t.chip = s.chip)) ∧
    (Accepts s p 7 f j → f.aux = 0 → f.src ∈ childrenOf j.rank j.size → tget (fun _ => none) b.kidAgree f.src = none → b.mine = none →
      Answers (.agree p f) s (fun t => (tget (fun _ => none) t.dev.bell.kidAgree f.src).isSome = true ∧
        t.dev.bell.mine = none ∧ t.chip = s.chip)) ∧
    (∀ l, Accepts s p 7 f j → f.aux = 1 → j.rank ≠ 0 → f.src = (j.rank - 1) / 8 → b.mine.isSome = true →
      s.dev.warden.long = some l → l.cmd.op = 0x0036 → f.payload.getD 0 0 = 0 → Answers (.agree p f) s (fun t =>
        (∃ x, t.dev.warden.long = some x ∧ x.reply = some ⟨0, [], []⟩) ∧ t.chip = s.chip ∧
        ∀ k, 2 ^ 22 ≤ k → k < 2 ^ 23 → winOf t k = winReset)) ∧
    ∀ l tr, Accepts s p 7 f j → f.aux = 1 → j.rank ≠ 0 → f.src = (j.rank - 1) / 8 → b.mine.isSome = true → s.dev.warden.long = some l →
      l.cmd.op = 0x0031 → s.dev.warden.trial = some tr →
      (f.payload.getD 0 0 = 0 → Answers (.agree p f) s (fun t => dstate t = 3 ∧ t.dev.warden.trial = none ∧
        (∃ x, jobOf t = some x ∧ x.rank = tr.job.rank ∧ x.tag = tr.job.tag ∧ x.img = tr.job.img) ∧
        t.dev.boot.m2 = shake256 (ascii "VZP9-M2" ++ tr.digest ++ shake256 tr.signer 64) 64 ∧
        (LogHasRoom s → ∃ e ∈ t.dev.warden.waiting, e.code = 0x0301) ∧ ∃ x, t.dev.warden.long = some x ∧ x.reply = some ⟨0, [], []⟩)) ∧
      (f.payload.getD 0 0 ≠ 0 → Answers (.agree p f) s (fun t => dstate t = 1 ∧ t.dev.warden.trial = none ∧
        t.dev.warden.bundle = [] ∧ t.dev.boot.m2 = List.replicate 64 0 ∧
        (LogHasRoom s → ∃ e ∈ t.dev.warden.waiting, e.code = 0x0302) ∧ ∃ x r, t.dev.warden.long = some x ∧ x.reply = some r ∧ r.status = 9))

/-- R434, R436, R446, R455, R457, R460, R539: drops, priority flow control, links and RoCEv2 congestion at a
port; a wake frame for this port, and its link's return, wake the device from sleep. That NAKs go out before
the queue pairs is the model's choice, log entry 44. -/
def PortsAndLinks : Prop :=
  ∀ (s : State) (p : Fin 16),
    let c := s.chip
    let b := BlockId.eth p
    let e := ethOf s p
    let roce := bState c b = 2 ∧ getF c b 0x010 9 9 = 1
    (∀ why, bState c b = 2 ∨ bState c b = 3 → Answers (.droppedFrame p why) s (fun t => t.dev = s.dev ∧
      getF t.chip b 0x01A 23 0 = min (2 ^ 24 - 1) (getF c b 0x01A 23 0 + why.fec) ∧
      getF t.chip b 0x01E 15 0 = min 65535 (getF c b 0x01E 15 0 + 1) ∧
      getF t.chip b 0x01E 31 16 = if why.icvFail then min 65535 (getF c b 0x01E 31 16 + 1) else getF c b 0x01E 31 16)) ∧
    (∀ prio : Fin 8, ∀ pause, roce →
      (getF c b 0x010 15 13 = prio → Answers (.priorityFlowControl p prio pause) s (fun t =>
        ethOf t p = { e with paused := pause } ∧ t.chip = c)) ∧
      (getF c b 0x010 15 13 ≠ prio → exec (.priorityFlowControl p prio pause) s = .next s)) ∧
    (getF c b 0x01A 31 31 = 1 → Answers (.linkDown p) s (fun t => getF t.chip b 0x01A 31 31 = 0 ∧
      t.chip.reports = c.reports ++ [⟨blockNode b, 0x0401, [p.val]⟩] ∧ (ethOf t p).retraining = true)) ∧
    (getF c b 0x01A 31 31 = 0 → tget (fun _ => false) c.portOff p = false → getF c b 0x022 0 0 = 0 → dstate s ≠ 6 →
      bState c b = 2 → Answers (.linkUp p) s (fun t => getF t.chip b 0x01A 31 31 = 1 ∧ (ethOf t p).retraining = false)) ∧
    (getF c b 0x01A 31 31 = 0 → (tget (fun _ => false) c.portOff p = true ∨ getF c b 0x022 0 0 = 1) →
      exec (.linkUp p) s = .next s) ∧
    (dstate s = 6 → getF c b 0x010 8 8 = 1 → Answers (.wake p true) s (fun t => dstate t = s.dev.warden.before ∧
      t.chip.mem = c.mem ∧ (LogHasRoom s → t.flash = s.flash ∧ ∃ x ∈ t.dev.warden.waiting, x.code = 0x0503 ∧ x.data = [6]))) ∧
    (dstate s = 6 → getF c b 0x010 8 8 = 1 → getF c b 0x01A 31 31 = 0 → tget (fun _ => false) c.portOff p = false →
      getF c b 0x022 0 0 = 0 → Answers (.linkUp p) s (fun t => dstate t = s.dev.warden.before ∧
        (LogHasRoom s → ∃ x ∈ t.dev.warden.waiting, x.code = 0x0503 ∧ x.data = [7]))) ∧
    exec (.wake p false) s = .next s ∧
    (roce → Answers (.roceRequestIn p) s (fun t => ethOf t p = { e with refused := e.refused + 1, naks := e.naks + 1 } ∧
      t.chip = c)) ∧
    (roce → getF c b 0x01A 31 31 = 1 → getF c b 0x010 10 10 = 0 →
      let tag := if getF c b 0x010 12 12 = 1 then some (getF c b 0x010 15 13 * 2 ^ 13 + getF c b 0x010 27 16) else none
      (e.paused = true → exec (.frameTransmit p) s = .next s) ∧
      (e.paused = false → 0 < e.naks → Answers (.frameTransmit p) s (fun t =>
        ethOf t p = { e with naks := e.naks - 1, roce := some (tag, .nak) } ∧ t.chip = c))) ∧
    (roce → (∀ x, e.cnpAt = some x → x + 50 ≤ c.nowUs) → Answers (.roceCnp p) s (fun t =>
      ethOf t p = { e with rate := e.rate / 2, cnpAt := some c.nowUs } ∧ t.chip = c)) ∧
    (∀ x, e.cnpAt = some x → c.nowUs < x + 50 → exec (.roceCnp p) s = .next s) ∧
    (roce → Answers (.roceRateRise p) s (fun t => (ethOf t p).rate = min 1 (e.rate + 1 / 8) ∧ t.chip = c))

/-- R455, R500: a transfer under way takes acknowledgements and read data in order, fails on a NAK with the
queue pair and the syndrome as the long command's answer (a sequence-error NAK asks for a retry: log entry
44), and fails after the seventh retry; a retry goes back to the oldest packet not acknowledged. The packet
that goes next is one RDMA READ for what is left, or one packet of an RDMA WRITE or a SEND of at most the path
MTU, of the first queue pair of the port, in the order of creation, that has one, numbered from 0 in each
transfer (log entry 44). -/
def RoceTransfers : Prop :=
  ∀ (s : State) (p : Fin 16) (n : Nat) (q : Qp) (x : Xfer) (l : Long),
    bState s.chip (.eth p) = 2 → getF s.chip (.eth p) 0x010 9 9 = 1 → qpOf s n = some q → q.port = p → q.xfer = some x →
    s.dev.warden.long = some l →
    let now := fun (t : State) => (qpOf t n).bind (fun q => q.xfer)
    let e := ethOf s p
    let tag := cTag s.chip p
    let part := (x.data.drop (q.mtu * x.sent)).take q.mtu
    (∀ a b, s.dev.qps = a ++ q :: b → (∀ y ∈ a, y.port = p.val → ∀ z, y.xfer = some z → z.packets ≤ z.sent) →
      x.sent < x.packets → e.naks = 0 → e.paused = false → getF s.chip (.eth p) 0x01A 31 31 = 1 →
      getF s.chip (.eth p) 0x010 10 10 = 0 → Answers (.frameTransmit p) s (fun t => t.chip = s.chip ∧
        (x.op = .read → (ethOf t p).roce = some (tag, .read n x.sent (x.raddr + q.mtu * x.sent) (x.bytes - q.mtu * x.sent)) ∧
          now t = some { x with sent := x.packets }) ∧
        (x.op = .write → (ethOf t p).roce = some (tag, .write n x.sent (x.raddr + q.mtu * x.sent) part) ∧
          now t = some { x with sent := x.sent + 1 }) ∧
        (x.op = .send → (ethOf t p).roce = some (tag, .send n x.sent (x.sent + 1 == x.packets) part) ∧
          now t = some { x with sent := x.sent + 1 }))) ∧
    (∀ psn, x.read = false → x.acked ≤ psn → psn + 1 < x.packets → Answers (.roceResponse p n (.ack psn)) s (fun t =>
      now t = some { x with acked := psn + 1, sent := max x.sent (psn + 1), retries := 0 } ∧ t.chip = s.chip)) ∧
    (∀ d, x.read = true → x.acked + 1 < x.packets → Answers (.roceResponse p n (.readData x.acked d)) s (fun t =>
      now t = some { x with acked := x.acked + 1, sent := max x.sent (x.acked + 1), retries := 0, data := x.data ++ d } ∧ t.chip = s.chip)) ∧
    (∀ syn, syn ≠ 0x60 → Answers (.roceResponse p n (.nak syn)) s (fun t => now t = none ∧
      t.dev.warden.long = some { l with reply := some ⟨0xC, [n, syn], []⟩ })) ∧
    (∀ i, (i = .roceResponse p n (.nak 0x60) ∨ i = .roceRetry p n) →
      (x.retries < 7 → Answers i s (fun t => now t = some { x with retries := x.retries + 1, sent := x.acked } ∧
         t.chip = s.chip)) ∧
      (7 ≤ x.retries → Answers i s (fun t => now t = none ∧
        ∃ r, t.dev.warden.long = some { l with reply := some r } ∧ r.status = 0xC ∧ r.res.head? = some n)))

end Sys2Proof.Machine

/-! ### Pigeonholes, roles, the event log and the settings (R38, R345, R484, R488 to R505, R530, R532, R535,
R554, R565) -/

namespace Sys2Proof.Machine

/-- n bytes at i of the response block, as a number (R497). -/
def respN (g : Pigeon) (i n : Nat) : Nat := bytesNat (tbytes 0 g.resp i n)

/-- The pigeonhole has reached DONE with this response (R497), its SEQ that of the command. -/
def HasAnswer (s t : State) (ph status : Nat) (res : List Nat) (data : List Byte) : Prop :=
  let g := pigeonOf t ph
  g.state = 3 ∧ respN g 0 2 = status ∧ respN g 4 4 = cmdNat (pigeonOf s ph) 4 4 ∧ respN g 8 4 = data.length % 2 ^ 32 ∧
  (∀ i < 6, respN g (0x10 + 8 * i) 8 = res.getD i 0 % 2 ^ 64) ∧ tbytes 0 g.data 0 data.length = data

/-- The command in progress, of this pigeonhole and opcode, whose response no port reset has discarded. -/
abbrev Current (s : State) (p : Fin 2) (h : Fin 8) (op : Nat) (c : Cmd) : Prop :=
  s.dev.warden.cur = some c ∧ c.ph = 8 * p.val + h.val ∧ c.op = op ∧ (pigeonOf s c.ph).drop = false

/-- The command in progress is answered, and P holds of the state. -/
abbrev Finishes (i : Instr) (s : State) (c : Cmd) (status : Nat) (res : List Nat) (data : List Byte) (P : State → Prop) :
    Prop :=
  Answers i s (fun t => HasAnswer s t c.ph status res data ∧ t.dev.warden.cur = none ∧ P t)

/-- R581: the link of a port carries requests: it is in L0, the module out of cold reset. -/
abbrev LinkCarries (s : State) (p : Fin 2) : Prop := powered s = true ∧ (pcieOf s p).l0 = true

/-- The function takes memory requests: Memory Space Enable is 1 and it is not in D3hot. -/
abbrev TakesMemory (s : State) (p : Fin 2) : Prop := (pcieOf s p).cfg.memEn = true ∧ (pcieOf s p).cfg.d3hot = false

/-- BAR0 of a port shows pigeonholes: its link carries requests, the function takes them, the module is not DEAD. -/
abbrev BarShown (s : State) (p : Fin 2) : Prop := LinkCarries s p ∧ s.dev.boot.dead = none ∧ TakesMemory s p

/-- R495, R499: a host write to PH_FLAG of the state held only clears OVERRUN; IDLE and DONE may become
POSTED, DONE IDLE; every other write to STATE is discarded and sets OVERRUN. Command block and data area take
a write in IDLE and DONE, and discard it, with OVERRUN, in POSTED and BUSY; other offsets of the window take
none. No other pigeonhole changes. A link that is not in L0 brings nothing (R581). The model's choice, log
entry 60: in D3hot, and while Memory Space Enable is 0, a write to BAR0 is only noted as an Unsupported
Request. -/
def HostWritesToPigeonholes : Prop :=
  ∀ (s : State) (p : Fin 2) (h : Fin 8),
    (∀ (v : W32) (off : BitVec 20) (bs : List Byte) a, (a = .phFlag p h v ∨ a = .commandBlockWrite p (.window h) off bs) →
      (¬ LinkCarries s p → exec a s = .next s) ∧
      (LinkCarries s p → ¬ TakesMemory s p → Answers a s (fun t =>
        (∀ x, pigeonOf t x = pigeonOf s x) ∧ (pcieOf t p).aer.getLsbD 20 = true ∧ t.chip = s.chip))) ∧
    (BarShown s p →
    let ph := 8 * p.val + h.val
    let g := pigeonOf s ph
    let others := fun (t : State) => ∀ x, x ≠ ph → pigeonOf t x = pigeonOf s x
    (∀ v : W32,
      let nxt := v.toNat % 4
      (nxt = g.state → Answers (.phFlag p h v) s (fun t => others t ∧
        pigeonOf t ph = { g with overrun := g.overrun && !v.getLsbD 2 })) ∧
      (g.state = 0 ∨ g.state = 3 → nxt = 1 → Answers (.phFlag p h v) s (fun t => others t ∧ (pigeonOf t ph).state = 1 ∧
        (pigeonOf t ph).cmd = g.cmd ∧ (pigeonOf t ph).data = g.data)) ∧
      (g.state = 3 → nxt = 0 → Answers (.phFlag p h v) s (fun t => others t ∧ (pigeonOf t ph).state = 0)) ∧
      (nxt ≠ g.state → (g.state = 1 ∨ g.state = 2 ∨ (g.state = 0 ∧ nxt ≠ 1) ∨ (g.state = 3 ∧ nxt = 2)) →
        Answers (.phFlag p h v) s (fun t => others t ∧ pigeonOf t ph = { g with overrun := true }))) ∧
    ∀ (off : BitVec 20) (bs : List Byte),
      let i := Instr.commandBlockWrite p (.window h) off bs
      let o := off.toNat
      let n := bs.length
      let inData := 0x80000 ≤ o ∧ o + n ≤ 0x100000
      let inCmd := 0x100 ≤ o ∧ o + n ≤ 0x140 ∧ (n = 4 ∨ n = 8) ∧ o % n = 0
      (inData ∨ inCmd → g.state = 1 ∨ g.state = 2 → Answers i s (fun t => others t ∧
        pigeonOf t ph = { g with overrun := true })) ∧
      (inData → g.state = 0 ∨ g.state = 3 → Answers i s (fun t => others t ∧
        tbytes 0 (pigeonOf t ph).data (o - 0x80000) n = bs ∧ (pigeonOf t ph).cmd = g.cmd ∧
        (pigeonOf t ph).state = g.state)) ∧
      (inCmd → g.state = 0 ∨ g.state = 3 → Answers i s (fun t => others t ∧
        tbytes 0 (pigeonOf t ph).cmd (o - 0x100) n = bs ∧ (pigeonOf t ph).data = g.data ∧
        (pigeonOf t ph).state = g.state)) ∧
      (¬ inData → ¬ inCmd → o ≠ 0 ∨ (n ≠ 4 ∧ n ≠ 8) → Answers i s (fun t => ∀ x, pigeonOf t x = pigeonOf s x)))

/-- R481, R483, R486: a write of whole units to a port's MSI-X table is held there; a configuration write is
held, with the AER bits it names cleared. After either, a vector that can be sent no longer waits, and each
that waited and can be sent has been sent; a link that is not in L0 brings neither (what the table and the
configuration hold after a reset is the model's choice, log entry 60). -/
def VectorsAndConfiguration : Prop :=
  ∀ (s : State) (p : Fin 2),
    (¬ LinkCarries s p → ∀ sp off bs, exec (.commandBlockWrite p sp off bs) s = .next s) ∧
    (LinkCarries s p →
    let x := pcieOf s p
    let flushed := fun (t : State) =>
      (∀ v, v ∈ (pcieOf t p).msixPend ↔ v ∈ x.msixPend ∧ vectorFree (pcieOf t p) v = false) ∧
      (∀ v ∈ x.msixPend, vectorFree (pcieOf t p) v = true → v ∈ (pcieOf t p).sent) ∧
      t.chip = s.chip ∧ t.dev.warden = s.dev.warden ∧ ∀ n, pigeonOf t n = pigeonOf s n
    (∀ cfg clear off bs, Answers (.commandBlockWrite p (.config cfg clear) off bs) s (fun t => flushed t ∧ (pcieOf t p).cfg = cfg ∧
      (pcieOf t p).aer = x.aer &&& ~~~clear ∧ (pcieOf t p).msix = x.msix)) ∧
    (∀ (off : BitVec 20) (bs : List Byte), BarShown s p → off.toNat % 4 = 0 → bs.length % 4 = 0 → off.toNat + bs.length ≤ 256 →
      Answers (.commandBlockWrite p .table off bs) s (fun t => flushed t ∧ (pcieOf t p).cfg = x.cfg ∧
        (∀ i < bs.length / 4, msixUnit (pcieOf t p) (off.toNat / 4 + i) = BitVec.ofNat 32 (sliceNat bs (4 * i) 4)) ∧
        ∀ i, (i < off.toNat / 4 ∨ off.toNat / 4 + bs.length / 4 ≤ i) → msixUnit (pcieOf t p) i = msixUnit x i)))

/-- R491, R498, R500, R501: the checks at acceptance in their order: link security, version, opcode,
arguments, role, device state, and the long command that runs. -/
def AcceptanceChecks : Prop :=
  ∀ (s : State) (ph : Nat),
    let g := pigeonOf s ph
    let op := cmdNat g 0 2
    let fails := fun (st : Nat) => acceptCheck s ph = some st
    let insecure := (pcieOf s (ph / 8)).ideInsecure = true ∧ op ≠ 0x0001 ∧ op ≠ 0x0011 ∧ op ≠ 0x0012
    (insecure → fails 0xD) ∧
    (¬ insecure → cmdNat g 8 2 ≠ 3 → fails 2) ∧
    (¬ insecure → cmdNat g 8 2 = 3 → (∀ r ∈ cmdRows, r.op ≠ op) → fails 1) ∧
    (¬ insecure → cmdNat g 8 2 = 3 → ∀ r ∈ cmdRows, r.op = op →
      let dlen := cmdNat g 0x0C 4
      let arg := fun (i : Nat) => cmdNat g (0x10 + 8 * i) 8
      let bad := 1 < cmdNat g 2 2 ∨ cmdNat g 0x0A 2 ≠ 0 ∨ 524288 < dlen ∨ (0 < dlen ∧ r.data = false) ∨
        (∃ i < 6, r.args ≤ i ∧ arg i ≠ 0)
      (bad → fails 3) ∧
      (¬ bad → argsBad op dlen arg = false →
        (r.owner = true → s.dev.warden.owner ≠ some (ph / 8) → fails 4) ∧
        ((r.owner = false ∨ s.dev.warden.owner = some (ph / 8)) →
          (dstate s ∉ r.states → fails 6) ∧
          (dstate s ∈ r.states → op ≠ 0x000B →
            (s.dev.warden.long = none → acceptCheck s ph = none) ∧
            (∀ l, s.dev.warden.long = some l → r.long = true → ¬ (op = 0x0061 ∧ l.cmd.op = 0x0061) → fails 7)))))

/-- R484, R498, R502: COMMAND_ACCEPT takes the POSTED pigeonhole next in round-robin order after the last; one
that fails a check is answered with the check's status, a RESET is answered and its order kept, a cold one
after the school of a running job is halted, any other is the command in progress and leaves its pigeonhole
BUSY. LONG_COMMAND_DONE answers the long command whose result is known, with PROGRESS 1,000; after the answer
to RESET 0, the firmware's last act, neither happens (R578). That a commit which ends leaves DSTATE 0x1 is the
model's choice, log entry 47. -/
def CommandsAreTakenAndEnded : Prop :=
  ∀ (s : State),
    (∀ ph < 16, fwUp s = true → 4 ≤ s.dev.boot.phase → s.dev.warden.cur = none → dstate s ≠ 6 → s.dev.warden.lastPh < 16 →
      (pigeonOf s ph).state = 1 → (pigeonOf s ph).drop = false →
      (∀ x < 16, (pigeonOf s x).state = 1 → (ph + 15 - s.dev.warden.lastPh) % 16 ≤ (x + 15 - s.dev.warden.lastPh) % 16) →
      let g := pigeonOf s ph
      let op := cmdNat g 0 2
      let arg := fun (i : Nat) => cmdNat g (0x10 + 8 * i) 8
      (∀ st, acceptCheck s ph = some st → st ≠ 0xB → Answers .commandAccept s (fun t => HasAnswer s t ph st [] [] ∧
        t.dev.warden.cur = none ∧ t.dev.warden.lastPh = ph ∧ t.chip = s.chip)) ∧
      (acceptCheck s ph = none → op = 0x000A → Answers .commandAccept s (fun t => HasAnswer s t ph 0 [] [] ∧
        t.dev.warden.resets = s.dev.warden.resets ++ [(arg 0, arg 1)] ∧ (arg 0 ≠ 0 ∨ dstate s ≠ 4 → t.chip = s.chip) ∧
        (∀ j, arg 0 = 0 → dstate s = 4 → jobOf s = some j → (j.rank, stepNow s) ∉ s.dev.bell.halts →
          t.dev.bell.halted = true))) ∧
      (acceptCheck s ph = none → op ≠ 0x000A → Answers .commandAccept s (fun t => (pigeonOf t ph).state = 2 ∧
        t.dev.warden.lastPh = ph ∧ t.chip = s.chip ∧
        (s.dev.warden.owner = some (ph / 8) → t.dev.warden.ownerAt = s.chip.nowUs) ∧
        ∃ c, t.dev.warden.cur = some c ∧ c.ph = ph ∧ c.op = op ∧ (∀ i < 6, argOf c i = arg i) ∧ argOf c 7 = dstate s ∧
          c.data = tbytes 0 g.data 0 (cmdNat g 0x0C 4)))) ∧
    (∀ l r, s.dev.warden.long = some l → l.reply = some r → s.dev.warden.queued = [] → l.cmd.ph < 16 →
      (pigeonOf s l.cmd.ph).drop = false → r.status < 65536 → fwUp s = true → Answers .longCommandDone s (fun t =>
        HasAnswer s t l.cmd.ph r.status r.res r.data ∧ (pigeonOf t l.cmd.ph).progress = 1000 ∧ t.dev.warden.long = none ∧
        (l.cmd.op = 0x0021 → r.status ≠ 8 → dstate t = 1) ∧ t.chip = s.chip)) ∧
    (∀ l, s.dev.warden.long = some l → l.reply = none → exec .longCommandDone s = .next s) ∧
    ((∃ x ∈ s.dev.warden.resets, x.1 = 0) → exec .longCommandDone s = .next s ∧ exec .commandAccept s = .next s)

/-- R484, R489 to R493: who owns the module: HEARTBEAT, the handover to a port whose link is up, the
observer's claim when the owner has been idle too long or its link is down, the change when the owner's link
never came up and the other's did; each change is logged with old owner, new owner and reason. A port reset
empties POSTED pigeonholes of its port alone and lets a BUSY command run on without a response (that a hot
reset and perst_n take the link out of L0, and what the configuration holds then, is the model's choice, log
entry 60). -/
def RolesAndPorts : Prop :=
  ∀ (s : State),
    let owner := s.dev.warden.owner
    let changed := fun (t : State) (old new why : Nat) => t.dev.warden.owner = some new ∧ t.chip = s.chip ∧
      t.dev.warden.ownerAt = s.chip.nowUs ∧ (LogHasRoom s → ∃ e ∈ t.dev.warden.waiting, e.code = 0x0008 ∧ e.data = [old, new, why])
    (∀ p h c,
      let other := 1 - p.val
      (Current s p h 0x0002 c → Finishes (.heartbeat p h) s c 0 [argOf c 6] [] (fun t => t.chip = s.chip)) ∧
      (Current s p h 0x0003 c → (pcieOf s other).l0 = true → Finishes (.roleHandover p h) s c 0 [] [] (fun t =>
        changed t (owner.getD 0xFFFFFFFF) other 1)) ∧
      (Current s p h 0x0003 c → (pcieOf s other).l0 = false → Finishes (.roleHandover p h) s c 5 [] [] (fun t =>
        t.dev.warden.owner = owner)) ∧
      (Current s p h 0x0004 c → owner = some p.val → Finishes (.roleClaim p h) s c 0 [] [] (fun t =>
        t.dev.warden.owner = owner)) ∧
      (∀ o, Current s p h 0x0004 c → owner = some o → o ≠ p.val →
        (bytesNat (settingVal s.flash 2) * 1000 < argOf c 6 ∨ linkLost o s = true →
          Finishes (.roleClaim p h) s c 0 [] [] (fun t => changed t o p.val 2)) ∧
        (argOf c 6 ≤ bytesNat (settingVal s.flash 2) * 1000 → linkLost o s = false →
          Finishes (.roleClaim p h) s c 5 [] [] (fun t => t.dev.warden.owner = owner)))) ∧
    (∀ o, owner = some o → fwUp s = true → dstate s ≠ 0 →
      ((pcieOf s o).upSince = false → (pcieOf s (1 - o)).upSince = true →
        Answers .ownerTimeout s (fun t => changed t o (1 - o) 3)) ∧
      ((pcieOf s o).upSince = true ∨ (pcieOf s (1 - o)).upSince = false → exec .ownerTimeout s = .next s)) ∧
    (∀ p : Fin 2,
      (powered s = false → ∀ l, exec (.pcieLinkChange p l) s = .next s) ∧
      (powered s = true → (∀ l, Answers (.pcieLinkChange p (some l)) s (fun t => (pcieOf t p).l0 = true ∧
          (pcieOf t p).upSince = true ∧ (pcieOf t p).link = some l ∧ (pcieOf t p).ph = (pcieOf s p).ph)) ∧
        Answers (.pcieLinkChange p none) s (fun t => (pcieOf t p).link = none ∧ (pcieOf t p).l0 = false ∧
          ((pcieOf s p).l0 = true → (pcieOf t p).downAt = s.chip.nowUs) ∧ (pcieOf t p).upSince = (pcieOf s p).upSince)) ∧
      ∀ kind, Answers (.pcieReset p kind) s (fun t =>
        t.chip = s.chip ∧ t.dev.warden = s.dev.warden ∧ (pcieOf t p).msix = [] ∧ (pcieOf t p).cfg = pcieCfgReset ∧
        (∀ q, q ≠ p.val → pcieOf t q = pcieOf s q) ∧
        (kind = .flr → (pcieOf t p).l0 = (pcieOf s p).l0) ∧ (kind ≠ .flr → powered s = true → (pcieOf t p).l0 = false) ∧
        ∀ h : Fin 8,
          let g := pigeonOf s (8 * p.val + h.val)
          pigeonOf t (8 * p.val + h.val) = if g.state = 1 then { g with state := 0 } else
            if g.state = 2 then { g with drop := true } else g))

/-- The entries kept, oldest first. -/
abbrev logKept (s : State) : List LogEntry := s.flash.log ++ s.dev.warden.waiting

/-- R428, R501, R530, R535: EVENT_READ returns at most what it asks for, 32 bytes an entry, from a sequence
number that is kept; a flush moves the waiting entries to flash; the sweep of the bell unit's counters clears
them and logs what they held; a bad block is marked and logged; the 128th entry that waits is written with the
others. The DATA of the sweep's entry is the model's choice, log entry 39. -/
def EventLog : Prop :=
  ∀ (s : State),
    (∀ p h c a e b, Current s p h 0x0005 c → logKept s = a ++ e :: b → (∀ x ∈ a, x.seq ≠ argOf c 0) → e.seq = argOf c 0 →
      let n := min (min (argOf c 1) 16384) (b.length + 1)
      ∃ d, d.length = 32 * n ∧ Finishes (.eventRead p h) s c 0 [n] d (fun t => t.chip = s.chip) ∧
        ∀ i < n, ∃ x, (e :: b)[i]? = some x ∧ sliceNat d (32 * i) 4 = x.seq % 2 ^ 32 ∧
          sliceNat d (32 * i + 6) 2 = x.src % 2 ^ 16 ∧ sliceNat d (32 * i + 8) 2 = x.code % 2 ^ 16 ∧
          sliceNat d (32 * i + 12) 8 = x.time % 2 ^ 64 ∧ sliceNat d (32 * i + 20) 4 = x.data.getD 0 0 % 2 ^ 32) ∧
    (fwUp s = true → (logKept s).length ≤ 8192 * (goodBlocks s.flash 164 128).length → Answers .eventLogFlush s (fun t =>
      t.flash.log = logKept s ∧ t.dev.warden.waiting = [] ∧ t.chip = s.chip)) ∧
    (fwUp s = true → Answers .rcCounterSweep s (fun t =>
      getF t.chip .bel 0x016 31 16 = 0 ∧ getF t.chip .bel 0x016 15 0 = 0 ∧ rawReg t.chip .bel 0x018 = 0 ∧
      rawReg t.chip .bel 0x01A = 0 ∧
      let logged := fun (l : List LogEntry) => ∃ e ∈ l, e.data =
        [(rawReg s.chip .bel 0x016).toNat, (rawReg s.chip .bel 0x018).toNat, (rawReg s.chip .bel 0x01A).toNat]
      (s.dev.warden.waiting.length < 127 → t.flash = s.flash ∧ logged t.dev.warden.waiting) ∧
      (127 ≤ s.dev.warden.waiting.length → (logKept s).length < 8192 * (goodBlocks s.flash 164 128).length →
        t.dev.warden.waiting = [] ∧ t.flash.log.take (logKept s).length = logKept s ∧ logged t.flash.log))) ∧
    ∀ blk : Fin 512, fwUp s = true → blk.val < 324 → blk.val ∉ s.flash.bad → Answers (.flashBad blk) s (fun t =>
      t.flash.bad = s.flash.bad ++ [blk.val] ∧ t.flash.slotA = s.flash.slotA ∧ t.flash.settings = s.flash.settings ∧
      (LogHasRoom s → ∃ e ∈ t.dev.warden.waiting, e.code = 0x0005))

/-- R345, R501, R532, R534, R554, R565: a setting reads as its record, or as its default with VER 0; a write
of DEFAULT_OWNER, OWNER_TIMEOUT, PL_SUS or PL_BURST within its range is kept with the next SEQ, every other
write is BAD_ARG and changes nothing; RETIRED_ROWS and JOB_STATUS answer; the refusal counts are stored 8
bytes each. That an answer holds VER in two bytes and then the value is the model's choice, log entry 47. -/
def SettingsAndStatus : Prop :=
  ∀ (s : State) (p : Fin 2) (h : Fin 8) (c : Cmd),
    let key := argOf c 0
    let n := bytesNat c.data
    let inRange := (key = 1 ∧ c.data.length = 1 ∧ n ≤ 1) ∨ (key = 2 ∧ c.data.length = 2 ∧ 1 ≤ n ∧ n ≤ 600) ∨
      (key = 0x105 ∧ c.data.length = 2 ∧ 600 ≤ n ∧ n ≤ 1200 ∧ n ≤ bytesNat (settingVal s.flash 0x106)) ∨
      (key = 0x106 ∧ c.data.length = 2 ∧ bytesNat (settingVal s.flash 0x105) ≤ n ∧ n ≤ 1500)
    (Current s p h 0x0006 c → key ≠ 0x40 → (key < 0x100 ∨ 0x104 < key) →
      (∀ r v, settingOf s.flash key = some r → keyVer key = some v → r.ver ≤ v →
        Finishes (.settingsRead p h) s c 0 [] (natBytes r.ver 2 ++ r.val) (fun t => t.flash = s.flash)) ∧
      (settingOf s.flash key = none →
        Finishes (.settingsRead p h) s c 0 [] (natBytes 0 2 ++ keyDefault key) (fun t => t.flash = s.flash))) ∧
    (Current s p h 0x0007 c →
      (inRange → Finishes (.settingsWrite p h) s c 0 [] [] (fun t => ∃ r, settingOf t.flash key = some r ∧ r.val = c.data ∧
        r.ver = 1 ∧ (∀ q, settingOf s.flash key = some q → r.seq = q.seq + 1) ∧
        ∀ k, k ≠ key → settingOf t.flash k = settingOf s.flash k)) ∧
      (¬ inRange → Finishes (.settingsWrite p h) s c 3 [] [] (fun t => t.flash = s.flash))) ∧
    (Current s p h 0x0034 c → Finishes (.jobStatus p h) s c 0
      [stepNow s, (regRead s.chip .bel 0x014).toNat, dstate s] [] (fun t => t.chip = s.chip)) ∧
    (Current s p h 0x0051 c → Finishes (.retiredRows p h) s c 0 [] (settingVal s.flash (0x20 + argOf c 0))
      (fun t => t.flash = s.flash)) ∧
    (fwUp s = true → Answers .refusalStore s (fun t => ∃ r, settingOf t.flash 0x104 = some r ∧
      r.val.length = 8 * s.dev.power.refusals.length ∧
      ∀ i x, s.dev.power.refusals[i]? = some x → sliceNat r.val (8 * i) 2 = x.refuser % 2 ^ 16 ∧
        sliceNat r.val (8 * i + 2) 1 = x.req % 2 ^ 8 ∧ sliceNat r.val (8 * i + 3) 1 = x.kind % 2 ^ 8 ∧
        sliceNat r.val (8 * i + 4) 4 = x.count % 2 ^ 32))

/-- R39, R501: REG_READ and REG_WRITE reach a register of a defined block at its control-space address as the
register commands do, and answer with the register; the read after a write clears nothing. To a compute die's
block under reset they stay in progress (R579). -/
def RegistersFromTheHost : Prop :=
  ∀ (s : State) (p : Fin 2) (h : Fin 8) (c : Cmd) (node region off : Nat) (b : BlockId),
    node < 128 → region < 64 → off < 0x400 → off % 2 = 0 → blockAt node region = some b →
    argOf c 0 = 0x20000000000 + node * 0x10000 + region * 0x400 + off →
    (nodeInReset s node = true → (Current s p h 0x0008 c → exec (.regRead p h) s = .next s) ∧
      (Current s p h 0x0009 c → exec (.regWrite p h) s = .next s)) ∧
    (Current s p h 0x0008 c → nodeInReset s node = false → ∃ ch, exec (.rcRead b (BitVec.ofNat 10 off)) s = .next (s.withChip ch) ∧
      Finishes (.regRead p h) s c 0 [ch.readOut.toNat] [] (fun t => t.chip = ch)) ∧
    (Current s p h 0x0009 c → nodeInReset s node = false → Answers (.regWrite p h) s (fun t =>
      exec (.registerWrite b (BitVec.ofNat 10 off) (BitVec.ofNat 32 (argOf c 1))) s = .next (s.withChip t.chip) ∧
      HasAnswer s t c.ph 0 [(regRead t.chip b off).toNat] [] ∧ t.dev.warden.cur = none))

/-- R504, R505: the Prefect takes a message of an enabled pigeonhole, clears GO and forwards it; LOG puts it
into the event log, QUERY answers BEL_STEP, BEL_PERIOD and DSTATE, a reserved KIND is answered 1 and a LEN
above 126 with 2; the reply stands with DONE in the core's window, unless PIGEON_EN has been cleared and the
write is refused (R57), and sets IPEND.PIGEON in the strand named (also then: the model's choice, log entry
63). -/
def CorePigeonholes : Prop :=
  ∀ (s : State) (core : Fin 1024),
    let c := s.chip
    let base := 0x18000000000 + 256 * core.val
    let w := (rdWord c false base).1.toNat
    let kind := w % 256
    let len := w / 256 % 128
    let en := (rawReg c (.cls (Fin.ofNat 64 (core.val / 16))) 0x010).getLsbD (16 + core.val % 16)
    (powered s = true → 2 ^ 15 ≤ w → (∀ m ∈ s.dev.warden.msgs, m.core ≠ core.val) →
      en = true →
      Answers (.corePigeonMessage core) s (fun t => (rdWord t.chip false base).1.toNat = w - 2 ^ 15 ∧
        ∃ m, t.dev.warden.msgs = s.dev.warden.msgs ++ [m] ∧ m.core = core.val ∧ m.kind = kind ∧
          m.strand = (rdWord c false (base + 1)).1.toNat % 8 ∧
          m.payload = (rdWords c false (base + 2) (min 126 len)).map Prod.fst ∧
          m.reply = if kind ≠ 1 ∧ kind ≠ 2 then some (1, []) else if 126 < len then some (2, []) else none)) ∧
    (∀ m a q, fwUp s = true → s.dev.warden.msgs = a ++ m :: q → (∀ x ∈ a, x.core ≠ core.val) → m.core = core.val → m.reply = none →
      (m.kind = 1 → Answers (.log core) s (fun t => (∃ x ∈ t.dev.warden.msgs, x.core = core.val ∧ x.reply = some (0, [])) ∧
        (s.dev.warden.waiting.length < 100 → m.payload.length ≤ 126 → ∃ e ∈ t.dev.warden.waiting, e.code = 0x0105 ∧
          e.src = 0x40 + core.val / 16 ∧ e.data = (unitsOf m.payload ++ [m.core, m.strand]).take 3) ∧ t.chip = c)) ∧
      (m.kind = 2 → Answers (.query core) s (fun t => t.chip = c ∧ ∃ x ∈ t.dev.warden.msgs, x.core = core.val ∧
        x.reply = some (0, natWords (stepNow s) 2 ++ natWords (regRead c .bel 0x014).toNat 2 ++ natWords (dstate s) 2)))) ∧
    ∀ m a q r, s.dev.warden.msgs = a ++ m :: q → (∀ x ∈ a, x.core ≠ core.val) → m.core = core.val → m.reply = some r → r.1 < 256 →
      r.2.length < 128 → m.strand < 8 → Answers (.corePigeonReply core) s (fun t => t.dev.warden.msgs = a ++ q ∧
        (en = true → (rdWord t.chip false (base + 0x80)).1.toNat = 2 ^ 15 + r.1 ∧
          (rdWord t.chip false (base + 0x81)).1.toNat = r.2.length ∧
          (rdWords t.chip false (base + 0x82) r.2.length).map Prod.fst = r.2) ∧
        (en = false → t.chip.mem = c.mem) ∧
        natBit (creg (strandOf t.chip ⟨core, Fin.ofNat 8 m.strand⟩) 28).toNat 0 = true)

end Sys2Proof.Machine

/-! ### Identity, link keys, firmware and flash (R485, R509 to R517, R525 to R531) -/

namespace Sys2Proof.Machine

/-- R509, R514, R515: IDENT answers the identity record and ATTEST a report with the caller's nonce and DSTATE
at its acceptance, signed by the AK over all that comes before the signature. That RES0 of IDENT holds the
Vendor ID low and the Device ID above it is the model's choice, log entry 47. -/
def IdentityAndAttestation : Prop :=
  ∀ (s : State) (p : Fin 2) (h : Fin 8) (c : Cmd),
    let m1 := s.dev.boot.m1
    let m0 := shake256 Config.rom 64
    let ak := shake256 (ascii "VZP9-AK" ++ Config.uds ++ m0 ++ m1) 32
    let dik := shake256 (ascii "VZP9-DIK" ++ Config.uds) 32
    let dek := Config.kemPub (shake256 (ascii "VZP9-DEK" ++ Config.uds ++ m0 ++ m1) 64)
    (Current s p h 0x0001 c → ∃ d, d.length = 10552 ∧
      Finishes (.ident p h) s c 0 [Config.vendorId.toNat + 0x0900 * 65536, 0xB0] d (fun t => t.chip = s.chip ∧ t.flash = s.flash) ∧
      slice d 0 4 = ascii "VZID" ∧ sliceNat d 4 2 = 1 ∧ sliceNat d 8 8 = Config.serial.toNat ∧
      slice d 0x10 1952 = fit 1952 (Config.dsaPub dik) ∧ sliceNat d 0x7B0 8 = Config.caId.toNat ∧
      slice d 0x7B8 3309 = fit 3309 Config.dikCert ∧ slice d 0x14A8 1952 = fit 1952 (Config.dsaPub ak) ∧
      slice d 0x1C48 3309 = fit 3309 (Config.dsaSign dik (natBytes Config.serial.toNat 8 ++ m0 ++ m1 ++ Config.dsaPub ak ++
        shake256 dek 64) (ascii "VZP9-AC"))) ∧
    (Current s p h 0x0010 c → ∃ d, d.length = 5213 ∧
      Finishes (.attest p h) s c 0 [] d (fun t => t.chip = s.chip ∧ t.flash = s.flash) ∧
      slice d 0 4 = ascii "VZAR" ∧ sliceNat d 7 1 = argOf c 7 % 256 ∧
      (∀ i < 4, sliceNat d (0x10 + 8 * i) 8 = argOf c i % 2 ^ 64) ∧ slice d 0x30 64 = fit 64 m0 ∧ slice d 0x70 64 = fit 64 m1 ∧
      slice d 0xB0 64 = fit 64 s.dev.boot.m2 ∧ sliceNat d 0xF4 4 = s.fuses.svnFloor % 2 ^ 32 ∧
      (jobOf s = none → sliceNat d 0xF8 8 = 0) ∧
      (∀ j, jobOf s = some j → sliceNat d 0xF8 4 = j.tag % 2 ^ 32 ∧ sliceNat d 0xFC 2 = j.rank % 2 ^ 16) ∧
      slice d 0x150 1568 = fit 1568 dek ∧
      slice d 0x770 3309 = fit 3309 (Config.dsaSign ak (slice d 0 0x770) (ascii "VZP9-AR")))

/-- R485, R516, R517: IDE_KEYX makes keys pending and leaves a running stream; a wrong length or a key that
fails its check is AUTH 0x20; IDE_START installs the pending keys and makes the stream Secure, without them it
is STATE; a Secure stream that fails is Insecure. -/
def LinkKeys : Prop :=
  ∀ (s : State) (p : Fin 2) (h : Fin 8) (c : Cmd),
    let x := pcieOf s p
    let ek := slice c.data 32 1568
    (Current s p h 0x0011 c → ∃ r nd : List Byte, nd.length = 32 ∧
      let kem := Config.kemEncap ek r
      let tr := shake256 (ascii "VZP9-IDE" ++ natBytes p.val 1 ++ slice c.data 0 32 ++ ek ++ kem.1 ++ nd) 64
      let sig := Config.dsaSign (shake256 (ascii "VZP9-AK" ++ Config.uds ++ shake256 Config.rom 64 ++
        s.dev.boot.m1) 32) tr (ascii "VZP9-IDE")
      let good := c.data.length = 1600 ∧ Config.kemCheck ek = true
      Answers (.ideKeyx p h) s (fun t => t.dev.warden.cur = none ∧
        (¬ good → HasAnswer s t c.ph 0xA [0x20] [] ∧ (pcieOf t p).idePending = x.idePending ∧
          (LogHasRoom s → ∃ e ∈ t.dev.warden.waiting, e.code = 0x000B)) ∧
        (good → HasAnswer s t c.ph 0 [] (fit 1568 kem.1 ++ nd ++ fit 3309 sig) ∧
          (pcieOf t p).idePending = some (shake256 (ascii "VZP9-IDEK" ++ kem.2 ++ tr) 192) ∧
          (pcieOf t p).ideKeys = x.ideKeys ∧ (pcieOf t p).ideSecure = x.ideSecure))) ∧
    (Current s p h 0x0012 c →
      (x.idePending = none → Finishes (.ideStart p h) s c 6 [] [] (fun t => (pcieOf t p).ideKeys = x.ideKeys)) ∧
      (∀ k, x.idePending = some k → Finishes (.ideStart p h) s c 0 [] [] (fun t => (pcieOf t p).ideKeys = some k ∧
        (pcieOf t p).idePending = none ∧ (pcieOf t p).ideSecure = true ∧ (pcieOf t p).ideInsecure = false))) ∧
    (x.ideSecure = true → Answers (.ideFail p) s (fun t => (pcieOf t p).ideSecure = false ∧ (pcieOf t p).ideInsecure = true ∧
      (fwUp s = true → LogHasRoom s → ∃ e ∈ t.dev.warden.waiting, e.code = 0x0009))) ∧
    (x.ideSecure = false → exec (.ideFail p) s = .next s)

end Sys2Proof.Machine

/-- R502, R525 to R531: a block goes into the slot that is not active; a commit that is not covered is
INCOMPLETE, an image that fails a check is AUTH, and neither touches a slot; a good one becomes the current
boot record, one SEQ higher, while the running image stays; an abort empties the staging area; a refresh that
is due copies the active image and switches to the copy. -/
def Obligations.FirmwareUpdates : Prop :=
  ∀ (s : State) (p : Fin 2) (h : Fin 8) (c : Cmd),
    let slot := stagingSlot s.flash
    let off := argOf c 0
    let img := slotImage s.flash slot off
    (Current s p h 0x0020 c →
      ((slotBlocks s.flash slot).length < 64 → Finishes (.fwBlock p h) s c 6 [2] [] (fun t => dstate t = dstate s ∧
        (LogHasRoom s → t.flash = s.flash))) ∧
      (64 ≤ (slotBlocks s.flash slot).length → Finishes (.fwBlock p h) s c 0 [] [] (fun t => dstate t = 7 ∧
        tbytes 0xFF (slotBytes t.flash slot) off c.data.length = c.data ∧ curRec t.flash = curRec s.flash ∧
        (∀ n r, curRec s.flash = some (n, r) → slotBytes t.flash r.slot = slotBytes s.flash r.slot) ∧
        t.dev.warden.staged = s.dev.warden.staged ++ [(off, c.data.length)]))) ∧
    (Current s p h 0x0021 c →
      let ends := fun (r : Reply) (t : State) => t.dev.warden.long = some ⟨c, some r⟩ ∧ t.dev.warden.cur = none ∧
        t.dev.boot = s.dev.boot ∧ t.chip = s.chip
      (covers s.dev.warden.staged off = false → Answers (.fwCommit p h) s (fun t => ends ⟨8, [], []⟩ t ∧
        t.flash = s.flash)) ∧
      (covers s.dev.warden.staged off = true →
        Answers (.fwCommit p h) s (fun t => t.dev.warden.staged = [] ∧
          (∀ d, imageFault img off s.fuses = some d → ends ⟨0xA, [d], []⟩ t ∧ (LogHasRoom s → t.flash = s.flash)) ∧
          (imageFault img off s.fuses = none → ends ⟨0, [sliceNat img 8 4], []⟩ t ∧
            t.flash.slotA = s.flash.slotA ∧ t.flash.slotB = s.flash.slotB ∧
            ∃ n r, curRec t.flash = some (n, r) ∧ r.slot = slot ∧ r.len = off ∧ r.digest = imageDigest img ∧
              ∀ m q, curRec s.flash = some (m, q) → r.seq = q.seq + 1)))) ∧
    (Current s p h 0x0022 c → Finishes (.fwAbort p h) s c 0 [] [] (fun t => dstate t = 1 ∧ t.dev.warden.staged = [] ∧
      t.flash = s.flash)) ∧
    (∀ worn n r, fwUp s = true → dstate s = 1 → s.dev.warden.long = none → curRec s.flash = some (n, r) →
      (worn = false → s.dev.warden.imageHours < 8760 → exec (.flashRefresh worn) s = .next s) ∧
      (worn = true ∨ 8760 ≤ s.dev.warden.imageHours → 64 ≤ (slotBlocks s.flash slot).length →
        Answers (.flashRefresh worn) s (fun t => imageFault (slotImage s.flash r.slot r.len) r.len s.fuses = none →
          slotImage t.flash slot r.len = slotImage s.flash r.slot r.len ∧
          slotBytes t.flash r.slot = slotBytes s.flash r.slot ∧
          (∃ m q, curRec t.flash = some (m, q) ∧ q.slot = slot ∧ q.len = r.len ∧ q.digest = r.digest ∧ q.seq = r.seq + 1) ∧
          (LogHasRoom s → ∃ e ∈ t.dev.warden.waiting, e.code = 0x0006))))

namespace Sys2Proof.Machine

/-- A block that stops when it is told to and has nothing left to finish: it has its clock and is not hung. -/
abbrev Stoppable (c : Chip) (b : BlockId) : Prop := hasClock c b = true ∧ tget (fun _ => false) c.hung (blockKey b) = false

end Sys2Proof.Machine

/-! ### Jobs and recovery (R348, R357, R384, R423, R426, R431, R448, R455, R456, R473 to R480, R501, R512,
R520, R521, R601) -/

namespace Sys2Proof.Machine

/-- R357, R502, R520: the first block keys every stack and enables encryption; a block lands byte by byte in
the bundle area, the rest of which stays; JOB_UNLOAD drops the job and wipes the stacks, and is answered, with
DSTATE 1 and the keys gone, once every wipe has ended. That the stacks are stopped, keyed and started, or
stopped and wiped, within the one row is the model's choice, log entries 36 and 47. -/
def BundlesInAndOut : Prop :=
  ∀ (s : State) (p : Fin 2) (h : Fin 8) (c : Cmd),
    let off := argOf c 0
    let n := c.data.length
    let byteAt := fun (t : State) (b : Nat) => (rdWord t.chip false (0x2800000000 + b / 2)).1.toNat / 256 ^ (b % 2) % 256
    (Current s p h 0x0030 c → dstate s = 1 → (∀ k : Fin 8, Stoppable s.chip (.hmc k)) → Answers (.jobBlock p h) s (fun t => dstate t = 2 ∧
      ∀ k : Fin 8, getF t.chip (.hmc k) 0x010 2 1 = 3)) ∧
    (Current s p h 0x0030 c → dstate s = 2 → (∀ k : Fin 8, bState s.chip (.hmc k) = 2) → 0 < n → off + n ≤ 192 * 2 ^ 30 →
      Finishes (.jobBlock p h) s c 0 [] [] (fun t => dstate t = 2 ∧
        t.dev.warden.bundle = s.dev.warden.bundle ++ [(off, n)] ∧
        (∀ i < n, byteAt t (off + i) = (c.data.getD i 0).toNat) ∧
        (∀ b, (b < off ∨ off + n ≤ b) → b < 192 * 2 ^ 30 → byteAt t b = byteAt s b))) ∧
    (Current s p h 0x0035 c → s.dev.warden.unloading = false → Answers (.jobUnload p h) s (fun t => jobOf t = none ∧
      t.dev.warden.trial = none ∧ t.dev.warden.bundle = [] ∧ t.dev.boot.m2 = List.replicate 64 0 ∧
      (∀ k : Fin 8, Stoppable s.chip (.hmc k) → getF t.chip (.hmc k) 0x01E 2 2 = 1) ∧ ∀ r : Fin 64, getF t.chip (.cls r) 0x028 2 0 = 7)) ∧
    (Current s p h 0x0035 c → s.dev.warden.unloading = true → (∀ k < 8, (stackOf s.chip k).wiping = false) →
      Finishes (.jobUnload p h) s c 0 [] [] (fun t => dstate t = 1 ∧ t.dev.warden.unloading = false ∧
        ∀ k : Fin 8, getF t.chip (.hmc k) 0x010 2 2 = 0 ∧ ∀ i : Fin 16, rawReg t.chip (.hmc k) (0x020 + 2 * i.val) = 0))

/-- R426, R448, R501, R502, R512, R521, R601: JOB_LOAD without every byte is INCOMPLETE; a bundle that does
not open is AUTH, with DSTATE 1, no bundle and M2 zero; one that opens is on trial while 64 probes a port and
peer measure the school, as at SCHOOL_REJOIN. JOB_START without a job or after JOB_DONE is STATE, else it
starts the job's blocks with DMODE as asked, asks for PL0 in its classrooms, and releases period 0 of its step
once no level change is left; JOB_ABORT halts the school. What a load that fails stops and wipes within its
row is the model's choice, log entry 36. -/
def JobsLoadAndStart : Prop :=
  ∀ (s : State) (p : Fin 2) (h : Fin 8) (c : Cmd),
    let b := s.dev.bell
    let answered := fun (t : State) (r : Option Reply) => t.dev.warden.long = some ⟨c, r⟩ ∧ t.dev.warden.cur = none
    (Current s p h 0x0031 c →
      (covers s.dev.warden.bundle (argOf c 0) = false → Answers (.jobLoad p h) s (fun t => answered t (some ⟨8, [], []⟩) ∧
        dstate t = dstate s ∧ t.chip = s.chip)) ∧
      (covers s.dev.warden.bundle (argOf c 0) = true →
        Answers (.jobLoad p h) s (fun t =>
          (∀ res, openJob s.chip (argOf c 0) s.dev.boot.m1 = .error res →
            answered t (some ⟨0xA, res, []⟩) ∧ dstate t = 1 ∧ t.dev.warden.bundle = [] ∧
            t.dev.boot.m2 = List.replicate 64 0 ∧ ∀ k : Fin 8, Stoppable s.chip (.hmc k) → getF t.chip (.hmc k) 0x01E 2 2 = 1) ∧
          (∀ tr, openJob s.chip (argOf c 0) s.dev.boot.m1 = .ok tr → tr.job.ports ≠ [] → peersOf tr.job ≠ [] →
            answered t none ∧ t.dev.warden.trial = some tr ∧
            t.dev.bell.probes = 64 * (tr.job.ports.length * (peersOf tr.job).length) ∧ t.dev.bell.lat = [] ∧
            dstate t = dstate s)))) ∧
    (∀ j, Current s p h 0x0036 c → jobOf s = some j → j.ports ≠ [] → peersOf j ≠ [] → Answers (.schoolRejoin p h) s (fun t =>
      answered t none ∧ t.dev.bell.probes = 64 * (j.ports.length * (peersOf j).length) ∧ t.dev.bell.lat = [] ∧
      t.chip = s.chip)) ∧
    (Current s p h 0x0032 c → jobOf s = none ∨ b.past = true → Finishes (.jobStart p h) s c 6 [] [] (fun t =>
      t.chip = s.chip ∧ dstate t = dstate s)) ∧
    (∀ j, Current s p h 0x0032 c → jobOf s = some j → b.past = false → argOf c 0 < 2 ^ 32 →
      let aim := fun (r : Nat) => max (tget (fun _ => 0) s.chip.floors (r / 16))
        (if tget (fun _ => false) s.chip.plHold (r / 16) then 1 else 0)
      let started := fun (t : State) => getF t.chip .bel 0x010 1 0 = argOf c 1 % 2 ∧
        (∀ u, (strandOf t.chip u).lesson = none) ∧ ∀ r ∈ j.lessonRooms, getF t.chip (.cls (Fin.ofNat 64 r)) 0x028 2 0 = 0
      let released := fun (t : State) => dstate t = 4 ∧ stepNow t = argOf c 0 ∧ periodNow t = 0 ∧
        t.dev.bell.live = true ∧ t.dev.bell.first = false ∧ t.dev.bell.halted = false
      (b.first = false →
        ((∀ r ∈ j.lessonRooms, aim r = getF s.chip (.cls (Fin.ofNat 64 r)) 0x028 6 4) →
          Finishes (.jobStart p h) s c 0 [] [] (fun t => started t ∧ released t)) ∧
        ((∃ r ∈ j.lessonRooms, aim r ≠ getF s.chip (.cls (Fin.ofNat 64 r)) 0x028 6 4) →
          Answers (.jobStart p h) s (fun t => started t ∧ t.dev.warden.cur = some c ∧ dstate t = dstate s ∧
            t.dev.bell.first = true))) ∧
      (b.first = true →
        ((∀ r ∈ j.lessonRooms, (roomOf s.chip r).levelTo = none) → Finishes (.jobStart p h) s c 0 [] [] released) ∧
        ((∃ r ∈ j.lessonRooms, (roomOf s.chip r).levelTo.isSome = true) → exec (.jobStart p h) s = .next s))) ∧
    (∀ j, Current s p h 0x0033 c → jobOf s = some j → (j.rank, stepNow s) ∉ b.halts →
      Finishes (.jobAbort p h) s c 0 [] [] (fun t => dstate t = 5 ∧ t.dev.bell.halted = true ∧ t.dev.bell.relCls = 0 ∧
        ∀ u, (strandOf s.chip u).lesson.isSome = true → natBit (creg (strandOf t.chip u) 28).toNat 3 = true))

/-- R384, R473: STEP_RESYNC writes the step into the state record of the group in every Pump that holds it,
unless one of them is not STOPPED; SLEEPER_STATUS answers the survey record (what it says without a job is the
model's choice, log entry 47). -/
def SurveyAndResync : Prop :=
  ∀ (s : State) (p : Fin 2) (h : Fin 8) (c : Cmd),
    let ch := s.chip
    let holds := fun (k : Fin 8) => argOf c 0 ∈ validGroups ch k
    let base := fun (k : Fin 8) => (pdescOf ch k (argOf c 0)).base
    (Current s p h 0x0050 c → (∃ k, holds k ∧ bState ch (.pmp k) ≠ 0) → Finishes (.stepResync p h) s c 6 [] [] (fun t =>
      t.chip = ch)) ∧
    (Current s p h 0x0050 c → (∀ k, holds k → bState ch (.pmp k) = 0) → argOf c 1 < 2 ^ 32 →
      (∀ k, holds k → base k + 2 ≤ 0x4000000000) →
      (∀ k l, holds k → holds l → k = l ∨ base k + 2 ≤ base l ∨ base l + 2 ≤ base k) →
      Finishes (.stepResync p h) s c 0 [] [] (fun t =>
        (∀ k, holds k → (rdNat t.chip false (base k) 2).1 = argOf c 1) ∧
        ∀ a, (∀ k, holds k → a ≠ base k ∧ a ≠ base k + 1) → (rdWord t.chip false a).1 = (rdWord ch false a).1)) ∧
    (Current s p h 0x0060 c → ∃ d, d.length = 32 ∧ Finishes (.sleeperStatus p h) s c 0 [] d (fun t => t.chip.mem = ch.mem) ∧
      sliceNat d 0 2 = (if shardTorn s then 1 else 0) ∧
      (jobOf s = none → sliceNat d 2 2 = 2 ^ 15) ∧
      (∀ j q, jobOf s = some j → partnerOf j.rank j.size = some q → sliceNat d 2 2 = q % 2 ^ 16) ∧
      (∀ x ∈ liveSteps ch, sliceNat d 8 4 ≤ x ∧ x ≤ sliceNat d 4 4) ∧
      (liveSteps ch ≠ [] → sliceNat d 4 4 ∈ liveSteps ch ∧ sliceNat d 8 4 ∈ liveSteps ch) ∧
      sliceNat d 22 4 = s.dev.bell.gen % 2 ^ 32)

/-- R431, R475 to R478: SHARD_REFILL and REPLAY check the copy held for the partner and then carry it to its
shard, the stamp first; SHARD_REBUILD stamps this device's shard anew and sends it, BEGIN first; SHARD_RESUME
sets STEP of every segment that is not frozen; what does not fit is RECOVERY with the code of R478, NO_RECORD
or STATE. The model's choices, log entry 42: the WIDs, with the schedule's number, and which windows go first.
-/
def RecoveryCommands : Prop :=
  ∀ (s : State) (p : Fin 2) (h : Fin 8) (c : Cmd) (j : Job), jobOf s = some j →
    let ch := s.chip
    let copy := heldCopy j ch
    let no := 2 ^ 16 * ((s.dev.bell.recovNo + 1) % 2 ^ 14)
    let fails := fun (i : Instr) (st : Nat) (res : List Nat) => Answers i s (fun t =>
      t.dev.warden.long = some ⟨c, some ⟨st, res, []⟩⟩ ∧ t.dev.warden.cur = none ∧ t.chip = ch ∧ t.dev.bell = s.dev.bell)
    let starts := fun (i : Instr) (q wid addr : Nat) (now : Nat → Bool) (P : State → Prop) => Answers i s (fun t =>
      t.dev.warden.long = some ⟨c, none⟩ ∧ t.dev.warden.cur = none ∧ P t ∧
      (∃ w ws, t.dev.bell.recov = w :: ws ∧ w.recv = false ∧ w.peer = q ∧ w.wid = wid ∧ w.addr = addr ∧ w.len = 64) ∧
      ∀ i < t.dev.bell.recov.length, winOf t (2 ^ 21 + i) = { winReset with eligible := now i })
    (Current s p h 0x0061 c →
      (partnerOf j.rank j.size ≠ some (argOf c 0) → fails (.shardRefill p h) 0xB [3]) ∧
      (partnerOf j.rank j.size = some (argOf c 0) →
        (copyCode j.tag (argOf c 0) (argOf c 1) copy ≠ 0 →
          fails (.shardRefill p h) 0xB [copyCode j.tag (argOf c 0) (argOf c 1) copy]) ∧
        (copyCode j.tag (argOf c 0) (argOf c 1) copy = 0 →
          starts (.shardRefill p h) (argOf c 0) (0x80000000 + no) j.sleepBase (fun _ => true) (fun t => t.chip = ch)))) ∧
    (Current s p h 0x0063 c →
      (partnerOf j.rank j.size ≠ some (argOf c 0) → fails (.shardRebuild p h) 0xB [3]) ∧
      (partnerOf j.rank j.size = some (argOf c 0) → j.sleeper = false → fails (.shardRebuild p h) 6 []) ∧
      (partnerOf j.rank j.size = some (argOf c 0) → j.sleeper = true →
        starts (.shardRebuild p h) (argOf c 0) (0xC0000000 + no) j.stamp (fun i => i == 0) (fun t => t.dev.bell.gen = s.dev.bell.gen + 1))) ∧
    (Current s p h 0x0070 c →
      (argOf c 0 ∉ s.dev.bell.recorded → fails (.replay p h) 0xE []) ∧
      (argOf c 0 ∈ s.dev.bell.recorded → j.sleeper = false ∨ partnerOf j.rank j.size = none → fails (.replay p h) 6 []) ∧
      (∀ q, argOf c 0 ∈ s.dev.bell.recorded → j.sleeper = true → partnerOf j.rank j.size = some q →
        copyCode j.tag q (copyNat copy 10 4) copy = 0 →
        (copyNat copy 6 2 ≠ argOf c 0 → fails (.replay p h) 6 []) ∧
        (copyNat copy 6 2 = argOf c 0 → starts (.replay p h) q (0x80000000 + no) j.sleepBase (fun _ => true) (fun t =>
          t.dev.bell.replay = some (argOf c 0) ∧ t.chip = ch)))) ∧
    (Current s p h 0x0062 c → refilled j s = false → argOf c 0 < 2 ^ 32 →
      (∀ x ∈ segments ch, (pdescOf ch x.1 x.2).base + 2 ≤ 0x4000000000) →
      (∀ x ∈ segments ch, ∀ y ∈ segments ch, x = y ∨ (pdescOf ch x.1 x.2).base + 2 ≤ (pdescOf ch y.1 y.2).base ∨
        (pdescOf ch y.1 y.2).base + 2 ≤ (pdescOf ch x.1 x.2).base) →
      Answers (.shardResume p h) s (fun t => t.dev.warden.long = some ⟨c, some ⟨0, [0], []⟩⟩ ∧
        (LogHasRoom s → ∃ e ∈ t.dev.warden.waiting, e.code = 0x030B) ∧
        ∀ x ∈ segments ch, (rdNat t.chip false (pdescOf ch x.1 x.2).base 2).1 =
          if (pdescOf ch x.1 x.2).frozen then (rdNat ch false (pdescOf ch x.1 x.2).base 2).1 else argOf c 0)) ∧
    (Current s p h 0x0062 c → refilled j s = true → streamSkew (rdWords ch false j.stamp 64) c = none →
      Answers (.shardResume p h) s (fun t => t.dev.warden.long = some ⟨c, some ⟨0, [0], []⟩⟩ ∧ t.dev.warden.cur = none ∧
        shardTorn t = false ∧ (LogHasRoom s → ∃ e ∈ t.dev.warden.waiting, e.code = 0x030B))) ∧
    (∀ i, Current s p h 0x0062 c → refilled j s = true → streamSkew (rdWords ch false j.stamp 64) c = some i →
      fails (.shardResume p h) 0xB [6, i])

/-- R475: the copy for a partner goes out over every school port: of each of its runs that has a word for
each, every port carries a part (how a run is split is the model's choice, log entry 42). -/
def RefillsUseEveryPort : Prop :=
  ∀ (j : Job) (no q : Nat),
    let sends := fun runs : List (Nat × Nat) => recovWins false j q (refillWid no)
      ((j.sleepBase, 64) :: runs.flatMap (fun r => splitRun j (j.sleepBase + r.1, r.2)))
    copySends j no q = sends (partnerRuns j q) ∧
    ∀ (runs : List (Nat × Nat)) (r : Nat × Nat), r ∈ runs → j.ports.length ≤ r.2 → ∀ n ∈ j.ports,
      ∃ w ∈ sends runs, w.port = n ∧ w.recv = false ∧ w.peer = q ∧ 0 < w.len ∧
        j.sleepBase + r.1 ≤ w.addr ∧ w.addr + w.len ≤ j.sleepBase + r.1 + r.2

/-- R475, R478: a frame of a further refill by the partner, while the job is halted, begins it anew: of what
an earlier one brought no record is left (the schedule's number in the WID is the model's choice, log entry
42). -/
def FurtherRefillsStartAnew : Prop :=
  ∀ (s : State) (j : Job) (p : Fin 16) (f : Frame) (late : Nat),
    Accepts s p 1 f j → jobOf s = some j → dstate s ≠ 4 → j.sleeper = true → partnerOf j.rank j.size = some f.src →
    0x80000000 ≤ f.wid → f.wid < 0xC0000000 → f.wid / 2 ^ 16 % 2 ^ 14 ≠ s.dev.bell.refillNo →
    Answers (.data p f late) s (fun t => t.dev.bell.refillNo = f.wid / 2 ^ 16 % 2 ^ 14 ∧
      ∀ i < 2 ^ 21, (winOf t (2 ^ 22 + i)).low ≤ 1 ∧ ∀ m ∈ (winOf t (2 ^ 22 + i)).above, m = f.frame)

/-- R455, R456, R480, R523: ROCE_QP gives a number no queue pair has, at most 64 on a port and 256 in all;
STAGE_INPUT and CHECKPOINT_LOAD start reading a store object over their queue pair; CHECKPOINT_SAVE waits for
its bell. What a host's record says of port and path MTU, and which words an input buffer has, the spec does
not lay out: the statement holds for every reading (log entry 44). -/
def TransfersToTheHost : Prop :=
  ∀ (s : State) (p : Fin 2) (h : Fin 8) (c : Cmd),
    let qs := s.dev.qps
    let waits := fun (t : State) => t.dev.warden.long = some ⟨c, none⟩ ∧ t.dev.warden.cur = none
    let reads := fun (t : State) (n : Nat) (q : Qp) (raddr plain : Nat) =>
      let bytes := 64 + plain + 16 * max 1 ((plain + 1048575) / 1048576)
      let m := (bytes + q.mtu - 1) / q.mtu
      (qpOf t n).bind (fun q => q.xfer) = some ⟨.read, raddr, bytes, m, 0, 0, 0, []⟩
    (Current s p h 0x0040 c →
      let mtu := Config.qpMtu c.data
      let good := fun (port : Nat) => Config.qpPort c.data = some port ∧ port < 16 ∧
        getF s.chip (.eth (Fin.ofNat 16 port)) 0x010 9 9 ≠ 0 ∧ 1024 ≤ mtu ∧ mtu ≤ 4096
      let full := fun (port : Nat) => 256 ≤ qs.length ∨ 64 ≤ (qs.filter (fun q => q.port == port)).length
      ∃ st res, Finishes (.roceQp p h) s c st res [] (fun t =>
        ((∀ port, ¬ good port) → st = 3 ∧ res = [] ∧ t.dev.qps = qs) ∧
        (∀ port, good port → full port → st = 6 ∧ res = [] ∧ t.dev.qps = qs) ∧
        (∀ port, good port → ¬ full port → st = 0 ∧ ∃ n, res = [n] ∧ (∀ q ∈ qs, q.num ≠ n) ∧
          t.dev.qps = qs ++ [⟨n, port, c.data, mtu, none⟩]))) ∧
    (Current s p h 0x0041 c →
      let good := fun (j : Job) (a n : Nat) (q : Qp) => jobOf s = some j ∧ Config.inputBuf j.img (argOf c 0) = some (a, n) ∧
        qpOf s (argOf c 3) = some q ∧ q.xfer = none ∧ argOf c 1 + argOf c 2 ≤ 2 * n
      Answers (.stageInput p h) s (fun t =>
        (∀ j a n q, good j a n q → waits t ∧ reads t (argOf c 3) q (argOf c 4) (argOf c 2)) ∧
        ((∀ j a n q, ¬ good j a n q) → HasAnswer s t c.ph 3 [] [] ∧ t.dev.warden.cur = none ∧ t.dev.qps = qs))) ∧
    (∀ j q, Current s p h 0x0064 c → jobOf s = some j → qpOf s (argOf c 2) = some q →
      (argOf c 1 < j.nper → Answers (.checkpointSave p h) s (fun t => waits t ∧
        t.dev.bell.ckpt = some ⟨argOf c 0, argOf c 1, argOf c 2, argOf c 3⟩)) ∧
      (j.nper ≤ argOf c 1 → Finishes (.checkpointSave p h) s c 3 [] [] (fun t => t.dev.bell = s.dev.bell))) ∧
    (∀ q, Current s p h 0x0065 c → qpOf s (argOf c 0) = some q → Answers (.checkpointLoad p h) s (fun t => waits t ∧
      reads t (argOf c 0) q (argOf c 1) (2 * copyLen s.chip)))

end Sys2Proof.Machine

/-! ### Resets and start-up (R27, R28, R48, R344 to R346, R355, R484, R511 to R513, R526, R528, R533, R534,
R564, R568, R576 to R583, R586 to R588, R598, R601) -/

namespace Sys2Proof.Machine

/-- Block b is STOPPED, and HW_STOP says whether it was not STOPPED before (R577). -/
abbrev ResetTo (s t : State) (b : BlockId) : Prop :=
  bState t.chip b = 0 ∧ bRun t.chip b = false ∧ getF t.chip b 0x002 8 8 = (if bState s.chip b = 0 then 0 else 1)

/-- A strand at core reset. -/
abbrev StrandsReset (t : State) (core : Fin 1024) : Prop := ∀ i : Fin 8, strandOf t.chip ⟨core, i⟩ = strandReset i.val

/-- A running job that the reset reaches is halted (R578). -/
abbrev HaltedFor (s t : State) (used : Job → Prop) : Prop :=
  ∀ j, jobOf s = some j → used j → dstate s = 4 → (j.rank, stepNow s) ∉ s.dev.bell.halts →
    t.dev.bell.halted = true ∧ (LogHasRoom s → ∃ e ∈ t.dev.warden.waiting, e.code = 0x0307)

/-- A refused or aborted entry is among the refusal counts (R554), while they have room. -/
abbrev Counted (s t : State) (refuser req kind : Nat) : Prop :=
  s.dev.power.refusals.length < 1024 →
    ∃ x ∈ t.dev.power.refusals, x.refuser = refuser ∧ x.req = req ∧ x.kind = kind ∧ 1 ≤ x.count

/-- The last wake source of a core (R553). -/
def coreWakeCode (c : Chip) (n : Nat) : Nat :=
  getF c (clsB (n / 16)) (if n % 16 < 8 then 0x02A else 0x02C) (4 * (n % 16 % 8) + 3) (4 * (n % 16 % 8))

/-- R576 to R579, R598: a compute reset stops every classroom, DMA and mesh block, loses classroom memory and
core state and leaves HBM and the stacks' registers, and under a latched Breach the classrooms stay off; a
classroom reset keeps memory, fuses and what the slots hold; a core reset leaves the strands as R598 says and
keeps tiles and slots, the slots CLOSED. Until a compute reset ends (with COMPUTE_BRINGUP, or at once under
the Breach) it absorbs the resets of classrooms and cores (R579), and a further compute reset waits for that
end. A job in DSTATE 0x4 that uses a block reached is halted. The model's choices, log entry 43: a reset row
acts without a RESET having ordered it, and what it absorbs until COMPUTE_BRINGUP. -/
def ComputeSideResets : Prop :=
  ∀ (s : State), powered s = true →
    let c := s.chip
    let noPieces := ∀ r < 64, (dmaOf c r).pieces = []
    let noTiles := ∀ u, (strandOf c u).flight = []
    let absorbed := s.dev.boot.compReset = true
    (absorbed → Answers .computeReset s (fun t => t.chip = c ∧ t.dev.warden = s.dev.warden ∧
      t.dev.boot = { s.dev.boot with compNext := s.dev.boot.compNext + 1 })) ∧
    (¬absorbed → Answers .computeReset s (fun t =>
      (∀ r : Fin 64, ResetTo s t (.cls r) ∧ ResetTo s t (.dma r) ∧ rawReg t.chip (.cls r) 0x012 = (Config.coreOk r.val).setWidth 32 ∧
        (roomOf t.chip r).power = if s.dev.power.breach then .closed else .run) ∧
      (∀ d : Fin 4, ResetTo s t (.mesh d) ∧ tget (fun _ => false) t.chip.meshOn d = false) ∧
      (∀ n, StrandsReset t n ∧ ∀ e ∈ (coreOf t.chip n).slots, e.2.opened = false) ∧
      (∀ k : Fin 8, ∀ n, rawReg t.chip (.hmc k) n = rawReg c (.hmc k) n ∧ rawReg t.chip (.pmp k) n = rawReg c (.pmp k) n ∧
        rawReg t.chip (.syl k) n = rawReg c (.syl k) n) ∧
      (noPieces → noTiles → ∀ a, inHbm a = true → rdWord t.chip false a = rdWord c false a) ∧
      HaltedFor s t (fun _ => True) ∧ t.dev.boot.computeUp = false ∧ t.dev.power.breach = s.dev.power.breach ∧
      t.dev.power.breachReset = s.dev.power.breach ∧ t.dev.boot.compReset = !s.dev.power.breach ∧ (LogHasRoom s → t.flash = s.flash) ∧
      t.fuses = s.fuses ∧ t.dev.warden.resets = s.dev.warden.resets.erase (1, 0))) ∧
    (∀ mask : BitVec 64, absorbed → Answers (.classroomReset mask) s (fun t => t.chip = c ∧ t.dev.bell = s.dev.bell ∧
      t.dev.warden.resets = s.dev.warden.resets.erase (2, mask.toNat))) ∧
    (∀ mask : BitVec 64, ¬absorbed → Answers (.classroomReset mask) s (fun t =>
      (∀ r : Fin 64, mask.getLsbD r = true → ResetTo s t (.cls r) ∧ ResetTo s t (.dma r) ∧
        (∀ off ∈ [0x012, 0x02E, 0x030], rawReg t.chip (.cls r) off = rawReg c (.cls r) off) ∧
        (∀ p : Fin 16, StrandsReset t (Fin.ofNat 1024 (16 * r + p))) ∧ (roomOf t.chip r).dirty = [] ∧
        (jobOf s = none → (roomOf t.chip r).power =
          if (roomOf c r).power = .closed ∧ s.dev.power.breach = true then .closed else .run)) ∧
      (jobOf s = none → noPieces → ∀ r : Fin 64, mask.getLsbD r = false → blkRegs t.chip (.cls r) = blkRegs c (.cls r) ∧
        blkRegs t.chip (.dma r) = blkRegs c (.dma r)) ∧
      (noPieces → noTiles → t.chip.mem = c.mem ∧ t.chip.pois = c.pois) ∧
      HaltedFor s t (fun j => ∃ r : Fin 64, mask.getLsbD r = true ∧ r.val ∈ j.allRooms) ∧
      t.dev.warden.resets = s.dev.warden.resets.erase (2, mask.toNat))) ∧
    (∀ n : Fin 1024, absorbed → Answers (.coreReset n) s (fun t => t.chip = c ∧ t.dev.bell = s.dev.bell ∧
      t.dev.warden.resets = s.dev.warden.resets.erase (3, n.val))) ∧
    ∀ n : Fin 1024, ¬absorbed → Answers (.coreReset n) s (fun t => StrandsReset t n ∧ (coreOf t.chip n).tiles = (coreOf c n).tiles ∧
      (coreOf t.chip n).banks = [] ∧ (coreOf t.chip n).cache = [] ∧ (coreOf t.chip n).fill = none ∧
      (∀ e ∈ (coreOf t.chip n).slots, e.2.opened = false) ∧
      (coreOf t.chip n).slots.map (fun e => (e.1, e.2.vals)) = (coreOf c n).slots.map (fun e => (e.1, e.2.vals)) ∧
      ((∀ i : Fin 8, (strandOf c ⟨n, i⟩).flight = []) → t.chip.mem = c.mem ∧ t.chip.pois = c.pois) ∧ coreWakeCode t.chip n = 1 ∧
      (jobOf s = none → ∀ m : Nat, m ≠ n.val → coreOf t.chip m = coreOf c m) ∧
      HaltedFor s t (fun j => n.val / 16 ∈ j.allRooms) ∧ t.dev.warden.resets = s.dev.warden.resets.erase (3, n.val))

/-- R343, R348, R484, R577, R583: a stack reset stops HMC, Pump and Syllabus, clears the keys and keeps
contents and refresh; a pass 2 it cuts short leaves the shard TORN; the Warden loads HMC_REPAIR and begins the
wipe. A port reset stops the port, clears its keys and drops its link; a PCIe port's POSTED pigeonholes go to
IDLE and a BUSY one loses its response. The model's choices, log entry 43: a running job uses every stack, so
that a stack reset halts it, also one with an empty mask; a reset row acts without a RESET having ordered it.
-/
def StackAndPortResets : Prop :=
  ∀ (s : State), powered s = true →
    let c := s.chip
    (∀ mask : BitVec 8, Answers (.stackReset mask) s (fun t =>
      (∀ k : Fin 8, mask.getLsbD k = true → ResetTo s t (.hmc k) ∧ ResetTo s t (.pmp k) ∧ ResetTo s t (.syl k) ∧
        (∀ i < 16, rawReg t.chip (.hmc k) (0x020 + 2 * i) = 0) ∧ getF t.chip (.hmc k) 0x010 2 2 = 0 ∧
        (stackOf t.chip k).pump.pass = 0 ∧
        (∀ b, (tget (fun _ => dramReset) (stackOf t.chip k).dram b).refRow = (tget (fun _ => dramReset) (stackOf c k).dram b).refRow) ∧
        (s.dev.boot.hbmUp = true → (stackOf t.chip k).wiping = true ∧ getF t.chip (.hmc k) 0x01E 2 2 = 1 ∧
          rawReg t.chip (.hmc k) 0x01C = BitVec.ofNat 32 ((rowsOf s.flash (0x20 + k)).length * 65536 +
            bytesNat (settingVal s.flash (0x30 + k))))) ∧
      (∀ k : Fin 8, mask.getLsbD k = false → stackOf t.chip k = stackOf c k ∧ blkRegs t.chip (.hmc k) = blkRegs c (.hmc k)) ∧
      ((∀ k < 8, (stackOf c k).wiping = false ∧ (stackOf c k).pump.pass = 0) → t.chip.mem = c.mem ∧ t.chip.pois = c.pois) ∧
      ((∃ k : Fin 8, mask.getLsbD k = true ∧ 2 ≤ (stackOf c k).pump.pass) → t.dev.bell.torn = true) ∧
      HaltedFor s t (fun _ => True) ∧ (LogHasRoom s → t.flash = s.flash) ∧
      t.dev.warden.resets = s.dev.warden.resets.erase (4, mask.toNat))) ∧
    ∀ mask : BitVec 18, Answers (.portReset mask) s (fun t =>
      (∀ n : Fin 16, mask.getLsbD n = true → ResetTo s t (.eth n) ∧ (∀ i < 13, rawReg t.chip (.eth n) (0x030 + 2 * i) = 0) ∧
        getF t.chip (.eth n) 0x012 0 0 = 0 ∧ getF t.chip (.eth n) 0x01A 31 31 = 0 ∧ ethOf t n = ethReset) ∧
      (∀ n : Fin 16, mask.getLsbD n = false → blkRegs t.chip (.eth n) = blkRegs c (.eth n) ∧ ethOf t n = ethOf s n) ∧
      (∀ p : Fin 2, mask.getLsbD (16 + p) = true → (pcieOf t p).cfg = pcieCfgReset ∧ ∀ h : Fin 8,
        let g := pigeonOf s (8 * p + h)
        pigeonOf t (8 * p + h) = if g.state = 1 then { g with state := 0 } else if g.state = 2 then { g with drop := true } else g) ∧
      (∀ p : Fin 2, mask.getLsbD (16 + p) = false → pcieOf t p = pcieOf s p) ∧
      t.dev.bell = s.dev.bell ∧ t.chip.mem = c.mem ∧ t.dev.warden.resets = s.dev.warden.resets.erase (5, mask.toNat))

/-- What the ROM flow makes of flash and fuses (R511, R513): the first check that fails puts the module into
DEAD with its reason, else the firmware of the current boot record runs. -/
def RomOutcome (s t : State) : Prop :=
  let n := s.flash.boots
  let dies := fun (d : Nat) => (∃ x, t.dev.boot.dead = some (d, x)) ∧ t.flash = s.flash ∧ t.dev.boot.phase = 2
  (Config.selfTest n = false → dies 1) ∧
  (Config.selfTest n = true → Config.fusesAgree n = false → dies 2) ∧
  (Config.selfTest n = true → Config.fusesAgree n = true →
    (curRec s.flash = none → dies 3) ∧
    ∀ m r, curRec s.flash = some (m, r) →
      let img := slotImage s.flash r.slot r.len
      let len := sliceNat img 0x14 8
      (Config.unreadable n = true → dies 7) ∧
      (Config.unreadable n = false →
        (headerOk img len = false ∨ signerOk img s.fuses.revoke = false → dies 4) ∧
        (headerOk img len = true → signerOk img s.fuses.revoke = true →
          (imageSvn img < s.fuses.svnFloor → dies 5) ∧
          (s.fuses.svnFloor ≤ imageSvn img → len ≠ r.len ∨ imageDigest img ≠ r.digest ∨ signatureOk img = false →
            dies 4) ∧
          (s.fuses.svnFloor ≤ imageSvn img → len = r.len → imageDigest img = r.digest → signatureOk img = true →
            t.dev.boot.phase = 3 ∧ t.dev.boot.fuseLock = true ∧ t.dev.boot.m1 = r.digest ∧ t.dev.boot.m2 = List.replicate 64 0 ∧
            t.dev.boot.version = sliceNat img 8 4 ∧ t.dev.boot.svn = imageSvn img ∧
            t.flash.boots = n + 1 ∧ t.flash.slotA = s.flash.slotA ∧ t.flash.slotB = s.flash.slotB ∧
            (LogHasRoom s → ∃ e ∈ t.dev.warden.waiting, e.code = 0x0001 ∧ e.boot = (n + 1) % 2 ^ 16)))))

/-- What a cold reset leaves (R576, R577): every block STOPPED, every strand at reset, no job, DSTATE 0x0; the
fuses stay, and the Breach latch (the latter the model's choice, log entry 43). -/
def ColdLeft (s t : State) : Prop :=
  (∀ b, ResetTo s t b) ∧ (∀ n, StrandsReset t n) ∧ dstate t = 0 ∧ jobOf t = none ∧ t.dev.warden.owner = none ∧
  t.dev.warden.cur = none ∧ t.dev.warden.long = none ∧ t.dev.bell = bellReset ∧ t.dev.qps = [] ∧ (∀ p, ethOf t p = ethReset) ∧
  (∀ p, (pcieOf t p).ph = []) ∧ t.dev.side = sideReset ∧ t.fuses = s.fuses ∧ t.dev.power.breach = s.dev.power.breach ∧
  t.dev.boot.hbmUp = false ∧ t.dev.boot.computeUp = false ∧ t.dev.boot.stagingUp = false

/-- R511, R513, R576, R580, R582, R586 to R588: a cold reset runs the ROM flow when the input is in range and
module_rst_n is high, and else holds the module; the input and module_rst_n start phase 1 together, and each
alone holds the module in cold reset; sensing the fuses loads their registers; the ROM watchdog makes the
module DEAD before DSTATE 0x1 only. That the Breach latch survives a cold reset is the model's choice, log
entry 43. -/
def ColdResetAndRomFlow : Prop :=
  ∀ (s : State),
    let b := s.dev.boot
    let held := fun (t : State) => ColdLeft s t ∧ t.dev.boot.phase = 0 ∧ t.flash = s.flash
    (b.inRange = true → b.rstN = true → Answers .coldReset s (fun t => ColdLeft s t ∧ RomOutcome s t ∧
      (t.dev.boot.phase = 3 → fwUp t = true))) ∧
    (b.inRange = false ∨ b.rstN = false → Answers .coldReset s held) ∧
    Answers .inputOutOfRange s (fun t => held t ∧ t.dev.boot.inRange = false ∧ t.dev.boot.rstN = b.rstN ∧
      modulePg t = false) ∧
    (b.inRange = true → Answers .moduleRstFall s (fun t => held t ∧ t.dev.boot.rstN = false ∧ t.dev.boot.inRange = true ∧
      modulePg t = modulePg s)) ∧
    (b.inRange = false → Answers .moduleRstFall s (fun t => t.dev.boot = { b with rstN := false } ∧ t.chip = s.chip ∧
      t.dev.warden = s.dev.warden)) ∧
    Answers .inputInRange s (fun t => t.chip = s.chip ∧ t.dev.boot =
      { b with inRange := true, rails := b.rails || (b.rstN && b.phase == 0), phase := if b.rstN = true ∧ b.phase = 0 then 1 else b.phase }) ∧
    Answers .moduleRstRise s (fun t => t.chip = s.chip ∧ t.dev.boot =
      { b with rstN := true, rails := b.rails || (b.inRange && b.phase == 0), phase := if b.inRange = true ∧ b.phase = 0 then 1 else b.phase }) ∧
    (b.phase ≠ 1 → exec .fuseSense s = .next s) ∧
    (b.phase = 1 → Answers .fuseSense s (fun t => RomOutcome s t ∧ ∀ r : Fin 64,
      rawReg t.chip (.cls r) 0x012 = (Config.coreOk r.val).setWidth 32 ∧ ∀ p < 8,
        getF t.chip (.cls r) 0x02E (4 * p + 3) (4 * p) = min 12 (Config.fmax (16 * r + p)).toNat ∧
        getF t.chip (.cls r) 0x030 (4 * p + 3) (4 * p) = min 12 (Config.fmax (16 * r + 8 + p)).toNat)) ∧
    (fwUp s = true → dstate s = 0 → Answers .romWatchdog s (fun t => (∃ x, t.dev.boot.dead = some (6, x)) ∧ fwUp t = false)) ∧
    (fwUp s = false ∨ dstate s ≠ 0 → exec .romWatchdog s = .next s)

/-- R490, R532 to R534: mounting the settings converts each older record at the first start of another
firmware, leaves a newer one, and writes FW_LAST; the owner is OWNER_PORT. R526, R528, R580: the staging area
is erased; DSTATE becomes 0x1 when phases 4, 5 and 6 have ended, and an image that asks for it raises the SVN
floor. -/
def PhasesToReady : Prop :=
  ∀ (s : State), fwUp s = true →
    let b := s.dev.boot
    let f := s.flash
    (b.phase = 3 → Answers .settingsMount s (fun t => t.dev.boot.phase = 4 ∧ settingVal t.flash 0x42 = b.m1 ∧
      t.dev.warden.owner = some (bytesNat (settingVal t.flash 1)) ∧ t.chip = s.chip ∧ dstate t = dstate s ∧
      t.dev.power.refusals = refusalsOf (settingVal t.flash 0x104) ∧
      (settingVal f 0x42 = b.m1 → LogHasRoom s → t.flash = f) ∧
      (settingVal f 0x42 ≠ b.m1 → (f.settings.map (fun r => r.key)).Nodup → ∀ r ∈ f.settings, ∀ v, keyVer r.key = some v →
        r.key ≠ 0x42 →
        (r.ver < v → settingVal t.flash r.key = convert r.key r.ver r.val) ∧
        (v ≤ r.ver → settingOf t.flash r.key = some r) ∧
        (v < r.ver → s.dev.warden.waiting.length + f.settings.length + f.log.length < 120 →
          ∃ e ∈ t.dev.warden.waiting, e.code = 0x0004)))) ∧
    (b.phase ≠ 3 → exec .settingsMount s = .next s) ∧
    (4 ≤ b.phase → b.stagingUp = false → Answers .stagingErase s (fun t => t.dev.boot.stagingUp = true ∧
      slotBytes t.flash (stagingSlot f) = [] ∧ t.dev.warden.staged = [] ∧ t.chip = s.chip ∧
      ∀ n r, curRec f = some (n, r) → slotBytes t.flash r.slot = slotBytes f r.slot ∧ curRec t.flash = some (n, r))) ∧
    (4 ≤ b.phase → b.hbmUp = true → b.computeUp = true → b.stagingUp = true → dstate s = 0 → Answers .dstateReady s (fun t =>
      dstate t = 1 ∧ t.dev.warden.readyAt = s.chip.nowUs ∧ t.chip = s.chip ∧ (LogHasRoom s → t.flash = f) ∧
      t.fuses = (if b.advance then { s.fuses with svnFloor := max s.fuses.svnFloor b.svn } else s.fuses) ∧
      (b.advance = true → LogHasRoom s → ∃ e ∈ t.dev.warden.waiting, e.code = 0x000A))) ∧
    (b.phase < 4 ∨ b.hbmUp = false ∨ b.computeUp = false ∨ b.stagingUp = false ∨ dstate s ≠ 0 →
      exec .dstateReady s = .next s)

/-- The blocks that wait for a PLL (R567). -/
def pllBlocks : PllId → List BlockId
  | .classroom n => [.cls n]
  | .mesh n => .mesh n :: (List.range 16).map (fun i => .dma (Fin.ofNat 64 (16 * n.val + i)))
  | .stack n => [.hmc n, .pmp n, .syl n]
  | .ethTx n => [.eth n]
  | .pcie n => [.pci n]

/-- R344 to R346, R355, R356, R580, R601: HBM come-up zeroes every stack and loads HMC_REPAIR, and repairs a
candidate row with a spare of its bank, or retires it; compute come-up zeroes classroom memory and leaves the
classrooms running on their PLLs, never while the Breach is latched (its refusal is counted, R564); a compute
reset that waited follows it (R579). R568: a lock lets a waiting block start; the PLL of a polder that is off
does not lock. That the wipes end within HBM_BRINGUP's row is the model's choice, log entry 43. -/
def HbmComputeAndPlls : Prop :=
  ∀ (s : State),
    let b := s.dev.boot
    let f := s.flash
    let c := s.chip
    let spare := fun (x : State) (k row : Nat) => tget (fun _ => 0) x.fuses.spares (k * 4096 + row / 16384)
    (fwUp s = true → 4 ≤ b.phase → b.hbmUp = false → Answers .hbmBringup s (fun t => t.dev.boot.hbmUp = true ∧
      (∀ k : Fin 8, (stackOf t.chip k).powered = true ∧ (stackOf t.chip k).pll = true ∧
        rawReg t.chip (.hmc k) 0x01C = BitVec.ofNat 32 ((rowsOf t.flash (0x20 + k)).length * 65536 +
          bytesNat (settingVal t.flash (0x30 + k)))) ∧
      ((∀ k : Fin 8, getF c (.hmc k) 0x010 1 1 = 0) → ∀ a, inHbm a = true → rdWord t.chip false a = (0, false)) ∧
      ((∀ k < 8, rowsOf f (0x10 + k) = []) → t.flash = f ∧ t.fuses = s.fuses) ∧
      (∀ k : Fin 8, ∀ row, rowsOf f (0x10 + k) = [row] → (∀ l : Fin 8, l ≠ k → rowsOf f (0x10 + l) = []) →
        (spare s k row < 2 → spare t k row = spare s k row + 1 ∧ rowsOf t.flash (0x10 + k) = []) ∧
        (2 ≤ spare s k row → row ∉ rowsOf f (0x20 + k) → (rowsOf f (0x20 + k)).length < 1024 → t.fuses = s.fuses ∧
          rowsOf t.flash (0x20 + k) = rowsOf f (0x20 + k) ++ [row] ∧ rowsOf t.flash (0x10 + k) = [])))) ∧
    (fwUp s = true → 4 ≤ b.phase → b.computeUp = false → s.dev.power.breach = false → b.compNext ≠ 0 →
      Answers .computeBringup s (fun t => t.dev.boot.computeUp = false ∧ t.dev.boot.compReset = true ∧
        t.dev.boot.compNext = b.compNext - 1 ∧ ∀ n, StrandsReset t n)) ∧
    (fwUp s = true → 4 ≤ b.phase → b.computeUp = false → s.dev.power.breach = false → (∀ x ∈ s.dev.ring, x.held = none) →
      b.compNext = 0 → Answers .computeBringup s (fun t => t.dev.boot.computeUp = true ∧ t.dev.boot.compReset = false ∧ (∀ a, inCls a = true → physWord t.chip a = 0 ∧ poisAt t.chip a = false) ∧
      (∀ r : Fin 64, (roomOf t.chip r).power = .run ∧ (roomOf t.chip r).pll = true ∧ getF t.chip (.cls r) 0x028 17 17 = 1 ∧
        getF t.chip (.cls r) 0x028 19 18 = 0 ∧
        (bState c (.cls r) = 0 → bState t.chip (.cls r) = if bRun c (.cls r) then 1 else 0)) ∧
      ∀ d < 4, tget (fun _ => false) t.chip.meshOn d = true ∧ tget (fun _ => false) t.chip.plls d = true)) ∧
    (fwUp s = true → 4 ≤ b.phase → b.computeUp = false → s.dev.power.breach = true → Answers .computeBringup s (fun t =>
      t.chip = c ∧ t.dev.boot = b ∧ Counted s t 0x0502 3 0)) ∧
    (fwUp s = false ∨ b.phase < 4 ∨ b.computeUp = true → exec .computeBringup s = .next s) ∧
    ∀ x : PllId, (pllPowered c x = false → exec (.pllLock x) s = .next s) ∧
     (pllPowered c x = true → ChipAnswers (.pllLock x) s (fun t => ∀ y ∈ pllBlocks x, pllLocked t y = true ∧
      (bState c y = 0 → bRun c y = true → startHeld t y = false → bState t y = 1) ∧
      (bState c y = 0 → bRun c y = false → bState t y = 0)))

end Sys2Proof.Machine

/-! ### Power and sleep (R28, R343, R471, R506, R537 to R539, R542 to R566) -/

namespace Sys2Proof.Machine

/-- A fraction kept between 0 and 56/64. -/
abbrev keptIn (x : Rat) : Rat := max 0 (min (56 / 64) x)

/-- R542, R555 to R557, R560: each us the power term follows A10 against PL_BURST or PL_SUS and steps up above
1,750 W, each die's thermal term follows its hottest sensor, and the classrooms show the bubbles; the floor of
a die moves one level; a droop imposes at least 32 bubbles and counts once. None of them touches a core. The
model's choices, log entry 37: a half is rounded upward, and EDC_LIMIT and THROTTLE are logged at the tick
that begins them. -/
def SpillwayFloorsAndSluice : Prop :=
  ∀ (s : State),
    let p := s.dev.power
    let c := s.chip
    let now := c.nowUs + 1
    let bubbles := fun (q : Power) (r : Nat) => bubblesOf (max q.bp (tget (fun _ => 0) q.bt (r / 16)))
    let shown := fun (t : Chip) (r : Nat) => getF t (clsB r) 0x028 13 8
    (∀ m : Sample, 0 < plSus s → 0 < plBurst s → Answers (.spillwayTick m) s (fun t =>
      let q := t.dev.power
      let l : Nat := (if burstTime now q.past < 2000000 then plBurst s else plSus s) * 1000
      let term := keptIn (p.bp + ((m.a10 : Rat) - (l : Rat)) / (l : Rat) / 1024)
      t.chip.nowUs = now ∧ q.sample = m ∧ q.bp = (if 1750000 < m.p1 then min (term + 8 / 64) (56 / 64) else term) ∧
      (∀ d < 4, tget (fun _ => 0) q.bt d = keptIn (tget (fun _ => 0) p.bt d + ((m.cd.getD d 0 - 100 : Int) : Rat) / 10 / 1024)) ∧
      (p.past = [] → burstTime now q.past = if plSus s * 1000 < m.a10 then 1 else 0) ∧
      (∀ r < 64, shown t.chip r = if (roomOf c r).droop then max (bubbles q r) 32 else bubbles q r) ∧
      (LogHasRoom s → 2000000 ≤ burstTime now q.past → p.bursting = false → ∃ e ∈ t.dev.warden.waiting, e.code = 0x0504) ∧
      (LogHasRoom s → 1750000 < m.p1 → p.edc = false → ∃ e ∈ t.dev.warden.waiting, e.code = 0x0505 ∧ e.data = [m.p1 / 1000]) ∧
      (LogHasRoom s → ∀ d < 4, 0 < tget (fun _ => 0) q.bt d → tget (fun _ => false) p.throttled d = false →
        ∃ e ∈ t.dev.warden.waiting, e.code = 0x0506) ∧
      t.chip.cores = c.cores ∧ t.chip.mem = c.mem ∧ t.chip.floors = c.floors)) ∧
    (fwUp s = true → Answers .floorTick s (fun t => t.chip.cores = c.cores ∧ t.chip.regs = c.regs ∧ ∀ d < 4,
      let f := tget (fun _ => 0) c.floors d
      let moved := fun (v : Nat) => tget (fun _ => 0) t.chip.floors d = v ∧
        (LogHasRoom s → ∃ e ∈ t.dev.warden.waiting, e.code = 0x0507 ∧ e.data = [d, f, v]) ∧
        ∀ i < 16, (roomOf t.chip (16 * d + i)).levelTo =
          let aim := max (max (getF c (clsB (16 * d + i)) 0x028 2 0) v) (if tget (fun _ => false) c.plHold d then 1 else 0)
          if aim = getF c (clsB (16 * d + i)) 0x028 6 4 then none else some aim
      let high := tget (fun _ => 0) p.high d
      let calm := tget (fun _ => 0) p.calm d
      (50000 < high → f < 7 → moved (f + 1)) ∧
      (high ≤ 50000 → 200000 ≤ calm → 0 < f → moved (f - 1)) ∧
      (50000 < high ∧ 7 ≤ f ∨ high ≤ 50000 ∧ (calm < 200000 ∨ f = 0) → tget (fun _ => 0) t.chip.floors d = f))) ∧
    ∀ r : Fin 64, bubbles p r ≤ 56 →
      ((roomOf c r).droop = false → Answers (.sluiceDroop r) s (fun t => shown t.chip r = max (bubbles p r) 32 ∧
        getF t.chip (.cls r) 0x028 31 24 = min 255 (getF c (.cls r) 0x028 31 24 + 1) ∧ (roomOf t.chip r).droop = true ∧
        t.chip.cores = c.cores)) ∧
      ((roomOf c r).droop = true → exec (.sluiceDroop r) s = .next s) ∧
      Answers (.sluiceRelease r) s (fun t => shown t.chip r = bubbles p r ∧ (roomOf t.chip r).droop = false ∧
        t.chip.cores = c.cores)

/-- R558: a minute at the PL0 voltage counts for each enabled core that does not sleep and whose classroom has
its clock, in the slot of the hour; 288 minutes hold the die at PL1 and log it, and the hold ends at 274 for
every core; an hour moves POWER_ON_HOURS on and clears the new slot. -/
def PL0Residency : Prop :=
  ∀ (s : State), fwUp s = true → Answers .pl0ResidencyTick s (fun t =>
    let p := s.dev.power
    let c := s.chip
    let h := powerOnHours s
    let awake := fun (n : Nat) => natBit (getF c (clsB (n / 16)) 0x010 15 0) (n % 16) = true ∧ (coreOf c n).paused = false ∧
      roomClocked c (n / 16) = true
    let high := fun (d : Nat) => ∃ i < 16, roomClocked c (16 * d + i) = true ∧ getF c (clsB (16 * d + i)) 0x028 6 4 = 0
    let sum := fun (n : Nat) => (residOf t.dev.power n).sum
    let held := fun (x : State) (d : Nat) => tget (fun _ => false) x.chip.plHold d
    (p.minute + 1 < 60 → t.dev.power.minute = p.minute + 1 ∧ (LogHasRoom s → t.flash = s.flash) ∧
      (∀ n < 1024, (high (n / 256) ∧ awake n → residOf t.dev.power n =
          (residOf p n).set (h % 24) ((residOf p n).getD (h % 24) 0 + 1)) ∧
        (¬(high (n / 256) ∧ awake n) → residOf t.dev.power n = residOf p n)) ∧
      ∀ d < 4,
        ((∃ i < 256, 288 ≤ sum (256 * d + i)) → held t d = true ∧
          (LogHasRoom s → held s d = false → ∃ e ∈ t.dev.warden.waiting, e.code = 0x0508 ∧
            ∃ i < 256, e.data = [d, 256 * d + i] ∧ 288 ≤ sum (256 * d + i))) ∧
        ((∀ i < 256, sum (256 * d + i) < 288) → held s d = false → held t d = false) ∧
        ((∀ i < 256, sum (256 * d + i) ≤ 274) → held t d = false) ∧
        ((∀ i < 256, sum (256 * d + i) < 288) → (∃ i < 256, 274 < sum (256 * d + i)) → held t d = held s d)) ∧
    (60 ≤ p.minute + 1 → t.dev.power.minute = 0 ∧ powerOnHours t = (h + 1) % 2 ^ 32 ∧
      t.dev.warden.imageHours = s.dev.warden.imageHours + 1 ∧ ∀ n, (residOf t.dev.power n).getD ((h + 1) % 24) 0 = 0))

/-- R471, R538, R563, R564: a sensor at 115 C trips the Breach, once: every compute polder closes and loses
its contents, every stack's blocks stop, the job halts, the ports stay, an entry into device sleep is aborted;
the latch opens only after a reset that reached the compute dies and with every sensor below 95 C. That the
stacks' blocks stop with HW_STOP set is the model's choice, log entry 37. -/
def TheBreach : Prop :=
  ∀ (s : State),
    let c := s.chip
    let stopped := fun (t : State) (b : BlockId) => bState t.chip b = 0 ∧ (bState c b ≠ 0 → getF t.chip b 0x002 8 8 = 1)
    let sensor := fun (n : Nat) => n = 1 ∨ n = 2 ∨ (4 ≤ n ∧ n ≤ 15) ∨ (0x40 ≤ n ∧ n ≤ 0x7F)
    (∀ (node : Fin 128) (temp : Nat), 115 ≤ temp → sensor node.val → s.dev.power.breach = false → Answers (.breach node temp) s (fun t =>
      t.dev.power.breach = true ∧ t.dev.power.breachReset = false ∧
      (∀ r : Fin 64, stopped t (.cls r) ∧ stopped t (.dma r) ∧ (roomOf t.chip r).power = .closed) ∧
      (∀ d : Fin 4, stopped t (.mesh d) ∧ tget (fun _ => false) t.chip.meshOn d = false) ∧
      (∀ k : Fin 8, stopped t (.hmc k) ∧ stopped t (.pmp k) ∧ stopped t (.syl k)) ∧
      (∀ u, (strandOf t.chip u).lesson = none) ∧
      (s.dev.warden.cur = none → ∀ n : Fin 16, blkRegs t.chip (.eth n) = blkRegs c (.eth n)) ∧
      ((∀ r < 64, (dmaOf c r).pieces = []) → (∀ u, (strandOf c u).flight = []) → (∀ k < 8, (stackOf c k).pump.pass = 0) → ∀ a, inHbm a = true →
        rdWord t.chip false a = rdWord c false a) ∧
      HaltedFor s t (fun _ => True) ∧ (LogHasRoom s → ∃ e ∈ t.dev.warden.waiting, e.code = 0x0509 ∧ e.data = [node.val, temp]) ∧
      (∀ cmd, sleepCmd s = some cmd → (pigeonOf s cmd.ph).drop = false → s.dev.power.refusals = [] →
        HasAnswer s t cmd.ph 9 [] [] ∧ t.dev.warden.cur = none ∧ Counted s t 0x0502 4 1))) ∧
    (∀ (node : Fin 128) (temp : Nat), temp < 115 ∨ ¬sensor node.val ∨ s.dev.power.breach = true →
      exec (.breach node temp) s = .next s) ∧
    let m := s.dev.power.sample
    let cool := ∀ x ∈ m.cd ++ m.io ++ m.base, x < 95
    (s.dev.power.breach = true → s.dev.power.breachReset = true → cool → Answers .breachClear s (fun t =>
      t.dev.power.breach = false ∧ t.chip = c ∧ (LogHasRoom s → ∃ e ∈ t.dev.warden.waiting, e.code = 0x050A))) ∧
    (s.dev.power.breach = false ∨ s.dev.power.breachReset = false ∨ ¬cool → exec .breachClear s = .next s)

/-- R544 to R547, R549, R550, R554, R564: a core enters pause when its strands are idle or wait and nothing is
under way, and, all idle, when its Prefect puts it there; a pending interrupt wakes its strands; a classroom
whose cores all pause for recess begins its entry or is refused, and the entry is completed; a wake of a
classroom puts the cores on the FIO with its source, aborts an entry that has begun, and is refused under the
Breach. The REQ numbers of refused wakes and the entry into recess in two rows are the model's choices, log
entries 37 and 57. -/
def PauseAndRecess : Prop :=
  ∀ (s : State),
    let c := s.chip
    (∀ n : Fin 1024,
      let st := fun (i : Fin 8) => strandOf c ⟨n, i⟩
      let idle := fun (i : Fin 8) => (st i).run = .idle
      let waits := fun (i : Fin 8) => ∃ k, (st i).run = .waiting k
      let pend := fun (i : Fin 8) => creg (st i) 28 &&& creg (st i) 29 ≠ 0
      ((∀ i, idle i ∨ waits i) → (∃ i, waits i) → (∀ i, (st i).flight = [] ∧ (st i).parked = []) → (coreOf c n).fill = none →
        storesOut c n = 0 →
        Answers (.corePause n) s (fun t => coreOf t.chip n = { coreOf c n with paused := true } ∧ t.chip.mem = c.mem)) ∧
      ((∀ i, idle i) → (roomOf c (n.val / 16)).asked ≠ none →
        Answers (.corePause n) s (fun t => coreOf t.chip n = { coreOf c n with paused := true } ∧ t.chip.mem = c.mem)) ∧
      ((roomOf c (n.val / 16)).asked = none ∨ (∃ i, ¬idle i) →
        (∃ i, ¬idle i ∧ ¬waits i) ∨ (∀ i, idle i) ∨ (∃ i, (st i).flight ≠ [] ∨ (st i).parked ≠ []) ∨ (coreOf c n).fill ≠ none ∨
          storesOut c n ≠ 0 → exec (.corePause n) s = .next s) ∧
      ((roomOf c (n.val / 16)).power = .run → Answers (.coreWake n) s (fun t =>
        (∀ i : Fin 8, (pend i ∧ (idle i ∨ waits i) → (strandOf t.chip ⟨n, i⟩) = { st i with run := .active }) ∧
          (¬(pend i ∧ (idle i ∨ waits i)) → strandOf t.chip ⟨n, i⟩ = st i)) ∧
        ((∃ i, pend i ∧ (idle i ∨ waits i)) → (coreOf t.chip n).paused = false ∧
          ((coreOf c n).paused = true → coreWakeCode t.chip n = 2)))) ∧
      ((roomOf c (n.val / 16)).power ≠ .run → exec (.coreWake n) s = .next s)) ∧
    ∀ r : Fin 64,
      let room := roomOf c r
      let ready := enabledCores c r ≠ [] ∧ ∀ n ∈ enabledCores c r, (coreOf c n).paused = true ∧
        ∀ i < 8, ∀ k, (strandOf c (strandId n i)).run = .waiting k → k = 2
      let dma := (dmaOf c r).active ≠ []
      let epoch := getF c (.cls r) 0x020 31 31 = 1
      let mesh := (∃ b ∈ room.banks, ∃ e ∈ b.2.q, e.rq = 16) ∨ ∃ x ∈ c.waiting, x.1 = r.val ∧ x.2.2.rq = 16
      let state := fun (t : State) (p : RoomPower) (v : Nat) => (roomOf t.chip r).power = p ∧ getF t.chip (.cls r) 0x028 19 18 = v
      (room.power = .run → ready → ¬dma → ¬epoch → ¬mesh → Answers (.recessEntry r) s (fun t => state t .entering 3 ∧
        t.chip.mem = c.mem ∧ t.chip.cores = c.cores)) ∧
      (room.power = .run → ready → dma → Answers (.recessEntry r) s (fun t => t.chip = c ∧ Counted s t (0x0400 + r) 2 0)) ∧
      (room.power = .run → ready → ¬dma → epoch → Answers (.recessEntry r) s (fun t => t.chip = c ∧
        Counted s t (0x0440 + r) 2 0)) ∧
      (room.power = .run → ready → ¬dma → ¬epoch → mesh → Answers (.recessEntry r) s (fun t => t.chip = c ∧
        Counted s t (0x0480 + r) 2 0)) ∧
      (room.power = .run → ¬ready → exec (.recessEntry r) s = .next s) ∧
      (room.power = .entering → Answers (.recessEntry r) s (fun t => state t .recess 1 ∧ t.chip.mem = c.mem ∧
        (roomOf t.chip r).pll = false ∧ ∀ p < 16, coreOf t.chip (16 * r + p) = { coreOf c (16 * r + p) with cache := [] })) ∧
      ∀ code : Fin 16, (wakesRoom code.val = false → exec (.recessWake r code) s = .next s) ∧ (wakesRoom code.val = true →
        (room.power = .run → exec (.recessWake r code) s = .next s) ∧
        (room.power = .recess ∨ room.power = .closed → s.dev.power.breach = false → Answers (.recessWake r code) s (fun t =>
          state t .run 0 ∧ getF t.chip (.cls r) 0x028 17 17 = 0 ∧ getF t.chip (.cls r) 0x028 23 20 = code.val ∧
          (∀ p < 16, coreWakeCode t.chip (16 * r + p) = code.val ∧ (coreOf t.chip (16 * r + p)).paused = false) ∧
          t.chip.mem = c.mem)) ∧
        (room.power = .recess ∨ room.power = .closed → s.dev.power.breach = true → Answers (.recessWake r code) s (fun t =>
          t.chip = c ∧ Counted s t 0x0502 3 0)) ∧
        (room.power = .entering → Answers (.recessWake r code) s (fun t => state t .run 0 ∧
          Counted s t (0x0510 + code.val) 2 1)))

/-- R506, R547: POWER_STATE 1 to 3 takes a classroom of idle cores at once, closed only from STOPPED, its DMA
engine with it; of any other core it asks, with a Prefect message and IPEND.PREFECT, and waits; POWER_STATE 0
wakes from every state; after 10 ms idle cores are put there, and what has not followed is aborted, each core
named. The answer is the mask of the classrooms in the state. A window that PIGEON_EN disables refuses the
message (R57), IPEND is set all the same (the model's choice, log entry 63); the REQ numbers are the model's
choice too, log entry 37. -/
def PowerStateCommand : Prop :=
  ∀ (s : State) (p : Fin 2) (h : Fin 8) (cmd : Cmd), Current s p h 0x000B cmd →
    let c := s.chip
    let mask := argOf cmd 1
    let inMask := fun (r : Fin 64) => natBit mask r = true
    let idleRoom := fun (r : Fin 64) => (roomOf c r).asked = none ∧ ∀ n ∈ enabledCores c r, allIdle c n = true
    let all := [mask % 2 ^ 64]
    (argOf cmd 0 = 0 → s.dev.power.breach = false → Finishes (.powerStateRun p h) s cmd 0 all [] (fun t => ∀ r, inMask r →
      (roomOf t.chip r).power = .run ∧ (roomOf t.chip r).asked = none)) ∧
    (argOf cmd 0 = 1 → (∀ r, inMask r → idleRoom r ∧ (roomOf c r).power = .run) → Finishes (.powerStatePause p h) s cmd 0 all []
      (fun t => ∀ r, inMask r → ∀ n ∈ enabledCores c r, (coreOf t.chip n).paused = true)) ∧
    (argOf cmd 0 = 2 → (∀ r, inMask r → idleRoom r ∧ (roomOf c r).power = .run ∧ recessRefuser c r = none) →
      Finishes (.powerStateRecess p h) s cmd 0 all [] (fun t => t.chip.mem = c.mem ∧ ∀ r, inMask r →
        (roomOf t.chip r).power = .recess)) ∧
    (argOf cmd 0 = 3 → (∀ r : Fin 64, inMask r → idleRoom r ∧ bState c (.cls r) = 0) →
      Finishes (.powerStateClosed p h) s cmd 0 all [] (fun t => ∀ r, inMask r → (roomOf t.chip r).power = .closed ∧
        bState t.chip (.dma r) = 0 ∧ (bState c (.dma r) ≠ 0 → getF t.chip (.dma r) 0x002 8 8 = 1) ∧
        ∀ q : Fin 16, StrandsReset t (Fin.ofNat 1024 (16 * r + q)))) ∧
    (argOf cmd 0 = 3 → (∀ r : Fin 64, inMask r → bState c (.cls r) ≠ 0 ∧ (roomOf c r).asked = none ∧ (roomOf c r).power = .run) →
      Finishes (.powerStateClosed p h) s cmd 0 [0] [] (fun t => t.chip = c ∧ ((∃ r, inMask r) → Counted s t 0x0500 3 0))) ∧
    (∀ i want, (i = .powerStatePause p h ∧ want = 1) ∨ (i = .powerStateRecess p h ∧ want = 2) → argOf cmd 0 = want →
      ∀ r, inMask r → ∀ n ∈ enabledCores c r, allIdle c n = false → (coreOf c n).paused = false → Answers i s (fun t =>
        t.dev.warden.cur = some cmd ∧ (roomOf t.chip r).asked = some (want, cmd.ph) ∧
        natBit (creg (strandOf t.chip (strandId n 0)) 28).toNat 1 = true ∧
        (natBit (getF c (.cls r) 0x010 31 16) (n % 16) = true →
          (rdWords t.chip false (pgnBase + 256 * n + 0x80) 3).map Prod.fst = [0xC000, 1, BitVec.ofNat 16 want]))) ∧
    (s.dev.power.refusals = [] → argOf cmd 0 ≤ 3 → Answers .powerStateTimeout s (fun t =>
      HasAnswer s t cmd.ph 0 [stateMask t.chip (argOf cmd 0) mask] [] ∧ t.dev.warden.cur = none ∧
      ∀ r : Fin 64, ∀ x, (roomOf c r).asked = some x → (roomOf t.chip r).asked = none ∧
        (x.1 = 2 ∨ x.1 = 3 ∨ (∃ n ∈ enabledCores c r, (coreOf c n).paused = false ∧ allIdle c n = false) →
          (roomOf t.chip r).power ≠ .entering) ∧
        (x.1 = 1 → ∀ n ∈ enabledCores c r, allIdle c n = true → (coreOf t.chip n).paused = true) ∧
        ∀ n ∈ enabledCores c r, (coreOf c n).paused = false → allIdle c n = false → Counted s t n x.1 1)) ∧
    (argOf cmd 0 ≠ 0 → exec (.powerStateRun p h) s = .next s) ∧ (argOf cmd 0 ≠ 1 → exec (.powerStatePause p h) s = .next s) ∧
    (argOf cmd 0 ≠ 2 → exec (.powerStateRecess p h) s = .next s) ∧
    (argOf cmd 0 ≠ 3 → exec (.powerStateClosed p h) s = .next s) ∧ (argOf cmd 0 ≠ 4 → exec (.powerStateSleep p h) s = .next s)

/-- The blocks of a list run again, a Pump only where its memory controller runs; elsewhere it waits for that (R53). -/
abbrev RunAgain (s t : State) (l : List BlockId) : Prop :=
  (∀ b ∈ l, (∀ k, b = .pmp k → bState s.chip (.hmc k) = 2) → bRun t.chip b = true) ∧
  ∀ k, .pmp k ∈ l → bState s.chip (.hmc k) ≠ 2 → .pmp k ∈ t.dev.warden.lateStart ∧ bRun t.chip (.pmp k) = bRun s.chip (.pmp k)

/-- R53, R343, R537, R539, R548, R549, R554: device sleep is refused while a long command runs; else, once
every block is STOPPED, the classrooms are in recess, the mesh and the ports without WAKE_EN are off (that the
ports keep packet numbers and replay windows is the model's choice, log entry 57), the DRAM refreshes itself
and DSTATE is 0x6. A wake reverses it, returns to the earlier DSTATE and is logged with its source; before the
entry is complete it aborts the entry. That the blocks stop within the row, and the readings of the numbers in
the counts, are the model's choices, log entries 36 and 37. -/
def DeviceSleepAndWake : Prop :=
  ∀ (s : State),
    let c := s.chip
    let w := s.dev.warden
    (∀ (p : Fin 2) (h : Fin 8) (cmd : Cmd), Current s p h 0x000B cmd → argOf cmd 0 = 4 →
      (w.long ≠ none → Finishes (.powerStateSleep p h) s cmd 6 [] [] (fun t => t.chip = c ∧ dstate t = dstate s ∧
        Counted s t 0x0501 4 0)) ∧
      (w.long = none → (∀ b ∈ sleepBlocks, bState c b = 0 ∨ (bState c b = 2 ∧ blockDry c b = true ∧ Stoppable c b)) →
        Finishes (.powerStateSleep p h) s cmd 0 [] [] (fun t => dstate t = 6 ∧ t.dev.warden.before = dstate s ∧
          (∀ b ∈ sleepBlocks, bState t.chip b = 0) ∧
          (∀ r : Fin 64, roomClocked c r = true → (roomOf t.chip r).power = .recess ∧ r.val ∈ t.dev.warden.rested) ∧
          (∀ d < 4, tget (fun _ => false) t.chip.meshOn d = false) ∧
          (∀ n : Fin 16, getF c (.eth n) 0x010 8 8 = 0 → tget (fun _ => false) t.chip.portOff n = true ∧
            ethOf t n = { ethReset with pn := (ethOf s n).pn, rx := (ethOf s n).rx }) ∧
          (∀ k < 8, (stackOf c k).powered = true → (stackOf t.chip k).selfRefresh = true) ∧
          ((∀ k < 8, (stackOf c k).pump.pass = 0) → t.chip.mem = c.mem)))) ∧
    ∀ code : Fin 16,
      (4 ≤ code.val → code.val ≤ 8 → dstate s = 6 → Answers (.deviceWake code) s (fun t => dstate t = w.before ∧
        t.dev.warden.rested = [] ∧ (LogHasRoom s → ∃ e ∈ t.dev.warden.waiting, e.code = 0x0503 ∧ e.data = [code.val]) ∧
        RunAgain s t w.restart ∧
        (s.dev.power.breach = false → (∀ d < 4, tget (fun _ => false) t.chip.meshOn d = true) ∧
          ∀ r ∈ w.rested, (roomOf c r).power = .recess → (roomOf t.chip r).power = .run ∧
            getF t.chip (clsB r) 0x028 17 17 = 0 ∧ ∀ q < 16, (coreOf t.chip (16 * r + q)).paused = false) ∧
        (s.dev.power.breach = true → Counted s t 0x0502 4 0 ∧ ∀ r, (roomOf c r).power = .recess ∨ (roomOf c r).power = .closed →
          (roomOf t.chip r).power = (roomOf c r).power) ∧
        (∀ n < 16, tget (fun _ => false) t.chip.portOff n = false) ∧ (∀ k < 8, (stackOf t.chip k).selfRefresh = false) ∧
        t.chip.mem = c.mem)) ∧
      (code.val < 4 ∨ 8 < code.val → exec (.deviceWake code) s = .next s) ∧
      (dstate s ≠ 6 → sleepCmd s = none → exec (.deviceWake code) s = .next s) ∧
      ∀ cmd, 4 ≤ code.val → code.val ≤ 8 → dstate s ≠ 6 → sleepCmd s = some cmd → (pigeonOf s cmd.ph).drop = false →
        Answers (.deviceWake code) s (fun t => HasAnswer s t cmd.ph 9 [] [] ∧ t.dev.warden.cur = none ∧ dstate t = dstate s ∧
          RunAgain s t w.restart ∧ t.chip.mem = c.mem ∧ Counted s t (0x0510 + code.val) 4 1)

end Sys2Proof.Machine

/-! ### The sideband (R589 to R593) -/

namespace Sys2Proof.Machine

/-- The command changes the sideband only, and P holds of it. -/
abbrev SideAnswers (i : Instr) (s : State) (P : Side → Prop) : Prop :=
  ∃ x, exec i s = .next { s with dev := { s.dev with side := x } } ∧ P x

/-- The commands of the sideband. -/
def onSideband : Instr → Prop
  | .getTid | .getPldmVersion _ | .getPldmTypes | .getPldmCommands _ | .getPdrRepositoryInfo | .getPdr _ => True
  | .getSensorReading _ | .getStateSensorReadings _ | .pldmUnsupported _ _ | .setEndpointId _ | .getEndpointId => True
  | .getMctpVersionSupport | .getMessageTypeSupport | .setaasa | .entdaa _ => True
  | _ => False

/-- The sensors of R592: id, kind and unit, steps of the resolution in one unit. -/
def sensorTable : List SensorPdr :=
  [⟨1, .volt, 100⟩, ⟨2, .ampere, 100⟩, ⟨3, .watt, 1⟩, ⟨4, .celsius, 10⟩, ⟨5, .celsius, 10⟩] ++
  (List.range 4).map (fun d => ⟨16 + d, .celsius, 1⟩) ++ [⟨20, .celsius, 1⟩, ⟨21, .celsius, 1⟩] ++
  (List.range 16).map (fun k => ⟨24 + k, .celsius, 1⟩) ++ [⟨64, .states 8, 1⟩, ⟨65, .states 2, 1⟩]

end Sys2Proof.Machine

/-- R589 to R593: nothing on the sideband changes the device, and nothing is acknowledged before the firmware
runs or in DEAD; the first transaction chooses I3C or SMBus; in I3C mode a dynamic address; the endpoint id;
the message types, PLDM types and commands that R590 and R591 list, and error 0x05 for any other; the sensors,
units and readings of R592. TID, versions and the repository's information are the same in every state. The
model's choices, log entry 46: the bytes of an answer (PRESUMED from the DMTF documents), that a request
before any I3C command is an SMBus transaction, that a target keeps the dynamic address it has, that 0 and
0xFF are no endpoint ids, and which handle a sensor's record has. -/
def Obligations.SidebandAnswers : Prop :=
  (∀ (s : State),
    let x := s.dev.side
    let m := s.dev.power.sample
    let bit := fun (y : Side) (i : Nat) => natBit (y.resp.getD (1 + i / 8) 0) (i % 8) = true
    let mode := fun (i : Instr) => x.mode.getD (if i = .setaasa ∨ ∃ a, i = .entdaa a then .i3c else .smbus)
    (∀ i, onSideband i → SideAnswers i s (fun y => (powered s = true → y.mode = some (mode i)) ∧
      (powered s = false → y = x) ∧ (fwUp s = false → y = { x with mode := y.mode }))) ∧
    (fwUp s = true →
      (∀ i a, (i = .setaasa ∧ a = 0x4C + Config.addrSel.toNat) ∨ (∃ b, i = .entdaa b ∧ a = b.val) →
        (x.mode ≠ some .smbus → SideAnswers i s (fun y => y = { x with mode := some .i3c, dyn := some (x.dyn.getD a) })) ∧
        (x.mode = some .smbus → exec i s = .next s)) ∧
      (∀ e, SideAnswers (.setEndpointId e) s (fun y => y.dyn = x.dyn ∧
        (e.val = 0 ∨ e.val = 255 → y.eid = x.eid) ∧ (e.val ≠ 0 → e.val ≠ 255 → y.eid = e.val ∧ y.resp = [0, 0, e.val, 0]))) ∧
      SideAnswers .getEndpointId s (fun y => y.eid = x.eid ∧ y.resp.take 2 = [0, x.eid]) ∧
      SideAnswers .getMctpVersionSupport s (fun y => y.resp.head? = some 0 ∧ y.eid = x.eid) ∧
      SideAnswers .getMessageTypeSupport s (fun y => y.resp = [0, 1, 1]) ∧
      SideAnswers .getPldmTypes s (fun y => y.resp.length = 9 ∧ ∀ i < 64, bit y i ↔ i = 0 ∨ i = 2) ∧
      (∀ ty, SideAnswers (.getPldmCommands ty) s (fun y =>
        (ty.val = 0 → y.resp.length = 33 ∧ ∀ i < 256, bit y i ↔ i ∈ [2, 3, 4, 5]) ∧
        (ty.val = 2 → y.resp.length = 33 ∧ ∀ i < 256, bit y i ↔ i ∈ [0x11, 0x21, 0x50, 0x51]))) ∧
      (∀ n, SideAnswers (.getPdr n) s (fun y => y.eid = x.eid ∧ y.dyn = x.dyn ∧
        (∀ z ∈ sensorTable, Config.pdrSensor n = some z.id → y.pdr = some z ∧ y.resp.head? = some 0) ∧
        ((∀ z ∈ sensorTable, Config.pdrSensor n ≠ some z.id) → y.pdr = none))) ∧
      (∀ ty cmd, SideAnswers (.pldmUnsupported ty cmd) s (fun y => y.eid = x.eid ∧ y.dyn = x.dyn ∧
        let listed := (ty.val = 0 ∧ cmd.val ∈ [2, 3, 4, 5]) ∨ (ty.val = 2 ∧ cmd.val ∈ [0x11, 0x21, 0x50, 0x51])
        (¬ listed → y.resp = [5]) ∧ (listed → y.resp = x.resp))) ∧
      (∀ id v, (id, v) ∈ ([(1, (m.vin : Int)), (2, (m.iin : Int)), (3, ((m.a1s / 1000 : Nat) : Int)), (4, m.inlet), (5, m.outlet)] ++
          (List.range 4).map (fun d => (16 + d, m.cd.getD d 0)) ++ (List.range 2).map (fun d => (20 + d, m.io.getD d 0)) ++
          (List.range 8).map (fun k => (24 + k, m.base.getD k 0)) ++
          (List.range 8).map (fun k => (32 + k, (getF s.chip (hmcB k) 0x012 7 0 : Int)))) →
        SideAnswers (.getSensorReading id) s (fun y => y.reading = some v ∧ y.resp.head? = some 0)) ∧
      SideAnswers (.getStateSensorReadings 64) s (fun y => y.reading = some (dstate s : Int)) ∧
      SideAnswers (.getStateSensorReadings 65) s (fun y => y.reading = some (if s.dev.power.breach then 1 else 0)))) ∧
  ∃ (tid info : List Nat) (vers : Fin 256 → List Nat), ∀ s : State, fwUp s = true →
    SideAnswers .getTid s (fun y => y.resp = 0 :: tid) ∧ SideAnswers .getPdrRepositoryInfo s (fun y => y.resp = 0 :: info) ∧
    ∀ ty : Fin 256, SideAnswers (.getPldmVersion ty) s (fun y => y.eid = s.dev.side.eid ∧ y.dyn = s.dev.side.dyn ∧
      (ty.val = 0 ∨ ty.val = 2 → y.resp = 0 :: vers ty))

/-! ### Statements of several parts -/

/-- Every command answers a next state and leaves the queue alone: EveryCommandAnswersANextState, CommandsLeaveTheQueueAlone. -/
def Obligations.EveryCommandAnswersAndLeavesTheQueue : Prop :=
  Sys2Proof.Machine.EveryCommandAnswersANextState ∧ Sys2Proof.Machine.CommandsLeaveTheQueueAlone

/-- Visibility slots, delay slots and loops at the end of a slot: DueWritesBecomeVisibleAndOthersDoNot, RetireMovesTheStrandOn. -/
def Obligations.SlotsEndAndWritesBecomeVisible : Prop :=
  Sys2Proof.Machine.DueWritesBecomeVisibleAndOthersDoNot ∧ Sys2Proof.Machine.RetireMovesTheStrandOn

/-- Where integer instructions, branches and control writes fault: IntegerInstructionFaults, BranchFaults, ControlWriteFaults. -/
def Obligations.ScalarInstructionFaults : Prop :=
  Sys2Proof.Machine.IntegerInstructionFaults ∧ Sys2Proof.Machine.BranchFaults ∧
  Sys2Proof.Machine.ControlWriteFaults

/-- Branches set their outcome and loops their registers: BranchesSetTheirOutcome, LoopsStart. -/
def Obligations.BranchesAndLoopsSetTheirOutcome : Prop :=
  Sys2Proof.Machine.BranchesSetTheirOutcome ∧ Sys2Proof.Machine.LoopsStart

/-- Float patterns encode exactly; add, multiply, min and max commute: FloatPatternsEncodeExactly, FloatOperandOrder. -/
def Obligations.FloatFormatsAndOperandOrder : Prop :=
  Sys2Proof.Machine.FloatPatternsEncodeExactly ∧ Sys2Proof.Machine.FloatOperandOrder

/-- Effective addresses of loads and stores, and their faults in order: EffectiveAddresses, AddressFaultsInOrder,
MemoryInstructionFaults. -/
def Obligations.DataAddressesAndTheirFaults : Prop :=
  Sys2Proof.Machine.EffectiveAddresses ∧ Sys2Proof.Machine.AddressFaultsInOrder ∧
  Sys2Proof.Machine.MemoryInstructionFaults

/-- Loads issue their data, stores write through, late results arrive: LoadsIssueTheirData, StoresWriteThrough,
ResultComputedReleasesTheOldestLateWrite. -/
def Obligations.LoadsAndStoresComplete : Prop :=
  Sys2Proof.Machine.LoadsIssueTheirData ∧ Sys2Proof.Machine.StoresWriteThrough ∧
  Sys2Proof.Machine.ResultComputedReleasesTheOldestLateWrite

/-- Frames of the scalar loads and stores: StoresChangeOnlyTheirWords, LoadsChangeNoMemory. -/
def Obligations.LoadAndStoreFrames : Prop :=
  Sys2Proof.Machine.StoresChangeOnlyTheirWords ∧ Sys2Proof.Machine.LoadsChangeNoMemory

/-- EXCEPTION_ENTRY takes what stands at the slot, in its order: ExceptionEntryTakesWhatStands, OwedThenInterruptThenFetch. -/
def Obligations.ExceptionEntryTakesWhatStands : Prop :=
  Sys2Proof.Machine.ExceptionEntryTakesWhatStands ∧ Sys2Proof.Machine.OwedThenInterruptThenFetch

/-- XRET restores the frame or raises the return fault: ReturnCompletes, ReturnFaults. -/
def Obligations.ReturnRestoresOrFaults : Prop :=
  Sys2Proof.Machine.ReturnCompletes ∧ Sys2Proof.Machine.ReturnFaults

/-- VLSET, VMFC and VMTC complete, and where they fault: VectorControl, VectorControlFaults. -/
def Obligations.VectorControlAndItsFaults : Prop :=
  Sys2Proof.Machine.VectorControl ∧ Sys2Proof.Machine.VectorControlFaults

/-- Element 0, reductions and block conversions: VectorToScalar, BlockConversions. -/
def Obligations.VectorReductionsAndBlockConversions : Prop :=
  Sys2Proof.Machine.VectorToScalar ∧ Sys2Proof.Machine.BlockConversions

/-- Vector addresses, loads and stores: VectorAddresses, VectorLoads, VectorStores. -/
def Obligations.VectorLoadsAndStores : Prop :=
  Sys2Proof.Machine.VectorAddresses ∧ Sys2Proof.Machine.VectorLoads ∧ Sys2Proof.Machine.VectorStores

/-- Vector memory faults leave VRESUME; masked v0, unowned and pending registers: VectorMemoryResumes, VectorRegisterFaults. -/
def Obligations.VectorFaultsAndResumption : Prop :=
  Sys2Proof.Machine.VectorMemoryResumes ∧ Sys2Proof.Machine.VectorRegisterFaults

/-- Tile control registers, their faults and the shape checks: TileControl, ShapeChecks, TileControlFaults. -/
def Obligations.TileControlAndShapeChecks : Prop :=
  Sys2Proof.Machine.TileControl ∧ Sys2Proof.Machine.ShapeChecks ∧ Sys2Proof.Machine.TileControlFaults

/-- Tile instructions enter the queue with latched operands, or fault: TileInstructionsEnterTheQueue, TileInstructionFaults,
TileOperandFaults. -/
def Obligations.TileInstructionsEnterOrFault : Prop :=
  Sys2Proof.Machine.TileInstructionsEnterTheQueue ∧ Sys2Proof.Machine.TileInstructionFaults ∧
  Sys2Proof.Machine.TileOperandFaults

/-- TILE_COMMIT takes the oldest; what tile loads and stores leave: CommitsTakeTheOldest, TileLoadCommits,
TransposedAndWeightLoadsCommit, TileStoresWriteTheirRows. -/
def Obligations.TileMemoryCommitsInOrder : Prop :=
  Sys2Proof.Machine.CommitsTakeTheOldest ∧ Sys2Proof.Machine.TileLoadCommits ∧
  Sys2Proof.Machine.TransposedAndWeightLoadsCommit ∧ Sys2Proof.Machine.TileStoresWriteTheirRows

/-- Slots open and close; TMAC adds block sums: SlotsOpenAndClose, TileMultiplyAdds. -/
def Obligations.SlotsAndMultiplyAdds : Prop :=
  Sys2Proof.Machine.SlotsOpenAndClose ∧ Sys2Proof.Machine.TileMultiplyAdds

/-- CHUNK and TREE promotions, closes, TACC.READ, buffer faults: ChunksArePromoted, ReductionsClose, TaccReadConverts, BufferFaults. -/
def Obligations.ChunkAndTreeReductions : Prop :=
  Sys2Proof.Machine.ChunksArePromoted ∧ Sys2Proof.Machine.ReductionsClose ∧ Sys2Proof.Machine.TaccReadConverts ∧
  Sys2Proof.Machine.BufferFaults

/-- Classroom banks, their errors, and cache fills: BanksServeInTurn, ClassroomErrors, CacheFillReturns. -/
def Obligations.BanksErrorsAndCacheFills : Prop :=
  Sys2Proof.Machine.BanksServeInTurn ∧ Sys2Proof.Machine.ClassroomErrors ∧ Sys2Proof.Machine.CacheFillReturns

/-- DMA descriptors are checked and activated: DmaActivates, DescriptorChecks. -/
def Obligations.DmaDescriptorsActivate : Prop :=
  Sys2Proof.Machine.DmaActivates ∧ Sys2Proof.Machine.DescriptorChecks

/-- DMA pieces issue, write and end their descriptor: DmaPiecesIssue, DmaPiecesWrite. -/
def Obligations.DmaPiecesMoveWords : Prop :=
  Sys2Proof.Machine.DmaPiecesIssue ∧ Sys2Proof.Machine.DmaPiecesWrite

/-- HBM controllers take requests; lines spread over the DRAM banks: HbmAdmission, LinesSpreadOverBanks. -/
def Obligations.HbmRequestsAndBanks : Prop :=
  Sys2Proof.Machine.HbmAdmission ∧ Sys2Proof.Machine.LinesSpreadOverBanks

/-- DRAM accesses with their errors, refresh, scrub and temperature: DramAccesses, RefreshAndScrub. -/
def Obligations.DramAccessRefreshAndScrub : Prop :=
  Sys2Proof.Machine.DramAccesses ∧ Sys2Proof.Machine.RefreshAndScrub

/-- Pump passes, the votes and the Syllabus: SyllabusEnds, PumpGroupVotes, PassOneCompletes, PassTwoCompletes, UpdateRules,
PassTwoUpdates. -/
def Obligations.PumpPassesAndSyllabus : Prop :=
  Sys2Proof.Machine.SyllabusEnds ∧ Sys2Proof.Machine.PumpGroupVotes ∧ Sys2Proof.Machine.PassOneCompletes ∧
  Sys2Proof.Machine.PassTwoCompletes ∧ Sys2Proof.Machine.UpdateRules ∧ Sys2Proof.Machine.PassTwoUpdates

/-- The states of a block and the agreement checks of a classroom: BlocksMoveBetweenStates, PumpsStartAfterTheirControllers,
ClassroomPairs. -/
def Obligations.BlocksMoveBetweenStates : Prop :=
  Sys2Proof.Machine.BlocksMoveBetweenStates ∧ Sys2Proof.Machine.PumpsStartAfterTheirControllers ∧
  Sys2Proof.Machine.ClassroomPairs

/-- Register reads and writes, and writes with effects of their own: RegistersReadAndWritten, WritesWithEffects. -/
def Obligations.RegistersReadAndWritten : Prop :=
  Sys2Proof.Machine.RegistersReadAndWritten ∧ Sys2Proof.Machine.WritesWithEffects

/-- Ring transactions, core pigeonholes, reports that reach the Warden: RingTransactions, ReportsReachTheLog, CorePigeonholes. -/
def Obligations.RingTransactionsAndReports : Prop :=
  Sys2Proof.Machine.RingTransactions ∧ Sys2Proof.Machine.ReportsReachTheLog ∧ Sys2Proof.Machine.CorePigeonholes

/-- Lessons start, wait and end; Pump passes start: WaitLeavesIssue, ClassroomReleaseStartsLessons, LessonsEnd,
PumpReleaseStartsThePass. -/
def Obligations.LessonsAndPassesOfAPeriod : Prop :=
  Sys2Proof.Machine.WaitLeavesIssue ∧ Sys2Proof.Machine.ClassroomReleaseStartsLessons ∧
  Sys2Proof.Machine.LessonsEnd ∧ Sys2Proof.Machine.PumpReleaseStartsThePass

/-- Readiness, the ring and the next period; halts: DevicesBecomeReady, BellsReleaseTheNextPeriod, HaltsStopTheSchool. -/
def Obligations.BellsRingAndHaltsStop : Prop :=
  Sys2Proof.Machine.DevicesBecomeReady ∧ Sys2Proof.Machine.BellsReleaseTheNextPeriod ∧
  Sys2Proof.Machine.HaltsStopTheSchool

/-- Frame checks, bytes on the wire, send windows, received data: FramesAreChecked, FramesOnTheWire, WindowsAreSent,
DataFramesArrive. -/
def Obligations.FramesAndWindows : Prop :=
  Sys2Proof.Machine.FramesAreChecked ∧ Sys2Proof.Machine.FramesOnTheWire ∧ Sys2Proof.Machine.WindowsAreSent ∧
  Sys2Proof.Machine.DataFramesArrive

/-- Retransmission, the bell tree and the school agreement: RetransmissionFrames, BellFrames, SchoolAgreement. -/
def Obligations.RetransmissionBellsAndAgreement : Prop :=
  Sys2Proof.Machine.RetransmissionFrames ∧ Sys2Proof.Machine.BellFrames ∧ Sys2Proof.Machine.SchoolAgreement

/-- Ports, links and RoCEv2 transfers: PortsAndLinks, RoceTransfers, TransfersToTheHost. -/
def Obligations.PortsAndRoceTransfers : Prop :=
  Sys2Proof.Machine.PortsAndLinks ∧ Sys2Proof.Machine.RoceTransfers ∧ Sys2Proof.Machine.TransfersToTheHost

/-- Host writes to pigeonholes and the checks at acceptance: HostWritesToPigeonholes, AcceptanceChecks. -/
def Obligations.PigeonholesAndAcceptance : Prop :=
  Sys2Proof.Machine.HostWritesToPigeonholes ∧ Sys2Proof.Machine.AcceptanceChecks

/-- Commands are taken and answered; owner and observer; vectors: CommandsAreTakenAndEnded, RolesAndPorts, VectorsAndConfiguration. -/
def Obligations.CommandsTakenAndRoles : Prop :=
  Sys2Proof.Machine.CommandsAreTakenAndEnded ∧ Sys2Proof.Machine.RolesAndPorts ∧
  Sys2Proof.Machine.VectorsAndConfiguration

/-- Event log, settings, status and registers for the host: EventLog, SettingsAndStatus, RegistersFromTheHost. -/
def Obligations.EventLogSettingsAndRegisters : Prop :=
  Sys2Proof.Machine.EventLog ∧ Sys2Proof.Machine.SettingsAndStatus ∧ Sys2Proof.Machine.RegistersFromTheHost

/-- Identity record, attestation report and link keys: IdentityAndAttestation, LinkKeys. -/
def Obligations.IdentityAndLinkKeys : Prop :=
  Sys2Proof.Machine.IdentityAndAttestation ∧ Sys2Proof.Machine.LinkKeys

/-- Job bundles: blocks, load, start, abort, unload: BundlesInAndOut, JobsLoadAndStart. -/
def Obligations.JobsLoadStartAndUnload : Prop :=
  Sys2Proof.Machine.BundlesInAndOut ∧ Sys2Proof.Machine.JobsLoadAndStart

/-- Survey, resync, refill, rebuild, resume and replay: SurveyAndResync, RecoveryCommands, RefillsUseEveryPort,
FurtherRefillsStartAnew. -/
def Obligations.SurveyAndRecovery : Prop :=
  Sys2Proof.Machine.SurveyAndResync ∧ Sys2Proof.Machine.RecoveryCommands ∧ Sys2Proof.Machine.RefillsUseEveryPort
  ∧ Sys2Proof.Machine.FurtherRefillsStartAnew

/-- Compute, classroom, core, stack and port resets: ComputeSideResets, StackAndPortResets. -/
def Obligations.ResetsBelowTheWarden : Prop :=
  Sys2Proof.Machine.ComputeSideResets ∧ Sys2Proof.Machine.StackAndPortResets

/-- Cold reset, the ROM flow, and the phases to DSTATE 0x1: ColdResetAndRomFlow, PhasesToReady. -/
def Obligations.ColdResetToReady : Prop :=
  Sys2Proof.Machine.ColdResetAndRomFlow ∧ Sys2Proof.Machine.PhasesToReady

/-- HBM and compute come-up, PLL locks, wipes and memory keys: HbmComputeAndPlls, WipesZeroTheStack, MemoryKeys. -/
def Obligations.MemoryComputeAndPllsComeUp : Prop :=
  Sys2Proof.Machine.HbmComputeAndPlls ∧ Sys2Proof.Machine.WipesZeroTheStack ∧ Sys2Proof.Machine.MemoryKeys

/-- Spillway, floors, Sluice, PL0 residency and the Breach: SpillwayFloorsAndSluice, PL0Residency, TheBreach. -/
def Obligations.PowerLimitsAndTheBreach : Prop :=
  Sys2Proof.Machine.SpillwayFloorsAndSluice ∧ Sys2Proof.Machine.PL0Residency ∧ Sys2Proof.Machine.TheBreach

/-- Pause, recess, POWER_STATE, device sleep and the wakes: PauseAndRecess, PowerStateCommand, DeviceSleepAndWake. -/
def Obligations.SleepAndWake : Prop :=
  Sys2Proof.Machine.PauseAndRecess ∧ Sys2Proof.Machine.PowerStateCommand ∧ Sys2Proof.Machine.DeviceSleepAndWake
end

