-- ==== Sys2Proof/Laws/Table.lean ====
section
/-! SUPPORT. The laws of sparse tables: a read after a write gives what was written, a write leaves every other number
alone, and every operation keeps the canonical form. -/

namespace Sys2Proof.Machine

variable {α : Type}

@[simp] theorem tget_nil (d : Nat → α) (k : Nat) : tget d [] k = d k := rfl

theorem tget_terase_self (d : Nat → α) (t : Table α) (k : Nat) : tget d (terase t k) k = d k := by
  induction t with
  | nil => rfl
  | cons e t ih =>
    obtain ⟨j, v⟩ := e
    by_cases h : j = k
    · subst h; simpa [terase] using ih
    · simp only [terase, List.filter_cons, ne_eq, h, not_false_eq_true, decide_true, if_true, tget, if_false]
      simpa [terase] using ih

theorem tget_terase_ne (d : Nat → α) (t : Table α) {k j : Nat} (h : j ≠ k) :
    tget d (terase t k) j = tget d t j := by
  induction t with
  | nil => rfl
  | cons e t ih =>
    obtain ⟨i, v⟩ := e
    by_cases hi : i = k
    · subst hi
      have : i ≠ j := fun e => h e.symm
      simpa [terase, tget, this] using ih
    · simp only [terase, List.filter_cons, ne_eq, hi, not_false_eq_true, decide_true, if_true, tget]
      by_cases hij : i = j
      · simp [hij]
      · simpa [hij, terase] using ih

theorem tget_tins_self (d : Nat → α) (t : Table α) (k : Nat) (v : α) (h : ∀ e ∈ t, e.1 ≠ k) :
    tget d (tins k v t) k = v := by
  induction t with
  | nil => simp [tins, tget]
  | cons e t ih =>
    obtain ⟨j, w⟩ := e
    have hj : j ≠ k := h (j, w) (by simp)
    simp only [tins]
    split
    · simp [tget]
    · simp only [tget, hj, if_false]
      exact ih (fun e he => h e (by simp [he]))

theorem tget_tins_ne (d : Nat → α) (t : Table α) {k j : Nat} (v : α) (h : j ≠ k) :
    tget d (tins k v t) j = tget d t j := by
  have hk : k ≠ j := fun e => h e.symm
  induction t with
  | nil => simp [tins, tget, hk]
  | cons e t ih =>
    obtain ⟨i, w⟩ := e
    simp only [tins]
    split
    · simp [tget, hk]
    · simp only [tget, ih]

theorem mem_terase_ne {t : Table α} {k : Nat} : ∀ e ∈ terase t k, e.1 ≠ k := by
  intro e he
  simpa [terase] using (List.mem_filter.mp he).2

@[simp] theorem tget_tput_self [DecidableEq α] (d : Nat → α) (t : Table α) (k : Nat) (v : α) :
    tget d (tput d t k v) k = v := by
  unfold tput
  split
  · next h => rw [tget_terase_self, h]
  · exact tget_tins_self d _ k v mem_terase_ne

theorem tget_tput_ne [DecidableEq α] (d : Nat → α) (t : Table α) {k j : Nat} (v : α) (h : j ≠ k) :
    tget d (tput d t k v) j = tget d t j := by
  unfold tput
  split
  · exact tget_terase_ne d t h
  · rw [tget_tins_ne d _ v h, tget_terase_ne d t h]

theorem tget_tput [DecidableEq α] (d : Nat → α) (t : Table α) (k j : Nat) (v : α) :
    tget d (tput d t k v) j = if j = k then v else tget d t j := by
  split
  · next h => subst h; simp
  · next h => exact tget_tput_ne d t v h

theorem tget_tmod [DecidableEq α] (d : Nat → α) (t : Table α) (k j : Nat) (f : α → α) :
    tget d (tmod d t k f) j = if j = k then f (tget d t k) else tget d t j := by
  simp [tmod, tget_tput]

theorem tget_tclear (d : Nat → α) (t : Table α) (p : Nat → Bool) (j : Nat) :
    tget d (tclear t p) j = if p j then d j else tget d t j := by
  induction t with
  | nil => simp [tclear]
  | cons e t ih =>
    obtain ⟨i, v⟩ := e
    simp only [tclear] at ih ⊢
    by_cases hp : p i
    · rw [List.filter_cons_of_neg (by simp [hp]), ih]
      by_cases hij : i = j
      · subst hij; simp [hp]
      · simp [tget, hij]
    · rw [List.filter_cons_of_pos (by simp [hp])]
      by_cases hij : i = j
      · subst hij; simp [tget, hp]
      · simp [tget, hij, ih]

theorem mem_tins {t : Table α} {k : Nat} {v : α} {e : Nat × α} : e ∈ tins k v t ↔ e = (k, v) ∨ e ∈ t := by
  induction t with
  | nil => simp [tins]
  | cons x t ih =>
    obtain ⟨j, w⟩ := x
    simp only [tins]
    split
    · simp
    · simp only [List.mem_cons, ih]; tauto

theorem tins_sorted {t : Table α} {k : Nat} {v : α} (hs : List.Pairwise (fun a b => a.1 < b.1) t)
    (hk : ∀ e ∈ t, e.1 ≠ k) : List.Pairwise (fun a b => a.1 < b.1) (tins k v t) := by
  induction t with
  | nil => simp [tins]
  | cons x t ih =>
    obtain ⟨j, w⟩ := x
    have hj : j ≠ k := hk (j, w) (by simp)
    rw [List.pairwise_cons] at hs
    simp only [tins]
    split
    · next h =>
      refine List.pairwise_cons.mpr ⟨?_, List.pairwise_cons.mpr hs⟩
      intro e he
      rcases List.mem_cons.mp he with rfl | he
      · exact h
      · exact Nat.lt_trans h (hs.1 e he)
    · next h =>
      refine List.pairwise_cons.mpr ⟨?_, ih hs.2 (fun e he => hk e (by simp [he]))⟩
      intro e he
      rcases mem_tins.mp he with rfl | he
      · simp only; omega
      · exact hs.1 e he

theorem terase_wf {d : Nat → α} {t : Table α} (h : TableWf d t) (k : Nat) : TableWf d (terase t k) :=
  ⟨h.1.filter _, fun e he => h.2 e (List.mem_of_mem_filter he)⟩

theorem tput_wf [DecidableEq α] {d : Nat → α} {t : Table α} (h : TableWf d t) (k : Nat) (v : α) :
    TableWf d (tput d t k v) := by
  unfold tput
  split
  · exact terase_wf h k
  · next hv =>
    refine ⟨tins_sorted (terase_wf h k).1 mem_terase_ne, fun e he => ?_⟩
    rcases mem_tins.mp he with rfl | he
    · exact hv
    · exact (terase_wf h k).2 e he

theorem tmod_wf [DecidableEq α] {d : Nat → α} {t : Table α} (h : TableWf d t) (k : Nat) (f : α → α) :
    TableWf d (tmod d t k f) := tput_wf h k _

theorem tclear_wf {d : Nat → α} {t : Table α} (h : TableWf d t) (p : Nat → Bool) : TableWf d (tclear t p) :=
  ⟨h.1.filter _, fun e he => h.2 e (List.mem_of_mem_filter he)⟩

theorem tget_tputs_of_notMem [DecidableEq α] (d : Nat → α) (l : List (Nat × α)) (k : Nat) :
    ∀ t : Table α, (∀ e ∈ l, e.1 ≠ k) → tget d (tputs d t l) k = tget d t k := by
  induction l with
  | nil => exact fun _ _ => rfl
  | cons e l ih =>
    intro t h
    obtain ⟨j, v⟩ := e
    have hj : k ≠ j := fun he => h (j, v) (by simp) he.symm
    simp only [tputs, ih _ (fun e he => h e (by simp [he])), tget_tput_ne d t v hj]

theorem tget_eq_default_of_notMem (d : Nat → α) (k : Nat) : ∀ t : Table α, (∀ e ∈ t, e.1 ≠ k) → tget d t k = d k := by
  intro t
  induction t with
  | nil => exact fun _ => rfl
  | cons e t ih =>
    intro h
    obtain ⟨j, v⟩ := e
    have hj : j ≠ k := h (j, v) (by simp)
    simpa only [tget, hj, if_false] using ih (fun e he => h e (by simp [he]))

/-- Setting several numbers each to its value under g leaves each listed number with it. -/
theorem tget_tputs_of_mem [DecidableEq α] (d : Nat → α) (g : Nat → α) (l : List Nat) (k : Nat) (hk : k ∈ l) :
    ∀ t : Table α, tget d (tputs d t (l.map (fun j => (j, g j)))) k = g k := by
  induction l with
  | nil => cases hk
  | cons j l ih =>
    intro t
    simp only [List.map_cons, tputs]
    by_cases h : k ∈ l
    · exact ih h _
    · have hj : k = j := by simpa [h] using hk
      subst hj
      rw [tget_tputs_of_notMem d _ _ _ (by
        intro e he heq
        obtain ⟨i, hi, rfl⟩ := List.mem_map.mp he
        exact h (heq ▸ hi)), tget_tput_self]

theorem tget_tmap [DecidableEq α] (d : Nat → α) (f : Nat → α → α) (t : Table α) (k : Nat) (h : f k (d k) = d k) :
    tget d (tmap d f t) k = f k (tget d t k) := by
  have e : t.map (fun e => (e.1, f e.1 (tget d t e.1))) = (t.map Prod.fst).map (fun j => (j, f j (tget d t j))) := by
    simp [List.map_map, Function.comp_def]
  unfold tmap
  rw [e]
  by_cases hk : k ∈ t.map Prod.fst
  · exact tget_tputs_of_mem d _ _ k hk _
  · have hn : ∀ e ∈ t, e.1 ≠ k := fun e he heq => hk (List.mem_map.mpr ⟨e, he, heq⟩)
    rw [tget_tputs_of_notMem d _ _ _ (by
      intro e he heq
      obtain ⟨i, hi, rfl⟩ := List.mem_map.mp he
      exact hk (heq ▸ hi)), tget_nil, tget_eq_default_of_notMem d k t hn, h]

theorem tputs_wf [DecidableEq α] {d : Nat → α} (l : List (Nat × α)) :
    ∀ {t : Table α}, TableWf d t → TableWf d (tputs d t l) := by
  induction l with
  | nil => exact fun h => h
  | cons e l ih => exact fun h => ih (tput_wf h e.1 e.2)

theorem tmap_wf [DecidableEq α] {d : Nat → α} (f : Nat → α → α) (t : Table α) : TableWf d (tmap d f t) :=
  tputs_wf _ ⟨List.Pairwise.nil, fun e he => by cases he⟩

end Sys2Proof.Machine
end

