-- ==== Sys2Proof/Laws/State.lean ====
section
/-! SUPPORT. One lemma for each field under each named update of the state, so that no proof unfolds a record
update; and the reading back of what the named operations write. -/

namespace Sys2Proof.Machine

/-! ### The state -/

@[simp] theorem withChip_pending (s : State) (c : Chip) : (s.withChip c).pending = s.pending := rfl
@[simp] theorem withChip_flash (s : State) (c : Chip) : (s.withChip c).flash = s.flash := rfl
@[simp] theorem withChip_fuses (s : State) (c : Chip) : (s.withChip c).fuses = s.fuses := rfl
@[simp] theorem withChip_chip (s : State) (c : Chip) : (s.withChip c).chip = c := rfl
@[simp] theorem withChip_dev (s : State) (c : Chip) : (s.withChip c).dev = s.dev := rfl
@[simp] theorem modChip_pending (f : Chip → Chip) (s : State) : (modChip f s).pending = s.pending := rfl
@[simp] theorem modChip_flash (f : Chip → Chip) (s : State) : (modChip f s).flash = s.flash := rfl
@[simp] theorem modChip_fuses (f : Chip → Chip) (s : State) : (modChip f s).fuses = s.fuses := rfl
@[simp] theorem modChip_chip (f : Chip → Chip) (s : State) : (modChip f s).chip = f s.chip := rfl
@[simp] theorem modChip_dev (f : Chip → Chip) (s : State) : (modChip f s).dev = s.dev := rfl
@[simp] theorem modDev_pending (f : Dev → Dev) (s : State) : (modDev f s).pending = s.pending := rfl
@[simp] theorem modDev_flash (f : Dev → Dev) (s : State) : (modDev f s).flash = s.flash := rfl
@[simp] theorem modDev_fuses (f : Dev → Dev) (s : State) : (modDev f s).fuses = s.fuses := rfl
@[simp] theorem modDev_chip (f : Dev → Dev) (s : State) : (modDev f s).chip = s.chip := rfl
@[simp] theorem modDev_dev (f : Dev → Dev) (s : State) : (modDev f s).dev = f s.dev := rfl
@[simp] theorem modFlash_pending (f : Flash → Flash) (s : State) : (modFlash f s).pending = s.pending := rfl
@[simp] theorem modFlash_flash (f : Flash → Flash) (s : State) : (modFlash f s).flash = f s.flash := rfl
@[simp] theorem modFlash_fuses (f : Flash → Flash) (s : State) : (modFlash f s).fuses = s.fuses := rfl
@[simp] theorem modFlash_chip (f : Flash → Flash) (s : State) : (modFlash f s).chip = s.chip := rfl
@[simp] theorem modFlash_dev (f : Flash → Flash) (s : State) : (modFlash f s).dev = s.dev := rfl
@[simp] theorem modBoot_pending (f : Boot → Boot) (s : State) : (modBoot f s).pending = s.pending := rfl
@[simp] theorem modBoot_flash (f : Boot → Boot) (s : State) : (modBoot f s).flash = s.flash := rfl
@[simp] theorem modBoot_fuses (f : Boot → Boot) (s : State) : (modBoot f s).fuses = s.fuses := rfl
@[simp] theorem modBoot_chip (f : Boot → Boot) (s : State) : (modBoot f s).chip = s.chip := rfl
@[simp] theorem modBoot_boot (f : Boot → Boot) (s : State) : (modBoot f s).dev.boot = f s.dev.boot := rfl
@[simp] theorem modBoot_warden (f : Boot → Boot) (s : State) : (modBoot f s).dev.warden = s.dev.warden := rfl
@[simp] theorem modBoot_pcie (f : Boot → Boot) (s : State) : (modBoot f s).dev.pcie = s.dev.pcie := rfl
@[simp] theorem modBoot_eth (f : Boot → Boot) (s : State) : (modBoot f s).dev.eth = s.dev.eth := rfl
@[simp] theorem modBoot_qps (f : Boot → Boot) (s : State) : (modBoot f s).dev.qps = s.dev.qps := rfl
@[simp] theorem modBoot_bell (f : Boot → Boot) (s : State) : (modBoot f s).dev.bell = s.dev.bell := rfl
@[simp] theorem modBoot_wins (f : Boot → Boot) (s : State) : (modBoot f s).dev.wins = s.dev.wins := rfl
@[simp] theorem modBoot_power (f : Boot → Boot) (s : State) : (modBoot f s).dev.power = s.dev.power := rfl
@[simp] theorem modBoot_ringWait (f : Boot → Boot) (s : State) : (modBoot f s).dev.ringWait = s.dev.ringWait := rfl
@[simp] theorem modBoot_ringErr (f : Boot → Boot) (s : State) : (modBoot f s).dev.ringErr = s.dev.ringErr := rfl
@[simp] theorem modBoot_ring (f : Boot → Boot) (s : State) : (modBoot f s).dev.ring = s.dev.ring := rfl
@[simp] theorem modBoot_side (f : Boot → Boot) (s : State) : (modBoot f s).dev.side = s.dev.side := rfl
@[simp] theorem modWarden_pending (f : Warden → Warden) (s : State) : (modWarden f s).pending = s.pending := rfl
@[simp] theorem modWarden_flash (f : Warden → Warden) (s : State) : (modWarden f s).flash = s.flash := rfl
@[simp] theorem modWarden_fuses (f : Warden → Warden) (s : State) : (modWarden f s).fuses = s.fuses := rfl
@[simp] theorem modWarden_chip (f : Warden → Warden) (s : State) : (modWarden f s).chip = s.chip := rfl
@[simp] theorem modWarden_boot (f : Warden → Warden) (s : State) : (modWarden f s).dev.boot = s.dev.boot := rfl
@[simp] theorem modWarden_warden (f : Warden → Warden) (s : State) : (modWarden f s).dev.warden = f s.dev.warden := rfl
@[simp] theorem modWarden_pcie (f : Warden → Warden) (s : State) : (modWarden f s).dev.pcie = s.dev.pcie := rfl
@[simp] theorem modWarden_eth (f : Warden → Warden) (s : State) : (modWarden f s).dev.eth = s.dev.eth := rfl
@[simp] theorem modWarden_qps (f : Warden → Warden) (s : State) : (modWarden f s).dev.qps = s.dev.qps := rfl
@[simp] theorem modWarden_bell (f : Warden → Warden) (s : State) : (modWarden f s).dev.bell = s.dev.bell := rfl
@[simp] theorem modWarden_wins (f : Warden → Warden) (s : State) : (modWarden f s).dev.wins = s.dev.wins := rfl
@[simp] theorem modWarden_power (f : Warden → Warden) (s : State) : (modWarden f s).dev.power = s.dev.power := rfl
@[simp] theorem modWarden_ringWait (f : Warden → Warden) (s : State) : (modWarden f s).dev.ringWait = s.dev.ringWait := rfl
@[simp] theorem modWarden_ringErr (f : Warden → Warden) (s : State) : (modWarden f s).dev.ringErr = s.dev.ringErr := rfl
@[simp] theorem modWarden_ring (f : Warden → Warden) (s : State) : (modWarden f s).dev.ring = s.dev.ring := rfl
@[simp] theorem modWarden_side (f : Warden → Warden) (s : State) : (modWarden f s).dev.side = s.dev.side := rfl
@[simp] theorem modBell_pending (f : Bell → Bell) (s : State) : (modBell f s).pending = s.pending := rfl
@[simp] theorem modBell_flash (f : Bell → Bell) (s : State) : (modBell f s).flash = s.flash := rfl
@[simp] theorem modBell_fuses (f : Bell → Bell) (s : State) : (modBell f s).fuses = s.fuses := rfl
@[simp] theorem modBell_chip (f : Bell → Bell) (s : State) : (modBell f s).chip = s.chip := rfl
@[simp] theorem modBell_boot (f : Bell → Bell) (s : State) : (modBell f s).dev.boot = s.dev.boot := rfl
@[simp] theorem modBell_warden (f : Bell → Bell) (s : State) : (modBell f s).dev.warden = s.dev.warden := rfl
@[simp] theorem modBell_pcie (f : Bell → Bell) (s : State) : (modBell f s).dev.pcie = s.dev.pcie := rfl
@[simp] theorem modBell_eth (f : Bell → Bell) (s : State) : (modBell f s).dev.eth = s.dev.eth := rfl
@[simp] theorem modBell_qps (f : Bell → Bell) (s : State) : (modBell f s).dev.qps = s.dev.qps := rfl
@[simp] theorem modBell_bell (f : Bell → Bell) (s : State) : (modBell f s).dev.bell = f s.dev.bell := rfl
@[simp] theorem modBell_wins (f : Bell → Bell) (s : State) : (modBell f s).dev.wins = s.dev.wins := rfl
@[simp] theorem modBell_power (f : Bell → Bell) (s : State) : (modBell f s).dev.power = s.dev.power := rfl
@[simp] theorem modBell_ringWait (f : Bell → Bell) (s : State) : (modBell f s).dev.ringWait = s.dev.ringWait := rfl
@[simp] theorem modBell_ringErr (f : Bell → Bell) (s : State) : (modBell f s).dev.ringErr = s.dev.ringErr := rfl
@[simp] theorem modBell_ring (f : Bell → Bell) (s : State) : (modBell f s).dev.ring = s.dev.ring := rfl
@[simp] theorem modBell_side (f : Bell → Bell) (s : State) : (modBell f s).dev.side = s.dev.side := rfl
@[simp] theorem modPower_pending (f : Power → Power) (s : State) : (modPower f s).pending = s.pending := rfl
@[simp] theorem modPower_flash (f : Power → Power) (s : State) : (modPower f s).flash = s.flash := rfl
@[simp] theorem modPower_fuses (f : Power → Power) (s : State) : (modPower f s).fuses = s.fuses := rfl
@[simp] theorem modPower_chip (f : Power → Power) (s : State) : (modPower f s).chip = s.chip := rfl
@[simp] theorem modPower_boot (f : Power → Power) (s : State) : (modPower f s).dev.boot = s.dev.boot := rfl
@[simp] theorem modPower_warden (f : Power → Power) (s : State) : (modPower f s).dev.warden = s.dev.warden := rfl
@[simp] theorem modPower_pcie (f : Power → Power) (s : State) : (modPower f s).dev.pcie = s.dev.pcie := rfl
@[simp] theorem modPower_eth (f : Power → Power) (s : State) : (modPower f s).dev.eth = s.dev.eth := rfl
@[simp] theorem modPower_qps (f : Power → Power) (s : State) : (modPower f s).dev.qps = s.dev.qps := rfl
@[simp] theorem modPower_bell (f : Power → Power) (s : State) : (modPower f s).dev.bell = s.dev.bell := rfl
@[simp] theorem modPower_wins (f : Power → Power) (s : State) : (modPower f s).dev.wins = s.dev.wins := rfl
@[simp] theorem modPower_power (f : Power → Power) (s : State) : (modPower f s).dev.power = f s.dev.power := rfl
@[simp] theorem modPower_ringWait (f : Power → Power) (s : State) : (modPower f s).dev.ringWait = s.dev.ringWait := rfl
@[simp] theorem modPower_ringErr (f : Power → Power) (s : State) : (modPower f s).dev.ringErr = s.dev.ringErr := rfl
@[simp] theorem modPower_ring (f : Power → Power) (s : State) : (modPower f s).dev.ring = s.dev.ring := rfl
@[simp] theorem modPower_side (f : Power → Power) (s : State) : (modPower f s).dev.side = s.dev.side := rfl
@[simp] theorem modSide_pending (f : Side → Side) (s : State) : (modSide f s).pending = s.pending := rfl
@[simp] theorem modSide_flash (f : Side → Side) (s : State) : (modSide f s).flash = s.flash := rfl
@[simp] theorem modSide_fuses (f : Side → Side) (s : State) : (modSide f s).fuses = s.fuses := rfl
@[simp] theorem modSide_chip (f : Side → Side) (s : State) : (modSide f s).chip = s.chip := rfl
@[simp] theorem modSide_boot (f : Side → Side) (s : State) : (modSide f s).dev.boot = s.dev.boot := rfl
@[simp] theorem modSide_warden (f : Side → Side) (s : State) : (modSide f s).dev.warden = s.dev.warden := rfl
@[simp] theorem modSide_pcie (f : Side → Side) (s : State) : (modSide f s).dev.pcie = s.dev.pcie := rfl
@[simp] theorem modSide_eth (f : Side → Side) (s : State) : (modSide f s).dev.eth = s.dev.eth := rfl
@[simp] theorem modSide_qps (f : Side → Side) (s : State) : (modSide f s).dev.qps = s.dev.qps := rfl
@[simp] theorem modSide_bell (f : Side → Side) (s : State) : (modSide f s).dev.bell = s.dev.bell := rfl
@[simp] theorem modSide_wins (f : Side → Side) (s : State) : (modSide f s).dev.wins = s.dev.wins := rfl
@[simp] theorem modSide_power (f : Side → Side) (s : State) : (modSide f s).dev.power = s.dev.power := rfl
@[simp] theorem modSide_ringWait (f : Side → Side) (s : State) : (modSide f s).dev.ringWait = s.dev.ringWait := rfl
@[simp] theorem modSide_ringErr (f : Side → Side) (s : State) : (modSide f s).dev.ringErr = s.dev.ringErr := rfl
@[simp] theorem modSide_ring (f : Side → Side) (s : State) : (modSide f s).dev.ring = s.dev.ring := rfl
@[simp] theorem modSide_side (f : Side → Side) (s : State) : (modSide f s).dev.side = f s.dev.side := rfl
@[simp] theorem modPcie_pending (p : Nat) (f : Pcie → Pcie) (s : State) : (modPcie p f s).pending = s.pending := rfl
@[simp] theorem modPcie_flash (p : Nat) (f : Pcie → Pcie) (s : State) : (modPcie p f s).flash = s.flash := rfl
@[simp] theorem modPcie_fuses (p : Nat) (f : Pcie → Pcie) (s : State) : (modPcie p f s).fuses = s.fuses := rfl
@[simp] theorem modPcie_chip (p : Nat) (f : Pcie → Pcie) (s : State) : (modPcie p f s).chip = s.chip := rfl
@[simp] theorem modPcie_boot (p : Nat) (f : Pcie → Pcie) (s : State) : (modPcie p f s).dev.boot = s.dev.boot := rfl
@[simp] theorem modPcie_warden (p : Nat) (f : Pcie → Pcie) (s : State) : (modPcie p f s).dev.warden = s.dev.warden := rfl
@[simp] theorem modPcie_eth (p : Nat) (f : Pcie → Pcie) (s : State) : (modPcie p f s).dev.eth = s.dev.eth := rfl
@[simp] theorem modPcie_qps (p : Nat) (f : Pcie → Pcie) (s : State) : (modPcie p f s).dev.qps = s.dev.qps := rfl
@[simp] theorem modPcie_bell (p : Nat) (f : Pcie → Pcie) (s : State) : (modPcie p f s).dev.bell = s.dev.bell := rfl
@[simp] theorem modPcie_wins (p : Nat) (f : Pcie → Pcie) (s : State) : (modPcie p f s).dev.wins = s.dev.wins := rfl
@[simp] theorem modPcie_power (p : Nat) (f : Pcie → Pcie) (s : State) : (modPcie p f s).dev.power = s.dev.power := rfl
@[simp] theorem modPcie_ringWait (p : Nat) (f : Pcie → Pcie) (s : State) : (modPcie p f s).dev.ringWait = s.dev.ringWait := rfl
@[simp] theorem modPcie_ringErr (p : Nat) (f : Pcie → Pcie) (s : State) : (modPcie p f s).dev.ringErr = s.dev.ringErr := rfl
@[simp] theorem modPcie_ring (p : Nat) (f : Pcie → Pcie) (s : State) : (modPcie p f s).dev.ring = s.dev.ring := rfl
@[simp] theorem modPcie_side (p : Nat) (f : Pcie → Pcie) (s : State) : (modPcie p f s).dev.side = s.dev.side := rfl
@[simp] theorem modEth_pending (p : Nat) (f : EthPort → EthPort) (s : State) : (modEth p f s).pending = s.pending := rfl
@[simp] theorem modEth_flash (p : Nat) (f : EthPort → EthPort) (s : State) : (modEth p f s).flash = s.flash := rfl
@[simp] theorem modEth_fuses (p : Nat) (f : EthPort → EthPort) (s : State) : (modEth p f s).fuses = s.fuses := rfl
@[simp] theorem modEth_chip (p : Nat) (f : EthPort → EthPort) (s : State) : (modEth p f s).chip = s.chip := rfl
@[simp] theorem modEth_boot (p : Nat) (f : EthPort → EthPort) (s : State) : (modEth p f s).dev.boot = s.dev.boot := rfl
@[simp] theorem modEth_warden (p : Nat) (f : EthPort → EthPort) (s : State) : (modEth p f s).dev.warden = s.dev.warden := rfl
@[simp] theorem modEth_pcie (p : Nat) (f : EthPort → EthPort) (s : State) : (modEth p f s).dev.pcie = s.dev.pcie := rfl
@[simp] theorem modEth_qps (p : Nat) (f : EthPort → EthPort) (s : State) : (modEth p f s).dev.qps = s.dev.qps := rfl
@[simp] theorem modEth_bell (p : Nat) (f : EthPort → EthPort) (s : State) : (modEth p f s).dev.bell = s.dev.bell := rfl
@[simp] theorem modEth_wins (p : Nat) (f : EthPort → EthPort) (s : State) : (modEth p f s).dev.wins = s.dev.wins := rfl
@[simp] theorem modEth_power (p : Nat) (f : EthPort → EthPort) (s : State) : (modEth p f s).dev.power = s.dev.power := rfl
@[simp] theorem modEth_ringWait (p : Nat) (f : EthPort → EthPort) (s : State) : (modEth p f s).dev.ringWait = s.dev.ringWait := rfl
@[simp] theorem modEth_ringErr (p : Nat) (f : EthPort → EthPort) (s : State) : (modEth p f s).dev.ringErr = s.dev.ringErr := rfl
@[simp] theorem modEth_ring (p : Nat) (f : EthPort → EthPort) (s : State) : (modEth p f s).dev.ring = s.dev.ring := rfl
@[simp] theorem modEth_side (p : Nat) (f : EthPort → EthPort) (s : State) : (modEth p f s).dev.side = s.dev.side := rfl
@[simp] theorem tickFresh_pending (n : Nat) (s : State) : (tickFresh n s).pending = s.pending := rfl
@[simp] theorem tickFresh_flash (n : Nat) (s : State) : (tickFresh n s).flash = s.flash := rfl
@[simp] theorem tickFresh_fuses (n : Nat) (s : State) : (tickFresh n s).fuses = s.fuses := rfl
@[simp] theorem tickFresh_dev (n : Nat) (s : State) : (tickFresh n s).dev = s.dev := rfl
@[simp] theorem setDstate_pending (v : Nat) (s : State) : (setDstate v s).pending = s.pending := rfl
@[simp] theorem setDstate_flash (v : Nat) (s : State) : (setDstate v s).flash = s.flash := rfl
@[simp] theorem setDstate_fuses (v : Nat) (s : State) : (setDstate v s).fuses = s.fuses := rfl
@[simp] theorem setDstate_chip (v : Nat) (s : State) : (setDstate v s).chip = s.chip := rfl
@[simp] theorem dstate_setDstate (v : Nat) (s : State) : dstate (setDstate v s) = v := rfl

/-! ### The package -/

@[simp] theorem setCore_fresh (c : Chip) (n : Nat) (k : Core) : (setCore c n k).fresh = c.fresh := rfl
@[simp] theorem setCore_mem (c : Chip) (n : Nat) (k : Core) : (setCore c n k).mem = c.mem := rfl
@[simp] theorem setCore_pois (c : Chip) (n : Nat) (k : Core) : (setCore c n k).pois = c.pois := rfl
@[simp] theorem setCore_crypt (c : Chip) (n : Nat) (k : Core) : (setCore c n k).crypt = c.crypt := rfl
@[simp] theorem setCore_lost (c : Chip) (n : Nat) (k : Core) : (setCore c n k).lost = c.lost := rfl
@[simp] theorem setCore_since (c : Chip) (n : Nat) (k : Core) : (setCore c n k).since = c.since := rfl
@[simp] theorem setCore_rooms (c : Chip) (n : Nat) (k : Core) : (setCore c n k).rooms = c.rooms := rfl
@[simp] theorem setCore_stk (c : Chip) (n : Nat) (k : Core) : (setCore c n k).stk = c.stk := rfl
@[simp] theorem setCore_regs (c : Chip) (n : Nat) (k : Core) : (setCore c n k).regs = c.regs := rfl
@[simp] theorem setCore_plls (c : Chip) (n : Nat) (k : Core) : (setCore c n k).plls = c.plls := rfl
@[simp] theorem setCore_meshOn (c : Chip) (n : Nat) (k : Core) : (setCore c n k).meshOn = c.meshOn := rfl
@[simp] theorem setCore_portOff (c : Chip) (n : Nat) (k : Core) : (setCore c n k).portOff = c.portOff := rfl
@[simp] theorem setCore_ethKeys (c : Chip) (n : Nat) (k : Core) : (setCore c n k).ethKeys = c.ethKeys := rfl
@[simp] theorem setCore_floors (c : Chip) (n : Nat) (k : Core) : (setCore c n k).floors = c.floors := rfl
@[simp] theorem setCore_plHold (c : Chip) (n : Nat) (k : Core) : (setCore c n k).plHold = c.plHold := rfl
@[simp] theorem setCore_nowUs (c : Chip) (n : Nat) (k : Core) : (setCore c n k).nowUs = c.nowUs := rfl
@[simp] theorem setCore_stopAt (c : Chip) (n : Nat) (k : Core) : (setCore c n k).stopAt = c.stopAt := rfl
@[simp] theorem setCore_readOut (c : Chip) (n : Nat) (k : Core) : (setCore c n k).readOut = c.readOut := rfl
@[simp] theorem setCore_hung (c : Chip) (n : Nat) (k : Core) : (setCore c n k).hung = c.hung := rfl
@[simp] theorem setCore_waiting (c : Chip) (n : Nat) (k : Core) : (setCore c n k).waiting = c.waiting := rfl
@[simp] theorem setCore_reports (c : Chip) (n : Nat) (k : Core) : (setCore c n k).reports = c.reports := rfl
@[simp] theorem setCore_seed (c : Chip) (n : Nat) (k : Core) : (setCore c n k).seed = c.seed := rfl
@[simp] theorem modCore_fresh (c : Chip) (n : Nat) (f : Core → Core) : (modCore c n f).fresh = c.fresh := rfl
@[simp] theorem modCore_mem (c : Chip) (n : Nat) (f : Core → Core) : (modCore c n f).mem = c.mem := rfl
@[simp] theorem modCore_pois (c : Chip) (n : Nat) (f : Core → Core) : (modCore c n f).pois = c.pois := rfl
@[simp] theorem modCore_crypt (c : Chip) (n : Nat) (f : Core → Core) : (modCore c n f).crypt = c.crypt := rfl
@[simp] theorem modCore_lost (c : Chip) (n : Nat) (f : Core → Core) : (modCore c n f).lost = c.lost := rfl
@[simp] theorem modCore_since (c : Chip) (n : Nat) (f : Core → Core) : (modCore c n f).since = c.since := rfl
@[simp] theorem modCore_rooms (c : Chip) (n : Nat) (f : Core → Core) : (modCore c n f).rooms = c.rooms := rfl
@[simp] theorem modCore_stk (c : Chip) (n : Nat) (f : Core → Core) : (modCore c n f).stk = c.stk := rfl
@[simp] theorem modCore_regs (c : Chip) (n : Nat) (f : Core → Core) : (modCore c n f).regs = c.regs := rfl
@[simp] theorem modCore_plls (c : Chip) (n : Nat) (f : Core → Core) : (modCore c n f).plls = c.plls := rfl
@[simp] theorem modCore_meshOn (c : Chip) (n : Nat) (f : Core → Core) : (modCore c n f).meshOn = c.meshOn := rfl
@[simp] theorem modCore_portOff (c : Chip) (n : Nat) (f : Core → Core) : (modCore c n f).portOff = c.portOff := rfl
@[simp] theorem modCore_ethKeys (c : Chip) (n : Nat) (f : Core → Core) : (modCore c n f).ethKeys = c.ethKeys := rfl
@[simp] theorem modCore_floors (c : Chip) (n : Nat) (f : Core → Core) : (modCore c n f).floors = c.floors := rfl
@[simp] theorem modCore_plHold (c : Chip) (n : Nat) (f : Core → Core) : (modCore c n f).plHold = c.plHold := rfl
@[simp] theorem modCore_nowUs (c : Chip) (n : Nat) (f : Core → Core) : (modCore c n f).nowUs = c.nowUs := rfl
@[simp] theorem modCore_stopAt (c : Chip) (n : Nat) (f : Core → Core) : (modCore c n f).stopAt = c.stopAt := rfl
@[simp] theorem modCore_readOut (c : Chip) (n : Nat) (f : Core → Core) : (modCore c n f).readOut = c.readOut := rfl
@[simp] theorem modCore_hung (c : Chip) (n : Nat) (f : Core → Core) : (modCore c n f).hung = c.hung := rfl
@[simp] theorem modCore_waiting (c : Chip) (n : Nat) (f : Core → Core) : (modCore c n f).waiting = c.waiting := rfl
@[simp] theorem modCore_reports (c : Chip) (n : Nat) (f : Core → Core) : (modCore c n f).reports = c.reports := rfl
@[simp] theorem modCore_seed (c : Chip) (n : Nat) (f : Core → Core) : (modCore c n f).seed = c.seed := rfl
@[simp] theorem setStrand_fresh (c : Chip) (u : StrandId) (st : Strand) : (setStrand c u st).fresh = c.fresh := rfl
@[simp] theorem setStrand_mem (c : Chip) (u : StrandId) (st : Strand) : (setStrand c u st).mem = c.mem := rfl
@[simp] theorem setStrand_pois (c : Chip) (u : StrandId) (st : Strand) : (setStrand c u st).pois = c.pois := rfl
@[simp] theorem setStrand_crypt (c : Chip) (u : StrandId) (st : Strand) : (setStrand c u st).crypt = c.crypt := rfl
@[simp] theorem setStrand_lost (c : Chip) (u : StrandId) (st : Strand) : (setStrand c u st).lost = c.lost := rfl
@[simp] theorem setStrand_since (c : Chip) (u : StrandId) (st : Strand) : (setStrand c u st).since = c.since := rfl
@[simp] theorem setStrand_rooms (c : Chip) (u : StrandId) (st : Strand) : (setStrand c u st).rooms = c.rooms := rfl
@[simp] theorem setStrand_stk (c : Chip) (u : StrandId) (st : Strand) : (setStrand c u st).stk = c.stk := rfl
@[simp] theorem setStrand_regs (c : Chip) (u : StrandId) (st : Strand) : (setStrand c u st).regs = c.regs := rfl
@[simp] theorem setStrand_plls (c : Chip) (u : StrandId) (st : Strand) : (setStrand c u st).plls = c.plls := rfl
@[simp] theorem setStrand_meshOn (c : Chip) (u : StrandId) (st : Strand) : (setStrand c u st).meshOn = c.meshOn := rfl
@[simp] theorem setStrand_portOff (c : Chip) (u : StrandId) (st : Strand) : (setStrand c u st).portOff = c.portOff := rfl
@[simp] theorem setStrand_ethKeys (c : Chip) (u : StrandId) (st : Strand) : (setStrand c u st).ethKeys = c.ethKeys := rfl
@[simp] theorem setStrand_floors (c : Chip) (u : StrandId) (st : Strand) : (setStrand c u st).floors = c.floors := rfl
@[simp] theorem setStrand_plHold (c : Chip) (u : StrandId) (st : Strand) : (setStrand c u st).plHold = c.plHold := rfl
@[simp] theorem setStrand_nowUs (c : Chip) (u : StrandId) (st : Strand) : (setStrand c u st).nowUs = c.nowUs := rfl
@[simp] theorem setStrand_stopAt (c : Chip) (u : StrandId) (st : Strand) : (setStrand c u st).stopAt = c.stopAt := rfl
@[simp] theorem setStrand_readOut (c : Chip) (u : StrandId) (st : Strand) : (setStrand c u st).readOut = c.readOut := rfl
@[simp] theorem setStrand_hung (c : Chip) (u : StrandId) (st : Strand) : (setStrand c u st).hung = c.hung := rfl
@[simp] theorem setStrand_waiting (c : Chip) (u : StrandId) (st : Strand) : (setStrand c u st).waiting = c.waiting := rfl
@[simp] theorem setStrand_reports (c : Chip) (u : StrandId) (st : Strand) : (setStrand c u st).reports = c.reports := rfl
@[simp] theorem setStrand_seed (c : Chip) (u : StrandId) (st : Strand) : (setStrand c u st).seed = c.seed := rfl
@[simp] theorem modStrand_fresh (c : Chip) (u : StrandId) (f : Strand → Strand) : (modStrand c u f).fresh = c.fresh := rfl
@[simp] theorem modStrand_mem (c : Chip) (u : StrandId) (f : Strand → Strand) : (modStrand c u f).mem = c.mem := rfl
@[simp] theorem modStrand_pois (c : Chip) (u : StrandId) (f : Strand → Strand) : (modStrand c u f).pois = c.pois := rfl
@[simp] theorem modStrand_crypt (c : Chip) (u : StrandId) (f : Strand → Strand) : (modStrand c u f).crypt = c.crypt := rfl
@[simp] theorem modStrand_lost (c : Chip) (u : StrandId) (f : Strand → Strand) : (modStrand c u f).lost = c.lost := rfl
@[simp] theorem modStrand_since (c : Chip) (u : StrandId) (f : Strand → Strand) : (modStrand c u f).since = c.since := rfl
@[simp] theorem modStrand_rooms (c : Chip) (u : StrandId) (f : Strand → Strand) : (modStrand c u f).rooms = c.rooms := rfl
@[simp] theorem modStrand_stk (c : Chip) (u : StrandId) (f : Strand → Strand) : (modStrand c u f).stk = c.stk := rfl
@[simp] theorem modStrand_regs (c : Chip) (u : StrandId) (f : Strand → Strand) : (modStrand c u f).regs = c.regs := rfl
@[simp] theorem modStrand_plls (c : Chip) (u : StrandId) (f : Strand → Strand) : (modStrand c u f).plls = c.plls := rfl
@[simp] theorem modStrand_meshOn (c : Chip) (u : StrandId) (f : Strand → Strand) : (modStrand c u f).meshOn = c.meshOn := rfl
@[simp] theorem modStrand_portOff (c : Chip) (u : StrandId) (f : Strand → Strand) : (modStrand c u f).portOff = c.portOff := rfl
@[simp] theorem modStrand_ethKeys (c : Chip) (u : StrandId) (f : Strand → Strand) : (modStrand c u f).ethKeys = c.ethKeys := rfl
@[simp] theorem modStrand_floors (c : Chip) (u : StrandId) (f : Strand → Strand) : (modStrand c u f).floors = c.floors := rfl
@[simp] theorem modStrand_plHold (c : Chip) (u : StrandId) (f : Strand → Strand) : (modStrand c u f).plHold = c.plHold := rfl
@[simp] theorem modStrand_nowUs (c : Chip) (u : StrandId) (f : Strand → Strand) : (modStrand c u f).nowUs = c.nowUs := rfl
@[simp] theorem modStrand_stopAt (c : Chip) (u : StrandId) (f : Strand → Strand) : (modStrand c u f).stopAt = c.stopAt := rfl
@[simp] theorem modStrand_readOut (c : Chip) (u : StrandId) (f : Strand → Strand) : (modStrand c u f).readOut = c.readOut := rfl
@[simp] theorem modStrand_hung (c : Chip) (u : StrandId) (f : Strand → Strand) : (modStrand c u f).hung = c.hung := rfl
@[simp] theorem modStrand_waiting (c : Chip) (u : StrandId) (f : Strand → Strand) : (modStrand c u f).waiting = c.waiting := rfl
@[simp] theorem modStrand_reports (c : Chip) (u : StrandId) (f : Strand → Strand) : (modStrand c u f).reports = c.reports := rfl
@[simp] theorem modStrand_seed (c : Chip) (u : StrandId) (f : Strand → Strand) : (modStrand c u f).seed = c.seed := rfl
@[simp] theorem modRoom_fresh (c : Chip) (n : Nat) (f : Room → Room) : (modRoom c n f).fresh = c.fresh := rfl
@[simp] theorem modRoom_mem (c : Chip) (n : Nat) (f : Room → Room) : (modRoom c n f).mem = c.mem := rfl
@[simp] theorem modRoom_pois (c : Chip) (n : Nat) (f : Room → Room) : (modRoom c n f).pois = c.pois := rfl
@[simp] theorem modRoom_crypt (c : Chip) (n : Nat) (f : Room → Room) : (modRoom c n f).crypt = c.crypt := rfl
@[simp] theorem modRoom_lost (c : Chip) (n : Nat) (f : Room → Room) : (modRoom c n f).lost = c.lost := rfl
@[simp] theorem modRoom_since (c : Chip) (n : Nat) (f : Room → Room) : (modRoom c n f).since = c.since := rfl
@[simp] theorem modRoom_cores (c : Chip) (n : Nat) (f : Room → Room) : (modRoom c n f).cores = c.cores := rfl
@[simp] theorem modRoom_stk (c : Chip) (n : Nat) (f : Room → Room) : (modRoom c n f).stk = c.stk := rfl
@[simp] theorem modRoom_regs (c : Chip) (n : Nat) (f : Room → Room) : (modRoom c n f).regs = c.regs := rfl
@[simp] theorem modRoom_plls (c : Chip) (n : Nat) (f : Room → Room) : (modRoom c n f).plls = c.plls := rfl
@[simp] theorem modRoom_meshOn (c : Chip) (n : Nat) (f : Room → Room) : (modRoom c n f).meshOn = c.meshOn := rfl
@[simp] theorem modRoom_portOff (c : Chip) (n : Nat) (f : Room → Room) : (modRoom c n f).portOff = c.portOff := rfl
@[simp] theorem modRoom_ethKeys (c : Chip) (n : Nat) (f : Room → Room) : (modRoom c n f).ethKeys = c.ethKeys := rfl
@[simp] theorem modRoom_floors (c : Chip) (n : Nat) (f : Room → Room) : (modRoom c n f).floors = c.floors := rfl
@[simp] theorem modRoom_plHold (c : Chip) (n : Nat) (f : Room → Room) : (modRoom c n f).plHold = c.plHold := rfl
@[simp] theorem modRoom_nowUs (c : Chip) (n : Nat) (f : Room → Room) : (modRoom c n f).nowUs = c.nowUs := rfl
@[simp] theorem modRoom_stopAt (c : Chip) (n : Nat) (f : Room → Room) : (modRoom c n f).stopAt = c.stopAt := rfl
@[simp] theorem modRoom_readOut (c : Chip) (n : Nat) (f : Room → Room) : (modRoom c n f).readOut = c.readOut := rfl
@[simp] theorem modRoom_hung (c : Chip) (n : Nat) (f : Room → Room) : (modRoom c n f).hung = c.hung := rfl
@[simp] theorem modRoom_waiting (c : Chip) (n : Nat) (f : Room → Room) : (modRoom c n f).waiting = c.waiting := rfl
@[simp] theorem modRoom_reports (c : Chip) (n : Nat) (f : Room → Room) : (modRoom c n f).reports = c.reports := rfl
@[simp] theorem modRoom_seed (c : Chip) (n : Nat) (f : Room → Room) : (modRoom c n f).seed = c.seed := rfl
@[simp] theorem modStack_fresh (c : Chip) (n : Nat) (f : Stack → Stack) : (modStack c n f).fresh = c.fresh := rfl
@[simp] theorem modStack_mem (c : Chip) (n : Nat) (f : Stack → Stack) : (modStack c n f).mem = c.mem := rfl
@[simp] theorem modStack_pois (c : Chip) (n : Nat) (f : Stack → Stack) : (modStack c n f).pois = c.pois := rfl
@[simp] theorem modStack_crypt (c : Chip) (n : Nat) (f : Stack → Stack) : (modStack c n f).crypt = c.crypt := rfl
@[simp] theorem modStack_lost (c : Chip) (n : Nat) (f : Stack → Stack) : (modStack c n f).lost = c.lost := rfl
@[simp] theorem modStack_since (c : Chip) (n : Nat) (f : Stack → Stack) : (modStack c n f).since = c.since := rfl
@[simp] theorem modStack_cores (c : Chip) (n : Nat) (f : Stack → Stack) : (modStack c n f).cores = c.cores := rfl
@[simp] theorem modStack_rooms (c : Chip) (n : Nat) (f : Stack → Stack) : (modStack c n f).rooms = c.rooms := rfl
@[simp] theorem modStack_regs (c : Chip) (n : Nat) (f : Stack → Stack) : (modStack c n f).regs = c.regs := rfl
@[simp] theorem modStack_plls (c : Chip) (n : Nat) (f : Stack → Stack) : (modStack c n f).plls = c.plls := rfl
@[simp] theorem modStack_meshOn (c : Chip) (n : Nat) (f : Stack → Stack) : (modStack c n f).meshOn = c.meshOn := rfl
@[simp] theorem modStack_portOff (c : Chip) (n : Nat) (f : Stack → Stack) : (modStack c n f).portOff = c.portOff := rfl
@[simp] theorem modStack_ethKeys (c : Chip) (n : Nat) (f : Stack → Stack) : (modStack c n f).ethKeys = c.ethKeys := rfl
@[simp] theorem modStack_floors (c : Chip) (n : Nat) (f : Stack → Stack) : (modStack c n f).floors = c.floors := rfl
@[simp] theorem modStack_plHold (c : Chip) (n : Nat) (f : Stack → Stack) : (modStack c n f).plHold = c.plHold := rfl
@[simp] theorem modStack_nowUs (c : Chip) (n : Nat) (f : Stack → Stack) : (modStack c n f).nowUs = c.nowUs := rfl
@[simp] theorem modStack_stopAt (c : Chip) (n : Nat) (f : Stack → Stack) : (modStack c n f).stopAt = c.stopAt := rfl
@[simp] theorem modStack_readOut (c : Chip) (n : Nat) (f : Stack → Stack) : (modStack c n f).readOut = c.readOut := rfl
@[simp] theorem modStack_hung (c : Chip) (n : Nat) (f : Stack → Stack) : (modStack c n f).hung = c.hung := rfl
@[simp] theorem modStack_waiting (c : Chip) (n : Nat) (f : Stack → Stack) : (modStack c n f).waiting = c.waiting := rfl
@[simp] theorem modStack_reports (c : Chip) (n : Nat) (f : Stack → Stack) : (modStack c n f).reports = c.reports := rfl
@[simp] theorem modStack_seed (c : Chip) (n : Nat) (f : Stack → Stack) : (modStack c n f).seed = c.seed := rfl
@[simp] theorem setRaw_fresh (c : Chip) (b : BlockId) (n : Nat) (v : W32) : (setRaw c b n v).fresh = c.fresh := rfl
@[simp] theorem setRaw_mem (c : Chip) (b : BlockId) (n : Nat) (v : W32) : (setRaw c b n v).mem = c.mem := rfl
@[simp] theorem setRaw_pois (c : Chip) (b : BlockId) (n : Nat) (v : W32) : (setRaw c b n v).pois = c.pois := rfl
@[simp] theorem setRaw_crypt (c : Chip) (b : BlockId) (n : Nat) (v : W32) : (setRaw c b n v).crypt = c.crypt := rfl
@[simp] theorem setRaw_lost (c : Chip) (b : BlockId) (n : Nat) (v : W32) : (setRaw c b n v).lost = c.lost := rfl
@[simp] theorem setRaw_since (c : Chip) (b : BlockId) (n : Nat) (v : W32) : (setRaw c b n v).since = c.since := rfl
@[simp] theorem setRaw_cores (c : Chip) (b : BlockId) (n : Nat) (v : W32) : (setRaw c b n v).cores = c.cores := rfl
@[simp] theorem setRaw_rooms (c : Chip) (b : BlockId) (n : Nat) (v : W32) : (setRaw c b n v).rooms = c.rooms := rfl
@[simp] theorem setRaw_stk (c : Chip) (b : BlockId) (n : Nat) (v : W32) : (setRaw c b n v).stk = c.stk := rfl
@[simp] theorem setRaw_plls (c : Chip) (b : BlockId) (n : Nat) (v : W32) : (setRaw c b n v).plls = c.plls := rfl
@[simp] theorem setRaw_meshOn (c : Chip) (b : BlockId) (n : Nat) (v : W32) : (setRaw c b n v).meshOn = c.meshOn := rfl
@[simp] theorem setRaw_portOff (c : Chip) (b : BlockId) (n : Nat) (v : W32) : (setRaw c b n v).portOff = c.portOff := rfl
@[simp] theorem setRaw_ethKeys (c : Chip) (b : BlockId) (n : Nat) (v : W32) : (setRaw c b n v).ethKeys = c.ethKeys := rfl
@[simp] theorem setRaw_floors (c : Chip) (b : BlockId) (n : Nat) (v : W32) : (setRaw c b n v).floors = c.floors := rfl
@[simp] theorem setRaw_plHold (c : Chip) (b : BlockId) (n : Nat) (v : W32) : (setRaw c b n v).plHold = c.plHold := rfl
@[simp] theorem setRaw_nowUs (c : Chip) (b : BlockId) (n : Nat) (v : W32) : (setRaw c b n v).nowUs = c.nowUs := rfl
@[simp] theorem setRaw_stopAt (c : Chip) (b : BlockId) (n : Nat) (v : W32) : (setRaw c b n v).stopAt = c.stopAt := rfl
@[simp] theorem setRaw_readOut (c : Chip) (b : BlockId) (n : Nat) (v : W32) : (setRaw c b n v).readOut = c.readOut := rfl
@[simp] theorem setRaw_hung (c : Chip) (b : BlockId) (n : Nat) (v : W32) : (setRaw c b n v).hung = c.hung := rfl
@[simp] theorem setRaw_waiting (c : Chip) (b : BlockId) (n : Nat) (v : W32) : (setRaw c b n v).waiting = c.waiting := rfl
@[simp] theorem setRaw_reports (c : Chip) (b : BlockId) (n : Nat) (v : W32) : (setRaw c b n v).reports = c.reports := rfl
@[simp] theorem setRaw_seed (c : Chip) (b : BlockId) (n : Nat) (v : W32) : (setRaw c b n v).seed = c.seed := rfl
@[simp] theorem setF_fresh (c : Chip) (b : BlockId) (n hi lo v : Nat) : (setF c b n hi lo v).fresh = c.fresh := rfl
@[simp] theorem setF_mem (c : Chip) (b : BlockId) (n hi lo v : Nat) : (setF c b n hi lo v).mem = c.mem := rfl
@[simp] theorem setF_pois (c : Chip) (b : BlockId) (n hi lo v : Nat) : (setF c b n hi lo v).pois = c.pois := rfl
@[simp] theorem setF_crypt (c : Chip) (b : BlockId) (n hi lo v : Nat) : (setF c b n hi lo v).crypt = c.crypt := rfl
@[simp] theorem setF_lost (c : Chip) (b : BlockId) (n hi lo v : Nat) : (setF c b n hi lo v).lost = c.lost := rfl
@[simp] theorem setF_since (c : Chip) (b : BlockId) (n hi lo v : Nat) : (setF c b n hi lo v).since = c.since := rfl
@[simp] theorem setF_cores (c : Chip) (b : BlockId) (n hi lo v : Nat) : (setF c b n hi lo v).cores = c.cores := rfl
@[simp] theorem setF_rooms (c : Chip) (b : BlockId) (n hi lo v : Nat) : (setF c b n hi lo v).rooms = c.rooms := rfl
@[simp] theorem setF_stk (c : Chip) (b : BlockId) (n hi lo v : Nat) : (setF c b n hi lo v).stk = c.stk := rfl
@[simp] theorem setF_plls (c : Chip) (b : BlockId) (n hi lo v : Nat) : (setF c b n hi lo v).plls = c.plls := rfl
@[simp] theorem setF_meshOn (c : Chip) (b : BlockId) (n hi lo v : Nat) : (setF c b n hi lo v).meshOn = c.meshOn := rfl
@[simp] theorem setF_portOff (c : Chip) (b : BlockId) (n hi lo v : Nat) : (setF c b n hi lo v).portOff = c.portOff := rfl
@[simp] theorem setF_ethKeys (c : Chip) (b : BlockId) (n hi lo v : Nat) : (setF c b n hi lo v).ethKeys = c.ethKeys := rfl
@[simp] theorem setF_floors (c : Chip) (b : BlockId) (n hi lo v : Nat) : (setF c b n hi lo v).floors = c.floors := rfl
@[simp] theorem setF_plHold (c : Chip) (b : BlockId) (n hi lo v : Nat) : (setF c b n hi lo v).plHold = c.plHold := rfl
@[simp] theorem setF_nowUs (c : Chip) (b : BlockId) (n hi lo v : Nat) : (setF c b n hi lo v).nowUs = c.nowUs := rfl
@[simp] theorem setF_stopAt (c : Chip) (b : BlockId) (n hi lo v : Nat) : (setF c b n hi lo v).stopAt = c.stopAt := rfl
@[simp] theorem setF_readOut (c : Chip) (b : BlockId) (n hi lo v : Nat) : (setF c b n hi lo v).readOut = c.readOut := rfl
@[simp] theorem setF_hung (c : Chip) (b : BlockId) (n hi lo v : Nat) : (setF c b n hi lo v).hung = c.hung := rfl
@[simp] theorem setF_waiting (c : Chip) (b : BlockId) (n hi lo v : Nat) : (setF c b n hi lo v).waiting = c.waiting := rfl
@[simp] theorem setF_reports (c : Chip) (b : BlockId) (n hi lo v : Nat) : (setF c b n hi lo v).reports = c.reports := rfl
@[simp] theorem setF_seed (c : Chip) (b : BlockId) (n hi lo v : Nat) : (setF c b n hi lo v).seed = c.seed := rfl
@[simp] theorem setPois_fresh (c : Chip) (b : Nat) (p : Bool) : (setPois c b p).fresh = c.fresh := rfl
@[simp] theorem setPois_mem (c : Chip) (b : Nat) (p : Bool) : (setPois c b p).mem = c.mem := rfl
@[simp] theorem setPois_crypt (c : Chip) (b : Nat) (p : Bool) : (setPois c b p).crypt = c.crypt := rfl
@[simp] theorem setPois_lost (c : Chip) (b : Nat) (p : Bool) : (setPois c b p).lost = c.lost := rfl
@[simp] theorem setPois_since (c : Chip) (b : Nat) (p : Bool) : (setPois c b p).since = c.since := rfl
@[simp] theorem setPois_cores (c : Chip) (b : Nat) (p : Bool) : (setPois c b p).cores = c.cores := rfl
@[simp] theorem setPois_rooms (c : Chip) (b : Nat) (p : Bool) : (setPois c b p).rooms = c.rooms := rfl
@[simp] theorem setPois_stk (c : Chip) (b : Nat) (p : Bool) : (setPois c b p).stk = c.stk := rfl
@[simp] theorem setPois_regs (c : Chip) (b : Nat) (p : Bool) : (setPois c b p).regs = c.regs := rfl
@[simp] theorem setPois_plls (c : Chip) (b : Nat) (p : Bool) : (setPois c b p).plls = c.plls := rfl
@[simp] theorem setPois_meshOn (c : Chip) (b : Nat) (p : Bool) : (setPois c b p).meshOn = c.meshOn := rfl
@[simp] theorem setPois_portOff (c : Chip) (b : Nat) (p : Bool) : (setPois c b p).portOff = c.portOff := rfl
@[simp] theorem setPois_ethKeys (c : Chip) (b : Nat) (p : Bool) : (setPois c b p).ethKeys = c.ethKeys := rfl
@[simp] theorem setPois_floors (c : Chip) (b : Nat) (p : Bool) : (setPois c b p).floors = c.floors := rfl
@[simp] theorem setPois_plHold (c : Chip) (b : Nat) (p : Bool) : (setPois c b p).plHold = c.plHold := rfl
@[simp] theorem setPois_nowUs (c : Chip) (b : Nat) (p : Bool) : (setPois c b p).nowUs = c.nowUs := rfl
@[simp] theorem setPois_stopAt (c : Chip) (b : Nat) (p : Bool) : (setPois c b p).stopAt = c.stopAt := rfl
@[simp] theorem setPois_readOut (c : Chip) (b : Nat) (p : Bool) : (setPois c b p).readOut = c.readOut := rfl
@[simp] theorem setPois_hung (c : Chip) (b : Nat) (p : Bool) : (setPois c b p).hung = c.hung := rfl
@[simp] theorem setPois_waiting (c : Chip) (b : Nat) (p : Bool) : (setPois c b p).waiting = c.waiting := rfl
@[simp] theorem setPois_reports (c : Chip) (b : Nat) (p : Bool) : (setPois c b p).reports = c.reports := rfl
@[simp] theorem setPois_seed (c : Chip) (b : Nat) (p : Bool) : (setPois c b p).seed = c.seed := rfl
@[simp] theorem report_fresh (c : Chip) (node code : Nat) (items : List Nat) : (report c node code items).fresh = c.fresh := rfl
@[simp] theorem report_mem (c : Chip) (node code : Nat) (items : List Nat) : (report c node code items).mem = c.mem := rfl
@[simp] theorem report_pois (c : Chip) (node code : Nat) (items : List Nat) : (report c node code items).pois = c.pois := rfl
@[simp] theorem report_crypt (c : Chip) (node code : Nat) (items : List Nat) : (report c node code items).crypt = c.crypt := rfl
@[simp] theorem report_lost (c : Chip) (node code : Nat) (items : List Nat) : (report c node code items).lost = c.lost := rfl
@[simp] theorem report_since (c : Chip) (node code : Nat) (items : List Nat) : (report c node code items).since = c.since := rfl
@[simp] theorem report_cores (c : Chip) (node code : Nat) (items : List Nat) : (report c node code items).cores = c.cores := rfl
@[simp] theorem report_rooms (c : Chip) (node code : Nat) (items : List Nat) : (report c node code items).rooms = c.rooms := rfl
@[simp] theorem report_stk (c : Chip) (node code : Nat) (items : List Nat) : (report c node code items).stk = c.stk := rfl
@[simp] theorem report_regs (c : Chip) (node code : Nat) (items : List Nat) : (report c node code items).regs = c.regs := rfl
@[simp] theorem report_plls (c : Chip) (node code : Nat) (items : List Nat) : (report c node code items).plls = c.plls := rfl
@[simp] theorem report_meshOn (c : Chip) (node code : Nat) (items : List Nat) :
    (report c node code items).meshOn = c.meshOn := rfl
@[simp] theorem report_portOff (c : Chip) (node code : Nat) (items : List Nat) :
    (report c node code items).portOff = c.portOff := rfl
@[simp] theorem report_ethKeys (c : Chip) (node code : Nat) (items : List Nat) :
    (report c node code items).ethKeys = c.ethKeys := rfl
@[simp] theorem report_floors (c : Chip) (node code : Nat) (items : List Nat) :
    (report c node code items).floors = c.floors := rfl
@[simp] theorem report_plHold (c : Chip) (node code : Nat) (items : List Nat) :
    (report c node code items).plHold = c.plHold := rfl
@[simp] theorem report_nowUs (c : Chip) (node code : Nat) (items : List Nat) : (report c node code items).nowUs = c.nowUs := rfl
@[simp] theorem report_stopAt (c : Chip) (node code : Nat) (items : List Nat) :
    (report c node code items).stopAt = c.stopAt := rfl
@[simp] theorem report_readOut (c : Chip) (node code : Nat) (items : List Nat) :
    (report c node code items).readOut = c.readOut := rfl
@[simp] theorem report_hung (c : Chip) (node code : Nat) (items : List Nat) :
    (report c node code items).hung = c.hung := rfl
@[simp] theorem report_waiting (c : Chip) (node code : Nat) (items : List Nat) :
    (report c node code items).waiting = c.waiting := rfl
@[simp] theorem report_seed (c : Chip) (node code : Nat) (items : List Nat) : (report c node code items).seed = c.seed := rfl

/-! ### Reading back what an operation wrote -/

theorem coreOf_modCore (c : Chip) (n m : Nat) (f : Core → Core) :
    coreOf (modCore c n f) m = if m = n then f (coreOf c n) else coreOf c m := by
  simp [coreOf, modCore, setCore, tget_tput]

theorem roomOf_modRoom (c : Chip) (n m : Nat) (f : Room → Room) :
    roomOf (modRoom c n f) m = if m = n then f (roomOf c n) else roomOf c m := by
  simp [roomOf, modRoom, tget_tput]

theorem stackOf_modStack (c : Chip) (n m : Nat) (f : Stack → Stack) :
    stackOf (modStack c n f) m = if m = n then f (stackOf c n) else stackOf c m := by
  simp [stackOf, modStack, tget_tput]

@[simp] theorem strandOf_setStrand_self (c : Chip) (u : StrandId) (st : Strand) : strandOf (setStrand c u st) u = st := by
  simp [strandOf, setStrand, coreOf_modCore]

theorem strandOf_setStrand_ne (c : Chip) {u v : StrandId} (st : Strand) (h : v ≠ u) :
    strandOf (setStrand c u st) v = strandOf c v := by
  simp only [strandOf, setStrand, coreOf_modCore]
  split
  · next hc =>
    have hs : v.strand.val ≠ u.strand.val := fun hs => h (by
      cases u; cases v; simp only [StrandId.mk.injEq]; exact ⟨Fin.ext hc, Fin.ext hs⟩)
    rw [tget_tput_ne _ _ _ hs, hc]
  · rfl

@[simp] theorem strandOf_modStrand_self (c : Chip) (u : StrandId) (f : Strand → Strand) :
    strandOf (modStrand c u f) u = f (strandOf c u) := by
  simp [modStrand]

theorem strandOf_modStrand_ne (c : Chip) {u v : StrandId} (f : Strand → Strand) (h : v ≠ u) :
    strandOf (modStrand c u f) v = strandOf c v := by
  simp [modStrand, strandOf_setStrand_ne c _ h]

@[simp] theorem pcieOf_modPcie_self (p : Nat) (f : Pcie → Pcie) (s : State) : pcieOf (modPcie p f s) p = f (pcieOf s p) := by
  simp [pcieOf, modPcie, tget_tmod]

theorem pcieOf_modPcie_ne {p q : Nat} (f : Pcie → Pcie) (s : State) (h : q ≠ p) :
    pcieOf (modPcie p f s) q = pcieOf s q := by
  simp [pcieOf, modPcie, tget_tmod, h]

@[simp] theorem ethOf_modEth_self (p : Nat) (f : EthPort → EthPort) (s : State) : ethOf (modEth p f s) p = f (ethOf s p) := by
  simp [ethOf, modEth, tget_tmod]

theorem ethOf_modEth_ne {p q : Nat} (f : EthPort → EthPort) (s : State) (h : q ≠ p) :
    ethOf (modEth p f s) q = ethOf s q := by
  simp [ethOf, modEth, tget_tmod, h]

theorem blockKey_injective {a b : BlockId} (h : blockKey a = blockKey b) : a = b := by
  cases a <;> cases b <;> simp only [blockKey] at h <;> first | rfl | (congr 1; ext; omega) | (exfalso; omega)

@[simp] theorem rawReg_setRaw_self (c : Chip) (b : BlockId) (n : Nat) (v : W32) : rawReg (setRaw c b n v) b n = v := by
  simp [rawReg, blkRegs, setRaw]

theorem rawReg_setRaw_ne (c : Chip) {b d : BlockId} {n m : Nat} (v : W32) (h : d ≠ b ∨ m ≠ n) :
    rawReg (setRaw c b n v) d m = rawReg c d m := by
  by_cases hb : d = b
  · subst hb
    have hm : m ≠ n := h.resolve_left (fun x => x rfl)
    simp [rawReg, blkRegs, setRaw, tget_tput_ne _ _ _ hm]
  · have : blockKey d ≠ blockKey b := fun e => hb (blockKey_injective e)
    simp [rawReg, blkRegs, setRaw, tget_tput_ne _ _ _ this]

@[simp] theorem roomOf_setF (c : Chip) (b : BlockId) (n hi lo v r : Nat) : roomOf (setF c b n hi lo v) r = roomOf c r := rfl
@[simp] theorem coreOf_setF (c : Chip) (b : BlockId) (n hi lo v r : Nat) : coreOf (setF c b n hi lo v) r = coreOf c r := rfl
@[simp] theorem stackOf_setF (c : Chip) (b : BlockId) (n hi lo v r : Nat) : stackOf (setF c b n hi lo v) r = stackOf c r := rfl

/-! ### A DMA engine, a DRAM bank, a window, a queue pair, a pigeonhole -/

@[simp] theorem modDma_fresh (c : Chip) (r : Nat) (f : Dma → Dma) : (modDma c r f).fresh = c.fresh := rfl
@[simp] theorem modDma_mem (c : Chip) (r : Nat) (f : Dma → Dma) : (modDma c r f).mem = c.mem := rfl
@[simp] theorem modDma_pois (c : Chip) (r : Nat) (f : Dma → Dma) : (modDma c r f).pois = c.pois := rfl
@[simp] theorem modDma_crypt (c : Chip) (r : Nat) (f : Dma → Dma) : (modDma c r f).crypt = c.crypt := rfl
@[simp] theorem modDma_lost (c : Chip) (r : Nat) (f : Dma → Dma) : (modDma c r f).lost = c.lost := rfl
@[simp] theorem modDma_since (c : Chip) (r : Nat) (f : Dma → Dma) : (modDma c r f).since = c.since := rfl
@[simp] theorem modDma_cores (c : Chip) (r : Nat) (f : Dma → Dma) : (modDma c r f).cores = c.cores := rfl
@[simp] theorem modDma_stk (c : Chip) (r : Nat) (f : Dma → Dma) : (modDma c r f).stk = c.stk := rfl
@[simp] theorem modDma_regs (c : Chip) (r : Nat) (f : Dma → Dma) : (modDma c r f).regs = c.regs := rfl
@[simp] theorem modDma_plls (c : Chip) (r : Nat) (f : Dma → Dma) : (modDma c r f).plls = c.plls := rfl
@[simp] theorem modDma_meshOn (c : Chip) (r : Nat) (f : Dma → Dma) : (modDma c r f).meshOn = c.meshOn := rfl
@[simp] theorem modDma_portOff (c : Chip) (r : Nat) (f : Dma → Dma) : (modDma c r f).portOff = c.portOff := rfl
@[simp] theorem modDma_ethKeys (c : Chip) (r : Nat) (f : Dma → Dma) : (modDma c r f).ethKeys = c.ethKeys := rfl
@[simp] theorem modDma_floors (c : Chip) (r : Nat) (f : Dma → Dma) : (modDma c r f).floors = c.floors := rfl
@[simp] theorem modDma_plHold (c : Chip) (r : Nat) (f : Dma → Dma) : (modDma c r f).plHold = c.plHold := rfl
@[simp] theorem modDma_nowUs (c : Chip) (r : Nat) (f : Dma → Dma) : (modDma c r f).nowUs = c.nowUs := rfl
@[simp] theorem modDma_stopAt (c : Chip) (r : Nat) (f : Dma → Dma) : (modDma c r f).stopAt = c.stopAt := rfl
@[simp] theorem modDma_hung (c : Chip) (r : Nat) (f : Dma → Dma) : (modDma c r f).hung = c.hung := rfl
@[simp] theorem modDma_waiting (c : Chip) (r : Nat) (f : Dma → Dma) : (modDma c r f).waiting = c.waiting := rfl
@[simp] theorem modDma_readOut (c : Chip) (r : Nat) (f : Dma → Dma) : (modDma c r f).readOut = c.readOut := rfl
@[simp] theorem modDma_reports (c : Chip) (r : Nat) (f : Dma → Dma) : (modDma c r f).reports = c.reports := rfl
@[simp] theorem modDma_seed (c : Chip) (r : Nat) (f : Dma → Dma) : (modDma c r f).seed = c.seed := rfl

@[simp] theorem modDram_fresh (c : Chip) (k b : Nat) (f : DramQ → DramQ) : (modDram c k b f).fresh = c.fresh := rfl
@[simp] theorem modDram_mem (c : Chip) (k b : Nat) (f : DramQ → DramQ) : (modDram c k b f).mem = c.mem := rfl
@[simp] theorem modDram_pois (c : Chip) (k b : Nat) (f : DramQ → DramQ) : (modDram c k b f).pois = c.pois := rfl
@[simp] theorem modDram_crypt (c : Chip) (k b : Nat) (f : DramQ → DramQ) : (modDram c k b f).crypt = c.crypt := rfl
@[simp] theorem modDram_lost (c : Chip) (k b : Nat) (f : DramQ → DramQ) : (modDram c k b f).lost = c.lost := rfl
@[simp] theorem modDram_since (c : Chip) (k b : Nat) (f : DramQ → DramQ) : (modDram c k b f).since = c.since := rfl
@[simp] theorem modDram_cores (c : Chip) (k b : Nat) (f : DramQ → DramQ) : (modDram c k b f).cores = c.cores := rfl
@[simp] theorem modDram_rooms (c : Chip) (k b : Nat) (f : DramQ → DramQ) : (modDram c k b f).rooms = c.rooms := rfl
@[simp] theorem modDram_regs (c : Chip) (k b : Nat) (f : DramQ → DramQ) : (modDram c k b f).regs = c.regs := rfl
@[simp] theorem modDram_plls (c : Chip) (k b : Nat) (f : DramQ → DramQ) : (modDram c k b f).plls = c.plls := rfl
@[simp] theorem modDram_meshOn (c : Chip) (k b : Nat) (f : DramQ → DramQ) : (modDram c k b f).meshOn = c.meshOn := rfl
@[simp] theorem modDram_portOff (c : Chip) (k b : Nat) (f : DramQ → DramQ) : (modDram c k b f).portOff = c.portOff := rfl
@[simp] theorem modDram_ethKeys (c : Chip) (k b : Nat) (f : DramQ → DramQ) : (modDram c k b f).ethKeys = c.ethKeys := rfl
@[simp] theorem modDram_floors (c : Chip) (k b : Nat) (f : DramQ → DramQ) : (modDram c k b f).floors = c.floors := rfl
@[simp] theorem modDram_plHold (c : Chip) (k b : Nat) (f : DramQ → DramQ) : (modDram c k b f).plHold = c.plHold := rfl
@[simp] theorem modDram_nowUs (c : Chip) (k b : Nat) (f : DramQ → DramQ) : (modDram c k b f).nowUs = c.nowUs := rfl
@[simp] theorem modDram_stopAt (c : Chip) (k b : Nat) (f : DramQ → DramQ) : (modDram c k b f).stopAt = c.stopAt := rfl
@[simp] theorem modDram_hung (c : Chip) (k b : Nat) (f : DramQ → DramQ) : (modDram c k b f).hung = c.hung := rfl
@[simp] theorem modDram_waiting (c : Chip) (k b : Nat) (f : DramQ → DramQ) : (modDram c k b f).waiting = c.waiting := rfl
@[simp] theorem modDram_readOut (c : Chip) (k b : Nat) (f : DramQ → DramQ) : (modDram c k b f).readOut = c.readOut := rfl
@[simp] theorem modDram_reports (c : Chip) (k b : Nat) (f : DramQ → DramQ) : (modDram c k b f).reports = c.reports := rfl
@[simp] theorem modDram_seed (c : Chip) (k b : Nat) (f : DramQ → DramQ) : (modDram c k b f).seed = c.seed := rfl

@[simp] theorem modWin_pending (k : Nat) (f : WinSt → WinSt) (s : State) : (modWin k f s).pending = s.pending := rfl
@[simp] theorem modWin_flash (k : Nat) (f : WinSt → WinSt) (s : State) : (modWin k f s).flash = s.flash := rfl
@[simp] theorem modWin_fuses (k : Nat) (f : WinSt → WinSt) (s : State) : (modWin k f s).fuses = s.fuses := rfl
@[simp] theorem modWin_chip (k : Nat) (f : WinSt → WinSt) (s : State) : (modWin k f s).chip = s.chip := rfl
@[simp] theorem modWin_boot (k : Nat) (f : WinSt → WinSt) (s : State) : (modWin k f s).dev.boot = s.dev.boot := rfl
@[simp] theorem modWin_warden (k : Nat) (f : WinSt → WinSt) (s : State) : (modWin k f s).dev.warden = s.dev.warden := rfl
@[simp] theorem modWin_pcie (k : Nat) (f : WinSt → WinSt) (s : State) : (modWin k f s).dev.pcie = s.dev.pcie := rfl
@[simp] theorem modWin_eth (k : Nat) (f : WinSt → WinSt) (s : State) : (modWin k f s).dev.eth = s.dev.eth := rfl
@[simp] theorem modWin_qps (k : Nat) (f : WinSt → WinSt) (s : State) : (modWin k f s).dev.qps = s.dev.qps := rfl
@[simp] theorem modWin_bell (k : Nat) (f : WinSt → WinSt) (s : State) : (modWin k f s).dev.bell = s.dev.bell := rfl
@[simp] theorem modWin_power (k : Nat) (f : WinSt → WinSt) (s : State) : (modWin k f s).dev.power = s.dev.power := rfl
@[simp] theorem modWin_ring (k : Nat) (f : WinSt → WinSt) (s : State) : (modWin k f s).dev.ring = s.dev.ring := rfl
@[simp] theorem modWin_ringWait (k : Nat) (f : WinSt → WinSt) (s : State) :
    (modWin k f s).dev.ringWait = s.dev.ringWait := rfl
@[simp] theorem modWin_ringErr (k : Nat) (f : WinSt → WinSt) (s : State) : (modWin k f s).dev.ringErr = s.dev.ringErr := rfl
@[simp] theorem modWin_side (k : Nat) (f : WinSt → WinSt) (s : State) : (modWin k f s).dev.side = s.dev.side := rfl

@[simp] theorem modQp_pending (n : Nat) (f : Qp → Qp) (s : State) : (modQp n f s).pending = s.pending := rfl
@[simp] theorem modQp_flash (n : Nat) (f : Qp → Qp) (s : State) : (modQp n f s).flash = s.flash := rfl
@[simp] theorem modQp_fuses (n : Nat) (f : Qp → Qp) (s : State) : (modQp n f s).fuses = s.fuses := rfl
@[simp] theorem modQp_chip (n : Nat) (f : Qp → Qp) (s : State) : (modQp n f s).chip = s.chip := rfl
@[simp] theorem modQp_boot (n : Nat) (f : Qp → Qp) (s : State) : (modQp n f s).dev.boot = s.dev.boot := rfl
@[simp] theorem modQp_warden (n : Nat) (f : Qp → Qp) (s : State) : (modQp n f s).dev.warden = s.dev.warden := rfl
@[simp] theorem modQp_pcie (n : Nat) (f : Qp → Qp) (s : State) : (modQp n f s).dev.pcie = s.dev.pcie := rfl
@[simp] theorem modQp_eth (n : Nat) (f : Qp → Qp) (s : State) : (modQp n f s).dev.eth = s.dev.eth := rfl
@[simp] theorem modQp_bell (n : Nat) (f : Qp → Qp) (s : State) : (modQp n f s).dev.bell = s.dev.bell := rfl
@[simp] theorem modQp_wins (n : Nat) (f : Qp → Qp) (s : State) : (modQp n f s).dev.wins = s.dev.wins := rfl
@[simp] theorem modQp_power (n : Nat) (f : Qp → Qp) (s : State) : (modQp n f s).dev.power = s.dev.power := rfl
@[simp] theorem modQp_ring (n : Nat) (f : Qp → Qp) (s : State) : (modQp n f s).dev.ring = s.dev.ring := rfl
@[simp] theorem modQp_ringWait (n : Nat) (f : Qp → Qp) (s : State) : (modQp n f s).dev.ringWait = s.dev.ringWait := rfl
@[simp] theorem modQp_ringErr (n : Nat) (f : Qp → Qp) (s : State) : (modQp n f s).dev.ringErr = s.dev.ringErr := rfl
@[simp] theorem modQp_side (n : Nat) (f : Qp → Qp) (s : State) : (modQp n f s).dev.side = s.dev.side := rfl

@[simp] theorem modPigeon_pending (n : Nat) (f : Pigeon → Pigeon) (s : State) : (modPigeon n f s).pending = s.pending := rfl
@[simp] theorem modPigeon_flash (n : Nat) (f : Pigeon → Pigeon) (s : State) : (modPigeon n f s).flash = s.flash := rfl
@[simp] theorem modPigeon_fuses (n : Nat) (f : Pigeon → Pigeon) (s : State) : (modPigeon n f s).fuses = s.fuses := rfl
@[simp] theorem modPigeon_chip (n : Nat) (f : Pigeon → Pigeon) (s : State) : (modPigeon n f s).chip = s.chip := rfl
@[simp] theorem modPigeon_boot (n : Nat) (f : Pigeon → Pigeon) (s : State) : (modPigeon n f s).dev.boot = s.dev.boot := rfl
@[simp] theorem modPigeon_warden (n : Nat) (f : Pigeon → Pigeon) (s : State) :
    (modPigeon n f s).dev.warden = s.dev.warden := rfl
@[simp] theorem modPigeon_eth (n : Nat) (f : Pigeon → Pigeon) (s : State) : (modPigeon n f s).dev.eth = s.dev.eth := rfl
@[simp] theorem modPigeon_qps (n : Nat) (f : Pigeon → Pigeon) (s : State) : (modPigeon n f s).dev.qps = s.dev.qps := rfl
@[simp] theorem modPigeon_bell (n : Nat) (f : Pigeon → Pigeon) (s : State) : (modPigeon n f s).dev.bell = s.dev.bell := rfl
@[simp] theorem modPigeon_wins (n : Nat) (f : Pigeon → Pigeon) (s : State) : (modPigeon n f s).dev.wins = s.dev.wins := rfl
@[simp] theorem modPigeon_power (n : Nat) (f : Pigeon → Pigeon) (s : State) :
    (modPigeon n f s).dev.power = s.dev.power := rfl
@[simp] theorem modPigeon_ring (n : Nat) (f : Pigeon → Pigeon) (s : State) : (modPigeon n f s).dev.ring = s.dev.ring := rfl
@[simp] theorem modPigeon_ringWait (n : Nat) (f : Pigeon → Pigeon) (s : State) :
    (modPigeon n f s).dev.ringWait = s.dev.ringWait := rfl
@[simp] theorem modPigeon_ringErr (n : Nat) (f : Pigeon → Pigeon) (s : State) :
    (modPigeon n f s).dev.ringErr = s.dev.ringErr := rfl
@[simp] theorem modPigeon_side (n : Nat) (f : Pigeon → Pigeon) (s : State) : (modPigeon n f s).dev.side = s.dev.side := rfl

/-- A window that was changed, and every other. -/
@[simp] theorem winOf_modWin_self (k : Nat) (f : WinSt → WinSt) (s : State) : winOf (modWin k f s) k = f (winOf s k) := by
  simp [winOf, modWin, modDev, tmod]

theorem winOf_modWin_ne {k n : Nat} (f : WinSt → WinSt) (s : State) (h : n ≠ k) : winOf (modWin k f s) n = winOf s n := by
  simp [winOf, modWin, modDev, tmod, tget_tput_ne _ _ _ h]

/-- A pigeonhole that was changed, and every other. -/
@[simp] theorem pigeonOf_modPigeon_self (n : Nat) (f : Pigeon → Pigeon) (s : State) :
    pigeonOf (modPigeon n f s) n = f (pigeonOf s n) := by
  simp [pigeonOf, modPigeon, tmod]

theorem pigeonOf_modPigeon_ne {n m : Nat} (f : Pigeon → Pigeon) (s : State) (h : m ≠ n) :
    pigeonOf (modPigeon n f s) m = pigeonOf s m := by
  by_cases hp : m / 8 = n / 8
  · have hm : m % 8 ≠ n % 8 := by omega
    simp [pigeonOf, modPigeon, hp, tmod, tget_tput_ne _ _ _ hm]
  · simp [pigeonOf, modPigeon, pcieOf_modPcie_ne _ _ hp]

/-- A DRAM bank that was changed. -/
@[simp] theorem dramOf_modDram_self (c : Chip) (k b : Nat) (f : DramQ → DramQ) : dramOf (modDram c k b f) k b = f (dramOf c k b) := by
  simp [dramOf, modDram, stackOf, modStack, tmod]

end Sys2Proof.Machine
end

