-- ==== Sys2Proof/Laws/Fields.lean ====
section
/-! SUPPORT. Bit fields: a field that was set reads as what was set, every other field of the register and
every other register stays. -/

namespace Sys2Proof.Machine

theorem natBit_eq_testBit (n b : Nat) : natBit n b = n.testBit b := by
  simp only [natBit, Nat.testBit, Nat.shiftRight_eq_div_pow, Nat.one_and_eq_mod_two]
  rcases Nat.mod_two_eq_zero_or_one (n / 2 ^ b) with h | h <;> simp [h]

theorem testBit_natBits (n hi lo i : Nat) : (natBits n hi lo).testBit i = (decide (i < hi + 1 - lo) && n.testBit (lo + i)) := by
  rw [natBits, Nat.testBit_mod_two_pow, Nat.testBit_div_two_pow, Nat.add_comm lo i]

/-- The number with a field replaced, as what lies below, in and above the field. -/
theorem natSetBits_eq (n hi lo v : Nat) : natSetBits n hi lo v =
    2 ^ lo * (2 ^ (hi + 1 - lo) * (n / 2 ^ lo / 2 ^ (hi + 1 - lo)) + v % 2 ^ (hi + 1 - lo)) + n % 2 ^ lo := by
  simp only [natSetBits, natBits]
  generalize hi + 1 - lo = w
  have h1 : n = 2 ^ lo * (n / 2 ^ lo) + n % 2 ^ lo := (Nat.div_add_mod _ _).symm
  have h2 : n / 2 ^ lo = 2 ^ w * (n / 2 ^ lo / 2 ^ w) + n / 2 ^ lo % 2 ^ w := (Nat.div_add_mod _ _).symm
  generalize n / 2 ^ lo / 2 ^ w = a at h2 ⊢
  generalize n / 2 ^ lo % 2 ^ w = f at h2 ⊢
  generalize n / 2 ^ lo = q at h1 h2
  generalize n % 2 ^ lo = r at h1 ⊢
  generalize v % 2 ^ w = g
  subst h1; subst h2
  have : 2 ^ lo * (2 ^ w * a + f) + r - f * 2 ^ lo = 2 ^ lo * (2 ^ w * a) + r := by
    rw [Nat.mul_add, Nat.mul_comm f]; omega
  rw [this]; ring

theorem testBit_natSetBits (n hi lo v i : Nat) (h : lo ≤ hi + 1) : (natSetBits n hi lo v).testBit i =
    if lo ≤ i ∧ i ≤ hi then v.testBit (i - lo) else n.testBit i := by
  rw [natSetBits_eq, Nat.testBit_two_pow_mul_add _ (Nat.mod_lt _ (Nat.two_pow_pos lo))]
  by_cases h1 : i < lo
  · rw [if_pos h1, Nat.testBit_mod_two_pow, if_neg (by omega)]; simp [h1]
  · rw [if_neg h1, Nat.testBit_two_pow_mul_add _ (Nat.mod_lt _ (Nat.two_pow_pos _))]
    by_cases h2 : i ≤ hi
    · rw [if_pos (by omega), if_pos (by omega), Nat.testBit_mod_two_pow]
      have : i - lo < hi + 1 - lo := by omega
      simp [this]
    · rw [if_neg (by omega), if_neg (by omega), Nat.testBit_div_two_pow, Nat.testBit_div_two_pow]
      congr 1; omega

/-- A field that was set. -/
theorem natBits_natSetBits_self (n hi lo v : Nat) (h : lo ≤ hi + 1) :
    natBits (natSetBits n hi lo v) hi lo = v % 2 ^ (hi + 1 - lo) := by
  apply Nat.eq_of_testBit_eq
  intro i
  rw [testBit_natBits, testBit_natSetBits _ _ _ _ _ h, Nat.testBit_mod_two_pow]
  by_cases hi : i < hi + 1 - lo
  · rw [if_pos (by omega)]; simp [hi]
  · simp [hi]

/-- Another field. -/
theorem natBits_natSetBits_ne (n hi lo v hi' lo' : Nat) (h : lo ≤ hi + 1) (hd : hi' < lo ∨ hi < lo') :
    natBits (natSetBits n hi lo v) hi' lo' = natBits n hi' lo' := by
  apply Nat.eq_of_testBit_eq
  intro i
  rw [testBit_natBits, testBit_natBits, testBit_natSetBits _ _ _ _ _ h]
  by_cases hi : i < hi' + 1 - lo'
  · rw [if_neg (by omega)]
  · simp [hi]

theorem natSetBits_lt {n hi lo v k : Nat} (h : lo ≤ hi + 1) (hn : n < 2 ^ k) (hk : hi < k) : natSetBits n hi lo v < 2 ^ k := by
  apply Nat.lt_pow_two_of_testBit
  intro i hi'
  rw [testBit_natSetBits _ _ _ _ _ h, if_neg (by omega)]
  exact Nat.testBit_lt_two_pow (lt_of_lt_of_le hn (Nat.pow_le_pow_right (by omega) hi'))

theorem rawReg_setF_self (c : Chip) (b : BlockId) (n hi lo v : Nat) (h : lo ≤ hi + 1) (hh : hi < 32) :
    (rawReg (setF c b n hi lo v) b n).toNat = natSetBits (rawReg c b n).toNat hi lo v := by
  rw [setF, rawReg_setRaw_self, BitVec.toNat_ofNat, Nat.mod_eq_of_lt (natSetBits_lt h (rawReg c b n).isLt hh)]

/-- The field that was set. -/
theorem getF_setF_self (c : Chip) (b : BlockId) (n hi lo v : Nat) (h : lo ≤ hi + 1) (hh : hi < 32) :
    getF (setF c b n hi lo v) b n hi lo = v % 2 ^ (hi + 1 - lo) := by
  rw [getF, rawReg_setF_self _ _ _ _ _ _ h hh, natBits_natSetBits_self _ _ _ _ h]

/-- Another field of the same register. -/
theorem getF_setF_field (c : Chip) (b : BlockId) (n hi lo v hi' lo' : Nat) (h : lo ≤ hi + 1) (hh : hi < 32)
    (hd : hi' < lo ∨ hi < lo') : getF (setF c b n hi lo v) b n hi' lo' = getF c b n hi' lo' := by
  rw [getF, rawReg_setF_self _ _ _ _ _ _ h hh, natBits_natSetBits_ne _ _ _ _ _ _ h hd, getF]

/-- Another register. -/
theorem rawReg_setF_ne (c : Chip) {b d : BlockId} {n m : Nat} (hi lo v : Nat) (h : d ≠ b ∨ m ≠ n) :
    rawReg (setF c b n hi lo v) d m = rawReg c d m := rawReg_setRaw_ne c _ h

theorem getF_setF_ne (c : Chip) {b d : BlockId} {n m : Nat} (hi lo v hi' lo' : Nat) (h : d ≠ b ∨ m ≠ n) :
    getF (setF c b n hi lo v) d m hi' lo' = getF c d m hi' lo' := by
  rw [getF, rawReg_setF_ne _ _ _ _ h, getF]

/-- The state of a block that was set. -/
@[simp] theorem bState_setState_self (c : Chip) (b : BlockId) (v : Nat) : bState (setState c b v) b = v % 4 := by
  simpa [bState, setState] using getF_setF_self c b 0x002 1 0 v (by decide) (by decide)

theorem bState_setState_ne (c : Chip) {b d : BlockId} (v : Nat) (h : d ≠ b) : bState (setState c b v) d = bState c d :=
  getF_setF_ne c _ _ _ _ _ (.inl h)

end Sys2Proof.Machine
end

