-- ==== Sys2Proof/Laws/Issue.lean ====
section
/-! SUPPORT. What one instruction of a strand can do, said once: it is withheld and passes its turn on, it takes an
exception, or it has its effect and its slot ends; and when each of them happens. -/

namespace Sys2Proof.Machine

/-- Everything `issue` can do. -/
theorem issue_cases (c : Chip) (u : StrandId) (i : Insn) :
    issue c u i = c ∨ issue c u i = passTurn (i.ask c) u ∨ (∃ e, issue c u i = takeExc (earlySlot c u) u e i.word) ∨
    (∃ e, issue c u i = takeExc (faultSlot c u) u e i.word) ∨
    (∃ e, i.after = some e ∧ issue c u i = takeExc (faultSlot (i.act c) u) u e i.word) ∨
    issue c u i = retire (i.act c) u i.flow := by
  unfold issue
  split
  · exact .inl rfl
  · split
    · next e _ => exact .inr (.inr (.inl ⟨e, rfl⟩))
    · split
      · exact .inr (.inl rfl)
      · split
        · next e _ => exact .inr (.inr (.inr (.inl ⟨e, rfl⟩)))
        · split
          · next e h => exact .inr (.inr (.inr (.inr (.inl ⟨e, h, rfl⟩))))
          · exact .inr (.inr (.inr (.inr (.inr rfl))))

/-- An instruction that nothing stops has its effect, and its slot ends. -/
theorem issue_runs {c : Chip} {u : StrandId} {i : Insn} (hr : Ready c u) (hh : i.hold = false)
    (hf : insnFault c u i = none) (ha : i.after = none) : issue c u i = retire (i.act c) u i.flow := by
  simp [issue, hr.1, hr.2, hh, hf, ha]

/-- An instruction with a fault of its own takes it after its slot is counted. -/
theorem issue_faults {c : Chip} {u : StrandId} {i : Insn} {e : Exc} (hr : Ready c u) (hh : i.hold = false)
    (hf : insnFault c u i = some e) : issue c u i = takeExc (faultSlot c u) u e i.word := by
  simp [issue, hr.1, hr.2, hh, hf]

theorem minOf_eq_none {l : List Nat} : minOf l = none ↔ l = [] := by
  cases l <;> simp [minOf]

theorem foldl_min_le (l : List Nat) : ∀ a : Nat, l.foldl min a ≤ a ∧ ∀ x ∈ l, l.foldl min a ≤ x := by
  induction l with
  | nil => simp
  | cons y l ih =>
    intro a
    refine ⟨((ih (min a y)).1).trans (min_le_left _ _), fun x hx => ?_⟩
    rcases List.mem_cons.mp hx with rfl | hx
    · exact ((ih (min a x)).1).trans (min_le_right _ _)
    · exact (ih (min a y)).2 x hx

theorem foldl_min_mem (l : List Nat) : ∀ a : Nat, l.foldl min a = a ∨ l.foldl min a ∈ l := by
  induction l with
  | nil => simp
  | cons y l ih =>
    intro a
    rcases ih (min a y) with h | h
    · rcases le_total a y with hy | hy
      · left; simpa [min_eq_left hy] using h
      · right; simp only [List.foldl_cons, List.mem_cons]; left; simpa [min_eq_right hy] using h
    · right; simp [h]

/-- `minOf` finds the least element. -/
theorem minOf_eq_some {l : List Nat} {m : Nat} (hm : m ∈ l) (hl : ∀ x ∈ l, m ≤ x) : minOf l = some m := by
  cases l with
  | nil => cases hm
  | cons a l =>
    have h1 : l.foldl min a ≤ m := by
      rcases List.mem_cons.mp hm with rfl | h
      · exact (foldl_min_le l m).1
      · exact (foldl_min_le l a).2 m h
    have h2 : m ≤ l.foldl min a := by
      rcases foldl_min_mem l a with h | h
      · rw [h]; exact hl a (by simp)
      · exact hl _ (by simp [h])
    simp only [minOf, le_antisymm h1 h2]

theorem orderFault_none {st : Strand} {i : Insn} (h : InOrder st i.dsts) : orderFault st i = none := by
  have : (i.dsts.filter (fun d => st.pend.any (fun w => w.reg == d.1 && decide (d.2 ≤ w.k)))) = [] := by
    rw [List.filter_eq_nil_iff]
    intro d hd
    simp only [List.any_eq_true, Bool.and_eq_true, beq_iff_eq, decide_eq_true_eq, not_exists, not_and, not_le]
    exact fun w hw hr => h d hd w hw hr
  simp [orderFault, this, minOf]

theorem fregFault_none {st : Strand} {i : Insn} (h : OwnsFree st i.fregs) : fregFault st i = none := by
  have h1 : i.fregs.filter (fun n => !natBit (vcreg st 6).toNat n) = [] := by
    rw [List.filter_eq_nil_iff]; intro n hn; simp [(h n hn).1]
  have h2 : i.fregs.filter (fun n => st.pendV.any (fun w => w.reg == n)) = [] := by
    rw [List.filter_eq_nil_iff]; intro n hn
    simpa [List.any_eq_true] using (h n hn).2
  simp [fregFault, h1, h2, minOf]

theorem srcs_clean {c : Chip} {u : StrandId} {l : List Nat} (h : Clean c u l) : minOf (l.filter (regPois c u)) = none := by
  rw [minOf_eq_none, List.filter_eq_nil_iff]; intro r hr; simp [h r hr]

theorem flowFault_plain {st : Strand} {i : Insn} (hc : i.ctl = false) (hl : i.loopStart = false) (h : LoopsClear st)
    (hm : i.modeWrite = true → ∀ w ∈ st.pend, w.reg ≠ 64) : flowFault st i = none := by
  have h1 : (decide (st.pc = (creg st 4).toNat) && creg st 5 != 0 && st.pb.isSome) = false := by
    by_contra hx
    simp only [Bool.not_eq_false, Bool.and_eq_true, decide_eq_true_eq, bne_iff_ne] at hx
    rcases (h hx.1.1).1 with h5 | hb
    · exact hx.1.2 h5
    · simp [hb] at hx
  have h2 : (decide (st.pc = (creg st 4).toNat) && st.pend.any (fun w => w.reg == 69)) = false := by
    by_contra hx
    simp only [Bool.not_eq_false, Bool.and_eq_true, decide_eq_true_eq, List.any_eq_true, beq_iff_eq] at hx
    obtain ⟨he, w, hw, hr⟩ := hx
    exact (h he).2 w hw hr
  have h3 : (i.modeWrite && st.pend.any (fun w => w.reg == 64)) = false := by
    by_contra hx
    simp only [Bool.not_eq_false, Bool.and_eq_true, List.any_eq_true, beq_iff_eq] at hx
    obtain ⟨hmw, w, hw, hr⟩ := hx
    exact hm hmw w hw hr
  simp only [flowFault, hc, hl, h1, h2, h3, Bool.false_and, Bool.and_false, Bool.false_eq_true, if_false]

theorem flowFault_branch {st : Strand} {i : Insn} (hb : st.pb = none) (he : atEnd st → creg st 5 = 0) (h : LoopsClear st)
    (hl : i.loopStart = true → creg st 5 = 0) (hm : i.modeWrite = false) : flowFault st i = none := by
  have h0 : (decide (st.pc = (creg st 4).toNat) && creg st 5 != 0) = false := by
    by_contra hx
    simp only [Bool.not_eq_false, Bool.and_eq_true, decide_eq_true_eq, bne_iff_ne] at hx
    exact hx.2 (he hx.1)
  have h2 : (decide (st.pc = (creg st 4).toNat) && st.pend.any (fun w => w.reg == 69)) = false := by
    by_contra hx
    simp only [Bool.not_eq_false, Bool.and_eq_true, decide_eq_true_eq, List.any_eq_true, beq_iff_eq] at hx
    obtain ⟨he, w, hw, hr⟩ := hx
    exact (h he).2 w hw hr
  have h4 : (i.loopStart && creg st 5 != 0) = false := by
    by_contra hx
    simp only [Bool.not_eq_false, Bool.and_eq_true, bne_iff_ne] at hx
    exact hx.2 (hl hx.1)
  simp only [flowFault, hb, h0, h2, h4, hm, Option.isSome_none, Bool.false_and, Bool.and_false, Bool.false_eq_true, if_false]

/-- When an instruction that is no branch runs, no condition of R152 from order 3 on holds. -/
theorem insnFault_plain {c : Chip} {u : StrandId} {i : Insn} (hr : Runs c u i.srcs i.dsts i.fregs)
    (hi : i.illegal = false) (hp : i.priv = false) (hc : i.ctl = false) (hl : i.loopStart = false)
    (hm : i.modeWrite = true → ∀ w ∈ (strandOf c u).pend, w.reg ≠ 64) (ha : i.addr = none) (hz : i.last = none) :
    insnFault c u i = none := by
  obtain ⟨-, hlc, hcl, ho, hf⟩ := hr
  simp [insnFault, hi, hp, flowFault_plain hc hl hlc hm, srcs_clean hcl, orderFault_none ho, ha, fregFault_none hf, hz]

/-- The same for a branch. -/
theorem insnFault_branch {c : Chip} {u : StrandId} {i : Insn} (hr : RunsBranch c u i.srcs i.dsts)
    (hi : i.illegal = false) (hp : i.priv = false) (hl : i.loopStart = true → creg (strandOf c u) 5 = 0)
    (hm : i.modeWrite = false) (ha : i.addr = none) (hf : i.fregs = []) (hz : i.last = none) :
    insnFault c u i = none := by
  obtain ⟨-, hb, he, hlc, hcl, ho⟩ := hr
  have : fregFault (strandOf c u) i = none := fregFault_none (by rw [hf]; intro n hn; cases hn)
  simp [insnFault, hi, hp, flowFault_branch hb he hlc hl hm, srcs_clean hcl, orderFault_none ho, ha, this, hz]

end Sys2Proof.Machine
end

