-- ==== Sys2Proof/Laws/Memory.lean ====
section
/-! SUPPORT. Memory: every operation that touches it keeps its canonical form, a word written reads back, and
a write leaves every other word alone. -/

namespace Sys2Proof.Machine

/-- The canonical form of a package's memory. -/
abbrev MemWf (c : Chip) : Prop := TableWf memDflt c.mem

theorem reset_memory_wf : Memory.wf State.reset := ⟨List.Pairwise.nil, by intro e he; cases he⟩

/-! ### Read after write -/

theorem high_append_low (w : Word) : ((w >>> 8).setWidth 8 : BitVec 8) ++ (w.setWidth 8 : BitVec 8) = (w : BitVec 16) := by
  apply BitVec.eq_of_getLsbD_eq
  intro i hi
  rw [BitVec.getLsbD_append]
  by_cases h : i < 8
  · simp [h]
  · have h8 : 8 + (i - 8) = i := by omega
    have h9 : i - 8 < 8 := by omega
    simp [h, h8, h9]

/-- The word at an address that was just written. -/
@[simp] theorem wordAt_setWord_self (m : List Host.Cell) (a : Nat) (w : Word) : wordAt (setWord m a w) a = w := by
  have h : 2 * a ≠ 2 * a + 1 := by omega
  simp only [wordAt, setWord, tget_tput_self, tget_tput_ne _ _ _ h]
  exact high_append_low w

/-- A word at another address. -/
theorem wordAt_setWord_ne (m : List Host.Cell) {a b : Nat} (w : Word) (h : b ≠ a) : wordAt (setWord m a w) b = wordAt m b := by
  have h1 : 2 * b + 1 ≠ 2 * a + 1 := by omega
  have h2 : 2 * b + 1 ≠ 2 * a := by omega
  have h3 : 2 * b ≠ 2 * a + 1 := by omega
  have h4 : 2 * b ≠ 2 * a := by omega
  simp only [wordAt, setWord, tget_tput_ne _ _ _ h1, tget_tput_ne _ _ _ h2, tget_tput_ne _ _ _ h3, tget_tput_ne _ _ _ h4]

/-- A run of words leaves an address outside it alone. -/
theorem wordAt_setRun_ne (ws : List Word) : ∀ (m : List Host.Cell) (a b : Nat), (b < a ∨ a + ws.length ≤ b) →
    wordAt (setRun m a ws) b = wordAt m b := by
  induction ws with
  | nil => intros; rfl
  | cons w ws ih =>
    intro m a b h
    simp only [List.length_cons] at h
    rw [setRun, ih _ _ _ (by omega), wordAt_setWord_ne _ _ (by omega)]

/-- Word i of a run that was just written. -/
theorem wordAt_setRun (ws : List Word) : ∀ (m : List Host.Cell) (a i : Nat) (h : i < ws.length),
    wordAt (setRun m a ws) (a + i) = ws[i] := by
  induction ws with
  | nil => intro m a i h; cases h
  | cons w ws ih =>
    intro m a i h
    cases i with
    | zero =>
      rw [setRun, wordAt_setRun_ne _ _ _ _ (by omega), Nat.add_zero, wordAt_setWord_self]; rfl
    | succ i =>
      have : a + (i + 1) = a + 1 + i := by omega
      rw [setRun, this, ih _ _ _ (by simpa using h)]; rfl

/-! ### The canonical form -/

theorem setWord_wf {m : List Host.Cell} (h : TableWf memDflt m) (a : Nat) (w : Word) : TableWf memDflt (setWord m a w) :=
  tput_wf (tput_wf h _ _) _ _

theorem setRun_wf (ws : List Word) : ∀ {m : List Host.Cell}, TableWf memDflt m → ∀ a, TableWf memDflt (setRun m a ws) := by
  induction ws with
  | nil => exact fun h _ => h
  | cons w ws ih => exact fun h a => ih (setWord_wf h a w) (a + 1)

theorem setPhys_wf {c : Chip} (h : MemWf c) (a : Nat) (w : Word) : MemWf (setPhys c a w) := setWord_wf h a w

theorem copyWords_wf (n : Nat) : ∀ {c : Chip}, MemWf c → ∀ s d, MemWf (copyWords c s d n) := by
  induction n with
  | zero => exact fun h _ _ => h
  | succ n ih => exact fun h s d => ih (setPhys_wf h d _) (s + 1) (d + 1)

theorem bumpF_mem (c : Chip) (b : BlockId) (n hi lo d : Nat) : (bumpF c b n hi lo d).mem = c.mem := rfl

theorem specTouch_wf {c : Chip} (h : MemWf c) (a : Nat) : MemWf (specTouch c a) := by
  unfold specTouch
  split
  · exact h
  · simp only [MemWf, bumpF_mem, modRoom_mem]
    exact copyWords_wf 32 (by exact h) _ _

theorem recrypt_wf {c : Chip} (h : MemWf c) (a : Nat) : MemWf (recrypt c a) := by
  unfold recrypt
  split
  · exact setRun_wf _ h _
  · exact h

theorem putWord_wf {c : Chip} (h : MemWf c) (spec : Bool) (a : Nat) (w : Word) : MemWf (putWord c spec a w).1 := by
  unfold putWord
  split
  · simp only
    split
    · exact setPhys_wf (specTouch_wf h a) _ _
    · exact setPhys_wf h _ _
  · exact setPhys_wf (recrypt_wf h a) _ _

theorem putWords_wf (l : List (Nat × Word × Bool)) : ∀ {c : Chip}, MemWf c → ∀ spec, MemWf (putWords c spec l).1 := by
  induction l with
  | nil => exact fun h _ => h
  | cons e l ih =>
    intro c h spec
    exact ih (putWord_wf h spec e.1 e.2.1) spec

/-- A fold keeps what each of its steps keeps. -/
theorem foldl_keeps {α β : Type} {P : α → Prop} {f : α → β → α} (hf : ∀ a b, P a → P (f a b)) (l : List β) :
    ∀ a, P a → P (l.foldl f a) := by
  induction l with
  | nil => exact fun _ h => h
  | cons b l ih => exact fun a h => ih (f a b) (hf a b h)

theorem markUnits_mem (c : Chip) (ps : List (Nat × Bool)) : (markUnits c ps).mem = c.mem := by
  unfold markUnits
  generalize (ps.filterMap (fun p => unitOf p.1)).eraseDups = l
  induction l generalizing c with
  | nil => rfl
  | cons b l ih =>
    rw [List.foldl_cons, ih]
    simp only
    split
    · rfl
    · split <;> rfl

@[simp] theorem spoil_mem (c : Chip) (own : Option (Nat × Nat)) (as : List Nat) : (spoil c own as).mem = c.mem := rfl

theorem wrOwn_wf {c : Chip} (h : MemWf c) (own : Option (Nat × Nat)) (spec : Bool) (l : List (Nat × Word × Bool)) :
    MemWf (wrOwn own c spec l) := by
  simp only [MemWf, wrOwn, spoil_mem, markUnits_mem]
  exact putWords_wf l h spec

theorem wrMarked_wf {c : Chip} (h : MemWf c) (spec : Bool) (l : List (Nat × Word × Bool)) : MemWf (wrMarked c spec l) :=
  wrOwn_wf h none spec l

theorem wrWords_wf {c : Chip} (h : MemWf c) (spec : Bool) (a : Nat) (ws : List Word) : MemWf (wrWords c spec a ws) :=
  wrMarked_wf h spec _

theorem filter_wf {c : List Host.Cell} (h : TableWf memDflt c) (p : Host.Cell → Bool) : TableWf memDflt (c.filter p) :=
  ⟨h.1.filter _, fun e he => h.2 e (List.mem_of_mem_filter he)⟩

theorem zeroLines_wf {c : Chip} (h : MemWf c) (k : Nat) (p : Nat → Bool) : MemWf (zeroLines k p c) := filter_wf h _

theorem loseMemory_wf {c : Chip} (h : MemWf c) (r : Nat) : MemWf (loseMemory r c) := by
  exact filter_wf h (fun e => !(fun b => decide (clsBase + r * clsWords ≤ b / 2) &&
    decide (b / 2 < clsBase + r * clsWords + clsWords)) e.1)

theorem zeroRooms_wf {c : Chip} (h : MemWf c) : MemWf (zeroRooms c) := by
  exact filter_wf h (fun e => !inCls (e.1 / 2))

theorem setLine_wf {c : Chip} (h : MemWf c) (a : Nat) (keep : BitVec 32) (ws : List Word) : MemWf (setLine c a keep ws) := by
  refine foldl_keeps (P := TableWf memDflt) (fun m i hm => ?_) _ _ (recrypt_wf h a)
  split
  · exact hm
  · exact setWord_wf hm _ _

theorem setGroup_wf {c : Chip} (h : MemWf c) (a : Nat) (keep : List Nat) (g : Nat) (ws : List Word) :
    MemWf (setGroup c a keep g ws) := by
  refine foldl_keeps (P := MemWf) (fun d p hd => ?_) _ _ h
  split
  · exact hd
  · exact setPhys_wf hd _ _

end Sys2Proof.Machine
end

