-- ==== Sys2Proof/Tests/Slice0.lean ====
section
/-! SUPPORT. Tests: ill-formed commands that the check refuses, worked examples and tables of the spec, and for every
statement of Certificates/Slice0/Obligations.lean a state and operands that meet its hypotheses, clause by clause. -/

namespace Sys2Proof.Tests

open Sys2Proof Sys2Proof.Machine

set_option Elab.async false

/-! ### States of one strand -/

/-- Strand 0 of core 0. -/
abbrev u0 : StrandId := ⟨0, 0⟩

/-- The mesh polders have power, classroom 0 and stack 0 are RUNNING, core 0 in CORE_EN. -/
def chip0 : Chip :=
  let c : Chip := { chipReset with meshOn := [(0, true), (1, true), (2, true), (3, true)] }
  setF (setState (setState c (.cls 0) 2) (.hmc 0) 2) (.cls 0) 0x010 15 0 1

/-- A strand that issues at the first word of classroom 0, at head, LEND elsewhere. -/
def strand0 : Strand := { strandReset 0 with pc := clsBase, run := .active }

/-- The package with this strand as strand 0 of core 0. -/
def chipWith (st : Strand) : Chip := setStrand chip0 u0 st

/-- A state that holds a package. -/
def stateOf (c : Chip) : State := { State.reset with chip := c }

/-- A computed pending write of register r, k slots away. -/
def pw (r k : Nat) (v : W64) : PendW := ⟨r, v, false, k, false, 0, false, 0, 0⟩

theorem test_strand0_ready : Ready (chipWith strand0) u0 := by decide

/-! ### The block -/

theorem wit_StepRunsTheFrontCommand : State.reset.pending = [] := rfl
theorem wit_CommandsLeaveTheQueueAlone : ∃ t, exec (.nop u0) State.reset = .next t := ⟨_, rfl⟩
theorem wit_StepKeepsQueuesInBounds : QueuesInBounds State.reset.chip ∧ step State.reset = .next State.reset := by
  refine ⟨⟨fun r b => ⟨?_, fun rq => ?_⟩, ?_, fun k b => ?_, fun k b => ?_, fun r => ?_⟩, rfl⟩
  · intro e he; exact absurd he (List.not_mem_nil)
  · exact Nat.zero_le _
  · intro x hx; exact absurd hx (List.not_mem_nil)
  · exact Nat.zero_le _
  · have h : ((List.range 64).map (fun i => (dramOf State.reset.chip k (64 * (b / 64) + i)).q.length)) = List.replicate 64 0 := rfl
    rw [h]; decide
  · exact ⟨fun p hp => absurd hp (List.not_mem_nil), List.nodup_nil⟩
theorem wit_StepKeepsModes : ModesLegal State.reset.chip ∧ jobOf State.reset = none := by
  refine ⟨fun u => ⟨?_, fun w hw => absurd hw (List.not_mem_nil)⟩, rfl⟩
  have h : creg (strandOf State.reset.chip u) 0 = 0 := rfl
  rw [h]; unfold LegalMode; decide
/-- Classroom 0 of chip0 is RUNNING with no speculative ranges. -/
theorem wit_StepKeepsSettings : SettingsAgree chip0 ∧ bState chip0 (.cls 0) = 2 := by unfold SettingsAgree; decide
theorem wit_StepKeepsModes_format : let j : Job := ⟨[0, 0, 0, 0, 0, 1, 0, 0, 0, 0, 0, 0, 0, 0, 0, 0, 0, 0, 0, 22] ++ [0, 0, 0, 0x8004], [], [], [], 0, 9, 0, 2, false, 0⟩
    formatLesson j 0 = none ∧ (j.les 0).mode = 0x8004 := by decide
theorem wit_StepKeepsMemoryCanonical : Memory.wf State.reset ∧ step State.reset = .next State.reset := ⟨by decide, rfl⟩

/-! ### Integer instructions -/

theorem wit_IntegerInstructions : Runs (chipWith strand0) u0 [1, 2] [(3, 12)] [] := by decide
theorem wit_IntegerInstructions_div :
    (intOp (.div u0 3 1 2 true)).map (fun o => (o.u, o.srcs, o.rd, o.d)) = some (u0, [1, 2], 3, 12) := by decide
theorem wit_IntegerInstructions_bfi :
    (intOp (.bfi u0 3 1 63 0)).map (fun o => (o.srcs, o.rd, o.d)) = some ([1, 3], 3, 2) := by decide
theorem wit_DueWrites_due :
    let st := { strand0 with pend := [pw 3 1 7, pw 4 2 9] }
    st.pend.filter (fun w => w.reg == 3 && decide (w.k ≤ 1)) = [pw 3 1 7] ∧ pendReady (pw 3 1 7) = true := by decide
theorem wit_DueWrites_notDue :
    let st := { strand0 with pend := [pw 3 2 7] }
    (∀ w ∈ st.pend, w.reg = 3 → pendReady w = false ∨ 1 < w.k) ∧ ∃ w ∈ st.pend, pendReady w = false ∨ 1 < w.k := by decide
theorem wit_Retire_branches : (strand0.pend = [] ∧ strand0.pendV = [] ∧ strand0.pendF = []) ∧
    ({ strand0 with pb := some (8, 2) } : Strand).pb = some (8, 2) ∧
    ({ strand0 with pb := some (8, 1) } : Strand).pb = some (8, 1) := by decide
theorem wit_Retire_loops :
    (let st := setCreg (setCreg strand0 4 (BitVec.ofNat 64 clsBase)) 5 2
     st.pb = none ∧ atEnd st ∧ 1 < (creg st 5).toNat) ∧
    (let st := setCreg (setCreg strand0 4 (BitVec.ofNat 64 clsBase)) 5 1
     st.pb = none ∧ atEnd st ∧ creg st 5 = 1) ∧
    (strand0.pb = none ∧ ¬ atEnd strand0) := by decide
theorem wit_IntegerInstructionFaults_order :
    let c := chipWith { strand0 with pend := [pw 3 12 7] }
    Ready c u0 ∧ LoopsClear (strandOf c u0) ∧ Clean c u0 [1, 2] ∧ ∃ w ∈ (strandOf c u0).pend, w.reg = 3 ∧ 12 ≤ w.k := by decide
theorem wit_IntegerInstructionFaults_poison :
    let c := chipWith { strand0 with pois := [(1, true), (2, true)] }
    Ready c u0 ∧ LoopsClear (strandOf c u0) ∧ regPois c u0 1 = true ∧ regPois c u0 2 = true := by decide
theorem wit_IntegerInstructionFaults_field : 64 < (63 : Fin 64).val + ((1 : Fin 64).val + 1) ∧ Ready (chipWith strand0) u0 := by
  decide
theorem wit_IntegerInstructionsFrame :
    let c := chipWith { strand0 with pend := [pw 4 2 9] }
    Runs c u0 [1, 2] [(3, 1)] [] ∧ (1 : Fin 8) ≠ u0.strand ∧ (∀ w ∈ (strandOf c u0).pend, w.reg ≠ 5) ∧
      (∃ t, exec (.add u0 3 1 2) (stateOf c) = .next t) := ⟨by decide, by decide, by decide, _, rfl⟩

/-! ### Branches, loops, control registers -/

/-- g1 holds v. -/
def strandG (v : W64) : Strand := { strand0 with g := [(1, v)] }

theorem wit_Branches : RunsBranch (chipWith (strandG 4)) u0 [1] [] ∧ RunsBranch (chipWith (strandG 4)) u0 [1] [(2, 1)] ∧
    RunsBranch (chipWith (strandG 4)) u0 [] [(2, 1)] ∧ (greg (strandOf (chipWith (strandG 4)) u0) 1).toNat % 2 = 0 := by decide
theorem wit_Branches_conditions : condHolds 4 (greg (strandOf (chipWith (strandG 4)) u0) 1).toInt ∧
    condHolds 5 0 ∧ ¬ condHolds 4 0 := by unfold condHolds; decide
theorem wit_BranchFaults_delaySlot :
    let c := chipWith { strand0 with pb := some (8, 2) }
    Ready c u0 ∧ (strandOf c u0).pb.isSome = true := by decide
theorem wit_BranchFaults_odd : RunsBranch (chipWith (strandG 5)) u0 [1] [] ∧ RunsBranch (chipWith (strandG 5)) u0 [1] [(2, 1)] ∧
    (greg (strandOf (chipWith (strandG 5)) u0) 1).toNat % 2 = 1 := by decide
theorem wit_BranchFaults_loop :
    let c := chipWith (setCreg strand0 5 1)
    Ready c u0 ∧ (2047 : BitVec 11) ≠ 0 ∧ (strandOf c u0).pb = none ∧ creg (strandOf c u0) 5 ≠ 0 := by decide
/-- At LEND with LCOUNT 1. -/
def strandEnd : Strand := setCreg (setCreg strand0 4 (BitVec.ofNat 64 clsBase)) 5 1
theorem wit_BranchFaults_end : Ready (chipWith strandEnd) u0 ∧ strandEnd.pb = none ∧ atEnd strandEnd ∧ creg strandEnd 5 ≠ 0 ∧
    (intOp (.add u0 3 1 2)).map (fun o => o.u) = some u0 := by decide
theorem wit_BranchFaults_endSlot : let st := { strandEnd with pb := some (8, 2) }
    Ready (chipWith st) u0 ∧ st.pb.isSome = true ∧ atEnd st ∧ creg st 5 ≠ 0 := by decide
theorem wit_BranchFaults_endWrite : let st := { strandEnd with pend := [pw 69 2 7] }
    Ready (chipWith st) u0 ∧ st.pb = none ∧ atEnd st ∧ ∃ w ∈ st.pend, w.reg = 69 := by decide
theorem wit_LoopsStart : (1 : BitVec 11) ≠ 0 ∧ creg (strandOf (chipWith (strandG 4)) u0) 5 = 0 ∧
    RunsBranch (chipWith (strandG 4)) u0 [] [(67, 1), (68, 1), (69, 1)] ∧
    RunsBranch (chipWith (strandG 4)) u0 [1] [(67, 1), (68, 1), (69, 1)] := by decide
theorem wit_ControlRegisterAccess_mfc :
    mfcReg 6 = true ∧ ctlPriv (level (strandOf (chipWith strand0) u0)) 6 false = false ∧
      Runs (chipWith strand0) u0 [70] [(1, 2)] [] := by decide
theorem wit_ControlRegisterAccess_mtc :
    let c := chipWith (strandG 4)
    let v := greg (strandOf c u0) 1
    (mtcReg 0 = true ∧ v &&& ~~~ ctlMask 0 = 0 ∧ v.toNat / 2 ^ 10 % 4 ≠ 3 ∧ v.toNat % 8 ≤ 4 ∧
      (∀ w ∈ (strandOf c u0).pend, w.reg ≠ 64) ∧ level (strandOf c u0) ≠ 0 ∧
      ctlPriv (level (strandOf c u0)) 0 true = false ∧ Runs c u0 [1] [(64, 4)] []) ∧
    (mtcReg 1 = true ∧ v &&& ~~~ ctlMask 1 = 0 ∧ ctlPriv (level (strandOf c u0)) 1 true = false ∧
      Runs c u0 [1] [(65, 3)] []) := by decide
theorem wit_ControlWriteFaults :
    (Ready (chipWith (strandG 4)) u0 ∧ (30 ≤ (63 : Fin 64).val)) ∧
    (let c := chipWith (setCreg (strandG 0x8000) 16 0)
     let v := greg (strandOf c u0) 1
     Ready c u0 ∧ v &&& ~~~ ctlMask 0 = 0 ∧ v.toNat / 2 ^ 10 % 4 ≠ 3 ∧ v.toNat % 8 ≤ 4 ∧ level (strandOf c u0) = 0 ∧
       v.toNat / 8 ≠ (creg (strandOf c u0) 0).toNat / 8) := by decide
/-! ### Scalar float instructions -/

theorem wit_FloatInstructions : Runs (chipWith strand0) u0 [33, 34] [(35, 12)] [1, 2, 3] ∧
    (floatOpOf (.fdiv u0 3 1 2 true)).map (fun o => (o.u, o.srcs, o.dst, o.d, o.fregs)) =
      some (u0, [33, 34], 35, 12, [1, 2, 3]) := by decide
theorem wit_FloatPatterns : fmtBF16 ∈ [fmtFP32, fmtBF16, fmtFP16] ∧ 0xFFFF < 2 ^ (fmtBF16.eb + fmtBF16.p) ∧
    (fdec fmtBF16 0xFF7F).isNan = false ∧ (fdec fmtBF16 0xFFFF).isNan = true := by decide
theorem wit_FloatOperandOrder : (fdec fmtFP32 0x7F800001).isNan = true ∧ (fdec fmtFP32 0xFF7FFFFF).isNan = false ∧
    (fdec fmtFP32 (fadd fmtFP32 4 0x7F800000 0xFF800000).1).isNan = true ∧
    (fdec fmtFP32 (fmul fmtFP32 4 0x7F800000 0).1).isNan = true := by decide

/-! ### Scalar loads and stores -/

/-- The first word of HBM that no program line uses, of classroom 0 and of classroom 1. -/
def strandAt (a : Nat) : Strand := { strand0 with g := [(1, BitVec.ofNat 64 a)], nextId := 5 }

/-- A load of g2 and a store of g2 with base g1. -/
def ldwOp (m : AMode) (n : Nat) : MemOp := ⟨u0, 2, [], 1, m, n, false, false⟩

/-- What a load that runs asks of a package. -/
abbrev LoadRuns (c : Chip) (o : MemOp) : Prop :=
  Runs c o.u (o.ra.val :: modeSrcs o.m) ((o.reg, 4) :: modeDsts o.ra o.m) o.fregs ∧
    addrFault c o.u (o.ra.val == 31) false (effAddr c o.u o.ra o.m).1 o.n o.n = none ∧
    tileHold (strandOf c o.u) (o.addr c) (o.addr c + o.n - 1) = false ∧
    loadHold c o.u.core (strandOf c o.u).spec (o.addr c) = false ∧ cacheHold c o.u.core (o.addr c) = false

theorem wit_Loads_op : loadOf (.ldq u0 2 1 (.postInc 4) false) = some (ldwOp (.postInc 4) 4) ∧
    storeOf (.stq u0 2 1 (.postInc 4)) = some (ldwOp (.postInc 4) 4) := ⟨rfl, rfl⟩
theorem wit_Loads_own : let c := chipWith (strandAt (clsBase + 4))
    let o := ldwOp (.postInc 4) 4
    LoadRuns c o ∧ (updatesBase o.m = true → o.reg ≠ o.ra.val) ∧ ownRoom o.u.core.val (o.addr c) = true := by decide
theorem wit_Loads_miss : let c := setF (chipWith (strandAt 0x1000)) (.cls 0) 0x026 15 0 1
    let o := ldwOp (.off 0) 1
    LoadRuns c o ∧ ownRoom o.u.core.val (o.addr c) = false ∧
      (cacheable o.u.core.val (o.addr c) && cacheOn c o.u.core.val) = true ∧
      cacheHit (coreOf c o.u.core.val) (o.addr c) = none := by decide
theorem wit_Loads_hit :
    let c := modCore (setF (chipWith (strandAt 0x1000)) (.cls 0) 0x026 15 0 1) 0 (fun k => { k with cache := [⟨0x80, List.replicate 32 7⟩] })
    let o := ldwOp (.off 0) 1
    LoadRuns c o ∧ ownRoom o.u.core.val (o.addr c) = false ∧
      (cacheable o.u.core.val (o.addr c) && cacheOn c o.u.core.val) = true ∧
      cacheHit (coreOf c o.u.core.val) (o.addr c) = some ⟨0x80, List.replicate 32 7⟩ := by decide
theorem wit_Loads_far : let c := setState (chipWith (strandAt (clsBase + clsWords))) (.cls 1) 2
    let o := ldwOp (.off 0) 1
    LoadRuns c o ∧ ownRoom o.u.core.val (o.addr c) = false ∧
      (cacheable o.u.core.val (o.addr c) && cacheOn c o.u.core.val) = false := by decide
theorem wit_LoadsChangeNoMemory : ∃ t, exec (.ldw u0 2 1 (.off 0) false) (stateOf (chipWith (strandAt 0x1000))) = .next t :=
  ⟨_, rfl⟩

/-- What a store that runs asks of a package. -/
abbrev StoreRuns (c : Chip) (o : MemOp) : Prop :=
  Runs c o.u (o.reg :: o.ra.val :: modeSrcs o.m) (modeDsts o.ra o.m) o.fregs ∧
    addrFault c o.u (o.ra.val == 31) true (effAddr c o.u o.ra o.m).1 o.n o.n = none ∧
    tileHold (strandOf c o.u) (o.addr c) (o.addr c + o.n - 1) = false ∧
    bankHold c o.u.core (strandOf c o.u).spec (o.addr c) = false ∧ storeHold c o.u.core.val = false

theorem wit_Stores_own : let c := chipWith (strandAt (clsBase + 8))
    StoreRuns c (ldwOp (.preDec 4) 4) ∧ ownRoom 0 ((ldwOp (.preDec 4) 4).addr c) = true := by decide
theorem wit_Stores_hbm : let c := chipWith (strandAt 0x1000)
    StoreRuns c (ldwOp (.off 0) 1) ∧ ownRoom 0 ((ldwOp (.off 0) 1).addr c) = false := by decide
theorem wit_StoresChangeOnlyTheirWords : SpecRangesApart (chipWith (strandAt 0x1000)) ∧
    (inShadow (chipWith (strandAt 0x1000)) 0x1001 = false) ∧
    acceptedNow (chipWith (strandAt 0x1000)) 0x1000 = true ∧
    ∃ t, exec (.stw u0 2 1 (.off 0)) (stateOf (chipWith (strandAt 0x1000))) = .next t :=
  ⟨by unfold SpecRangesApart; decide, by decide, by decide, _, rfl⟩
theorem wit_Stores_notAccepted :
    let c := modStack (chipWith (strandAt 0x1000)) 0 (fun x => { x with
      dram := [(lineBank 128, { dramReset with tickets := [⟨5, 128, false, 0, .none, false, [], false, []⟩] })] })
    StoreRuns c (ldwOp (.off 0) 1) ∧ acceptedNow c ((ldwOp (.off 0) 1).addr c) = false := by decide
theorem wit_AddressFaults_align : (2 ^ 48 + 1) % 2 ≠ 0 ∧ 2 ^ 48 % 4 = 0 ∧ 2 ^ 48 ≤ 2 ^ 48 := by decide
theorem wit_AddressFaults_unmapped : hbmEnd % 1 = 0 ∧ hbmEnd < 2 ^ 48 ∧
    ∃ j < 1, reaches (chipWith strand0) 0 2 false false (hbmEnd + j) = false := by decide
theorem wit_AddressFaults_stackLimit : let st := setCreg strand0 1 0x1001
    (0x1000 < (creg st 1).toNat) ∧ ∀ j < 1, reaches (chipWith st) 0 2 false false (0x1000 + j) = true := by decide
theorem wit_AddressFaults_regionMap :
    let c := modCore (chipWith (setCreg strand0 16 1)) 0 (fun k =>
      { k with rmctl := 1, rmBase := [(0, 0x8800000000001000)], rmLim := [(0, 0x1001)] })
    (∀ j < 4, reaches c 0 (level (strandOf c u0)) false false (0x1000 + j) = true) ∧
      rmFault (coreOf c 0) 1 0 (0x1000 + 0) = none ∧ rmFault (coreOf c 0) 1 0 (0x1000 + 1) = none ∧
      rmFault (coreOf c 0) 1 0 (0x1000 + 2) = some 0x2000 := by decide
theorem wit_MemoryInstructionFaults : let c := chipWith (strandAt 0x1001)
    let o := ldwOp (.off 0) 4
    Ready c u0 ∧ tileHold (strandOf c u0) (o.addr c) (o.addr c + 3) = false ∧ bankHold c 0 false (o.addr c) = false ∧
      loadHold c 0 false (o.addr c) = false ∧ storeHold c 0 = false ∧
      cacheHold c 0 (o.addr c) = false ∧ LoopsClear (strandOf c u0) ∧
      Clean c u0 (1 :: modeSrcs (.off 0)) ∧ Clean c u0 (2 :: 1 :: modeSrcs (.off 0)) ∧
      InOrder (strandOf c u0) ((2, 4) :: modeDsts 1 (.off 0)) ∧
      addrFault c u0 false false (effAddr c u0 1 (.off 0)).1 4 4 = some ⟨0x07, 0, 0x1001⟩ ∧
      addrFault c u0 false true (effAddr c u0 1 (.off 0)).1 4 4 = some ⟨0x07, 0, 0x1001⟩ := by decide
theorem wit_MemoryInstructionFaults_own : updatesBase (.postInc 4) = true ∧
    (ldwOp (.postInc 4) 4).reg ≠ (ldwOp (.postInc 4) 4).ra.val ∧
    (loadOf (.ldw u0 1 1 (.postInc 4) false)).map (fun o => decide (o.reg = o.ra.val)) = some true := by decide
/-! ### Exceptions -/

/-- A computed entry of the record, a late write. -/
def late (r k : Nat) (v : W64) : PendW := { pw r k v with late := true }
def lateV (r k : Nat) : PendV := ⟨r, 0, false, k, true, 0, 0⟩

/-- The exception table at word 0x2000 of HBM: the entry of cause 1 enters at head at 0x3000, its stack ends at 0x5000. -/
def chipVec (st : Strand) : Chip :=
  let st := setCreg (setCreg st 17 0x2000) 19 0x5000
  wrWords (wrWords (chipWith st) false 0x2008 [0x5000, 0, 0, 0x4000, 0, 0, 0x10, 0x8000]) false 0x2014 [0xA000, 0x3000, 0, 0]

/-- The strand with a good exception frame at 0x4000. -/
def chipFrame (ws : List Word) (st : Strand) : Chip := wrWords (chipWith (setCreg st 30 0x4000)) false 0x4000 ws
def goodFrame : List Word := frameWords strand0 1 0 0 false 0 (recWords [pw 3 11 7])

/-- A request of this reader still stands in the queue of a bank. -/
def asking (w : Reader) (c : Chip) : Chip :=
  modRoom c 0 (fun m => { m with banks := [(0, { q := [⟨0, none, 0, false, w, false, []⟩], last := 0 })] })

theorem wit_System : Runs (chipWith strand0) u0 [] [] [] ∧ Runs (chipWith strand0) u0 [] [(31, 2)] [] := by decide
theorem wit_ResultComputed :
    (let st := { strand0 with pend := [pw 3 1 7, late 3 0 8] }
     st.pend = [pw 3 1 7] ++ late 3 0 8 :: [] ∧ (∀ x ∈ [pw 3 1 7], ¬ (x.reg = 3 ∧ x.late = true))) ∧
    (let st := { strand0 with pendV := [lateV 3 1] }
     (∀ x ∈ st.pend, ¬ (x.reg = 35 ∧ x.late = true)) ∧ st.pendV = [] ++ lateV 3 1 :: []) := by decide +kernel
theorem wit_ResultComputed_waits : outstandingReq (chipWith strand0) (.load 0 0 0) = false ∧
    outstandingReq (asking (.load 0 0 0) (chipWith strand0)) (.load 0 0 0) = true := by decide
theorem wit_ExceptionEntry_entering :
    allReady { strand0 with entering := some ⟨⟨1, 0, 0⟩, 0⟩ } = true ∧
    allReady { strand0 with entering := some ⟨⟨1, 0, 0⟩, 0⟩, pend := [late 3 1 8] } = false ∧
    outstandingReq (chipWith { strand0 with entering := some ⟨⟨1, 0, 0⟩, 0⟩ }) (.entry 0 0) = false ∧
    committing { strand0 with entering := some ⟨⟨1, 0, 0⟩, 0⟩ } = false := by decide
theorem wit_ExceptionEntry_standing :
    (let c := chipWith { strand0 with owed := [⟨0x0F, 0, 0⟩] }
     canIssue c u0 = true ∧ earlyExc c u0 = some ⟨0x0F, 0, 0⟩) ∧
    (Ready (chipWith strand0) u0 ∧ legalWord 0xFFFFFFFF = false) := by decide
theorem wit_OwedThenInterruptThenFetch :
    (let st := setCreg (setCreg (setCreg strand0 0 0x8000) 28 0xE) 29 0xC
     st.owed = [] ∧ natBit (creg st 0).toNat 15 = true ∧
       (natBit (creg st 28).toNat 2 = true ∧ natBit (creg st 29).toNat 2 = true) ∧
       ∀ j < 2, ¬ (natBit (creg st 28).toNat j = true ∧ natBit (creg st 29).toNat j = true)) ∧
    (strand0.owed = [] ∧ natBit (creg strand0 0).toNat 15 = false) := by decide
theorem wit_ExceptionEntryWritesTheFrame_ready :
    allReady (strandOf (chipVec strand0) u0) = true ∧ inDf (strandOf (chipVec strand0) u0) = false := by decide +kernel
theorem wit_ExceptionEntryWritesTheFrame_ranges : SpecRangesApart (chipVec strand0) := by unfold SpecRangesApart; decide +kernel
theorem wit_ExceptionEntryWritesTheFrame : Vectors (parkPend (tileAbandon (chipVec strand0) u0) u0).1 u0 1 := by
  unfold Vectors; decide +kernel
theorem wit_DoubleFault : inDf (strandOf (chipWith strand0) u0) = false ∧
    hwFail (chipWith strand0) u0 true (dfArea u0 + 0xA0) 96 = none := by decide
theorem wit_ThirdFault : let c := chipWith (setCreg strand0 16 6)
    inDf (strandOf c u0) = true ∧ allReady (strandOf c u0) = true ∧ isAsync 1 = false := by decide
theorem wit_ReturnCompletes : let c := chipFrame goodFrame { strand0 with ret := some 0x4000 }
    RunsBranch c u0 [] [] ∧ level (strandOf c u0) ≠ 0 ∧ (strandOf c u0).ret = some (creg (strandOf c u0) 30).toNat ∧
      outstandingReq c (.entry 0 0) = false ∧ xretFault c u0 = none := by decide +kernel
theorem wit_ReturnCompletes_asks : let c := chipFrame goodFrame strand0
    RunsBranch c u0 [] [] ∧ level (strandOf c u0) ≠ 0 ∧ (strandOf c u0).ret ≠ some (creg (strandOf c u0) 30).toNat := by
  decide +kernel
theorem wit_ReturnCompletes_waits : let c := asking (.entry 0 0) (chipFrame goodFrame { strand0 with ret := some 0x4000 })
    RunsBranch c u0 [] [] ∧ level (strandOf c u0) ≠ 0 ∧ (strandOf c u0).ret = some (creg (strandOf c u0) 30).toNat ∧
      outstandingReq c (.entry 0 0) = true := by decide +kernel
theorem wit_ReturnFaults_pupil : let c := chipWith (setCreg strand0 16 0)
    Ready c u0 ∧ level (strandOf c u0) = 0 := by decide
theorem wit_ReturnFaults_unreached : let c := chipWith (setCreg { strand0 with ret := some hbmEnd } 30 (BitVec.ofNat 64 hbmEnd))
    RunsBranch c u0 [] [] ∧ level (strandOf c u0) ≠ 0 ∧ (strandOf c u0).ret = some (creg (strandOf c u0) 30).toNat ∧
      outstandingReq c (.entry 0 0) = false ∧ (hwFail c u0 false (creg (strandOf c u0) 30).toNat 96).isSome = true := by decide
/-- A strand whose frame is read, its words on a good frame but for these. -/
def badFrame (ch : List (Nat × Word)) (st : Strand) : Chip × List Word :=
  let ws := ch.foldl (fun ws x => ws.set x.1 x.2) goodFrame
  (chipFrame ws { st with ret := some 0x4000 }, ws)
theorem wit_ReturnFaults_frame : let c := (badFrame [] strand0).1
    RunsBranch c u0 [] [] ∧ level (strandOf c u0) ≠ 0 ∧ (strandOf c u0).ret = some (creg (strandOf c u0) 30).toNat ∧
      outstandingReq c (.entry 0 0) = false ∧ hwFail c u0 false (creg (strandOf c u0) 30).toNat 96 = none := by decide +kernel
theorem wit_ReturnFaults_reads : let x := badFrame [(40, 12)] strand0
    (rdWords x.1 (strandOf x.1 u0).spec 0x4000 96).map Prod.fst = x.2 := by decide +kernel
/-- Reasons 0x01 to 0x0A, each on a frame that fails that check and none of a lower reason (R169). -/
theorem wit_ReturnFaults_reasons :
    let f := fun ch => (badFrame ch strand0).2
    returnCheckFails strand0 (f [(40, 12)]) 1 ∧
    (let w := f [(41, 0xC003)]; recCount w = 1 ∧ 11 < recK w 0) ∧
    (let w := f [(40, 2), (46, 0xB003), (41, 0xB003)]
     recCount w = 2 ∧ recReg w 0 = recReg w 1 ∧ recK w 0 = recK w 1 ∧ recK w 0 = 11) ∧
    natBit (fw (f [(0, 0x0009)]) 0) 0 = true ∧ level strand0 < 3 ∧ natBits (fw (f [(0, 0x000C)]) 0) 3 2 = 3 ∧
    (natBit (fw (f [(0, 0x0018)]) 0) 6 = false ∧ natBits (fw (f [(0, 0x0018)]) 0) 5 4 = 1) ∧
    fn (f [(4, 1)]) 4 3 % 2 = 1 ∧ natBits (fn (f [(16, 7)]) 16 4) 2 0 = 7 ∧
    (let w := f [(34, 1), (28, 2)]; fn w 34 4 ≠ 0 ∧ fn w 31 3 < fn w 28 3) ∧
    { strand0 with pend := [pw 3 1 7] }.pend ≠ [] := by
  refine ⟨?_, ?_⟩
  · show 11 < recCount _
    decide
  · decide
theorem wit_ReturnUndoesEntry :
    let st := setCreg { strand0 with pb := some (8, 1) } 19 0x5000
    let rec' := [pw 3 11 7, pw 64 1 0x8004]
    st.pc < 2 ^ 48 ∧ (∀ a n, st.pb = some (a, n) → a < 2 ^ 48 ∧ (n = 1 ∨ n = 2)) ∧ level st ≤ 2 ∧
      creg st 16 = BitVec.ofNat 64 ((if inDf st then 4 else 0) + level st) ∧
      (creg st 30).toNat < 2 ^ 48 ∧ (creg st 3).toNat < 2 ^ 48 ∧ (creg st 4).toNat < 2 ^ 48 ∧
      rec'.length ≤ 11 ∧ (∀ w ∈ rec', Recordable w) ∧
      96 + 0x10 ≤ 0x5000 ∧ tget (fun _ => false) st.pois 31 = false ∧ creg st 19 = BitVec.ofNat 64 0x5000 := by
  refine ⟨by decide, ?_, by decide, by decide, by decide, by decide, by decide, by decide, ?_, by decide, by decide, by decide⟩
  · intro a n h
    have h' : (8, 1) = (a, n) := Option.some.inj h
    cases h'; decide
  · intro w hw
    simp only [List.mem_cons, List.not_mem_nil, or_false] at hw
    rcases hw with rfl | rfl
    · exact ⟨by decide, by decide, by decide, by decide, fun _ => rfl⟩
    · exact ⟨by decide, by decide, by decide, by decide, fun _ => by unfold recVal legalMode; simp [pw, ctlMask, natBits]⟩
theorem wit_ReturnUndoesEntry_returnable : Returnable { strand0 with pb := some (8, 1) } 2 [pw 3 11 7, pw 64 1 0x8004] := by
  refine ⟨rfl, rfl, by decide, by decide, by decide, ?_, by decide, by decide, by decide, by decide, by decide, by decide⟩
  intro a n h
  have h' : (8, 1) = (a, n) := Option.some.inj h
  cases h'; decide
theorem wit_ReturnUndoesEntry_frame :
    let st := setCreg { strand0 with pb := some (8, 1) } 19 0x5000
    let ws := frameWords st 1 0 0 false 0 (recWords [pw 3 11 7])
    let h := atHandler (setCreg st 19 0x4F90) 0x4FA0 0x4F90 2 0 0x6000
    let c := wrWords (chipWith h) false 0x4FA0 ws
    strandOf c u0 = h ∧ hwFail c u0 false 0x4FA0 96 = none ∧ (rdWords c h.spec 0x4FA0 96).map Prod.fst = ws := by
  decide +kernel
/-! ### Long vectors -/

/-- VL 2 of 32-bit elements, g1 an address of HBM, g2 a stride. -/
def strandV (vl vtype a : Nat) : Strand :=
  { strand0 with
    vc := [(0, BitVec.ofNat 64 vl), (1, BitVec.ofNat 64 vtype), (6, 0xFFFFFFFF)], g := [(1, BitVec.ofNat 64 a), (2, 2)] }
def chipV (vl vtype a : Nat) : Chip := chipWith (strandV vl vtype a)

theorem wit_VectorControl_set : Runs (chipV 2 1 0x1000) u0 [1] [(3, 1), (128, 1), (129, 1)] [] ∧
    Runs (chipV 2 1 0x1000) u0 [] [(3, 1), (128, 1), (129, 1)] [] := by decide
theorem wit_VectorControl_move : Runs (chipV 2 1 0x1000) u0 [135] [(3, 2)] [] ∧ Runs (chipV 2 1 127) u0 [1] [(130, 3)] [] := by decide
theorem wit_VectorControl_fix : Runs (chipV 2 1 3) u0 [1] [(131, 3)] [] ∧ Runs (chipV 2 1 31) u0 [1] [(132, 3)] [] := by decide
theorem wit_VectorControl_values : (greg (strandOf (chipV 2 1 127) u0) 1).toNat < 128 ∧
    (greg (strandOf (chipV 2 1 3) u0) 1).toNat < 4 ∧ (greg (strandOf (chipV 2 1 31) u0) 1).toNat < 32 := by decide
theorem wit_VectorControl_mask : let c := chipV 2 1 0xFF
    Runs c u0 [1] [(134, 3)] [] ∧ (greg (strandOf c u0) 1).toNat < 2 ^ 32 ∧ level (strandOf c u0) = 2 ∧
      ∀ v : Fin 8, v ≠ u0.strand → vcreg (strandOf c ⟨0, v⟩) 6 &&& greg (strandOf c u0) 1 = 0 := by decide
theorem wit_VectorControlFaults : Ready (chipV 2 1 128) u0 ∧ 128 ≤ (greg (strandOf (chipV 2 1 128) u0) 1).toNat ∧
    (let c := chipWith (setCreg (strandV 2 1 1) 16 1)
     Ready c u0 ∧ (greg (strandOf c u0) 1).toNat < 2 ^ 32 ∧ level (strandOf c u0) < 2) := by decide
theorem wit_VectorControlFaults_overlap :
    let c := setStrand (chipV 2 1 0xFF) ⟨0, 7⟩ { strandReset 7 with vc := [(6, 0x80)] }
    Runs c u0 [1] [(134, 3)] [] ∧ level (strandOf c u0) = 2 ∧
      vcreg (strandOf c ⟨0, 7⟩) 6 &&& greg (strandOf c u0) 1 ≠ 0 := by decide

theorem wit_VectorElements_op : (vecOpOf (.vfma u0 4 1 2 3 true)).map (fun o => (o.vd, o.vsrcs, o.m)) = some (4, [1, 2, 3], true) := by
  decide
theorem wit_VectorElements_width :
    (vecOpOf (.vfma u0 4 1 2 3 true)).map (fun o => (o.ok (chipV 2 1 0x1000), o.ew (chipV 2 1 0x1000))) = some (true, 32) := by
  decide
theorem wit_VectorElements : VecRuns (chipV 2 1 0x1000) u0 [] ([1, 2, 3] ++ v0If true) (4 :: [1, 2, 3] ++ v0If true) [] ∧
    vlOf (strandOf (chipV 2 1 0x1000) u0) ≠ 0 ∧ (4 : Fin 32) ≠ 0 := by unfold VecRuns; decide
theorem wit_VectorElements_none : VecRuns (chipV 0 1 0x1000) u0 [] [1] [4, 1] [] ∧ vlOf (strandOf (chipV 0 1 0x1000) u0) = 0 := by
  unfold VecRuns; decide
theorem wit_VectorElements_convert : vecOpOf (.vcvtI16Fp32 u0 4 1 false 5) ≠ none ∧ vecOpOf (.vsadd u0 4 1 2 false) ≠ none ∧
    (vecOpOf (.vsadd u0 4 1 2 false)).map (fun o => o.ok (chipV 2 0 0)) = some true := ⟨by simp [vecOpOf], by simp [vecOpOf], by decide⟩
theorem wit_VectorToScalar : VecRuns (chipV 2 1 0x1000) u0 [] [1] [1] [(3, 3)] ∧ (vfmt (strandOf (chipV 2 1 0x1000) u0)).isSome = true ∧
    VecRuns (chipV 2 1 0x1000) u0 [] (1 :: v0If true) (4 :: 1 :: v0If true) [(36, 10)] := by unfold VecRuns; decide
theorem wit_BlockConversions : blockCvt (.vcvtFp32Q6 u0 4 1 2 false 5) = some ⟨u0, 4, 1, 2, false, 5, .q6, true⟩ ∧
    blockCvt (.vcvtI8Fp32 u0 4 1 2 false 0) = some ⟨u0, 4, 1, 2, false, 0, .i8, false⟩ := ⟨rfl, rfl⟩
theorem wit_BlockConversions_vl : vlOf (strandOf (chipV 64 1 0) u0) = 64 ∧ vlOf (strandOf (chipV 32 1 0) u0) = 32 := by decide
theorem wit_BlockConversions_runs : VecRuns (chipV 64 1 0) u0 [] [1] [4, 1, 2] [] ∧ VecRuns (chipV 64 1 0) u0 [] [1, 2] [4, 1, 2] [] := by
  unfold VecRuns; decide

theorem wit_BlockConversions_faults : vlOf (strandOf (chipV 33 1 0) u0) ≠ 32 ∧ vlOf (strandOf (chipV 33 1 0) u0) ≠ 64 ∧
    (blockCvt (.vcvtFp32Q6 u0 4 1 2 true 5)).map (fun o => (o.m, o.vd)) = some (true, 4) ∧ Ready (chipV 33 1 0) u0 ∧
    LoopsClear (strandOf (chipV 33 1 0) u0) ∧ Clean (chipV 33 1 0) u0 [33] ∧
    ∀ r ∈ [(4 : Fin 32), 1, 2], natBit (vcreg (strandOf (chipV 33 1 0) u0) 6).toNat r = true := by decide

/-- A masked load and store of a segment of two registers at HBM word 0x1000. -/
def vldOp : VecMem := ⟨u0, 4, true, [1], [], fun _ => true, fun c => segForm c u0 1 1 4, false⟩
theorem wit_VectorMemory_op : vloadOf (.vlseg u0 4 1 true 1 false) = some vldOp ∧ vstoreOf (.vsseg u0 4 1 true 1) = some vldOp :=
  ⟨rfl, rfl⟩
/-- Both elements are active. -/
def chipM (a : Nat) : Chip := modCore (chipV 2 1 a) 0 (fun k => { k with v := [(0, 3)] })
theorem wit_VectorLoads : VecMemRuns (chipM 0x1000) vldOp [] ∧ vlOf (strandOf (chipM 0x1000) u0) ≤ 2048 / sewNow (chipM 0x1000) u0 ∧
    firstFail (chipM 0x1000) u0 (vldOp.form (chipM 0x1000)) false (vElems (chipM 0x1000) u0 true) = none ∧
    vHold (chipM 0x1000) u0 (vldOp.form (chipM 0x1000)) false (vElems (chipM 0x1000) u0 true) = false ∧
    vElems (chipM 0x1000) u0 true = [0, 1] := by unfold VecMemRuns VecRuns; decide +kernel
theorem wit_VectorLoads_late : (∀ e ∈ [0, 1], ∀ f < 2, inHbm ((vldOp.form (chipM 0x1000)).addr e f).toNat = true) ∧
    ∀ e ∈ [0, 1], ∀ f < 2, inHbm ((vldOp.form (chipM clsBase)).addr e f).toNat = false ∧
      ownRoom 0 ((vldOp.form (chipM clsBase)).addr e f).toNat = true := by decide
theorem wit_VectorLoads_none : vElems (modCore (chipV 2 1 0x1000) 0 (fun k => { k with v := [(0, 0)] })) u0 true = [] ∧
    VecMemRuns (modCore (chipV 2 1 0x1000) 0 (fun k => { k with v := [(0, 0)] })) vldOp [] := by
  unfold VecMemRuns VecRuns; decide +kernel
theorem wit_VectorStores_apart : ∀ e ∈ [0, 1], ∀ j < 2, ∀ e' ∈ [0, 1], ∀ j' < 2, (e' = e ∧ j' = j) ∨
    ((vldOp.form (chipM clsBase)).addr e' j').toNat + 2 ≤ ((vldOp.form (chipM clsBase)).addr e j).toNat ∨
    ((vldOp.form (chipM clsBase)).addr e j).toNat + 2 ≤ ((vldOp.form (chipM clsBase)).addr e' j').toNat := by decide
theorem wit_VectorStores : VecMemRuns (chipM 0x1000) vldOp (group vldOp.reg (vldOp.form (chipM 0x1000)).nf) ∧
    firstFail (chipM 0x1000) u0 (vldOp.form (chipM 0x1000)) true (vElems (chipM 0x1000) u0 true) = none ∧
    vHold (chipM 0x1000) u0 (vldOp.form (chipM 0x1000)) true (vElems (chipM 0x1000) u0 true) = false ∧
    SpecRangesApart (chipM 0x1000) := by unfold VecMemRuns VecRuns SpecRangesApart; decide +kernel
theorem wit_VectorMemoryResumes : VecMemRuns (chipM (hbmEnd - 4)) vldOp [] ∧
    (firstFail (chipM (hbmEnd - 4)) u0 (vldOp.form (chipM (hbmEnd - 4))) false (vElems (chipM (hbmEnd - 4)) u0 true)).map Prod.fst =
      some 0 ∧
    (firstFail (chipM (2 ^ 35 - 4)) u0 (vldOp.form (chipM (2 ^ 35 - 4))) false (vElems (chipM (2 ^ 35 - 4)) u0 true)).map Prod.fst =
      some 1 ∧
    vHold (chipM (2 ^ 35 - 4)) u0 (vldOp.form (chipM (2 ^ 35 - 4))) false [0] = false := by unfold VecMemRuns VecRuns; decide +kernel
theorem wit_VectorRegisterFaults_mask : (vecOpOf (.vadd u0 0 1 2 true)).map (fun o => (o.m, o.vd)) = some (true, 0) ∧
    Ready (chipV 2 1 0) u0 := by decide
theorem wit_VectorRegisterFaults_owner :
    let c := chipWith { strandV 2 1 0 with vc := [(6, 0xFFFFFFFB)] }
    Ready c u0 ∧ LoopsClear (strandOf c u0) ∧ Clean c u0 ([1, 2, 0].map (fun n => 32 + n)) ∧
      natBit (vcreg (strandOf c u0) 6).toNat 2 = false ∧ natBit (vcreg (strandOf c u0) 6).toNat 1 = true := by decide
theorem wit_VectorRegisterFaults_hazard :
    let c := chipWith { strandV 2 1 0 with pendV := [lateV 2 3] }
    Ready c u0 ∧ LoopsClear (strandOf c u0) ∧ (∀ n ∈ [4, 1, 2, 0], natBit (vcreg (strandOf c u0) 6).toNat n = true) ∧
      ∃ w ∈ (strandOf c u0).pendV, w.reg = 2 := by decide +kernel
theorem wit_VectorRegisterFaults_scalar :
    let c := chipWith { strandV 2 1 0 with pend := [pw 34 3 0] }
    Ready c u0 ∧ (∃ w ∈ (strandOf c u0).pend, w.reg = 32 + 2) ∧ ∀ w ∈ (strandOf c u0).pendV, w.reg ≠ 2 := by decide +kernel
theorem wit_VectorRegisterFaults_memory : let c := chipWith { strandV 2 1 0x1000 with
      vc := [(0, 2), (1, 1), (2, 5), (6, 0xFFFFFFFF)] }
    Ready c u0 ∧ LoopsClear (strandOf c u0) ∧ InOrder (strandOf c u0) [(130, 1)] ∧ Clean c u0 ([1] ++ [32]) ∧
      vHold c u0 (vldOp.form c) false (vPlan c u0 true (vldOp.form c) false).1 = false ∧
      memCondition c vldOp = some ⟨0x13, 5, 0⟩ ∧ memCondition c { vldOp with reg := 31 } = some ⟨0x15, 31, 0⟩ ∧
      memCondition c { vldOp with ok := fun _ => false } = some ⟨0x12, 1, 0⟩ := by decide +kernel
/-! ### Tiles and matrix arrays -/

/-- A strand that owns every tile unit, with a shape (M, N 32 unless given) and g1 a base. -/
def strandT (shape a : Nat) (flight parked : List TileOp) : Strand :=
  { strand0 with
    tc := [(0, BitVec.ofNat 64 shape), (1, 0x3FF)], g := [(1, BitVec.ofNat 64 a), (2, 0x2000)], flight := flight, parked := parked }
/-- BF16 activations and weights (format 4), 2 rows, 1 column; Q8 and Q4 of that shape. -/
def shape2 : Nat := 4 + 4 * 8 + 1 * 2 ^ 6
def shapeQ8 : Nat := 1 * 2 ^ 6
def shapeQ4 : Nat := 2 + 2 * 8 + 1 * 2 ^ 6
/-- An instruction that has asked for its lines, all served. -/
def opOf (k : TileKind) (shape : Nat) : TileOp := ⟨k, BitVec.ofNat 64 shape, 0, 0, 0, 0x1000, 0x1FFF, 5, true, []⟩
def tldOp : TileOp := opOf (.tld 0 0x1000 0x2000) shape2
/-- The package with this instruction the oldest of strand 0, then one more. -/
def chipOp (op : TileOp) : Chip := chipWith (strandT shape2 0 [op, tldOp] [])

theorem wit_TileControl_shape : let c := chipWith (strandT shape2 0x24 [] [])
    TileRuns c u0 [1] [] [0] ∧ (strandOf c u0).flight = [] ∧ (strandOf c u0).parked = [] ∧
      shapeCheck (greg (strandOf c u0) 1) = none := by unfold TileRuns; decide
theorem wit_TileControl_move : let c := chipWith (strandT shape2 31 [] [])
    TileRuns c u0 [] [(3, 2)] [2] ∧ TileRuns c u0 [1] [] [2] ∧ (greg (strandOf c u0) 1).toNat < 2 ^ 5 ∧ (strandOf c u0).flight = [] := by
  unfold TileRuns; decide
theorem wit_TileControl_mask : let c := chipWith (strandT shape2 0x3FF [] [])
    TileRuns c u0 [1] [] [1] ∧ (greg (strandOf c u0) 1).toNat < 2 ^ 10 ∧ level (strandOf c u0) = 2 ∧
      ∀ x : Fin 8, x ≠ u0.strand → tcreg (strandOf c ⟨0, x⟩) 1 &&& greg (strandOf c u0) 1 = 0 := by unfold TileRuns; decide
theorem wit_TileControl_drop : let c := chipWith (strandT shape2 0 [] [tldOp])
    TileRuns c u0 [] [] [] ∧ level (strandOf c u0) ≠ 0 ∧ (strandOf c u0).flight.length < 4 ∧
      TileRuns (chipWith (strandT shape2 0 [] [])) u0 [] [] [] := by unfold TileRuns; decide
theorem wit_ShapeChecks : (7 : Nat) ≠ 6 ∧ ¬ ((3 : Nat) < 4 ↔ (4 : Nat) < 4) ∧ ¬ ((2 : Nat) = 2 ↔ (3 : Nat) = 2) ∧
    ((3 : Nat) < 4 ↔ (0 : Nat) < 4) := by decide
theorem test_shapeCheck : shapeCheck 0x38 = some 1 ∧ shapeCheck 0x10000 = some 2 ∧ shapeCheck 0x20 = some 3 ∧
    shapeCheck 0x10 = some 4 ∧ shapeCheck 0x2C = some 5 ∧ shapeCheck 0xFFED = none := by decide

theorem wit_TileEnters_op : (tileIn (chipWith (strandT shape2 0x1000 [] [])) (.tst u0 0 1 2)).map (fun o => (o.srcs, o.bits, o.reads)) =
    some ([1], [0], some 0) := by decide
theorem wit_TileEnters : let c := chipWith (strandT shape2 0x1000 [tldOp] [])
    TileRuns c u0 [1] [] (tileTcs (.tst 1 0x1000 0x2000)) ∧ (∀ b ∈ [1], natBit (tcreg (strandOf c u0) 1).toNat b = true) ∧
      (strandOf c u0).parked = [] ∧ (strandOf c u0).flight.length < 4 ∧
      (tileOf c 0 1).pois = false ∧ loadsTile (strandOf c u0) 1 = false ∧
      (tileIn c (.tst u0 1 1 2)).map (fun o => segsFault c u0 o.wr o.segs) = some none := by unfold TileRuns; decide +kernel
theorem wit_TileEnters_forms :
    (tileIn (chipWith (strandT shape2 3 [] [])) (.tmac u0 31 1 7 0 true true)).isSome = false ∧
    (tileIn (modCore (chipWith (strandT shape2 0 [] [])) 0 (fun k => { k with slots := [(63, { slotReset 0 63 with opened := true })] }))
      (.tmac u0 31 1 7 0 true true)).isSome = true ∧
    (tileIn (chipWith (strandT shape2 0xFFFFFC [] [])) (.taccZero u0 0 0 1 2)).isSome = true ∧
    (tileIn (chipWith (strandT shape2 0 [] [])) (.taccRead u0 0 0 0 4 5 0)).isSome = true := by decide
theorem wit_TileFaults_mask : let c := chipWith { strandT shape2 0x1000 [] [] with tc := [(1, 0x3FE)] }
    Ready c u0 ∧ LoopsClear (strandOf c u0) ∧ Clean c u0 [1] ∧ natBit (tcreg (strandOf c u0) 1).toNat 0 = false := by decide
theorem wit_TileFaults_pending : let c := chipWith { strandT shape2 0x1000 [] [] with pend := [pw 202 3 0] }
    Ready c u0 ∧ LoopsClear (strandOf c u0) ∧ (∃ w ∈ (strandOf c u0).pend, w.reg = 200 + 2) ∧
      2 ∈ tileTcs (.tmac 0 0 1 0 false false) := by decide
theorem wit_TileFaults_parked : let c := chipWith (strandT shape2 0x1000 [] [tldOp])
    Ready c u0 ∧ (strandOf c u0).parked ≠ [] ∧ natBit (tcreg (strandOf c u0) 1).toNat 0 = true := by decide
theorem wit_TileFaults_poison :
    let c := modCore (chipWith (strandT shape2 0x1000 [] [])) 0 (fun k => { k with tiles := [(0, ⟨[], [], true⟩)] })
    Ready c u0 ∧ (strandOf c u0).parked = [] ∧ (tileOf c 0 0).pois = true ∧ loadsTile (strandOf c u0) 0 = false := by decide
theorem wit_TileFaults_segs : let c := chipWith (strandT shapeQ8 0x1000 [] [])
    (tileIn c (.tld u0 0 1 3)).map (fun o => segsFault c u0 o.wr o.segs) = some none ∧
    (tileIn (chipWith (strandT shapeQ8 0x1001 [] [])) (.tld u0 0 1 3)).map
      (fun o => segsFault (chipWith (strandT shapeQ8 0x1001 [] [])) u0 o.wr o.segs) = some (some ⟨0x07, 0, 0x1001⟩) := by decide +kernel
theorem wit_TileOperandFaults : let c := chipWith (strandT shapeQ4 3 [] [])
    Ready c u0 ∧ LoopsClear (strandOf c u0) ∧ Clean c u0 [1] ∧ Clean c u0 [1, 2] ∧ (strandOf c u0).flight.length < 4 ∧
      (∀ b < 10, natBit (tcreg (strandOf c u0) 1).toNat b = true) ∧ (strandOf c u0).pend = [] ∧ (strandOf c u0).parked = [] ∧
      loadsTile (strandOf c u0) 0 = false ∧ (curAF c u0 = 2 ∧ (1 : Fin 8).val % 2 = 1) ∧
      openAfter 0 0 (slotOf c 0 (slotKey 0 0)).opened (strandOf c u0).flight = false ∧ tGroups 4 ≤ 7 ∧ curAF c u0 < 4 ∧
      curWF c u0 = 2 ∧ (greg (strandOf c u0) 1).toNat % 4 = 3 ∧ (5 : Nat) % 4 ≠ 0 ∧
      (ownRoom 0 0x2000 = false ∨ 0x2000 % 16 ≠ 0) := by decide
theorem wit_TileControlFaults : let c := chipWith (strandT 0 0x38 [tldOp] [])
    Ready c u0 ∧ LoopsClear (strandOf c u0) ∧ Clean c u0 [1] ∧ (strandOf c u0).pend = [] ∧ (strandOf c u0).flight ≠ [] ∧
      shapeCheck (greg (strandOf c u0) 1) = some 1 ∧ 2 ^ 5 ≤ (greg (strandOf c u0) 1).toNat ∧ level (strandOf c u0) = 2 ∧
      (strandOf (chipWith (strandT 0 0x38 [] [])) u0).flight = [] := by decide
theorem wit_TileControlFaults_mask :
    let c := setStrand (chipWith (strandT 0 0x38 [] [tldOp])) ⟨0, 3⟩ { strandReset 3 with tc := [(1, 0x8)] }
    (∑ x : Fin 8, if x ≠ u0.strand ∧ tcreg (strandOf c ⟨0, x⟩) 1 &&& greg (strandOf c u0) 1 ≠ 0 then 2 ^ x.val else 0) = 8 ∧
      (∑ x : Fin 8, if x ≠ u0.strand ∧ tcreg (strandOf (chipWith (strandT 0 0x38 [] [tldOp])) ⟨0, x⟩) 1 &&&
        greg (strandOf c u0) 1 ≠ 0 then 2 ^ x.val else 0) = 0 ∧ (strandOf c u0).parked ≠ [] ∧
      level (setCreg (strandT 0 0x38 [] []) 16 1) ≠ 2 ∧ level (setCreg (strandT 0 0x38 [] []) 16 0) = 0 := by decide +kernel

/-! Commits -/

theorem wit_CommitsTakeTheOldest_none : (strandOf chip0 u0).flight = [] := by decide
theorem wit_CommitsTakeTheOldest : Commits (chipOp tldOp) u0 tldOp [tldOp] := by unfold Commits; decide
theorem wit_CommitsTakeTheOldest_waits : let c := asking (.tile 0 0 5) (chipOp tldOp)
    tldOp.asked = true ∧ outstandingReq c (.tile 0 0 tldOp.id) = true := by decide
theorem wit_CommitsTakeTheOldest_asks : let op := { tldOp with asked := false }
    isTileLoad op.kind = true ∧ outstandingReq (setAsked u0 op (askOp u0 op (chipOp op))) (.tile 0 0 op.id) = true := by
  decide +kernel
/-- A load of no words asks for none: a TLD of a reserved format (no descriptor that TSHAPE installs has one). -/
theorem wit_CommitsTakeTheOldest_last : (strandOf (chipWith (strandT shape2 0 [tldOp] [])) u0).flight = tldOp :: [] := by decide
theorem wit_TileLoadCommits : Commits (chipOp (opOf (.tld 3 0x1000 0x2000) shapeQ8)) u0 (opOf (.tld 3 0x1000 0x2000) shapeQ8) [tldOp] ∧
    shAF (opOf (.tld 3 0x1000 0x2000) shapeQ8).shape < 4 ∧ shM (opOf (.tld 3 0x1000 0x2000) shapeQ8).shape = 2 := by
  unfold Commits; decide
theorem wit_TransposedLoads : let op := opOf (.tldT 3 0x1000 0x2000) shape2
    Commits (chipOp op) u0 op [tldOp] ∧ 4 ≤ shAF op.shape ∧ shAF op.shape < 7 := by unfold Commits; decide
theorem wit_WeightLoads : (let op := opOf (.twld 1 0x1000 0x2000) shapeQ4
      Commits (chipOp op) u0 op [tldOp] ∧ shWF op.shape = 2 ∧ op.kind = (if false then .twldT 1 0x1000 0x2000 else .twld 1 0x1000 0x2000)) ∧
    let op := opOf (.twldT 1 0x1000 0x2000) shape2
    Commits (chipOp op) u0 op [tldOp] ∧ shWF op.shape < 7 ∧ shWF op.shape ≠ 2 := by unfold Commits; decide
theorem wit_TileStores : (let op := { opOf (.tst 3 0x1000 0x2000) shape2 with asked := false }
      (strandOf (chipOp op) u0).flight = op :: [tldOp] ∧ op.asked = false ∧ shAF op.shape < 7) ∧
    let op := { opOf (.taccSpill 3 1 0x1000 true) shape2 with asked := false }
    (strandOf (chipOp op) u0).flight = op :: [tldOp] ∧ op.asked = false := by decide
/-- A store into the own classroom at a bank that has room waits for its requests; one to a stack that is not RUNNING has none. -/
theorem wit_TileStores_served : let op := { opOf (.tst 3 (BitVec.ofNat 64 (2 ^ 35)) 0) shape2 with asked := false }
    outstandingReq (setAsked u0 op (chipOp op)) (.tile 0 0 op.id) = false ∧
    outstandingReq (setAsked u0 op (asking (.tile 0 0 5) (chipOp op))) (.tile 0 0 op.id) = true := by decide

/-! Slots and their buffers -/

/-- Core 0's slot with this key is OPEN in mode m, chunks of one block, its buffer at the first word of classroom 0. -/
def slotOpen (m k : Nat) : Slot := { slotReset 0 k with opened := true, amode := m, cblk := 1, buf := clsBase }
/-- Strand 0 of core 0 commits op, with slot 3 of array 1 in mode m and a row of specified cells in every bank. -/
def chipSlot (m : Nat) (op : TileOp) (wf : Nat) : Chip :=
  modCore (chipOp op) 0 (fun k => { k with slots := [(slotKey 1 3, slotOpen m (slotKey 1 3))]
                                           banks := (List.range 4).map (fun b => (b, (List.range 64).map (fun i => (32 * i, some ⟨wf, 0, 0, false⟩)))) })

theorem ownWord (w : Nat) (h : w < 32800) : inHbm (clsBase + w) = false ∧ inCls (clsBase + w) = true ∧ roomAt (clsBase + w) = 0 ∧
    offAt (clsBase + w) < resOff := by
  refine ⟨decide_eq_false ?_, ?_, ?_, ?_⟩
  · simp only [hbmEnd, clsBase]; omega
  · rw [inCls, decide_eq_true (by simp only [clsBase]; omega), decide_eq_true (by simp only [clsEnd, clsBase, clsWords]; omega)]; rfl
  · simp only [roomAt, clsBase, clsWords]; omega
  · simp only [offAt, clsBase, clsWords, resOff]; omega

theorem bufferClean (c : Chip) (hp : c.pois = []) (hs : specSize c 0 = 0) (ho : roomOpen c 0 = true) (hz : (strandOf c u0).spec = false) :
    BufferClean c u0 clsBase 32800 := by
  intro w hw
  obtain ⟨h1, h2, h3, h4⟩ := ownWord w hw
  have hsh : inShadow c (clsBase + w) = false := by simp [inShadow, lineIn, h3, hs]
  refine ⟨by simp [ownRoom, h2, h3]; decide, ?_, fun wr => ?_⟩
  · simp only [rdWord, poisAt, hp, tget]; split <;> rfl
  · simp [reaches, h1, h2, h3, h4, hsh, hz, ho]; left; decide

theorem wit_SlotsOpenAndClose : let op := opOf (.taccZero 3 1 0xFFFFFE (BitVec.ofNat 64 clsBase)) shape2
    Commits (chipOp op) u0 op [tldOp] ∧ BufferClean (chipOp op) u0 clsBase 32800 :=
  ⟨by unfold Commits; decide, bufferClean _ rfl rfl rfl rfl⟩
theorem wit_SlotsOpenAndClose_seq : let op := opOf (.taccZero 3 1 0xFFFFFC 0) shape2
    Commits (chipOp op) u0 op [tldOp] ∧ (0xFFFFFC : W64).toNat % 4 = 0 := by unfold Commits; decide
theorem wit_SlotsOpenAndClose_read : let op := opOf (.taccRead 3 1 7 6 5 0) shape2
    Commits (chipOp op) u0 op [tldOp] := by unfold Commits; decide
theorem wit_TileMultiplyAdds : let op := opOf (.tmac 3 1 0 0 true true) shape2
    let c := chipSlot 0 op 4
    let x := slotOf c 0 (slotKey 1 3)
    Commits c u0 op [tldOp] ∧ BankKnown op (macBank c u0 1 true) 0 ∧ ¬ promotes x x.bcount ∧ shAF op.shape ≠ 2 := by
  refine ⟨by unfold Commits; decide +kernel, fun l hl j hj => ⟨⟨4, 0, 0, false⟩, ?_⟩, by unfold promotes; decide, by decide⟩
  have hj' : j < 1 := hj
  obtain rfl : j = 0 := by omega
  revert l
  decide +kernel
theorem wit_TileMultiplyAdds_q4 : let op := opOf (.tmac 3 1 0 0 false false) shapeQ4
    let c := chipSlot 0 op 2
    let x := slotOf c 0 (slotKey 1 3)
    shAF op.shape = 2 ∧ BankKnown op (macBank c u0 1 false) 0 ∧ BankKnown op (macBank c u0 1 false) 32 ∧
      ¬ promotes x x.bcount ∧ ¬ promotes x ((x.bcount + 1) % 2 ^ 32) := by
  refine ⟨by decide, fun l hl j hj => ⟨⟨2, 0, 0, false⟩, ?_⟩, fun l hl j hj => ⟨⟨2, 0, 0, false⟩, ?_⟩,
    by unfold promotes; decide, by unfold promotes; decide⟩ <;>
  · have hj' : j < 1 := hj
    obtain rfl : j = 0 := by omega
    revert l
    decide +kernel
theorem wit_ChunksArePromoted : let op := opOf (.tmac 3 1 0 0 false false) shape2
    ∀ m, m = 1 ∨ m = 2 → let c := chipSlot m op 4
    let x := slotOf c 0 (slotKey 1 3)
    Commits c u0 op [tldOp] ∧ SpecRangesApart c ∧ shAF op.shape ≠ 2 ∧ BankKnown op (macBank c u0 1 false) 0 ∧ promotes x x.bcount ∧
      x.amode = m ∧ x.buf = clsBase ∧ BufferClean c u0 clsBase 32800 ∧ bufLen x ≤ 32800 ∧ bufDepth c false clsBase = 0 ∧
      (treePush 17 (x.j0 + x.bcount / x.cblk) 0 0 0 (bufStack c false clsBase 0 0)).1.length ≤ 16 := by
  rintro op m (rfl | rfl) <;>
  · refine ⟨by unfold Commits; decide +kernel, by unfold SpecRangesApart; decide +kernel, by decide,
      fun l hl j hj => ⟨⟨4, 0, 0, false⟩, ?_⟩, by unfold promotes; decide, by decide, by decide,
      bufferClean _ (by decide +kernel) (by decide +kernel) (by decide +kernel) (by decide +kernel), by decide, by decide +kernel, by decide +kernel⟩
    have hj' : j < 1 := by
      have e : shN op.shape = 1 := by decide
      rwa [e] at hj
    obtain rfl : j = 0 := by omega
    revert l
    decide +kernel
theorem wit_ChunksArePromoted_more : let c := wrWords (chipSlot 1 tldOp 4) false clsBase [1]
    bufDepth c false clsBase = 1 ∧ (1 : Nat) ≤ 16 := by decide +kernel
theorem wit_ReductionsClose : let op := opOf (.taccRead 3 1 7 6 5 0) shape2
    ∀ m, m = 1 ∨ m = 2 → let c := chipSlot m op 4
    let x := slotOf c 0 (slotKey 1 3)
    Commits c u0 op [tldOp] ∧ SpecRangesApart c ∧ x.opened = true ∧ x.spoiled = false ∧ x.amode = m ∧
      BufferClean c u0 x.buf 32800 ∧ bufDepth c false x.buf = 0 := by
  rintro op m (rfl | rfl) <;>
  · exact ⟨by unfold Commits; decide +kernel, by unfold SpecRangesApart; decide +kernel, by decide, by decide, by decide,
      bufferClean _ (by decide +kernel) (by decide +kernel) (by decide +kernel) (by decide +kernel), by decide +kernel⟩
theorem wit_ReductionsClose_part : (1 % 2 ≠ 0 ∨ (0 < 1 ∧ (slotOpen 1 0).promoted = false)) ∧ 65535 ≤ 65535 + (1 - 1) / 1 := by decide
theorem wit_TaccReadConverts : let op := opOf (.taccRead 3 1 7 6 5 0) shape2
    let c := chipSlot 0 op 4
    Commits c u0 op [tldOp] ∧ 0 < tGroups 6 ∧ (ieeeOf 6).isSome = true ∧ (qOf 0).isSome = true ∧
      (slotOf c 0 (slotKey 1 3)).amode = 0 := by unfold Commits; decide +kernel
theorem wit_BufferFaults : let op := opOf (.tmac 3 1 0 0 false false) shape2
    let c := modCore (chipWith (strandT shape2 0 [op] [])) 0 (fun k => { k with slots := [(slotKey 1 3, { slotOpen 1 0 with buf := 0 })] })
    (strandOf c u0).flight = op :: [] ∧ outstandingReq c (.tile 0 0 op.id) = false ∧
      promotes (slotOf c 0 (slotKey 1 3)) (slotOf c 0 (slotKey 1 3)).bcount ∧ (slotOf c 0 (slotKey 1 3)).buf = 0 ∧
      ownRoom 0 0 = false := by unfold promotes; decide
theorem wit_BufferFaults_zero : let op := opOf (.taccZero 3 1 0xFFFFFE 0) shape2
    (0xFFFFFE : W64).toNat % 4 ≠ 0 ∧ (0 : W64).toNat % 2 ^ 48 = 0 ∧ (strandOf (chipWith (strandT shape2 0 [op] [])) u0).flight = op :: [] := by
  decide
/-! ### Classroom memory and the DMA engine -/

/-- A request of core r at line 2, bank 2 of classroom 0. -/
def rq (r : Nat) (wr : Bool) : BankReq :=
  ⟨r, some r, 2, wr, if wr then .store r 0 else .load r 0 7, false, if wr then [(64, 0, 0)] else [(64, 0, 0), (65, 0, 1)]⟩
def chipBank (l : List BankReq) (last : Nat) : Chip := modRoom chip0 0 (fun m => { m with banks := [(2, ⟨l, last⟩)] })

theorem wit_BanksServeInTurn : (bankQ (roomOf (chipBank [rq 5 false, rq 0 true, rq 0 false] 16) 0) 2).q =
      [rq 5 false] ++ rq 0 true :: [rq 0 false] ∧
    (∀ x ∈ [rq 5 false], x.rq ≠ (rq 0 true).rq) ∧
    ∀ x ∈ (bankQ (roomOf (chipBank [rq 5 false, rq 0 true, rq 0 false] 16) 0) 2).q, x.rq < 17 ∧ rqTurn 16 0 ≤ rqTurn 16 x.rq := by
  decide
theorem wit_BanksServeInTurn_poisoned : (rq 5 false).who = .load 5 0 7 ∧ (rq 5 false).wr = false ∧
    ((64, 0, 0) ∈ (rq 5 true).ws ∧ (3 : Nat) < 32) ∧ poisAt (setPois chip0 (clsAddr 0 64) true) (clsAddr 0 (32 * 2) + 3) = true ∧
    (∀ g < 8, poisAt chip0 (clsAddr 0 (32 * 2) + 4 * g) = false) ∧ (bankQ (roomOf chip0 0) 2).q = [] := by decide +kernel
theorem wit_ClassroomErrors : (bankQ (roomOf (chipBank [rq 16 true] 16) 0) 2).q = [rq 16 true] ∧
    ¬ ((rq 16 true).wr = true ∧ (inGroup (7 : Fin 8).val (rq 16 true)).eraseDups.length = 4) ∧
    (∀ x ∈ (chipBank [rq 16 true] 16).waiting, x.1 ≠ 0 ∨ x.2.1 ≠ 2) ∧ 32 * 2 + 4 * 7 < clsWords := by decide
theorem wit_ClassroomErrors_whole : let e : BankReq := { rq 3 true with ws := [(28, 0, 0), (29, 0, 0), (30, 0, 0), (31, 0, 0)] }
    e.wr = true ∧ (inGroup (7 : Fin 8).val e).eraseDups.length = 4 := by decide
theorem wit_CacheFillReturns :
    let c := modCore chip0 0 (fun k => { k with fill := some ⟨0x80, 0, 7, true, false⟩ })
    (coreOf c 0).fill = some ⟨0x80, 0, 7, true, false⟩ ∧ outstandingReq c (.load 0 0 7) = false ∧
      outstandingReq (asking (.load 0 0 7) c) (.load 0 0 7) = true ∧ (coreOf chip0 0).fill = none := by decide

/-- A descriptor: one row of 32 words from HBM word 0 to word 0. -/
def descWords : List Word := [0, 0, 0, 0, 0, 0, 0, 0, 0, 32, 0, 1, 0, 0, 0, 0]
def descNum : Nat := 32 * 2 ^ 144 + 2 ^ 176
/-- A RUNNING engine in classroom 0. -/
def chipDma (e : Dma) : Chip := modRoom (setState chip0 (.dma 0) 2) 0 (fun m => { m with dma := e })
def list1 (asked : Bool) : DmaList := ⟨1, 0x1000, 1, false, asked⟩
def desc1 (row pieces : Nat) : DmaDesc := ⟨2, 1, 0x1000, 0, false, false, 0, 0, 0x2000, 0x3000, 32, 1, 0, 0, row, 0, pieces, false, none⟩

theorem wit_DmaActivates : let c := wrWords (chipDma ⟨[list1 true], [], [], 0, 2⟩) false 0x1000 descWords
    bState c (.dma 0) = 2 ∧ (dmaOf c 0).active.length < 32 ∧ nextList c (dmaOf c 0) = some (list1 true) ∧
      rdNat c false 0x1000 16 = (descNum, false) ∧ dCheck 0x1000 descNum false = none ∧
      outstandingReq c (.desc 0 1) = false := by decide +kernel
theorem wit_DmaActivates_fails : let c := chipDma ⟨[list1 true], [], [], 0, 2⟩
    nextList c (dmaOf c 0) = some (list1 true) ∧ rdNat c false 0x1000 16 = (0, false) ∧ dCheck 0x1000 0 false = some 0x84 := by
  decide +kernel
theorem wit_DmaActivates_asks : let c := chipDma ⟨[list1 false], [], [], 0, 2⟩
    nextList c (dmaOf c 0) = some (list1 false) ∧ (list1 false).asked = false ∧
      outstandingReq (asking (.desc 0 1) c) (.desc 0 1) = true := by decide +kernel
theorem wit_DescriptorChecks : (0x1001 % 16 ≠ 0) ∧ 2 < descBits (3 * 2 ^ 12) 15 12 ∧ dReserved 0 = false ∧
    descBits 0 175 144 = 0 ∧ dReserved descNum = false ∧ 1 ≤ descBits descNum 175 144 ∧ 1 ≤ descBits descNum 191 176 := by decide
theorem wit_DmaPiecesIssue : let c := chipDma ⟨[list1 false], [desc1 0 0], [], 0, 3⟩
    bState c (.dma 0) = 2 ∧ (dmaOf c 0).pieces.length < 512 ∧ (dmaOf c 0).pieces.length < getF c (.dma 0) 0x010 25 16 ∧
      ((dmaOrder (dmaOf c 0)).filter (fun d => !dmaIssued d)).head? = some (desc1 0 0) ∧
      pieceHeld c 0 (desc1 0 0) = false ∧ pieceError c 0 (desc1 0 0) = none := by decide +kernel
theorem wit_DmaPiecesIssue_full : let c := setF (chipDma ⟨[], [], [⟨0, 2, 0, [], [], false⟩], 0, 3⟩) (.dma 0) 0x010 25 16 1
    getF c (.dma 0) 0x010 25 16 ≤ (dmaOf c 0).pieces.length := by decide +kernel
/-- A piece whose write is sent or not, to HBM or the first word of classroom 0. -/
def piece1 (dst : Nat) (sent : Bool) : DmaPiece := ⟨0, 2, dst, List.replicate 32 (7, false), [], sent⟩
theorem wit_DmaPiecesWrite : let p := piece1 0x3000 true
    let c := chipDma ⟨[list1 false], [{ desc1 1 1 with addr := clsBase }], [p], 0, 3⟩
    (dmaOf c 0).pieces[0]? = some p ∧ (dmaOf c 0).active.find? (fun d => d.id == p.desc) = some { desc1 1 1 with addr := clsBase } ∧
      (desc1 1 1).rows ≤ (desc1 1 1).row ∧ (desc1 1 1).err = none ∧ inHbm clsBase = false ∧ inShadow c clsBase = false ∧
      outstandingReq c (.piece 0 0) = false ∧ outstandingReq (asking (.piece 0 0) c) (.piece 0 0) = true := by decide +kernel
theorem wit_DmaPiecesWrite_sends : let p := piece1 clsBase false
    let c := chipDma ⟨[list1 false], [desc1 1 1], [p], 0, 3⟩
    p.sent = false ∧ outstandingReq c (.piece 0 0) = false ∧ dmaReaches c 0 clsBase = true ∧
      (∀ j < p.ws.length, dmaReaches c 0 ((p.dst + j : Nat) : Int) = true) ∧ inHbm p.dst = false ∧
      outstandingReq (engineWrite c 1024 false (.piece 0 0) (pieceWords clsBase p.ws)) (.piece 0 0) = true ∧
      dmaReaches c 0 hbmEnd = false ∧ SpecRangesApart c := by unfold SpecRangesApart; decide +kernel
theorem wit_DmaPiecesWrite_more : (desc1 0 2).row < (desc1 0 2).rows ∧ 2 ≤ (desc1 1 2).pieces := by decide

/-! ### HBM -/

def hreq (line : Nat) (wr : Bool) : HReq := ⟨3, line, wr, if wr then 1 else 0, .none, false, [], false, if wr then [(0x1000, 7, false)] else []⟩
def chipDram (q : DramQ) : Chip := modDram chip0 0 (lineBank 0x80) (fun _ => q)

theorem wit_HbmAdmission_stopped : bState chip0 (.hmc 1) ≠ 2 := by decide
theorem wit_HbmAdmission_taken : pcCount chip0 0 (lineBank 0x80) < 128 ∧ hreq 0x80 true ∉ (dramOf chip0 0 (lineBank 0x80)).recalled ∧
    (dramOf chip0 0 (lineBank 0x80)).q.length + (dramOf chip0 0 (lineBank 0x80)).recalled.length < 32 ∧
    (dramOf chip0 0 (lineBank 0x80)).tickets = [] ∧ bState chip0 (.hmc 0) = 2 := by decide +kernel
theorem wit_HbmAdmission_refused : let c := chipDram ⟨List.replicate 32 (hreq 0x80 false), [], [], 0⟩
    pcCount c 0 (lineBank 0x80) < 128 ∧
      32 ≤ (dramOf c 0 (lineBank 0x80)).q.length + (dramOf c 0 (lineBank 0x80)).recalled.length ∧
      getF c (.hmc 0) 0x01A 31 0 < 2 ^ 32 - 1 := by decide +kernel
theorem wit_HbmAdmission_recall :
    (dramOf (chipDram ⟨List.replicate 31 (hreq 0x80 false), [hreq 0x80 true], [], 0⟩) 0 (lineBank 0x80)).tickets = hreq 0x80 true :: [] := by
  decide +kernel
theorem wit_HbmAdmission_auto :
    let r : HReq := { hreq 0x80 true with auto := true }
    let c := chipDram ⟨[], [r], [], 0⟩
    (dramOf c 0 (lineBank 0x80)).tickets = r :: [] ∧ r.auto = true ∧ (dramOf c 0 (lineBank 0x80)).recalled = [] ∧
      pcCount c 0 (lineBank 0x80) < 128 := by decide +kernel
theorem wit_HbmAdmission_recalled : (dramOf (chipDram ⟨[], [], [hreq 0x80 true], 0⟩) 0 (lineBank 0x80)).recalled = hreq 0x80 true :: [] := by
  decide +kernel
theorem wit_LinesSpreadOverBanks : hbmEnd - 1 < hbmEnd ∧ lineBank 0 = lineBank (lineBank 0 * 0) := by decide
theorem wit_DramAccesses : let c := chipDram ⟨[hreq 0x80 true], [], [], 0⟩
    (dramOf c 0 (lineBank 0x80)).q = hreq 0x80 true :: [] ∧ (hreq 0x80 true).line < 2 ^ 30 ∧ (stackOf c 0).stalled = [] ∧
      ¬ ((hreq 0x80 true).wr = true ∧ (hreq 0x80 true).mask = BitVec.allOnes 32) ∧ poisAt c 0x1000 = false ∧
      poisAt (setPois c 0x1000 true) 0x1000 = true ∧ getF c (.hmc 0) 0x018 31 31 = 0 ∧ (hreq 0x80 false).wr = false ∧
      (hreq 0x80 false).mask = 0 := by decide +kernel
/-- A write of all 32 words, of a good word, accepted later. -/
theorem wit_DramAccesses_later : let r : HReq := { hreq 0x80 true with mask := BitVec.allOnes 32 }
    let c := chipDram ⟨[hreq 0x80 false, r], [], [], 0⟩
    (dramOf c 0 (lineBank 0x80)).q = hreq 0x80 false :: [r] ∧ (r.wr = true ∧ r.line = (hreq 0x80 false).line) ∧
      r.mask = BitVec.allOnes 32 ∧ ¬ ∃ w ∈ r.data, w.2.2 = true := by decide +kernel
theorem wit_RefreshAndScrub : let c := modStack (setF chip0 (.hmc 0) 0x010 0 0 1) 0 (fun x => { x with powered := true, scrubLine := 2 ^ 30 - 1 })
    (stackOf c 0).powered = true ∧ (stackOf c 0).selfRefresh = false ∧ bState c (.hmc 0) = 2 ∧ getF c (.hmc 0) 0x010 0 0 = 1 ∧
      (dramOf c 0 (lineBank (stackOf c 0).scrubLine)).q = [] := by decide +kernel
theorem wit_RefreshAndScrub_bands : (104 < 105 ∧ 102 < 104 ∧ 82 ≤ 82 ∧ 83 < 95 ∧ 95 ≤ 95) ∧
    getF (setF chip0 (.hmc 0) 0x012 17 16 3) (.hmc 0) 0x012 17 16 = 3 := by decide
theorem wit_WipesZeroTheStack : bState chip0 (.hmc 1) = 0 ∧ getF chip0 (.hmc 1) 0x01E 2 2 = 0 ∧ bState chip0 (.hmc 0) ≠ 0 ∧
    (stackOf (modStack chip0 1 (fun x => { x with wiping := true })) 1).wiping = true ∧ 2 ^ 35 / 2 ^ 35 = (1 : Fin 8).val ∧
    getF chip0 (.hmc 1) 0x010 1 1 = 0 := by decide
theorem wit_MemoryKeys : bState chip0 (.hmc 1) = 0 ∧ bState chip0 (.hmc 0) ≠ 0 ∧
    (stackOf (modStack chip0 1 (fun x => { x with keysSet := 0x7FFF })) 1).keysSet ||| 2 ^ (15 : Fin 16).val = 65535 ∧
    (7 : W32) ≠ rawReg chip0 (.hmc 0) (0x020 + 2 * 15) := by decide

/-! ### The Pump -/

/-- Stack 0 with its Pump and Syllabus RUNNING and the Pump in a pass of step 5; group 0 is a segment of 32 elements of rule
1 at HBM word 0, NIN at word 0x1000, NOUT at word 0x10000. -/
def chipPump (pass : Nat) : Chip :=
  let c := modStack (setState chip0 (.pmp 0) 2) 0 (fun x => { x with pump := ⟨pass, 5, false⟩ })
  let c := setRaw (setRaw c (.pmp 0) 0x012 0x10000) (.pmp 0) 0x016 0x1000
  setRaw (setRaw c (.pmp 0) 0x030 0x80000000) (.pmp 0) 0x032 32

theorem test_chipPump_group : (pdescOf (chipPump 1) 0 0).valid = true ∧ (pdescOf (chipPump 1) 0 0).count = 32 ∧
    (pdescOf (chipPump 1) 0 0).rule = 0 ∧ descOk 0 (pdescOf (chipPump 1) 0 0) = true := by decide +kernel
/-- The registers of the Pump of chipPump. -/
def pumpRegs : Table W32 := [(0x002, 2), (0x012, 0x10000), (0x016, 0x1000), (0x030, 0x80000000), (0x032, 32)]

theorem pdReg_pumpRegs (c : Chip) (h : blkRegs c (pmpB 0) = pumpRegs) (g : Nat) : natBit (pdReg c 0 g 0) 31 = (g == 0) := by
  have hz : regReset .pmp (0x030 + 2 * 0 + 0x400 * g) = 0 := by
    have : (0x030 + 2 * 0 + 0x400 * g) % 0x400 = 0x030 := by omega
    simp only [regReset, this]; decide
  rcases Nat.eq_zero_or_pos g with rfl | hg
  · simp only [pdReg, rawReg, h]; decide
  · have h1 : tget (regReset (blockKind (pmpB 0))) pumpRegs (0x030 + 2 * 0 + 0x400 * g) = regReset .pmp (0x030 + 2 * 0 + 0x400 * g) := by
      simp only [pumpRegs, tget]
      rw [if_neg (by omega), if_neg (by omega), if_neg (by omega), if_neg (by omega), if_neg (by omega)]; rfl
    simp only [pdReg, rawReg, h, h1, hz]
    have : (g == 0) = false := by simp; omega
    rw [this]; decide

theorem validGroups_pumpRegs (c : Chip) (h : blkRegs c (pmpB 0) = pumpRegs) : validGroups c 0 = [0] := by
  simp only [validGroups, pdReg_pumpRegs c h]; decide +kernel

theorem liveGroups_pumpRegs (c : Chip) (h : blkRegs c (pmpB 0) = pumpRegs) (hf : (pdescOf c 0 0).frozen = false) :
    liveGroups c 0 = [0] := by simp [liveGroups, validGroups_pumpRegs c h, hf]

theorem wit_SyllabusEnds : let cv : Curve := ⟨true, false, 2, 0x3F800000, 0x3DCCCCCD, 0, 0x3F800000, 10, 4, 6, 0⟩
    cv.period = 0 ∧ cv.warm ≤ 20 - cv.start ∧ cv.warm + cv.decay ≤ 20 - cv.start := by decide
theorem wit_SyllabusEnds_flat : let cv : Curve := ⟨true, false, 0, 0x3F800000, 0, 0, 0x3F800000, 10, 4, 6, 0⟩
    cv.warm ≤ 14 - cv.start ∧ cv.peak < 2 ^ 32 ∧ (fdec fmtFP32 cv.peak).isNan = false := by decide
theorem wit_PumpGroupVotes_descriptor : descOk 1 (pdescOf (chipPump 1) 1 0) = false := by decide +kernel
theorem wit_PumpGroupVotes_record : let c := setPois (chipPump 1) 0 true
    descOk 0 (pdescOf c 0 0) = true ∧ (rdWords c false (pdescOf c 0 0).base 32).any Prod.snd = true := by decide +kernel
theorem wit_PumpGroupVotes_frozen : let c := setRaw (chipPump 1) (.pmp 0) 0x030 0xE0000000
    descOk 0 (pdescOf c 0 0) = true ∧ (pdescOf c 0 0).frozen = true ∧ (pdescOf c 0 0).strict = true := by decide +kernel
theorem wit_PumpGroupVotes_step : let c := chipPump 1
    (rdWords c false (pdescOf c 0 0).base 32).any Prod.snd = false ∧ (pdescOf c 0 0).frozen = false ∧
      (rdNat c false (pdescOf c 0 0).base 2).1 ≠ 5 ∧ (rdNat c false (pdescOf c 0 0).base 2).1 = 0 := by decide +kernel
theorem wit_PumpGroupVotes_good : let c := chipPump 1
    (∀ e < 32, (rdWord c false ((pdescOf c 0 0).aG + e)).2 = false ∧
      (rdWord c false ((pdescOf c 0 0).aG + e)).1.toNat / 2 ^ 7 % 2 ^ 8 ≠ 255) ∧
    (pass1Group c 0 0 0 ⟨0, 0, 0⟩).2.1.gn2 ≠ 0x7F800000 := by decide +kernel
theorem wit_PassOneCompletes : let c := chipPump 1
    (stackOf c 0).pump.pass = 1 ∧ pumpRuns c 0 = true ∧ inHbm (nOut c 0) = true ∧ inHbm (nOut c 0 + 32800) = true ∧
      (∀ g ∈ [0], (pdescOf c 0 g).aRS + 2 * (pdescOf c 0 g).rows + 2 * (pdescOf c 0 g).cols ≤ nOut c 0) := by decide +kernel
theorem wit_PassTwoCompletes_skip : let c := chipPump 3
    pumpRuns c 0 = true ∧ (stackOf c 0).pump.pass = 3 ∧ inHbm ((pdescOf c 0 0).base + 1) = true := by decide +kernel
theorem wit_PassTwoCompletes_groups : liveGroups (chipPump 3) 0 = [0] := liveGroups_pumpRegs _ (by decide +kernel) (by decide +kernel)
theorem wit_PassTwoCompletes_stale : (stackOf (chipPump 2) 0).pump.pass = 2 ∧ normStale (chipPump 2) 0 5 = true := by
  refine ⟨by decide, ?_⟩
  simp only [normStale]; rw [Bool.or_eq_true, Bool.or_eq_true]; left; left; decide +kernel

/-- The same with a norm-in record of step 5. -/
def chipGo : Chip := wrWords (chipPump 2) false 0x1000 [0, 0, 5, 0]
theorem wit_PassTwoUpdates_groups : liveGroups chipGo 0 = [0] := liveGroups_pumpRegs _ (by decide +kernel) (by decide +kernel)
theorem wit_PassTwoUpdates_record : normStale chipGo 0 5 = false ∧ fpFinite (rdNat chipGo false (nIn chipGo 0) 2).1 = true := by
  refine ⟨?_, by decide +kernel⟩
  simp only [normStale, validGroups_pumpRegs chipGo (by decide +kernel)]; decide +kernel
theorem wit_PassTwoUpdates_segment : descOk 0 (pdescOf chipGo 0 0) = true ∧ (pdescOf chipGo 0 0).rule ≠ 3 ∧
    (pdescOf chipGo 0 0).base = 0 ∧ (pdescOf chipGo 0 0).aEnd = 177 ∧ ∀ a < 177, poisAt chipGo a = false := by decide +kernel
/-! ### Registers, blocks and the ring -/

theorem wit_Blocks_stopped : bState chip0 (.cls 1) = 0 ∧ startHeld (modRoom chip0 1 (fun m => { m with pll := true })) (.cls 1) = false := by decide
theorem wit_Blocks_held : bState chip0 (.hmc 1) = 0 ∧ startHeld (modStack chip0 1 (fun x => { x with wiping := true })) (.hmc 1) = true := by decide
theorem wit_Blocks_running : bState chip0 (.cls 0) = 2 ∧ bState (setState chip0 (.cls 1) 3) (.cls 1) = 3 := by decide
theorem wit_Blocks_agreement : (let c := setState chip0 (.cls 1) 1
     bState c (.cls 1) = 1 ∧ (disagreement c (.cls 1)).1 = none) ∧
    (let c := setRaw (setState chip0 (.cls 1) 1) (.cls 1) 0x010 0x10000
     bState c (.cls 1) = 1 ∧ (disagreement c (.cls 1)).1 = some (0x0410, 0x0400)) := by decide
theorem wit_Blocks_dry : (let c := setState chip0 (.cls 1) 3
     bState c (.cls 1) = 3 ∧ blockDry c (.cls 1) = true) ∧
    (blockDry (setState (chipWith { strand0 with pend := [late 3 1 8] }) (.cls 0) 3) (.cls 0) = false) := by decide
theorem wit_Blocks_clock : hasClock (setState chip0 (.cls 1) 3) (.cls 1) = true ∧ hasClock chip0 (.cls 0) = true ∧
    hasClock (modRoom chip0 1 (fun m => { m with power := .recess })) (.cls 1) = false ∧
    tget (fun _ => false) chip0.hung (blockKey (.cls 1)) = false := by decide
theorem wit_Registers_pass : (stackOf (chipPump 1) 0).pump.pass ≠ 0 ∧ (stackOf chip0 0).pump.pass = 0 := by decide
theorem wit_ClassroomPairs :
    (let c := setRaw (setState chip0 (.cls 1) 1) (.cls 1) 0x010 1
     bState c (.cls 1) = 1 ∧ (rawReg c (.cls 1) 0x010).getLsbD 0 = true ∧ (rawReg c (.cls 1) 0x012).getLsbD 0 = false) ∧
    (let c := setRaw (setRaw (setState chip0 (.cls 1) 1) (.cls 1) 0x010 0x80000000) (.cls 1) 0x012 0xFFFF
     (∀ p < 16, (rawReg c (.cls 1) 0x010).getLsbD p = true → (rawReg c (.cls 1) 0x012).getLsbD p = true) ∧
       (rawReg c (.cls 1) 0x010).getLsbD (16 + 15) = true ∧ (rawReg c (.cls 1) 0x010).getLsbD 15 = false) := by decide
theorem wit_Registers_rws : (∀ f ∈ fieldsAt .cls 0x010, f.acc = .rws) ∧ (fieldsAt .cls 0x010).length = 2 ∧
    bState chip0 (.cls 1) = 0 ∧ bState chip0 (.cls 0) ≠ 0 ∧
    (∃ f ∈ fieldsAt .cls 0x010, natBits 7 f.hi f.lo ≠ getF chip0 (.cls 0) 0x010 f.hi f.lo) ∧
    (∀ f ∈ fieldsAt .cls 0x010, ¬ natBits 1 f.hi f.lo ≠ getF chip0 (.cls 0) 0x010 f.hi f.lo) := by decide
theorem wit_Registers_reject : getF chip0 (.cls 0) 0x002 4 4 = 0 ∧ getF (cfgReject chip0 (.cls 0) 0x0400) (.cls 0) 0x002 4 4 = 1 ∧
    (0x3FE : Nat) % 2 = 0 := by decide
theorem wit_Writes_keys : bState chip0 (.eth 0) = 0 ∧ bState (setState chip0 (.eth 0) 2) (.eth 0) ≠ 0 ∧
    (7 : W32) ≠ rawReg chip0 (.eth 0) (0x030 + 2 * 12) ∧
    tget (fun _ => 0) { chip0 with ethKeys := [(0, 0x0FFF)] }.ethKeys 0 ||| 2 ^ (12 : Fin 13).val = 2 ^ 13 - 1 := by decide
theorem wit_Writes_pads : tget (fun _ => false) chip0.portOff 0 = false ∧ tget (fun _ => false) { chip0 with portOff := [(15, true)] }.portOff 15 = true ∧
    tget (fun _ => false) { chip0 with meshOn := [(3, true)] }.meshOn 3 = true ∧ tget (fun _ => false) chipReset.meshOn 0 = false := by decide
theorem wit_Writes_level : (roomOf (modRoom chip0 0 (fun m => { m with levelTo := some 7 })) 0).levelTo = some 7 ∧ (7 : Nat) < 8 ∧
    (roomOf chip0 0).levelTo = none := by decide

/-- A state whose firmware runs. -/
def stateUp (c : Chip) (d : Dev → Dev) : State :=
  { stateOf c with dev := d { devReset with boot := { bootReset with inRange := true, phase := 4, hbmUp := true, computeUp := true, stagingUp := true } } }

/-- Pump 0 waits for its memory controller, which is STARTING with RUN 1. -/
def stateLate (key : Bool) : State :=
  let c := setRaw (setF (setState (modStack chip0 0 (fun x => { x with pll := true, powered := true })) (.hmc 0) 1) (.hmc 0) 0x000 0 0 1) (.hmc 0) 0x010
    (if key then 2 else 0)
  stateUp (setState c (.pmp 0) 0) (fun d => { d with warden := { d.warden with lateStart := [.pmp 0] } })
theorem wit_PumpsStartAfterTheirControllers : let s := stateLate false
    s.dev.warden.lateStart = [.pmp 0] ∧ bState s.chip (.hmc 0) = 1 ∧ hasClock s.chip (.hmc 0) = true ∧ bRun s.chip (.hmc 0) = true ∧
      bState s.chip (.pmp 0) = 0 ∧ (disagreement s.chip (.hmc 0)).1 = none ∧ startHeld s.chip (.pmp 0) = false ∧
      (stateOf chip0).dev.warden.lateStart = [] := by decide
theorem wit_PumpsStartAfterTheirControllers_fails : (disagreement (stateLate true).chip (.hmc 0)).1 ≠ none := by decide

theorem wit_Ring : powered (stateUp chip0 id) = true ∧ ringTarget (originKey .warden) 0x40 = true ∧
    blockAt 0x40 (0x7FF / 0x400) = some (.dma 0) ∧ blockAt 0x40 (0xFFFF / 0x400) = none ∧
    outstanding .warden (stateUp chip0 id) < 16 ∧ nodeInReset (stateUp chip0 id) 0x40 = false ∧
    nodeInReset (stateUp chip0 (fun d => { d with boot := { d.boot with compReset := true } })) 0x40 = true := by decide
theorem wit_Ring_full : let s := stateUp chip0 (fun d => { d with ringWait := [⟨0, 0x40, 0, none⟩], ring := List.replicate 16 ⟨0, none, false, none⟩ })
    16 ≤ outstanding .warden s ∧
      s.dev.ring = [] ++ ⟨0, none, false, none⟩ :: List.replicate 15 ⟨0, none, false, none⟩ ∧ originKey .warden = 0 ∧
      s.dev.ringWait = [] ++ ⟨0, 0x40, 0, none⟩ :: [] := by decide
theorem wit_Reports : let s := stateUp { chip0 with reports := [⟨8, 0x0201, [0, 1, 0]⟩, ⟨0x40, 0x0102, [0, 1]⟩] } id
    fwUp s = true ∧ s.chip.reports = [⟨8, 0x0201, [0, 1, 0]⟩] ++ ⟨0x40, 0x0102, [0, 1]⟩ :: [] := by decide
/-! ### A running job -/

/-- A map in which port 0 of rank 0 has the MAC address 02 00 00 00 00 01, and of rank 1 the one that ends in 02. -/
def mapT : List Word := (List.range 368).map (fun i => if i = 0 then 0x0101 else if i = 16 ∨ i = 192 then 2 else
  if i = 18 then 0x0100 else if i = 194 then 0x0200 else 0)
/-- An image of one period with one lesson in classroom 0, a send window of two frames to rank 1 and a receive window of one
frame from it, both on port 0. -/
def imgEntries : List (Nat × Nat) :=
  [(5, 1), (8, 100), (16, 64), (19, 80), (22, 96), (25, 96), (28, 112), (31, 96), (37, 1), (43, 2), (49, 0)] ++
  [(64, 0x8000), (65, 1), (69, 1), (75, 2)] ++ [(80, 0), (82, 0x3000), (89, 0xFFFF), (91, 0x3FF)] ++
  [(112, 0), (113, 1), (114, 7), (116, 0x2000), (119, 4097), (123, 9)] ++
  [(128, 0x8000), (129, 1), (130, 8), (132, 0x8000), (135, 32)]
def imgT : List Word := (List.range 160).map (fun i => BitVec.ofNat 16 (tget (fun _ => 0) imgEntries i))
def jobT (rank : Nat) : Job := ⟨imgT, mapT, [], [], 0, 9, rank, 2, false, 0⟩

theorem test_jobT : (jobT 0).nper = 1 ∧ (jobT 0).lastStep = 100 ∧ ((jobT 0).lessons 0).map (fun l => l.2.entry) = [0x3000] ∧
    ((jobT 0).windows 0).map (fun w => (w.2.recv, w.2.peer, w.2.wid, w.2.len)) = [(false, 1, 7, 4097), (true, 1, 8, 32)] := by decide

/-- The package with the bell unit and port 0 RUNNING, its link up, the port of the school, RoCEv2 on. -/
def chipJob (c : Chip) : Chip :=
  let c := setState (setState c .bel 2) (.eth 0) 2
  setF (setF (setF c (.eth 0) 0x010 10 10 1) (.eth 0) 0x010 9 9 1) (.eth 0) 0x01A 31 31 1

/-- A state in DSTATE 4 that runs the job as this rank. -/
def stateJob (rank : Nat) (c : Chip) (f : Bell → Bell) (g : Dev → Dev) : State :=
  stateUp (chipJob c) (fun d => g { d with
    warden := { wardenReset with dstate := 4, job := some (jobT rank) }
    bell := f { bellReset with live := true, runs := true } })

/-- The same with nothing else. -/
def stateRun (rank : Nat) : State := stateJob rank chip0 id id

/-! ### Periods, lessons, bells -/

theorem wit_Wait_lesson : let c := chipWith { strand0 with lesson := some 0 }
    Runs c u0 [] [] [] ∧ natBits (creg (strandOf c u0) 0).toNat 11 10 = 0 ∧ (strandOf c u0).lesson.isSome = true := by decide
theorem wit_Wait_sleep : let c := chipWith (setCreg strand0 0 0x400)
    Runs c u0 [] [] [] ∧ natBits (creg (strandOf c u0) 0).toNat 11 10 ≠ 0 := by decide
theorem wit_ClassroomRelease : let s := stateJob 0 chip0 (fun b => { b with relCls := 1 }) id
    jobOf s = some (jobT 0) ∧ s.dev.bell.live = true ∧ s.dev.bell.halted = false ∧ natBit s.dev.bell.relCls 0 = true ∧
      bState s.chip .bel = 2 ∧ bState s.chip (.cls 0) = 2 ∧ (roomOf s.chip 0).power = .run := ⟨rfl, by decide⟩
theorem wit_ClassroomRelease_breach :
    let c := modRoom chip0 0 (fun m => { m with power := .recess })
    let s := stateJob 0 c (fun b => { b with relCls := 1 }) (fun d => { d with power := { d.power with breach := true } })
    (roomOf s.chip 0).power = .recess ∧ s.dev.power.breach = true ∧ bState s.chip (.cls 0) = 2 := by decide
theorem wit_ClassroomRelease_lessons :
    ((((jobT 0).lessons 0).filter (fun l => l.2.cl == 0)).map (fun l => l.2.id)).Nodup ∧
      (((jobT 0).lessons 0).filter (fun l => l.2.cl == 0)).length = 1 := by decide
theorem wit_LessonsEnd : let s := stateJob 0 (chipWith { strand0 with lesson := some 0, run := .ending }) id id
    (strandOf s.chip u0).lesson = some 0 ∧ (strandOf s.chip u0).run = .ending ∧ strandQuiet (strandOf s.chip u0) = true ∧
      strandQuiet { strand0 with pend := [late 3 1 8] } = false ∧
      strandStores s.chip u0 = 0 := by decide
theorem wit_LessonsEnd_record : getF (setF chip0 .bel 0x010 1 0 2) .bel 0x010 1 0 = 2 ∧
    inHbm ((jobT 0).dlog + 8 * (jobT 0).nles + 8 * 0 + 7) = true := by decide
theorem wit_PumpRelease : let s := stateJob 0 (setState chip0 (.pmp 0) 2) (fun b => { b with relPmp := 1 }) id
    s.dev.bell.halted = false ∧ natBit s.dev.bell.relPmp 0 = true ∧ bState s.chip .bel = 2 ∧ bState s.chip (.pmp 0) = 2 := by decide
theorem wit_DeviceReady : dstate (stateRun 0) = 4 ∧ (stateRun 0).dev.bell.ready = false ∧ bState (stateRun 0).chip .bel = 2 ∧
    childrenOf 0 2 = [1] ∧ childrenOf 1 2 = [] ∧ tget (fun _ => none) (stateRun 0).dev.bell.kids 1 = none := by decide
theorem wit_DeviceReady_notComplete : ¬ PeriodComplete (jobT 0) (stateRun 0) := by
  intro h
  have := h.2.2.2.2.2.2 rfl |>.2.1 (0, (jobT 0).win 0) (by decide)
  exact absurd this (by decide)
theorem wit_DeviceReady_complete : let s := stateJob 1 chip0 (fun b => { b with runs := false }) id
    PeriodComplete (jobT 1) s ∧ (∀ q ∈ childrenOf 1 2, (tget (fun _ => none) s.dev.bell.kids q).isSome = true) ∧
      s.dev.bell.ringDue = none ∧ s.dev.bell.sentReady = false := ⟨⟨rfl, rfl, by decide, by decide, by decide, by decide, fun h => absurd h (by decide)⟩, by decide, rfl, rfl⟩
theorem wit_ReadyRepeat : let s := stateJob 1 chip0 (fun b => { b with sentReady := true }) id
    s.dev.bell.sentReady = true ∧ s.dev.bell.ringDue = none ∧ (jobT 1).rank ≠ 0 := ⟨rfl, rfl, by decide⟩

def voteT (v : Nat) : BVote := ⟨v, 1, 3, 1, 2⟩
def stateRing (step v : Nat) : State :=
  stateJob 0 (setRaw chip0 .bel 0x012 (BitVec.ofNat 32 step)) (fun b => { b with ringDue := some (5, voteT v) }) id
theorem wit_BellRing : let s := stateRing 99 0
    s.dev.bell.ringDue = some (5, voteT 0) ∧ dstate s = 4 ∧ s.dev.bell.halted = false ∧ bState s.chip .bel = 2 ∧
      periodNow s < (jobT 0).nper ∧ (jobT 0).nper ≤ 4096 ∧ s.dev.bell.wardenAbort = false ∧ stepNow s ≠ (jobT 0).lastStep ∧
      ((jobT 0).per 0).vote = true := by decide
theorem wit_BellRing_last : stepNow (stateRing 100 0) = (jobT 0).lastStep ∧ periodNow (stateRing 100 0) + 1 = (jobT 0).nper := by decide
theorem wit_BellRing_abort : (stateRing 99 2).dev.bell.ringDue = some (5, voteT 2) ∧ (stateRing 99 2).dev.bell.halts = [] ∧
    1 ≤ (voteT 2).reason ∧ (voteT 2).reason ≤ 4 := by decide
theorem wit_PeriodHang : dstate (stateRun 0) = 4 ∧ (stateRun 0).dev.bell.ready = false ∧ ((jobT 0).rank, stepNow (stateRun 0)) ∉
    (stateRun 0).dev.bell.halts := by decide
theorem wit_PeerSilent : let s := stateJob 0 chip0 (fun b => { b with ready := true }) id
    dstate s = 4 ∧ s.dev.bell.ready = true ∧ s.dev.bell.ringDue = none ∧ s.dev.bell.halted = false ∧
      silent (jobT 0) 1 s = true ∧ silent (jobT 0) 0 s = false := by decide
theorem wit_HaltStop : (stateRun 0).dev.bell.stopping = false ∧
    (stateJob 0 chip0 (fun b => { b with stopping := true, halted := true }) id).dev.bell.stopping = true := by decide
/-! ### The school transport and RoCEv2 -/

/-- A frame of rank 1 for rank 0 under the job. -/
def frameT (wid frame op aux : Nat) (ws : List Word) : Frame :=
  ⟨[], 2 + 2 ^ 41, 5, 0, 3, false, true, 1, 0, 9, 0, 0, wid, frame, op, aux, ws⟩

theorem test_mac : (jobT 0).mac 1 0 = 2 + 2 ^ 41 ∧ (jobT 0).mac 0 0 = 2 + 2 ^ 40 := by decide
theorem wit_OnChannel : OnChannel (jobT 0) 0 (frameT 8 0 0 0 []) 1 := by
  refine ⟨by decide, by decide, by decide, fun r h h' => ?_⟩
  have hr : (jobT 0).rank = 0 := rfl
  omega
theorem wit_NotOnChannel : ∀ q, ¬ OnChannel (jobT 0) 0 { frameT 8 0 0 0 [] with sci := 7 } q := by
  rintro q ⟨hq, hr, hm, -⟩
  have h : q < 2 := hq
  interval_cases q
  · exact hr rfl
  · exact absurd hm (by decide)
/-- A frame with the ICV of the channel of rank 1. -/
def genuine (s : State) (typ : Nat) (f : Frame) : Frame := { f with icv := ChannelIcv (jobT 0) s.chip 0 typ 1 f }
theorem innerBytes_icv (j : Job) (c : Chip) (p typ : Nat) (f : Frame) (x : List Byte) :
    innerBytes j c p typ { f with icv := x } = innerBytes j c p typ f := by
  unfold innerBytes schoolHeader; rfl
theorem channelIcv_genuine (s : State) (typ : Nat) (f : Frame) :
    (genuine s typ f).icv = ChannelIcv (jobT 0) s.chip 0 typ 1 (genuine s typ f) := by
  simp only [genuine, ChannelIcv, innerBytes_icv]
theorem wit_Accepts (typ : Nat) : Accepts (stateRun 0) 0 typ (genuine (stateRun 0) typ (frameT 8 0 0 0 [])) (jobT 0) := by
  refine ⟨by decide, ⟨1, ⟨by decide, by decide, ?_, fun r h h' => ?_⟩, channelIcv_genuine _ _ _, ?_⟩, rfl, rfl, rfl, rfl, rfl, ?_⟩
  · exact test_mac.1
  · have hr : (jobT 0).rank = 0 := rfl
    omega
  · show ReplayPasses (chanOf (stateRun 0) 0 1) 5
    unfold ReplayPasses; decide
  · show 1 < 2
    decide
theorem wit_Accepts_job : schoolJob (stateRun 0) = some (jobT 0) := rfl
theorem wit_FramesAreChecked_cmd : frameCmd (.done 0 (frameT 8 0 0 0 [])) = some (0, 2, frameT 8 0 0 0 []) := rfl
/-- The channel of an unknown SCI is no rank's. -/
theorem wit_FramesAreChecked_icv : ¬ Authentic (stateRun 0) 0 2 { frameT 8 0 0 0 [] with sci := 7 } (jobT 0) := by
  rintro ⟨q, h, -⟩
  exact wit_NotOnChannel q h
theorem wit_FramesAreChecked_replay : ¬ ReplayPasses (chanOf (stateRun 0) 0 1) 0 := by
  unfold ReplayPasses; decide
theorem wit_FramesAreChecked_header : (frameT 8 0 0 0 []).src = 1 ∧ (jobT 0).size ≤ { frameT 8 0 0 0 [] with src := 2 }.src := by decide

def winT (i : Nat) : Win := (jobT 0).win i
theorem wit_WindowStart : InPeriod (jobT 0) (stateRun 0) 0 (winT 0) ∧ (winT 0).recv = false :=
  ⟨⟨rfl, rfl, rfl, rfl, by decide, by decide⟩, by decide⟩
theorem wit_FrameTransmit_control : let s := stateJob 0 chip0 id (fun d => { d with eth := [(0, { ethReset with ctl := [(2, frameT 7 0 0 0 [])] })] })
    SchoolPort s 0 ∧ (ethOf s 0).ctl = (2, frameT 7 0 0 0 []) :: [] := ⟨by decide, by decide⟩

/-- The send window's state. -/
def stateSend (x : WinSt) : State := stateJob 0 chip0 id (fun d => { d with wins := [(0, x)] })
theorem wit_FrameTransmit_data : let x := { winReset with eligible := true, next := 1 }
    HasFrame (stateSend x) (winKey 0 0) (winT 0) ∧ (ethOf (stateSend x) 0).ctl = [] ∧ (winT 0).port = 0 ∧
      x.next < ((winT 0).len + 4095) / 4096 ∧ tget (fun _ => 0) x.count 1 < 32 := by decide
theorem wit_FrameTransmit_reads : let s := stateSend { winReset with eligible := true, next := 1 }
    frameHeld 0 (winKey 0 0) (winT 0) 1 s = false ∧ (∀ e < 1, portReaches s.chip 0 ((winT 0).addr + 4096 * 1 + e) = true) ∧
      min 4096 ((winT 0).len - 4096 * 1) = 1 := by decide +kernel
theorem wit_FrameTransmit_held : let r : HReq := ⟨portSrc 0, 0x80, false, 0, .none, false, [], true, []⟩
    let s := stateJob 0 (modStack chip0 0 (fun x => { x with stalled := [r] })) id id
    frameHeld 0 (winKey 0 0) (winT 0) 1 s = true := by decide +kernel
theorem wit_FrameTransmit_others : ∀ y ∈ (jobT 0).windows 0, y.2.recv = false → y.2.port = 0 → y = (0, winT 0) := by decide
theorem wit_FrameTransmit_again : let x := { winReset with eligible := true, next := 2, again := [1], count := [(1, 32)] }
    HasFrame (stateSend x) (winKey 0 0) (winT 0) ∧ 1 ∈ x.again ∧ (∀ m ∈ x.again, 1 ≤ m) ∧ 32 ≤ tget (fun _ => 0) x.count 1 := by decide
theorem wit_DoneTimeout : let x := { winReset with eligible := true, next := 2 }
    getF (stateSend x).chip (.eth 0) 0x01A 31 31 = 1 ∧ (winOf (stateSend x) 0).done = false ∧ (winOf (stateSend x) 0).again = [] ∧
      ((winT 0).len + 4095) / 4096 ≤ (winOf (stateSend x) 0).next := by decide

/-- The receive window's state. -/
def stateRecv (x : WinSt) : State := stateJob 0 chip0 id (fun d => { d with wins := [(1, x)] })
theorem wit_Data_takes : TakesFrames (jobT 0) (stateRun 0) 0 0 1 (winT 1) :=
  ⟨rfl, rfl, by decide, by decide, by decide, Or.inl ⟨rfl, rfl, rfl, rfl⟩⟩
/-- The next period of a device that is ready: of a job of one period, that period again, a step on. -/
theorem wit_Data_next : let s := stateJob 0 chip0 (fun b => { b with ready := true }) id
    s.dev.bell.ready = true ∧ ((jobT 0).per 0).runsIn 1 = true ∧ NextOf (jobT 0) s 1 0 := by
  refine ⟨rfl, by decide, ?_⟩
  unfold NextOf; decide
theorem wit_Data_reach : ∀ e < 32, inHbm ((winT 1).addr + 4096 * 0 + e) = true ∧
    portReaches (stateRun 0).chip 0 ((winT 1).addr + 4096 * 0 + e) = true := by decide +kernel
theorem wit_Data : (1, winT 1) ∈ (jobT 0).windows 0 ∧ (winT 1).recv = true ∧ (winT 1).peer = (frameT 8 0 0 0 []).src ∧
    (winT 1).wid = (frameT 8 0 0 0 []).wid ∧ (winT 1).addr + (winT 1).len ≤ 0x4000000000 ∧
    (∀ y ∈ (jobT 0).windows 0, (y.2.recv = true ∧ y.2.port = 0 ∧ y.2.peer = 1 ∧ y.2.wid = 8) → y = (1, winT 1)) := by decide
theorem wit_Data_fresh : let f := frameT 8 0 0 0 (List.replicate 32 7)
    (winOf (stateRun 0) 1).low ≤ f.frame ∧ f.frame ∉ (winOf (stateRun 0) 1).above ∧ f.frame * 4096 < (winT 1).len ∧
      f.payload.length = min 4096 ((winT 1).len - 4096 * f.frame) ∧ f.op = (winT 1).op ∧
      (winT 1).lateLimit < 1 ∧ (stateRun 0).dev.bell.replay = none := by decide
theorem wit_Data_drops : (frameT 8 0 1 0 []).op ≠ (winT 1).op ∧ ¬ ((frameT 8 1 0 0 []).frame * 4096 < (winT 1).len) ∧
    (winOf (stateRecv { winReset with done := true }) (winKey 0 1)).done = true := by decide
theorem wit_Retransmission : let x := { winReset with eligible := true, next := 2 }
    (winT 0).recv = false ∧ (winT 0).port = 0 ∧ (winT 0).peer = 1 ∧ (winT 0).wid = (frameT 7 0 0 1 [1, 0, 1, 0]).wid ∧
      (stateSend x).dev.bell.recov = [] ∧ (winOf (stateSend x) 0).done = false ∧
      (∀ y ∈ (jobT 0).windows 0, (y.2.recv = false ∧ y.2.port = 0 ∧ y.2.peer = 1 ∧ y.2.wid = 7) → y = (0, winT 0)) := by decide
theorem wit_Retransmission_lists : nakLists (frameT 7 0 0 1 [1, 0, 1, 0]) 1 := ⟨0, by decide, by decide, by decide⟩
theorem wit_NakTimer : let x := { winReset with low := 0, above := [1, 64] }
    (winOf (stateRecv x) 1).above ≠ [] ∧ (winOf (stateRecv x) 1).above.length ≤ 64 ∧
      (∀ m ∈ (winOf (stateRecv x) 1).above, 0 < m ∧ m ≤ 0 + 64) ∧ (winOf (stateRecv x) 1).done = false := by decide
theorem wit_BellFrames_ready : let s := stateRun 0
    (frameT 0 0 0 0 []).src ∈ childrenOf 0 2 ∧ (frameT 0 0 0 0 []).step.toNat = stepNow s ∧ (frameT 0 0 0 0 []).period = periodNow s ∧
      tget (fun _ => none) s.dev.bell.kids 1 = none ∧
      (tget (fun _ => none) (stateJob 0 chip0 (fun b => { b with kids := [(1, some (voteT 0))] }) id).dev.bell.kids 1).isSome = true := by
  decide
theorem wit_BellFrames_late : let s := stateJob 0 chip0 (fun b => { b with live := false, rung := some (0, 0, voteT 0) }) id
    s.dev.bell.live = false ∧ s.dev.bell.rung = some ((frameT 0 0 0 0 []).step.toNat, (frameT 0 0 0 0 []).period, voteT 0) := by decide
theorem wit_BellFrames_ring : let s := stateJob 1 chip0 (fun b => { b with sentReady := true }) id
    let f := { frameT 0 0 0 77 [0, 0, 0, 1] with src := 0, dst := 1 }
    (jobT 1).rank ≠ 0 ∧ f.src = ((jobT 1).rank - 1) / 8 ∧ s.dev.bell.live = true ∧ s.dev.bell.sentReady = true ∧
      s.dev.bell.ringDue = none ∧ s.dev.bell.halted = false ∧ f.step.toNat = stepNow s ∧ f.period = periodNow s := by decide
theorem wit_BellFrames_halt : ((frameT 0 0 0 1 [7]).aux, stepNow (stateRun 0)) ∉ (stateRun 0).dev.bell.halts ∧
    ((1, 0) ∈ (stateJob 0 chip0 (fun b => { b with halts := [(1, 0)] }) id).dev.bell.halts) := by decide
theorem wit_SchoolAgreement_probe : 2 ≤ (stateJob 0 chip0 (fun b => { b with probes := 2 }) id).dev.bell.probes := by decide
theorem wit_SchoolAgreement_child : (frameT 0 0 0 0 []).aux = 0 ∧ (frameT 0 0 0 0 []).src ∈ childrenOf 0 2 ∧
    tget (fun _ => none) (stateRun 0).dev.bell.kidAgree 1 = none ∧ (stateRun 0).dev.bell.mine = none := by decide
theorem wit_SchoolAgreement_outcome :
    let s := stateJob 1 chip0 (fun b => { b with mine := some ⟨none, 0, true, 0, 0⟩ }) (fun d => { d with
      warden := { d.warden with job := none, trial := some ⟨jobT 1, [], []⟩, long := some ⟨⟨0, 0x0031, [], []⟩, none⟩ } })
    let f := { frameT 0 0 0 1 [0] with src := 0, dst := 1 }
    schoolJob s = some (jobT 1) ∧ f.aux = 1 ∧ f.src = ((jobT 1).rank - 1) / 8 ∧ s.dev.bell.mine.isSome = true ∧
      s.dev.warden.long = some ⟨⟨0, 0x0031, [], []⟩, none⟩ ∧ f.payload.getD 0 0 = 0 ∧ (frameT 0 0 0 1 [1]).payload.getD 0 0 ≠ 0 :=
  ⟨rfl, rfl, rfl, rfl, rfl, rfl, by decide⟩
theorem wit_Ports : bState (stateRun 0).chip (.eth 0) = 2 ∧ getF (stateRun 0).chip (.eth 0) 0x010 9 9 = 1 ∧
    getF (stateRun 0).chip (.eth 0) 0x010 15 13 = (0 : Fin 8).val ∧ getF (stateRun 0).chip (.eth 0) 0x010 15 13 ≠ (7 : Fin 8).val := by decide
theorem wit_Ports_links : getF (stateRun 0).chip (.eth 0) 0x01A 31 31 = 1 ∧
    (let c := setF (chipJob chip0) (.eth 0) 0x01A 31 31 0
     getF c (.eth 0) 0x01A 31 31 = 0 ∧ tget (fun _ => false) c.portOff 0 = false ∧ getF c (.eth 0) 0x022 0 0 = 0 ∧
       bState c (.eth 0) = 2) ∧
    getF (setF chip0 (.eth 15) 0x022 0 0 1) (.eth 15) 0x022 0 0 = 1 := by decide
theorem wit_Ports_wake : let s := stateJob 0 (setF chip0 (.eth 0) 0x010 8 8 1) id (fun d => { d with warden := { d.warden with dstate := 6, before := 5 } })
    dstate s = 6 ∧ getF s.chip (.eth 0) 0x010 8 8 = 1 := by decide
theorem wit_Ports_cnp : let e := { ethReset with cnpAt := some 0 }
    (∀ x, e.cnpAt = some x → x + 50 ≤ 50) ∧ ∃ x, e.cnpAt = some x ∧ 49 < x + 50 := by decide

def xferT (op : RoceOp) (sent retries : Nat) : Xfer := ⟨op, 0, 3000, 3, 0, sent, retries, []⟩
def stateRoce (x : Xfer) : State := stateJob 0 chip0 id (fun d => { d with
  qps := [⟨17, 0, [], 1024, some x⟩], warden := { d.warden with long := some ⟨⟨0, 0x0042, [], []⟩, none⟩ } })
theorem wit_Roce : let s := stateRoce (xferT .write 3 7)
    bState s.chip (.eth 0) = 2 ∧ getF s.chip (.eth 0) 0x010 9 9 = 1 ∧ qpOf s 17 = some ⟨17, 0, [], 1024, some (xferT .write 3 7)⟩ ∧
      s.dev.warden.long = some ⟨⟨0, 0x0042, [], []⟩, none⟩ ∧ (xferT .write 3 7).read = false ∧ (xferT .write 3 7).acked ≤ 1 ∧
      1 + 1 < (xferT .write 3 7).packets ∧ 7 ≤ (xferT .write 3 7).retries := by decide
theorem wit_Roce_read : (xferT .read 1 0).read = true ∧ (xferT .read 1 0).acked + 1 < (xferT .read 1 0).packets ∧
    (xferT .read 1 6).retries < 7 ∧ (0x61 : Nat) ≠ 0x60 := by decide
/-- A port that carries no school frames, with packets of a transfer to send. -/
theorem wit_Roce_sends (op : RoceOp) : let s := stateRoce (xferT op 1 0)
    let s := modChip (fun c => setF c (.eth 0) 0x010 10 10 0) s
    s.dev.qps = [] ++ ⟨17, 0, [], 1024, some (xferT op 1 0)⟩ :: [] ∧ (xferT op 1 0).sent < (xferT op 1 0).packets ∧ (ethOf s 0).naks = 0 ∧
      (ethOf s 0).paused = false ∧ getF s.chip (.eth 0) 0x01A 31 31 = 1 ∧ getF s.chip (.eth 0) 0x010 10 10 = 0 := by
  cases op <;> decide
/-! ### Pigeonholes, roles, the event log, settings -/

/-- The Warden in this DSTATE, port 0 the owner, with this Warden and PCIe state. -/
def stateHost (ds : Nat) (f : Warden → Warden) (ports : Table Pcie) : State :=
  stateUp (chipJob chip0) (fun d => { d with
    warden := f { wardenReset with dstate := ds, owner := some 0, job := some (jobT 0) }, pcie := ports })

/-- A pigeonhole with these command bytes. -/
def pigeonT (st : Nat) (bs : List Byte) : Pigeon :=
  { pigeonReset with state := st, cmd := (bs.zipIdx.filter (fun b => b.1 != 0)).map (fun b => (b.2, b.1)) }
/-- Command block of an opcode under version 3 with ARG0. -/
def cmdT (op a0 : Byte) : List Byte := [op, 0, 0, 0, 0x55, 0, 0, 0, 3, 0, 0, 0, 0, 0, 0, 0, a0]
def portT (g : Pigeon) : Table Pcie :=
  [(0, { pcieReset0 with ph := [(1, g)], l0 := true, cfg := { pcieCfgReset with memEn := true } })]

theorem wit_Pigeonholes : BarShown (stateHost 1 id (portT (pigeonT 3 []))) 0 ∧
    (pigeonOf (stateHost 1 id (portT (pigeonT 3 []))) 1).state = 3 ∧ (pigeonOf (stateHost 1 id (portT (pigeonT 2 []))) 1).state = 2 ∧
    (pigeonOf (stateHost 1 id []) 1).state = 0 ∧ (2 : W32).toNat % 4 = 2 := by decide
theorem wit_Pigeonholes_noMemory :
    let s := stateHost 1 id [(0, { pcieReset0 with l0 := true }), (1, { pcieReset0 with l0 := true, cfg := { pcieCfgReset with memEn := true, d3hot := true } })]
    LinkCarries s 0 ∧ ¬ TakesMemory s 0 ∧ LinkCarries s 1 ∧ ¬ TakesMemory s 1 ∧ ¬ LinkCarries (stateHost 1 id []) 0 ∧
      ¬ LinkCarries State.reset 0 := by decide
theorem wit_Vectors : let x := { pcieReset0 with cfg := { pcieCfgReset with bme := true, msixOn := true }, msix := [(7, 0)], msixPend := [0, 1] }
    vectorFree x 1 = true ∧ vectorFree x 0 = false ∧ (0xF0 : BitVec 8).toNat % 4 = 0 ∧ (0xF0 : BitVec 8).toNat + 16 ≤ 256 := by decide
theorem wit_Pigeonholes_areas : (0x80000 ≤ (0x80000 : BitVec 20).toNat ∧ (0xFFFFF : BitVec 20).toNat + 1 ≤ 0x100000) ∧
    ((0x13C : BitVec 20).toNat + 4 ≤ 0x140 ∧ (0x13C : BitVec 20).toNat % 4 = 0) := by decide

/-- Posted in pigeonhole 1 of port 0. -/
def statePost (ds : Nat) (bs : List Byte) (f : Warden → Warden) : State := stateHost ds f (portT (pigeonT 1 bs))
theorem wit_Acceptance_insecure :
    let s := stateHost 1 id [(0, { pcieReset0 with ph := [(1, pigeonT 1 (cmdT 2 0))], ideInsecure := true })]
    (pcieOf s (1 / 8)).ideInsecure = true ∧ cmdNat (pigeonOf s 1) 0 2 = 2 := by decide
theorem wit_Acceptance_version : (pcieOf (statePost 1 [2] id) 0).ideInsecure = false ∧ cmdNat (pigeonOf (statePost 1 [2] id) 1) 8 2 ≠ 3 := by
  decide
theorem wit_Acceptance_opcode : let s := statePost 1 (cmdT 0xFF 0) id
    cmdNat (pigeonOf s 1) 8 2 = 3 ∧ ∀ r ∈ cmdRows, r.op ≠ cmdNat (pigeonOf s 1) 0 2 := by decide
/-- The conditions of AcceptanceChecks on the arguments. -/
abbrev argsBadT (g : Pigeon) (r : CmdRow) : Prop :=
  1 < cmdNat g 2 2 ∨ cmdNat g 0x0A 2 ≠ 0 ∨ 524288 < cmdNat g 0x0C 4 ∨ (0 < cmdNat g 0x0C 4 ∧ r.data = false) ∨
    (∃ i < 6, r.args ≤ i ∧ cmdNat g (0x10 + 8 * i) 8 ≠ 0)
theorem wit_Acceptance_arguments : ∃ r ∈ cmdRows, r.op = 0x34 ∧ argsBadT (pigeonT 1 (cmdT 0x34 7)) r ∧
    ¬ argsBadT (pigeonT 1 (cmdT 0x34 0)) r := by decide
theorem wit_Acceptance_role : ∃ r ∈ cmdRows, r.op = 3 ∧ r.owner = true ∧ (stateHost 1 (fun w => { w with owner := some 1 }) []).dev.warden.owner ≠ some (1 / 8) ∧
    (stateHost 1 id []).dev.warden.owner = some (1 / 8) := by decide
theorem wit_Acceptance_state : ∃ r ∈ cmdRows, r.op = 0x30 ∧ 4 ∉ r.states ∧ 2 ∈ r.states := by decide
theorem wit_Acceptance_long : ∃ r ∈ cmdRows, r.long = true ∧ r.op ≠ 0x0B := by decide

theorem wit_CommandAccept : let s := statePost 1 (cmdT 2 0) id
    fwUp s = true ∧ 4 ≤ s.dev.boot.phase ∧ s.dev.warden.cur = none ∧ dstate s ≠ 6 ∧ s.dev.warden.lastPh < 16 ∧
      (pigeonOf s 1).state = 1 ∧ (pigeonOf s 1).drop = false ∧
      (∀ x < 16, (pigeonOf s x).state = 1 → (1 + 15 - s.dev.warden.lastPh) % 16 ≤ (x + 15 - s.dev.warden.lastPh) % 16) := by decide
theorem wit_CommandAccept_answers : acceptCheck (statePost 1 (cmdT 0xFF 0) id) 1 = some 1 ∧
    acceptCheck (statePost 1 (cmdT 2 0) id) 1 = none ∧ acceptCheck (statePost 1 (cmdT 0x0A 0) id) 1 = none := by decide
theorem wit_LongCommandDone : let s := stateHost 2 (fun w => { w with long := some ⟨⟨1, 0x0021, [], []⟩, some ⟨0, [], []⟩⟩ }) (portT (pigeonT 2 []))
    s.dev.warden.long = some ⟨⟨1, 0x0021, [], []⟩, some ⟨0, [], []⟩⟩ ∧ s.dev.warden.queued = [] ∧ (pigeonOf s 1).drop = false := by decide
theorem wit_LongCommandDone_last : ∃ x ∈ (stateHost 1 (fun w => { w with resets := [(0, 1)] }) []).dev.warden.resets, x.1 = 0 :=
  ⟨(0, 1), List.mem_singleton.mpr rfl, rfl⟩
theorem wit_LongCommandDone_runs : (stateRoce (xferT .write 3 0)).dev.warden.long = some ⟨⟨0, 0x0042, [], []⟩, none⟩ := rfl

/-- A command in progress in pigeonhole 1 of port 0. -/
def stateCur (ds op : Nat) (args : List Nat) (data : List Byte) (f : Warden → Warden) : State :=
  stateHost ds (fun w => f { w with cur := some ⟨1, op, args, data⟩ }) (portT (pigeonT 2 []))
/-- Every meaning of a command finds its command in progress in such a state. -/
theorem wit_Current : ∀ op ∈ [0x0001, 0x0002, 0x0003, 0x0004, 0x0005, 0x0006, 0x0007, 0x0008, 0x0009, 0x000B, 0x0010, 0x0011, 0x0012, 0x0020,
    0x0021, 0x0022, 0x0030, 0x0031, 0x0032, 0x0033, 0x0034, 0x0035, 0x0036, 0x0040, 0x0041, 0x0042, 0x0051, 0x0060, 0x0061, 0x0062,
    0x0063, 0x0064, 0x0065, 0x0066], Current (stateCur 4 op [] [] id) 0 1 op ⟨1, op, [], []⟩ := by decide

theorem wit_Roles_handover : (pcieOf (stateHost 1 id [(1, { pcieReset0 with l0 := true })]) (1 - (0 : Fin 2).val)).l0 = true ∧
    (pcieOf (stateHost 1 id []) 1).l0 = false := by decide
theorem wit_Roles_claim : (stateHost 1 id []).dev.warden.owner = some (0 : Fin 2).val ∧
    (stateHost 1 (fun w => { w with owner := some 1 }) []).dev.warden.owner = some 1 ∧
    (bytesNat (settingVal (stateHost 1 id []).flash 2) * 1000 < bytesNat (settingVal (stateHost 1 id []).flash 2) * 1000 + 1) := by decide
theorem wit_Roles_unpowered : powered State.reset = false ∧ powered (stateHost 1 id []) = true := by decide
theorem wit_Roles_link : linkLost 0 (stateHost 1 id (portT pigeonReset)) = false := by decide
theorem wit_OwnerTimeout : (pcieOf (stateHost 1 id [(1, { pcieReset0 with l0 := true })]) 0).upSince = false ∧
    (pcieOf (stateHost 1 id [(0, { pcieReset0 with upSince := true })]) 0).upSince = true ∧ dstate (stateHost 1 id []) ≠ 0 := by decide
theorem wit_PcieReset : (pigeonOf (stateHost 1 id (portT (pigeonT 1 []))) (8 * (0 : Fin 2).val + (1 : Fin 8).val)).state = 1 ∧
    (pigeonOf (stateHost 1 id (portT (pigeonT 2 []))) 1).state = 2 := by decide

def entryT (q : Nat) : LogEntry := ⟨q, 1, 0, 0x0008, 0, 77, [1, 2, 3]⟩
theorem wit_EventRead : let s := stateHost 1 (fun w => { w with waiting := [entryT 1, entryT 2, entryT 3] }) []
    logKept s = [entryT 1] ++ entryT 2 :: [entryT 3] ∧ (∀ x ∈ [entryT 1], x.seq ≠ 2) ∧
      (logKept s).length ≤ 8192 * (goodBlocks s.flash 164 128).length := ⟨rfl, by decide, by decide +kernel⟩
theorem wit_Sweep : (stateHost 1 id []).dev.warden.waiting.length < 127 ∧
    127 ≤ (stateHost 1 (fun w => { w with waiting := List.replicate 127 (entryT 1) }) []).dev.warden.waiting.length ∧
    fwUp (stateHost 1 id []) = true := by decide +kernel
theorem wit_FlashBad : (323 : Fin 512).val < 324 ∧ (323 : Fin 512).val ∉ (stateHost 1 id []).flash.bad := by decide
theorem wit_SettingsRead : keyVer 1 = some 1 ∧ settingOf (stateHost 1 id []).flash 1 = none ∧
    settingOf { (stateHost 1 id []).flash with settings := [⟨1, 1, 1, [1]⟩] } 1 = some ⟨1, 1, 1, [1]⟩ := by decide
theorem wit_SettingsWrite : bytesNat [0x58, 0x02] = 600 ∧ bytesNat [0x59, 0x02] = 601 ∧ ¬ (601 ≤ 600) ∧
    600 ≤ bytesNat (settingVal (stateHost 1 id []).flash 0x106) ∧ bytesNat (settingVal (stateHost 1 id []).flash 0x105) ≤ 1500 := by decide
theorem wit_Registers_host : blockAt 127 1 = some (.dma 63) ∧ (0x3FE : Nat) < 0x400 ∧
    argOf ⟨1, 8, [0x20000000000 + 127 * 0x10000 + 1 * 0x400 + 0x3FE], []⟩ 0 = 0x20000000000 + 127 * 0x10000 + 1 * 0x400 + 0x3FE := by decide

theorem wit_Registers_reset : let s := stateHost 1 id []
    nodeInReset { s with dev := { s.dev with boot := { s.dev.boot with compReset := true } } } 0x40 = true ∧ nodeInReset s 0x40 = false ∧
      blockAt 0x40 0 = some (.cls 0) := by decide
/-- Core 0's message in its pigeonhole: GO, LEN 2, KIND q. -/
def chipMsg (w : Word) : Chip := wrWords (setF chip0 (.cls 0) 0x010 31 16 1) false pgnBase [w, 3, 8, 9]
theorem wit_CoreMessage : (rdWord (chipMsg 0x8202) false (0x18000000000 + 256 * 0)).1.toNat = 0x8202 ∧ 2 ^ 15 ≤ 0x8202 ∧
    (rawReg (chipMsg 0x8202) (.cls (Fin.ofNat 64 (0 / 16))) 0x010).getLsbD (16 + 0 % 16) = true := by decide
theorem wit_CoreMessage_warden : let m : CoreMsg := ⟨0, 3, 2, [8, 9], none⟩
    let s := stateHost 1 (fun w => { w with msgs := [m] }) []
    fwUp s = true ∧ s.dev.warden.msgs = [] ++ m :: [] ∧ m.reply = none ∧ m.kind = 2 ∧ m.strand < 8 := by decide
theorem wit_CoreReply_disabled : (rawReg chip0 (.cls (Fin.ofNat 64 (0 / 16))) 0x010).getLsbD (16 + 0 % 16) = false := by decide
theorem wit_CoreReply : ({ (⟨0, 7, 2, [], none⟩ : CoreMsg) with reply := some (255, [1]) }).reply = some (255, [1]) ∧
    (255 : Nat) < 256 ∧ [(1 : Word)].length < 128 := by decide
/-! ### Identity, link keys, firmware -/

theorem wit_Ident : jobOf (stateHost 1 (fun w => { w with job := none }) []) = none ∧ jobOf (stateHost 1 id []) = some (jobT 0) := ⟨rfl, rfl⟩
theorem wit_IdeKeyx : (List.replicate 1599 (0 : Byte)).length ≠ 1600 ∧ (List.replicate 1600 (0 : Byte)).length = 1600 ∧
    (Config.kemCheck [] = true ∨ Config.kemCheck [] = false) := ⟨by decide +kernel, by decide +kernel, by cases Config.kemCheck [] <;> simp⟩
theorem wit_IdeStart : (pcieOf (stateHost 1 id []) 0).idePending = none ∧
    (pcieOf (stateHost 1 id [(0, { pcieReset0 with idePending := some [7] })]) 0).idePending = some [7] ∧
    (pcieOf (stateHost 1 id [(0, { pcieReset0 with ideSecure := true })]) 0).ideSecure = true ∧
    (pcieOf (stateHost 1 id []) 0).ideSecure = false := by decide
/-- A state whose flash holds a boot record for slot A and no image. -/
def stateFlash (bad : List Nat) : State :=
  { stateHost 1 id [] with flash := { (stateHost 1 id []).flash with slotA := [], rec0 := some ⟨1, 0, 64, []⟩, bad := bad } }
theorem wit_FwBlock : 64 ≤ (slotBlocks (stateFlash []).flash (stagingSlot (stateFlash []).flash)).length ∧
    (slotBlocks (stateFlash ((List.range 324))).flash (stagingSlot (stateFlash ((List.range 324))).flash)).length < 64 := by decide +kernel
theorem wit_FwCommit : covers [] 4096 = false ∧ covers [(0, 4096)] 4096 = true := by decide
theorem wit_FwCommit_fails : (imageFault (slotImage (stateFlash []).flash 1 64) 64 fusesReset).isSome = true := by decide +kernel
theorem wit_FlashRefresh : let s := { stateFlash [] with dev := { (stateFlash []).dev with warden := { (stateFlash []).dev.warden with imageHours := 8760 } } }
    fwUp s = true ∧ dstate s = 1 ∧ s.dev.warden.long = none ∧ curRec s.flash = some (0, ⟨1, 0, 64, []⟩) ∧
      8760 ≤ s.dev.warden.imageHours ∧ (stateFlash []).dev.warden.imageHours < 8760 := ⟨rfl, rfl, rfl, rfl, by decide, by decide⟩

/-! ### Jobs and recovery -/

theorem wit_JobBlock : let s := stateCur 2 0x0030 [0] [7] id
    Current s 0 1 0x0030 ⟨1, 0x0030, [0], [7]⟩ ∧ dstate s = 2 ∧ dstate (stateCur 1 0x0030 [0] [7] id) = 1 ∧ 192 * 2 ^ 30 - 1 + 1 ≤ 192 * 2 ^ 30 := by decide
theorem wit_JobBlock_stacks : let c := (List.range 8).foldl (fun c k => setState c (hmcB k) 2) chip0
    ∀ k : Fin 8, bState c (.hmc k) = 2 := by decide +kernel
theorem wit_JobBlock_stoppable : ∀ k : Fin 8, Stoppable ((List.range 8).foldl (fun c k =>
    modStack c k (fun x => { x with powered := true, pll := true })) chip0) (.hmc k) := by unfold Stoppable; decide +kernel
theorem wit_JobUnload : (stateCur 3 0x0035 [] [] id).dev.warden.unloading = false ∧
    (stateCur 3 0x0035 [] [] (fun w => { w with unloading := true })).dev.warden.unloading = true ∧
    ∀ k < 8, (stackOf (stateCur 3 0x0035 [] [] id).chip k).wiping = false := by decide
theorem wit_JobLoad : (stateCur 2 0x0031 [8192] [] id).dev.warden.bundle = [] ∧ covers [] 8192 = false ∧
    covers [(0, 4096), (4096, 4096)] 8192 = true := by decide
theorem wit_JobLoad_fails : (headerFault (bundleRead chip0 0 0x1000) 8192 []).isSome = true := by decide +kernel
theorem wit_JobLoad_peers : (jobT 0).ports ≠ [] ∧ peersOf (jobT 0) ≠ [] := by decide
theorem wit_JobStart : (stateCur 3 0x0032 [5, 1] [] id).dev.bell.past = false ∧ argOf ⟨1, 0x0032, [5, 1], []⟩ 0 < 2 ^ 32 ∧
    jobOf (stateCur 3 0x0032 [5, 1] [] id) = some (jobT 0) ∧ 0 ∈ (jobT 0).lessonRooms ∧
    (stateCur 3 0x0032 [5, 1] [] id).dev.bell.first = false := ⟨rfl, by decide, rfl, by decide, rfl⟩
theorem wit_StepResync : let c := setState (chipPump 0) (.pmp 0) 0
    natBit (pdReg c 0 0 0) 31 = true ∧ bState c (.pmp 0) = 0 ∧ bState (chipPump 0) (.pmp 0) ≠ 0 ∧ (pdescOf c 0 0).base + 2 ≤ 0x4000000000 := by
  decide +kernel
theorem wit_Survey : partnerOf 0 2 = some 1 ∧ partnerOf 1 2 = some 0 ∧ partnerOf 2 3 = none := by decide
theorem wit_Recovery_partner : partnerOf (jobT 0).rank (jobT 0).size = some (argOf ⟨1, 0x0061, [1, 5], []⟩ 0) ∧
    partnerOf (jobT 0).rank (jobT 0).size ≠ some (argOf ⟨1, 0x0061, [0, 5], []⟩ 0) := by decide
theorem wit_Recovery_copy : copyCode 9 1 5 [] ≠ 0 := by decide
theorem wit_Recovery_replay : argOf ⟨1, 0x0070, [5], []⟩ 0 ∉ (stateRun 0).dev.bell.recorded ∧
    5 ∈ (stateJob 0 chip0 (fun b => { b with recorded := [5] }) id).dev.bell.recorded := by decide
theorem validGroups_none (c : Chip) (k : Nat) (h : blkRegs c (pmpB k) = []) : validGroups c k = [] := by
  have hz : ∀ g, natBit (pdReg c k g 0) 31 = false := by
    intro g
    have : (0x030 + 2 * 0 + 0x400 * g) % 0x400 = 0x030 := by omega
    have hk : blockKind (pmpB k) = .pmp := rfl
    simp only [pdReg, rawReg, h, tget, regReset, this, hk]; decide
  simp [validGroups, hz]
theorem copyRuns_none (c : Chip) (h : ∀ k < 8, blkRegs c (pmpB k) = []) : copyRuns c = [] := by
  have : segments c = [] := by
    simp only [segments, List.flatMap_eq_nil_iff, List.map_eq_nil_iff]
    intro k hk
    exact validGroups_none _ _ (h k (List.mem_range.mp hk))
  simp [copyRuns, images, this, imagesFrom, runsIn]
/-- The stamp of this device's shard has come back, for one stream. -/
def stateBack : State := stateJob 0 (wrWords chip0 false 0 [0, 0, 0, 0, 0, 1]) id (fun d => { d with
  warden := { d.warden with job := some { jobT 0 with sleeper := true } }, wins := [(2 ^ 22, { winReset with done := true })] })
theorem wit_Recovery_sleeper : jobOf stateBack = some { jobT 0 with sleeper := true } ∧ (jobT 0).sleeper = false ∧
    segments (stateRun 0).chip = [] := by
  refine ⟨rfl, rfl, ?_⟩
  simp only [segments, List.flatMap_eq_nil_iff, List.map_eq_nil_iff]
  exact fun k hk => validGroups_none _ _ ((by decide : ∀ k < 8, blkRegs (stateRun 0).chip (pmpB k) = []) k (List.mem_range.mp hk))
theorem wit_Recovery_resume : refilled (jobT 0) (stateRun 0) = false ∧ argOf ⟨1, 0x0062, [5], []⟩ 0 < 2 ^ 32 := by
  refine ⟨?_, by decide⟩
  simp only [refilled, refillRuns, copyRuns_none (stateRun 0).chip (by decide)]; decide
theorem wit_Recovery_skew : (streamSkew (rdWords stateBack.chip false ({ jobT 0 with sleeper := true } : Job).stamp 64) ⟨1, 0x0062, [5, 1], [9]⟩).isSome = true := by
  decide +kernel
theorem wit_Recovery_back : refilled { jobT 0 with sleeper := true } stateBack = true := by
  simp only [refilled, refillRuns, copyRuns_none stateBack.chip (by decide +kernel)]; decide
theorem wit_Refills : (3, 2) ∈ [(3, 2)] ∧ (jobT 0).ports.length ≤ 2 ∧ 0 ∈ (jobT 0).ports := by decide
/-- A frame of the partner's second refill, after DSTATE 4, for a job with Sleeper copies. -/
theorem wit_FurtherRefills : let j := { jobT 0 with sleeper := true }
    let s := stateJob 0 chip0 id (fun d => { d with warden := { d.warden with dstate := 5, job := some j } })
    let f := genuine s 1 (frameT 0x80020000 0 0 0 [])
    Accepts s 0 1 f j ∧ jobOf s = some j ∧ dstate s ≠ 4 ∧ j.sleeper = true ∧ partnerOf j.rank j.size = some f.src ∧
      0x80000000 ≤ f.wid ∧ f.wid < 0xC0000000 ∧ f.wid / 2 ^ 16 % 2 ^ 14 ≠ s.dev.bell.refillNo := by
  refine ⟨⟨by decide, ⟨1, ⟨by decide, by decide, ?_, fun r h h' => ?_⟩, channelIcv_genuine _ _ _, ?_⟩, rfl, rfl, rfl, rfl, rfl, ?_⟩,
    rfl, by decide, rfl, ?_, ?_, ?_, ?_⟩
  · exact test_mac.1
  · exact absurd (Nat.lt_one_iff.mp h) h'
  · show ReplayPasses (chanOf (stateRun 0) 0 1) 5
    unfold ReplayPasses; decide
  · show 1 < 2
    decide
  · show partnerOf 0 2 = some 1
    decide
  · show 0x80000000 ≤ 0x80020000
    decide
  · show 0x80020000 < 0xC0000000
    decide
  · show 0x80020000 / 2 ^ 16 % 2 ^ 14 ≠ 0
    decide
/-- What a queue-pair record holds is open (log entry 38); with a port and an MTU, the other conditions hold. -/
theorem wit_RoceQp : let s := stateCur 3 0x0040 [] [] id
    Current s 0 1 0x0040 ⟨1, 0x0040, [], []⟩ ∧ getF s.chip (.eth 0) 0x010 9 9 = 1 ∧ s.dev.qps.length < 256 ∧
      (s.dev.qps.filter (fun q => q.port == 0)).length < 64 := by decide
theorem wit_RoceQp_full : 64 ≤ ((List.replicate 64 (⟨17, 0, [], 1024, none⟩ : Qp)).filter (fun q => q.port == 0)).length := by decide
theorem wit_Checkpoint : let s := stateRoce (xferT .write 3 0)
    jobOf s = some (jobT 0) ∧ (qpOf s (argOf ⟨1, 0x0064, [0, 0, 17], []⟩ 2)).isSome = true ∧
      argOf ⟨1, 0x0064, [0, 0, 17], []⟩ 1 < (jobT 0).nper ∧ (jobT 0).nper ≤ argOf ⟨1, 0x0064, [0, 1, 17], []⟩ 1 := by
  exact ⟨rfl, by decide, by decide, by decide⟩
/-! ### Resets and start-up -/

theorem wit_Resets : powered (stateRun 0) = true ∧ (∀ r < 64, (dmaOf (stateRun 0).chip r).pieces = []) ∧
    (stateRun 0).dev.boot.compReset = false ∧ LogHasRoom (stateRun 0) ∧ (∀ i : Fin 8, (strandOf chip0 ⟨0, i⟩).flight = []) ∧
    (0x8000000000000000 : BitVec 64).getLsbD (63 : Fin 64) = true ∧ (0x8000000000000000 : BitVec 64).getLsbD (0 : Fin 64) = false := by decide
theorem wit_Resets_job : dstate (stateRun 0) = 4 ∧ ((jobT 0).rank, stepNow (stateRun 0)) ∉ (stateRun 0).dev.bell.halts ∧
    0 ∈ (jobT 0).allRooms ∧ jobOf (stateHost 1 (fun w => { w with job := none }) []) = none := by decide
theorem wit_Resets_absorbed : let s := stateUp chip0 (fun d => { d with boot := { d.boot with compReset := true } })
    powered s = true ∧ s.dev.boot.compReset = true ∧ s.dev.boot.inRange = true := by decide
theorem wit_StackReset : (0x80 : BitVec 8).getLsbD (7 : Fin 8) = true ∧ (stateRun 0).dev.boot.hbmUp = true ∧
    2 ≤ (stackOf (chipPump 2) 0).pump.pass ∧ (∀ k < 8, (stackOf chip0 k).wiping = false ∧ (stackOf chip0 k).pump.pass = 0) := by decide
theorem wit_PortReset : (0x38001 : BitVec 18).getLsbD (0 : Fin 16) = true ∧ (0x38001 : BitVec 18).getLsbD (16 + (1 : Fin 2).val) = true ∧
    (0x38001 : BitVec 18).getLsbD (1 : Fin 16) = false := by decide
/-- Each of the ROM's checks may pass or fail: what manufacture fixed is open (log entry 15). -/
theorem wit_RomOutcome : (Config.selfTest 0 = false ∨ Config.selfTest 0 = true) ∧ (Config.fusesAgree 0 = false ∨ Config.fusesAgree 0 = true) := by
  constructor
  · cases Config.selfTest 0 <;> simp
  · cases Config.fusesAgree 0 <;> simp
theorem wit_RomOutcome_records : curRec { (stateFlash []).flash with rec0 := none } = none ∧
    curRec (stateFlash []).flash = some (0, ⟨1, 0, 64, []⟩) ∧ headerOk (slotImage (stateFlash []).flash 0 64) (sliceNat (slotImage (stateFlash []).flash 0 64) 0x14 8) = false := by decide +kernel
theorem wit_ColdReset : (stateRun 0).dev.boot.inRange = true ∧ (stateRun 0).dev.boot.rstN = true ∧ State.reset.dev.boot.inRange = false ∧
    State.reset.dev.boot.phase ≠ 1 := by decide
theorem wit_FuseSense : ({ bootReset with inRange := true, phase := 1 } : Boot).phase = 1 := rfl
theorem wit_Watchdog : let s := stateUp chip0 id
    fwUp s = true ∧ dstate s = 0 ∧ fwUp State.reset = false := by decide
/-- The firmware runs, the settings not yet mounted. -/
def state3 (l : List Setting) : State :=
  { stateUp chip0 (fun d => { d with boot := { d.boot with phase := 3, hbmUp := false, computeUp := false, stagingUp := false, m1 := [1] } }) with
    flash := { (stateFlash []).flash with settings := l } }
theorem wit_SettingsMount : fwUp (stateUp chip0 (fun d => { d with boot := { d.boot with phase := 3 } })) = true ∧
    settingVal { (stateFlash []).flash with settings := [⟨1, 0, 1, [1]⟩, ⟨2, 9, 1, [1, 0]⟩] } 0x42 ≠ [1] ∧
    ([⟨1, 0, 1, [1]⟩, ⟨2, 9, 1, [1, 0]⟩] : List Setting).map (fun r => r.key) = [1, 2] ∧ keyVer 1 = some 1 ∧ keyVer 2 = some 1 := by decide
theorem wit_SettingsMount_last : settingVal { (stateFlash []).flash with settings := [⟨0x42, 1, 1, [1]⟩] } 0x42 = [1] := by decide
theorem wit_StagingErase : 4 ≤ ({ bootReset with phase := 4 } : Boot).phase ∧ ({ bootReset with phase := 4 } : Boot).stagingUp = false := by decide
theorem wit_DstateReady : let s := stateUp chip0 id
    4 ≤ s.dev.boot.phase ∧ s.dev.boot.hbmUp = true ∧ s.dev.boot.computeUp = true ∧ s.dev.boot.stagingUp = true ∧ dstate s = 0 := by decide
theorem wit_HbmBringup : (∀ k : Fin 8, getF chip0 (.hmc k) 0x010 1 1 = 0) ∧ (∀ k < 8, rowsOf (stateFlash []).flash (0x10 + k) = []) ∧
    rowsOf { (stateFlash []).flash with settings := [⟨0x17, 1, 1, [5, 0, 0, 0]⟩] } 0x17 = [5] ∧
    tget (fun _ => 0) ({ fusesReset with spares := [(7 * 4096, 2)] } : Fuses).spares (7 * 4096 + 5 / 16384) = 2 := by decide
theorem wit_ComputeBringup : (stateUp chip0 id).dev.power.breach = false ∧ (stateUp chip0 id).dev.ring = [] ∧ ({ powerReset with breach := true } : Power).breach = true := by decide
theorem wit_ComputeBringup_again : let s := stateUp chip0 (fun d => { d with boot := { d.boot with computeUp := false, compReset := true, compNext := 1 } })
    fwUp s = true ∧ 4 ≤ s.dev.boot.phase ∧ s.dev.boot.computeUp = false ∧ s.dev.power.breach = false ∧ s.dev.boot.compNext ≠ 0 ∧
      (stateUp chip0 id).dev.boot.compNext = 0 := by decide
theorem wit_PllLock : BlockId.syl 7 ∈ pllBlocks (.stack 7) ∧ bState chip0 (.syl 7) = 0 ∧ bRun (setF chip0 (.syl 7) 0x000 0 0 1) (.syl 7) = true ∧
    bRun chip0 (.syl 7) = false ∧ pllPowered (modStack chip0 7 (fun x => { x with powered := true })) (.stack 7) = true ∧
    pllPowered chip0 (.stack 7) = false ∧ startHeld (modStack chip0 7 (fun x => { x with pll := true })) (.syl 7) = false := by decide
/-! ### Power and sleep -/

/-- The state with other power terms. -/
def statePower (f : Power → Power) : State := stateUp (chipJob chip0) (fun d => { d with power := f powerReset })
theorem wit_SpillwayTick : 0 < plSus (stateFlash []) ∧ 0 < plBurst (stateFlash []) ∧ (1750001 : Nat) > 1750000 ∧
    (statePower id).dev.power.past = [] ∧ (statePower id).dev.power.bursting = false ∧ (statePower id).dev.power.edc = false := by decide
theorem wit_FloorTick : 50000 < tget (fun _ => 0) (statePower (fun p => { p with high := [(3, 50001)] })).dev.power.high 3 ∧
    200000 ≤ tget (fun _ => 0) (statePower (fun p => { p with calm := [(3, 200000)] })).dev.power.calm 3 ∧
    0 < tget (fun _ => 0) { chip0 with floors := [(3, 7)] }.floors 3 ∧ 7 ≤ tget (fun _ => 0) { chip0 with floors := [(3, 7)] }.floors 3 := by
  decide
theorem wit_Sluice : (roomOf chip0 63).droop = false ∧ (roomOf (modRoom chip0 63 (fun m => { m with droop := true })) 63).droop = true := by decide
theorem wit_Sluice_bubbles : bubblesOf (max (statePower id).dev.power.bp (tget (fun _ => 0) (statePower id).dev.power.bt (63 / 16))) ≤ 56 := by
  decide +kernel
theorem wit_PL0_minutes : (58 : Nat) + 1 < 60 ∧ 60 ≤ (59 : Nat) + 1 ∧ natBit (getF chip0 (clsB (0 / 16)) 0x010 15 0) (0 % 16) = true ∧
    (coreOf chip0 0).paused = false ∧ roomClocked chip0 (0 / 16) = true ∧
    getF (setF chip0 (.cls 0) 0x028 6 4 0) (clsB 0) 0x028 6 4 = 0 ∧ getF chip0 (clsB 0) 0x028 6 4 ≠ 0 := by decide
theorem wit_PL0_sums : 288 ≤ (residOf { powerReset with resid := [(1023, 288 :: List.replicate 23 0)] } 1023).sum ∧
    (residOf { powerReset with resid := [(1023, 274 :: List.replicate 23 0)] } 1023).sum ≤ 274 ∧
    274 < (residOf { powerReset with resid := [(1023, 287 :: List.replicate 23 0)] } 1023).sum := by decide +kernel
theorem wit_Breach : (statePower id).dev.power.breach = false ∧ (115 ≤ 115) ∧ (4 ≤ (15 : Fin 128).val ∧ (15 : Fin 128).val ≤ 15) ∧
    ¬ ((16 : Fin 128).val = 1 ∨ (16 : Fin 128).val = 2 ∨ (4 ≤ (16 : Fin 128).val ∧ (16 : Fin 128).val ≤ 15) ∨ (0x40 ≤ (16 : Fin 128).val ∧ (16 : Fin 128).val ≤ 0x7F)) := by
  decide
theorem wit_BreachClear : let s := statePower (fun p => { p with breach := true, breachReset := true, sample := { sampleReset with cd := [94, 0, 0, 0] } })
    s.dev.power.breach = true ∧ s.dev.power.breachReset = true ∧
      ∀ x ∈ s.dev.power.sample.cd ++ s.dev.power.sample.io ++ s.dev.power.sample.base, x < 95 := by decide
theorem wit_BreachClear_hot : ¬ ∀ x ∈ [(95 : Int)], x < 95 := by decide

/-- Strand 0 of core 0 waits, with this sleep state and IPEND and IMASK. -/
def chipSleep (k : Nat) (pend : W64) : Chip := chipWith (setCreg (setCreg { strand0 with run := .waiting k } 28 pend) 29 pend)
theorem wit_CorePause : let c := chipSleep 1 0
    (∀ i : Fin 8, (strandOf c ⟨0, i⟩).run = .idle ∨ (strandOf c ⟨0, i⟩).run = .waiting 1) ∧ (strandOf c ⟨0, 0⟩).run = .waiting 1 ∧
      (∀ i : Fin 8, (strandOf c ⟨0, i⟩).flight = [] ∧ (strandOf c ⟨0, i⟩).parked = []) ∧ (coreOf c 0).fill = none ∧
      storesOut c 0 = 0 ∧ (strandOf (chipWith strand0) ⟨0, 0⟩).run ≠ .idle := by decide
theorem wit_CoreWake : let c := chipSleep 2 8
    (roomOf c 0).power = .run ∧ creg (strandOf c ⟨0, 0⟩) 28 &&& creg (strandOf c ⟨0, 0⟩) 29 ≠ 0 ∧
      (roomOf (modRoom c 0 (fun m => { m with power := .recess })) 0).power ≠ .run := by decide
theorem wit_RecessEntry : let c := modCore (chipSleep 2 0) 0 (fun k => { k with paused := true })
    (roomOf c 0).power = .run ∧ enabledCores c 0 ≠ [] ∧ (∀ n ∈ enabledCores c 0, (coreOf c n).paused = true) ∧
      (∀ i < 8, (strandOf c (strandId 0 i)).run = .waiting 2 ∨ (strandOf c (strandId 0 i)).run = .idle) ∧
      (dmaOf c 0).active = [] ∧ getF c (.cls 0) 0x020 31 31 ≠ 1 ∧ (∀ b ∈ (roomOf c 0).banks, ∀ e ∈ b.2.q, e.rq ≠ 16) ∧ (∀ x ∈ c.waiting, x.2.2.rq ≠ 16) ∧
      wakesRoom (8 : Fin 16).val = true ∧ wakesRoom (5 : Fin 16).val = false := by decide
theorem wit_RecessEntry_refused : (roomOf (chipDma ⟨[list1 false], [desc1 0 0], [], 0, 3⟩) 0).dma.active ≠ [] ∧
    getF (setF chip0 (.cls 0) 0x020 31 31 1) (.cls 0) 0x020 31 31 = 1 ∧
    (∃ b ∈ (roomOf (chipBank [rq 16 true] 16) 0).banks, ∃ e ∈ b.2.q, e.rq = 16) ∧
    (roomOf (modRoom chip0 0 (fun m => { m with power := .entering })) 0).power = .entering := by decide
theorem wit_PowerState : Current (stateCur 1 0x000B [0, 2 ^ 63] [] id) 0 1 0x000B ⟨1, 0x000B, [0, 2 ^ 63], []⟩ ∧
    argOf ⟨1, 0x000B, [0, 2 ^ 63], []⟩ 0 = 0 ∧ natBit (argOf ⟨1, 0x000B, [0, 2 ^ 63], []⟩ 1) (63 : Fin 64) = true := by decide
theorem wit_PowerState_idle : (roomOf chip0 63).asked = none ∧ enabledCores chip0 63 = [] ∧ (roomOf chip0 63).power = .run ∧
    bState chip0 (.cls 63) = 0 ∧ recessRefuser chip0 63 = none ∧ bState chip0 (.cls 0) ≠ 0 ∧ 0 ∈ enabledCores chip0 0 := by decide
theorem wit_PowerState_asks : allIdle (chipWith strand0) 0 = false ∧ (coreOf (chipWith strand0) 0).paused = false := by decide
theorem wit_PowerState_timeout : (roomOf (modRoom chip0 0 (fun m => { m with asked := some (2, 1) })) 0).asked = some (2, 1) ∧
    (stateCur 1 0x000B [2, 1] [] id).dev.power.refusals = [] := by decide
/-- The package with port 0 and stack 0 RUNNING on locked PLLs. -/
def chipLocked : Chip := modStack { chipJob chip0 with plls := [(8, true)] } 0 (fun x => { x with powered := true, pll := true })
theorem wit_DeviceSleep : (∀ b ∈ sleepBlocks, bState chipLocked b = 0 ∨
      (bState chipLocked b = 2 ∧ blockDry chipLocked b = true ∧ Stoppable chipLocked b)) ∧
    (stateHost 1 id []).dev.warden.long = none ∧ argOf ⟨1, 0x000B, [4], []⟩ 0 = 4 := by unfold Stoppable; decide +kernel
theorem wit_DeviceSleep_entry : sleepCmd (stateCur 1 0x000B [4] [] id) = some ⟨1, 0x000B, [4], []⟩ ∧
    (pigeonOf (stateCur 1 0x000B [4] [] id) 1).drop = false ∧ dstate (stateCur 1 0x000B [4] [] id) ≠ 6 ∧
    sleepCmd (stateHost 1 id []) = none := by decide
theorem wit_DeviceWake : dstate (stateHost 6 (fun w => { w with before := 1, rested := [63], restart := [.cls 0] }) []) = 6 ∧
    (4 ≤ (8 : Fin 16).val ∧ (8 : Fin 16).val ≤ 8) ∧ 8 < (9 : Fin 16).val := by decide

/-! ### The sideband -/

theorem wit_Sideband : fwUp (stateUp chip0 id) = true ∧ fwUp State.reset = false ∧
    (39, (getF chip0 (hmcB 7) 0x012 7 0 : Int)) ∈ (List.range 8).map (fun k => (32 + k, (getF chip0 (hmcB k) 0x012 7 0 : Int))) := by decide
theorem wit_Sideband_mode : sideReset.mode ≠ some BusMode.smbus ∧ ({ sideReset with mode := some .smbus } : Side).mode = some .smbus ∧
    powered State.reset = false ∧ onSideband (.entdaa 8) := ⟨by decide, rfl, by decide, trivial⟩
/-! ### Ill-formed commands -/

theorem test_wf_bitField : WellFormed (.bfx u0 1 2 1 63) = false ∧ WellFormed (.bfxs u0 1 2 33 31) = false ∧
    WellFormed (.bfi u0 1 2 63 1) = false ∧ WellFormed (.bfx u0 1 2 32 31) = true := by decide
theorem test_wf_loadBase : WellFormed (.ldw u0 4 4 (.postInc 1) false) = false ∧
    WellFormed (.ldq u0 4 4 (.preDec 4) false) = false ∧ WellFormed (.ldw u0 4 4 (.off 1) false) = true ∧
    WellFormed (.stw u0 4 4 (.postInc 1)) = true := by decide
theorem test_wf_branch : WellFormed (.bc u0 1 6 0) = false ∧ WellFormed (.loop u0 0 1) = false ∧
    WellFormed (.loopi u0 0 3) = false := by decide
theorem test_wf_controlRegister : WellFormed (.mfc u0 1 8) = false ∧ WellFormed (.mfc u0 1 31) = false ∧
    WellFormed (.mtc u0 1 30) = false ∧ WellFormed (.mtc u0 1 16) = false ∧ WellFormed (.mfc u0 1 16) = true := by decide
theorem test_wf_vectorControl : WellFormed (.vlset u0 1 2 3 false) = false ∧ WellFormed (.vlseti u0 1 3 true 8) = false ∧
    WellFormed (.vmtc u0 1 1) = false ∧ WellFormed (.vmtc u0 1 7) = false := by decide
theorem test_wf_mask : WellFormed (.vld u0 0 1 true false) = false ∧ WellFormed (.vadd u0 0 1 2 true) = false ∧
    WellFormed (.vmv u0 0 1 true) = false ∧ WellFormed (.vst u0 0 1 true) = true ∧ WellFormed (.vadd u0 0 1 2 false) = true := by
  decide
theorem test_wf_vectorMemory : WellFormed (.vldx u0 1 2 3 false 3 0 false) = false ∧ WellFormed (.vstx u0 1 2 3 false 3 0) = false ∧
    WellFormed (.vlseg u0 1 2 false 0 false) = false ∧ WellFormed (.vsseg u0 1 2 false 0) = false := by decide
theorem test_wf_conversion : WellFormed (.vcvtFp32Bf16 u0 1 2 false 6) = false ∧
    WellFormed (.vcvtFp32Q8 u0 1 2 3 false 7) = false := by decide
theorem test_wf_tile : WellFormed (.tmtc u0 1 0) = false ∧ WellFormed (.tmtc u0 1 5) = false ∧ WellFormed (.tmtc u0 1 7) = false ∧
    WellFormed (.taccRead u0 0 0 0 7 0 0) = false ∧ WellFormed (.taccRead u0 0 0 0 0 6 0) = false := by decide
theorem test_wf_memory : WellFormed (.bankAccess 0 0 [(1, .single), (1, .uncorrectable)]) = false ∧
    WellFormed (.hbmRequest 0 0 0 true 0 [0]) = false ∧ WellFormed (.hbmRequest 0 0 0 false 0 [0]) = false := by decide

/-- A school frame of numbers that fit. -/
def frame0 : Frame := ⟨List.replicate 16 0, 1, 0, 0, 1, false, true, 1, 0, 0, 0, 0, 0, 0, 0, 0, []⟩
theorem test_wf_frame : WellFormed (.done 0 frame0) = true ∧ WellFormed (.done 0 { frame0 with ver := 16 }) = false ∧
    WellFormed (.nak 0 { frame0 with src := 1024 }) = false ∧ WellFormed (.ready 0 { frame0 with dst := 1024 }) = false ∧
    WellFormed (.ring 0 { frame0 with period := 4096 }) = false ∧ WellFormed (.halt 0 { frame0 with wid := 2 ^ 32 }) = false ∧
    WellFormed (.data 0 { frame0 with frame := 2 ^ 32 } 0) = false ∧
    WellFormed (.agree 0 { frame0 with op := 65536 }) = false ∧ WellFormed (.probe 0 { frame0 with aux := 2 ^ 32 }) = false := by decide
theorem test_wf_frameIcv : WellFormed (.done 0 { frame0 with icv := [] }) = false := by decide
theorem test_wf_sideband : WellFormed (.pldmUnsupported 0 2) = false ∧ WellFormed (.pldmUnsupported 2 0x51) = false ∧
    WellFormed (.pldmUnsupported 0 1) = true ∧ WellFormed (.pldmUnsupported 1 2) = true := by decide
theorem test_wf_framePayload : WellFormed (.probe 0 { frame0 with payload := List.replicate 4097 0 }) = false := by decide +kernel
theorem test_wf_sample : WellFormed (.spillwayTick ⟨0, 0, 0, 0, 0, 0, 0, [], [0, 0], List.replicate 8 0⟩) = false ∧
    WellFormed (.spillwayTick ⟨0, 0, 0, 0, 0, 0, 0, [0, 0, 0, 0], [], List.replicate 8 0⟩) = false ∧
    WellFormed (.spillwayTick ⟨0, 0, 0, 0, 0, 0, 0, [0, 0, 0, 0], [0, 0], []⟩) = false := by decide

/-! ### Words of the encodings -/

/-- The worked example of spec/04: STQ g5, [g31 - 4], pre-decrement. -/
theorem test_word_stq : insnWord (.stq u0 5 31 (.preDec 4)) = 0x68BF8004 := by decide
/-- One word of each format of R110: ADD g3, g1, g2; FMA f1, f2, f3, f4; ADDI g1, g2, -1; LDW g1, [g2 + g3 x 8];
BFX g1, g2, pos 4, len 8; MTC LCOUNT, g1; BC g1, condition 1, -2; CALL g2, 4; LOOP and LOOPI with N = 2. -/
theorem test_word_scalar : insnWord (.add u0 3 1 2) = 0b00001000011000010001000000000000#32 ∧
    insnWord (.fma u0 1 2 3 4) = 0b10100100001000100001100100000000#32 ∧
    insnWord (.addi u0 1 2 0xFFFF) = 0b00001100001000101111111111111111#32 ∧
    insnWord (.ldw u0 1 2 (.indexed 3 3) false) = 0b01000000001000101100011110000000#32 ∧
    insnWord (.bfx u0 1 2 4 7) = 0b00110000001000100001000001110000#32 := by decide
theorem test_word_control : insnWord (.mtc u0 1 5) = 0b10010100001000101000000000000001#32 ∧
    insnWord (.bc u0 1 1 0x3FFFE) = 0b10000000001001111111111111111110#32 ∧
    insnWord (.call u0 2 4) = 0b10001000010000000000000000000100#32 ∧
    insnWord (.loop u0 2 3) = 0b10010000000000000000100001100000#32 ∧
    insnWord (.loopi u0 2 3) = 0b10010010000000000000100000000011#32 := by decide
/-- One word of each format of R184: VLSETI g1, SEW 32, 8; VMTC vc3, g1; VLDX v2, [g4 + v8 x 2] of 32-bit indices;
VADD v1, v2, v3 under the mask; VFMA v5, v6, v4, v5. -/
theorem test_word_vector : insnWord (.vlseti u0 1 1 false 8) = 0b11000000001000000101000000001000#32 ∧
    insnWord (.vmtc u0 1 3) = 0b11000100001011000000000000000001#32 ∧
    insnWord (.vldx u0 2 4 8 false 1 1 false) = 0b11001000010001000100000001010100#32 ∧
    insnWord (.vadd u0 1 2 3 true) = 0b11001100001000100001110000000000#32 ∧
    insnWord (.vfma u0 5 6 4 5 false) = 0b11011000101001100010000101000000#32 := by decide
/-- The tile formats of R218: TMFC g1, tc2; TST t3, g4, g5; TWLD.T MA1, g4, g5; TMAC MA1.s2, t3, b = 4, SWAP, SR;
TACC.ZERO MA0.s1, g6, g7; TACC.SPILL MA1.s1, g6, Z. -/
theorem test_word_tile : insnWord (.tmfc u0 1 2) = 0b11100000001010000000000000000001#32 ∧
    insnWord (.tst u0 3 4 5) = 0b11100101100100001010000000000010#32 ∧
    insnWord (.twldT u0 1 4 5) = 0b11101011001000010100000000000000#32 ∧
    insnWord (.tmac u0 2 1 3 4 true true) = 0b11101100010101110011000000000000#32 ∧
    insnWord (.taccZero u0 1 0 6 7) = 0b11110000001000110001110000000000#32 ∧
    insnWord (.taccSpill u0 1 1 6 true) = 0b11110000001100110100000000000010#32 := by decide
/-! ### Worked examples of the spec -/

/-- spec/00: core 597. -/
theorem test_core597 : coreRoom 597 = 37 ∧ corePos 597 = 5 := by decide
/-- spec/02: 0x3F80_0C00 into BF16 under SR. -/
theorem test_srRounding : (fenc fmtBF16 5 0xF500 (fdec fmtFP32 0x3F800C00)).1 = 0x3F81 ∧
    (fenc fmtBF16 5 0x1234 (fdec fmtFP32 0x3F800C00)).1 = 0x3F80 := by decide
/-- A block that begins with these FP32 values and goes on with zeros. -/
def fpBlock (l : List Nat) : List (FV × Nat) := (l ++ List.replicate (32 - l.length) 0).map (fun x => (fdec fmtFP32 x, 0))
/-- spec/02: 0.75, -3.2, 10.0, 0.001 into Q8. -/
theorem test_q8Block : let r := qblock .q8 0 (fpBlock [0x3F400000, 0xC04CCCCD, 0x41200000, 0x3A83126F])
    r.1 = 0x7C ∧ r.2.1.take 5 = [0x38, 0xDA, 0x74, 0, 0] ∧ r.2.2 = fNX + fUF := by decide +kernel
/-- spec/02: 31.5 and 0.3 into Q8: the exponent is incremented. -/
theorem test_q8BlockIncrement : let r := qblock .q8 0 (fpBlock [0x41FC0000, 0x3E99999A])
    r.1 = 0x7E ∧ r.2.1.take 3 = [0x70, 0x0A, 0] ∧ r.2.2 = fNX := by decide +kernel
/-- spec/05: the table of VSMULR. -/
theorem test_vsmulr : (List.range 4).map (fun f => (fixRound (-49152) 15 f).1) = [0xFFFF, 0xFFFE, 0xFFFE, 0xFFFF] ∧
    (List.range 4).map (fun f => (fixRound 49152 15 f).1) = [2, 2, 1, 1] ∧
    (List.range 4).map (fun f => fixRound (2 ^ 30) 15 f) = List.replicate 4 (32767, fSAT) := by decide
/-- spec/03: swapping the bytes of every word. -/
theorem test_bperm : (intOp (.bperm u0 3 1 2)).map (fun o => o.val (fun r => if r = 1 then 0x1122334455667788 else 0x67452301)) = some 0x2211443366558877 := by decide
/-- spec/04: the double-fault area of strand 597.3. -/
theorem test_dfArea : dfArea ⟨597, 3⟩ = 0x0100097FAB00 := by decide
/-- spec/06: the two block sums of element (0, 0), and its conversion to BF16. -/
theorem test_tileElement :
    let row0 := [0x38, 0xDA, 0x74].map (qdec .q8 124)
    let col0 := [0x10, 0x18, 0x9C].map (fun x => (qdec .q8 120 x, false))
    let a := addBlock 0 0 0 (blockSum false row0 col0)
    let b := addBlock 0 0 a.1 (blockSum false [qdec .q8 127 0x40] [(qdec .q8 125 0x30, false)])
    a = (0xBE2D0000, 0) ∧ b = (0x40FA9800, 0) ∧ fenc fmtBF16 0 0 (fdec fmtFP32 b.1) = (0x40FB, fNX) := by decide +kernel
/-- spec/07: 2^24, 1, 1, -2^24 in sequence and as a tree. -/
theorem test_reductionOrders :
    (fplus (fplus (fplus 0x4B800000 0x3F800000).1 0x3F800000).1 0xCB800000).1 = 0 ∧
    (fplus (fplus 0x4B800000 0x3F800000).1 (fplus 0x3F800000 0xCB800000).1).1 = 0x3F800000 := by decide +kernel
/-- spec/07: the chunk of block 13, and the index of element (3, 5). -/
theorem test_chunkAndElement :
    let sl : Slot := { slotReset 0 0 with j0 := 6, cblk := 4, ebase := 0x100000, estride := 0x400, tensor := 0x412, amode := 2 }
    chunkOf sl 13 = 9 ∧ chunkKey sl 13 = 9 ∧ outIndex sl 3 5 = 0x100C05 ∧
      outIndex sl 3 5 + sl.tensor * 2 ^ 40 = 0x0004120000100C05 := by decide
/-- spec/08: the descriptor of the copy from HBM. -/
theorem test_descriptor :
    let d := wordsNat [0x0400, 0x0020, 0x0008, 0x5600, 0x1234, 0x0000, 0x0000, 0x0941, 0x0100, 0x0060, 0, 4, 0x0400, 0, 0x0060, 0]
    dCheck 0x010009402000 d false = none ∧ dField d 10 10 = 1 ∧ dField d 95 48 = 0x12345600 ∧ dField d 143 96 = 0x010009410000 := by
  decide +kernel
/-- spec/09: word 0x0023_4567_89A0 lies in HS4, bank 18,823, row 6,699. -/
theorem test_hbmAddress : stackAt 0x0023456789A0 = 4 ∧ deviceBank 0x0023456789A0 = 18823 ∧
    lineRow (0x0023456789A0 % 2 ^ 35 / 32) = 6699 := by decide
/-- spec/10: the clip factor of the two norms 25 and 144 under PMP_CLIP 6.5. -/
theorem test_clipFactor : sumSquares fmtFP32 [0x40400000, 0x40800000] = (0x41C80000, 0) ∧
    ((clipFactor 0x40D00000 (fplus 0x41C80000 0x43100000).1).run 0).1 = 0x3F000000 := by decide +kernel
/-- spec/10: curve 5 at steps 2, 10 and 20; with restarts at step 30. -/
def curve5 : Curve := ⟨true, false, 1, 0x3E800000, 0, 0, 0x3F800000, 0, 4, 16, 0⟩
theorem test_curve5 : [2, 10, 20].map (fun s => ((rateOf curve5 s).run 0).1) = [0x3E000000, 0x3E200000, 0] := by decide +kernel
theorem test_curve5_restart :
    ((rateOf { curve5 with warmEach := true, gamma := 0x3F000000, period := 20 } 30).run 0).1 = 0x3DA00000 := by decide +kernel
/-- spec/10: rule 1 on the element with g = 4.0, w = 1.0, m = 2.0; its M in BF16; its Q8 block. -/
def group12 : PDesc :=
  ⟨true, false, false, false, false, false, 0, 5, 64, 0, 1, 0x3F000000, 0x3D800000, 0x3F000000, 0, 0, 0, 0, 0, false⟩
theorem test_rule1 :
    let y := ((ruleElem group12 ⟨0x3DA00000, 0x3F000000, 0, 0, 0, 0, fp1⟩ ⟨[], [], 0, [], []⟩ 0 0x3F800000 0x40000000 0 0x40800000).run 0).1
    y.w = 0x3F42C000 ∧ fenc fmtBF16 0 0 (fdec fmtFP32 y.m) = (0x4044, 0) ∧
      (let q := qblock .q8 0 (fpBlock [y.w]); q.1 = 120 ∧ q.2.1.head? = some 0x78 ∧ q.2.2 = fNX) := by decide +kernel
/-- spec/15: a row record of VER 1 becomes one of VER 2. -/
theorem test_rowRecord : convert 0x24 1 (natBytes 0x1A2B3C0D 4) = natBytes 0x0261DA2B 4 := by decide +kernel

/-! The register example of spec/01, on the classroom of core 597. -/

/-- CL37 RUNNING with the core at position 9 fused off. -/
def chip37 : Chip :=
  setState (setF (setF (setF chipReset (.cls 37) 0x010 15 0 0xFDFF) (.cls 37) 0x010 31 16 0xFDFF) (.cls 37) 0x012 15 0 0xFDFF) (.cls 37) 2
theorem test_discardedWrite : let c := regWrite chip37 (.cls 37) 0x010 0xFDDFFDFF
    regRead c (.cls 37) 0x010 = 0xFDFFFDFF ∧ regRead c (.cls 37) 0x002 = 0x12 ∧ regRead c (.cls 37) 0x004 = 0x01000410 := by decide +kernel
theorem test_failedStart :
    let c := modRoom (setState chip37 (.cls 37) 0) 37 (fun m => { m with pll := true })
    let c := regWrite c (.cls 37) 0x010 0xFDDFFFDF
    let c := agreementCheck (.cls 37) (setRun1 (.cls 37) true c)
    regRead c (.cls 37) 0x002 = 0x20 ∧ regRead c (.cls 37) 0x006 = 0x04000480 := by decide +kernel

/-! The exception example of spec/04, on strand 597.3. -/

/-- Strand 597.3 at pupil, about to push g5 below its stack limit. -/
def u597 : StrandId := ⟨597, 3⟩
def strand597 : Strand :=
  let st := setCreg (setCreg (setCreg (setCreg (strandReset 3) 16 0) 17 0x010009400000) 18 0x010009408000) 1 0x010009402000
  { st with g := [(31, 0x010009402000)], pc := 0x010009400A40, run := .active }
/-- CL37 RUNNING, with the cause entry of 0x0B and the teacher's stack entry in its memory. -/
def chip597 : Chip :=
  let c := setF (setState chipReset (.cls 37) 2) (.cls 37) 0x010 15 0 0xFFFF
  let c := wrWords c false 0x010009400000 [0x8000, 0x0940, 0x0100, 0x6000, 0x0940, 0x0100, 0x0200, 0x8000]
  let c := wrWords c false 0x01000940003C [0x9000, 0x0800, 0x0940, 0x0100]
  setStrand c u597 strand597
/-- The instruction faults, the reads of the two table entries are served, and the entry completes (R94). -/
def after597 : State :=
  [Instr.stq u597 5 31 (.preDec 4), .bankAccess 37 0 [], .bankAccess 37 1 [], .exceptionEntry u597 0].foldl (fun s i =>
    match exec i s with
    | .next t => t
    | _ => s) (stateOf chip597)
theorem test_stackFault : let st := strandOf after597.chip u597
    (greg st 31, creg st 30, creg st 18, creg st 1, creg st 16, creg st 0) =
      (0x010009407FA0, 0x010009407FA0, 0x010009407DA0, 0x010009407DA0, 1, 0) ∧ st.pc = 0x010009400800 := by decide +kernel
theorem test_stackFaultFrame : (rdWords after597.chip false 0x010009407FA0 13).map (fun x => x.1.toNat) =
    [0x0B00, 0, 0x8004, 0x68BF, 0x0A40, 0x0940, 0x0100, 0, 0, 0, 0x1FFC, 0x0940, 0x0100] := by decide +kernel
/-- The same fault with XSPT left at 0: the double-fault area, from a strand that holds nothing else. -/
theorem test_doubleFault :
    let c := doubleFault chip597 u597 ⟨0x0B, 0, 0x010009401FFC⟩ 0x03 none 0x68BF8004 []
    (rdWords c false 0x0100097FABA0 3).map (fun x => x.1.toNat) = [0xFE00, 0x0B03, 0x8004] ∧
      (rdWords c false 0x0100097FABAA 3).map (fun x => x.1.toNat) = [0x1FFC, 0x0940, 0x0100] ∧
      greg (strandOf c u597) 31 = 0x0100097FABA0 ∧ creg (strandOf c u597) 1 = 0x0100097FAB00 ∧
      inDf (strandOf c u597) = true := by decide +kernel

/-! AES-256: the example of FIPS 197, appendix C.3 (R347, R522). -/

theorem test_aes256 : aesEnc (List.range 32) [0x00, 0x11, 0x22, 0x33, 0x44, 0x55, 0x66, 0x77, 0x88, 0x99, 0xAA, 0xBB, 0xCC, 0xDD, 0xEE, 0xFF] =
    [0x8E, 0xA2, 0xB7, 0xCA, 0x51, 0x67, 0x45, 0xBF, 0xEA, 0xFC, 0x49, 0x90, 0x4B, 0x49, 0x60, 0x89] := by decide +kernel

/-- IEEE 1619: the first block of its vector for two keys of 32 bytes, data unit 255 and the bytes 0, 1, 2 and so on. -/
theorem test_xts :
    let key1 := [0x27, 0x18, 0x28, 0x18, 0x28, 0x45, 0x90, 0x45, 0x23, 0x53, 0x60, 0x28, 0x74, 0x71, 0x35, 0x26,
      0x62, 0x49, 0x77, 0x57, 0x24, 0x70, 0x93, 0x69, 0x99, 0x59, 0x57, 0x49, 0x66, 0x96, 0x76, 0x27]
    let key2 := [0x31, 0x41, 0x59, 0x26, 0x53, 0x58, 0x97, 0x93, 0x23, 0x84, 0x62, 0x64, 0x33, 0x83, 0x27, 0x95,
      0x02, 0x88, 0x41, 0x97, 0x16, 0x93, 0x99, 0x37, 0x51, 0x05, 0x82, 0x09, 0x74, 0x94, 0x45, 0x92]
    natBytesLE (xtsEnc (bytesNatLE (key1 ++ key2)) 0xFF (bytesNatLE (List.range 64))) 16 =
      [0x1C, 0x3B, 0x3A, 0x10, 0x2F, 0x77, 0x03, 0x86, 0xE4, 0x83, 0x6C, 0x99, 0xE3, 0x70, 0xCF, 0x9B] := by decide +kernel
/-- SP 800-38D: test case 14 of the GCM validation, whose key, IV and plaintext are zero. -/
theorem test_gcm : gcmSeal (List.replicate 32 0) (List.replicate 12 0) [] (List.replicate 16 0) =
    (ofNats [0xCE, 0xA7, 0x40, 0x3D, 0x4D, 0x60, 0x6B, 0x6E, 0x07, 0x4E, 0xC5, 0xD3, 0xBA, 0xF3, 0x9D, 0x18],
     ofNats [0xD0, 0xD1, 0xC8, 0xA7, 0x99, 0x99, 0x6B, 0xF0, 0x26, 0x5B, 0x98, 0xB5, 0xD4, 0x8A, 0xB9, 0x19]) := by decide +kernel
/-- FIPS 202: SHAKE256 of the empty message. The frame check sequence of the digits 1 to 9. -/
theorem test_shake256 : shake256 [] 8 = ofNats [0x46, 0xB9, 0xDD, 0x2B, 0x0B, 0xA8, 0x8D, 0x13] := by decide +kernel
theorem test_frameCheck : frameCheck (ascii "123456789" |> toNats) = [0x26, 0x39, 0xF4, 0xCB] := by decide +kernel

/-! The identity page and the pins before start-up (R488, R585). -/

theorem test_identityPage : identityReg 0 0x000 State.reset = 0x30000 ∧ identityReg 1 0x004 State.reset = 0x200 ∧
    identityReg 0 0x008 State.reset = 0 ∧ modulePg State.reset = false ∧ thermN State.reset = true := by decide
end Sys2Proof.Tests
end

section
/-! PROOFS. The states of a block (spec/01 R43 to R48, R53, R57): what a level of RUN, a check at the end of STARTING and
a drain at the end of STOPPING do, and the frames of the operations they share with the rest of the package. -/

open Sys2Proof Sys2Proof.Machine
namespace Sys2Proof.Machine

/-! ### RUN and the levels it sets (R43, R47) -/

theorem fieldsAt_run (k : BKind) : fieldsAt k 0 = [⟨0x000, 0, 0, .rw, 0⟩] := by cases k <;> rfl

theorem regKey_run (c : Chip) (b : BlockId) : regKey c b 0 = 0 := by cases b <;> rfl

theorem natBits_runValue (v : Bool) : natBits ((if v then 1 else 0 : W32)).toNat 0 0 = if v then 1 else 0 := by
  cases v <;> rfl

/-- A write of RUN sets the bit, and the block follows its level. -/
theorem setRun1_eq (b : BlockId) (v : Bool) (c : Chip) :
    setRun1 b v c = settle b (setF c b 0x000 0 0 (if v then 1 else 0)) := by
  have hw : regWrite c b 0 (if v then 1 else 0) = setF c b 0x000 0 0 (if v then 1 else 0) := by
    simp only [regWrite, discarded, fieldsAt_run, regKey_run, List.foldl_cons, List.foldl_nil, fieldWrite, natBits_runValue,
      List.filter_cons, List.filter_nil]
    split <;> simp_all
  simp only [setRun1, busWrite, hw]
  rfl

@[simp] theorem bRun_setRun (c : Chip) (b : BlockId) (v : Bool) : bRun (setF c b 0x000 0 0 (if v then 1 else 0)) b = v := by
  cases v <;> simp [bRun, getF_setF_self]

theorem bRun_setF_ne (c : Chip) {b d : BlockId} {n : Nat} (hi lo v : Nat) (h : d ≠ b ∨ 0 ≠ n) :
    bRun (setF c b n hi lo v) d = bRun c d := by
  rw [bRun, getF_setF_ne _ _ _ _ _ _ h, bRun]

theorem bState_setF_ne (c : Chip) {b d : BlockId} {n : Nat} (hi lo v : Nat) (h : d ≠ b ∨ 2 ≠ n) :
    bState (setF c b n hi lo v) d = bState c d := getF_setF_ne _ _ _ _ _ _ h

@[simp] theorem bRun_setState (c : Chip) (b d : BlockId) (v : Nat) : bRun (setState c b v) d = bRun c d :=
  bRun_setF_ne c _ _ _ (.inr (by decide))

@[simp] theorem hasClock_setF (c : Chip) (b d : BlockId) (n hi lo v : Nat) :
    hasClock (setF c b n hi lo v) d = hasClock c d := by cases d <;> rfl

@[simp] theorem startHeld_setF (c : Chip) (b d : BlockId) (n hi lo v : Nat) :
    startHeld (setF c b n hi lo v) d = startHeld c d := by cases d <;> rfl

theorem settle_starts {b : BlockId} {c : Chip} (hs : bState c b = 0) (hr : bRun c b = true) (hh : startHeld c b = false) :
    settle b c = setState c b 1 := by simp [settle, hs, hr, hh]

theorem settle_stops {b : BlockId} {c : Chip} (hs : bState c b = 2) (hr : bRun c b = false) (hk : hasClock c b = true) :
    settle b c = { setState c b 3 with stopAt := tput (fun _ => 0) c.stopAt (blockKey b) c.nowUs } := by
  simp [settle, hs, hr, hk]

theorem settle_stays {b : BlockId} {c : Chip} (h0 : bState c b = 0 → bRun c b = true → startHeld c b = true)
    (h2 : bState c b = 2 → bRun c b = false → hasClock c b = false) : settle b c = c := by
  unfold settle
  split
  · next h => simp [h0 h.1 h.2.1] at h
  · split
    · next h => simp [h2 h.1 h.2.1] at h
    · rfl

/-- `settle` leaves the level of RUN alone. -/
@[simp] theorem bRun_settle (c : Chip) (b d : BlockId) : bRun (settle b c) d = bRun c d := by
  unfold settle
  split
  · simp
  · split
    · exact bRun_setState c b d 3
    · rfl

theorem bState_stopping (c : Chip) (b : BlockId) (t : Table Nat) : bState { setState c b 3 with stopAt := t } b = 3 :=
  bState_setState_self c b 3

/-- Where a level of RUN takes a block. -/
theorem bState_settle (c : Chip) (b : BlockId) : bState (settle b c) b =
    if bState c b = 0 ∧ bRun c b = true ∧ startHeld c b = false then 1
    else if bState c b = 2 ∧ bRun c b = false ∧ hasClock c b = true then 3 else bState c b := by
  unfold settle
  split
  · simp
  · split
    · exact bState_stopping c b _
    · rfl

/-- A write of RUN leaves RUN at the level written, and takes the block where that level does. -/
theorem bState_setRun1 (c : Chip) (b : BlockId) (v : Bool) : bState (setRun1 b v c) b =
    if bState c b = 0 ∧ v = true ∧ startHeld c b = false then 1
    else if bState c b = 2 ∧ v = false ∧ hasClock c b = true then 3 else bState c b := by
  rw [setRun1_eq, bState_settle, bState_setF_ne _ _ _ _ (.inr (by decide)), bRun_setRun, startHeld_setF, hasClock_setF]

@[simp] theorem bRun_setRun1 (c : Chip) (b : BlockId) (v : Bool) : bRun (setRun1 b v c) b = v := by
  rw [setRun1_eq, bRun_settle, bRun_setRun]

/-! ### Checks at the end of STARTING (R46, R47) -/

/-- With no block waiting for another, nothing starts late. -/
theorem startLate_nil {s : State} (h : s.dev.warden.lateStart = []) : startLate s = s := by
  obtain ⟨pending, flash, fuses, chip, dev⟩ := s
  obtain ⟨boot, warden, _⟩ := dev
  obtain ⟨_⟩ := warden
  simp only at h
  subst h
  rfl

/-- The checks leave the chip alone, but that a Syllabus shows a failing curve. -/
theorem disagreement_none {c : Chip} {b : BlockId} (h : (disagreement c b).1 = none) : (disagreement c b).2 = c := by
  cases b <;> try rfl
  next k =>
    simp only [disagreement] at h ⊢
    split at h <;> simp_all

theorem agreementCheck_passes {c : Chip} {b : BlockId} (hs : bState c b = 1) (hk : hasClock c b = true)
    (h : (disagreement c b).1 = none) : agreementCheck b c = settle b (setState c b 2) := by
  simp [agreementCheck, hs, hk, h]

theorem agreementCheck_fails {c : Chip} {b : BlockId} {fa fb : Nat} (hs : bState c b = 1) (hk : hasClock c b = true)
    (h : (disagreement c b).1 = some (fa, fb)) : agreementCheck b c =
      setRaw (setF (setF (setState (disagreement c b).2 b 0) b 0x000 0 0 0) b 0x002 5 5 1) b 0x006
        (BitVec.ofNat 32 (fa * 2 ^ 16 + fb)) := by
  simp [agreementCheck, hs, hk, h]

theorem agreementCheck_waits {c : Chip} {b : BlockId} (h : bState c b ≠ 1 ∨ hasClock c b = false) :
    agreementCheck b c = c := by simp only [agreementCheck, if_pos h]


theorem getF_setRaw_ne (c : Chip) {b d : BlockId} {n m : Nat} (v : W32) (hi lo : Nat) (h : d ≠ b ∨ m ≠ n) :
    getF (setRaw c b n v) d m hi lo = getF c d m hi lo := by rw [getF, rawReg_setRaw_ne _ _ h, getF]

/-- What a failed check leaves in the block's own registers (R47). -/
theorem agreementCheck_fails_regs {c : Chip} {b : BlockId} {fa fb : Nat} (hs : bState c b = 1) (hk : hasClock c b = true)
    (h : (disagreement c b).1 = some (fa, fb)) :
    bState (agreementCheck b c) b = 0 ∧ bRun (agreementCheck b c) b = false ∧ getF (agreementCheck b c) b 0x002 5 5 = 1 ∧
      rawReg (agreementCheck b c) b 0x006 = BitVec.ofNat 32 (fa * 2 ^ 16 + fb) := by
  rw [agreementCheck_fails hs hk h]
  have hne : b ≠ b ∨ (2 : Nat) ≠ 6 := .inr (by decide)
  refine ⟨?_, ?_, ?_, rawReg_setRaw_self _ _ _ _⟩
  · rw [bState, getF_setRaw_ne _ _ _ _ hne, getF_setF_field _ _ _ _ _ _ _ _ (by decide) (by decide) (by decide)]
    exact (bState_setF_ne _ _ _ _ (.inr (by decide))).trans (bState_setState_self _ _ 0)
  · rw [bRun, getF_setRaw_ne _ _ _ _ (.inr (by decide)), getF_setF_ne _ _ _ _ _ _ (.inr (by decide)),
      getF_setF_self _ _ _ _ _ _ (by decide) (by decide)]
    rfl
  · rw [getF_setRaw_ne _ _ _ _ hne, getF_setF_self _ _ _ _ _ _ (by decide) (by decide)]; rfl

theorem exec_agreementCheck {s : State} (h : s.dev.warden.lateStart = []) (b : BlockId) :
    exec (.agreementCheck b) s = .next (s.withChip (agreementCheck b s.chip)) := by
  have hl : (modChip (agreementCheck b) s).dev.warden.lateStart = [] := h
  simp only [exec, execAgreementCheck, onMod, startLate_nil hl]
  rfl

/-! ### Draining (R48, R309, R392) -/

/-- What a write of memory leaves alone: every register but the count of a classroom's speculative lines (R314), the
stacks, the strands, the power and the engine of every classroom, and what else is no part of memory. -/
structure WritesMemory (c d : Chip) : Prop where
  regs : ∀ b n, n ≠ 0x020 → rawReg d b n = rawReg c b n
  stk : d.stk = c.stk
  strands : ∀ n, (coreOf d n).strands = (coreOf c n).strands
  room : ∀ r, (roomOf d r).power = (roomOf c r).power ∧ (roomOf d r).pll = (roomOf c r).pll ∧ (roomOf d r).dma = (roomOf c r).dma
  waiting : d.waiting = c.waiting
  plls : d.plls = c.plls
  hung : d.hung = c.hung
  clock : d.nowUs = c.nowUs ∧ d.stopAt = c.stopAt
  reports : d.reports = c.reports
  paused : ∀ n, (coreOf d n).paused = (coreOf c n).paused
  asked : ∀ r, (roomOf d r).asked = (roomOf c r).asked

namespace WritesMemory

theorem refl (c : Chip) : WritesMemory c c := ⟨fun _ _ _ => rfl, rfl, fun _ => rfl, fun _ => ⟨rfl, rfl, rfl⟩, rfl, rfl, rfl, ⟨rfl, rfl⟩, rfl, fun _ => rfl, fun _ => rfl⟩

theorem trans {c d e : Chip} (h : WritesMemory c d) (k : WritesMemory d e) : WritesMemory c e where
  regs b n hn := (k.regs b n hn).trans (h.regs b n hn)
  stk := k.stk.trans h.stk
  strands n := (k.strands n).trans (h.strands n)
  room r := ⟨(k.room r).1.trans (h.room r).1, (k.room r).2.1.trans (h.room r).2.1, (k.room r).2.2.trans (h.room r).2.2⟩
  waiting := k.waiting.trans h.waiting
  plls := k.plls.trans h.plls
  hung := k.hung.trans h.hung
  clock := ⟨k.clock.1.trans h.clock.1, k.clock.2.trans h.clock.2⟩
  reports := k.reports.trans h.reports
  paused n := (k.paused n).trans (h.paused n)
  asked r := (k.asked r).trans (h.asked r)

/-- The later write first, as the model's terms show them. -/
theorem after {c d e : Chip} (k : WritesMemory d e) (h : WritesMemory c d) : WritesMemory c e := h.trans k

theorem setPhys (c : Chip) (a : Nat) (w : Word) : WritesMemory c (setPhys c a w) :=
  ⟨fun _ _ _ => rfl, rfl, fun _ => rfl, fun _ => ⟨rfl, rfl, rfl⟩, rfl, rfl, rfl, ⟨rfl, rfl⟩, rfl, fun _ => rfl, fun _ => rfl⟩

theorem setPois (c : Chip) (b : Nat) (p : Bool) : WritesMemory c (setPois c b p) :=
  ⟨fun _ _ _ => rfl, rfl, fun _ => rfl, fun _ => ⟨rfl, rfl, rfl⟩, rfl, rfl, rfl, ⟨rfl, rfl⟩, rfl, fun _ => rfl, fun _ => rfl⟩

theorem copyWords (n : Nat) : ∀ (c : Chip) (s d : Nat), WritesMemory c (copyWords c s d n) := by
  induction n with
  | zero => exact fun c _ _ => refl c
  | succ n ih => exact fun c s d => (setPhys c d _).trans (ih _ _ _)

theorem recrypt (c : Chip) (a : Nat) : WritesMemory c (recrypt c a) := by
  unfold Machine.recrypt
  split
  · exact ⟨fun _ _ _ => rfl, rfl, fun _ => rfl, fun _ => ⟨rfl, rfl, rfl⟩, rfl, rfl, rfl, ⟨rfl, rfl⟩, rfl, fun _ => rfl, fun _ => rfl⟩
  · exact refl c

/-- A change of a classroom that leaves its power, its PLL, its DMA engine and what it is asked for alone. -/
theorem modRoom (c : Chip) (r : Nat) (f : Room → Room)
    (hf : ∀ m, (f m).power = m.power ∧ (f m).pll = m.pll ∧ (f m).dma = m.dma ∧ (f m).asked = m.asked) : WritesMemory c (modRoom c r f) where
  regs _ _ _ := rfl
  stk := rfl
  strands _ := rfl
  room n := by
    rw [roomOf_modRoom]
    split
    · next h => rw [h]; exact ⟨(hf _).1, (hf _).2.1, (hf _).2.2.1⟩
    · exact ⟨rfl, rfl, rfl⟩
  waiting := rfl
  plls := rfl
  hung := rfl
  clock := ⟨rfl, rfl⟩
  reports := rfl
  paused _ := rfl
  asked n := by
    rw [roomOf_modRoom]
    split
    · next h => rw [h]; exact (hf _).2.2.2
    · rfl

theorem bumpSpecLines (c : Chip) (b : BlockId) (hi lo d : Nat) : WritesMemory c (bumpF c b 0x020 hi lo d) where
  regs _ _ hn := rawReg_setF_ne _ _ _ _ (.inr hn)
  stk := rfl
  strands _ := rfl
  room _ := ⟨rfl, rfl, rfl⟩
  waiting := rfl
  plls := rfl
  hung := rfl
  clock := ⟨rfl, rfl⟩
  reports := rfl
  paused _ := rfl
  asked _ := rfl

theorem specTouch (c : Chip) (a : Nat) : WritesMemory c (specTouch c a) := by
  unfold Machine.specTouch
  split
  · exact refl c
  · have hp (p : Table Bool) : WritesMemory c { c with pois := p } :=
      ⟨fun _ _ _ => rfl, rfl, fun _ => rfl, fun _ => ⟨rfl, rfl, rfl⟩, rfl, rfl, rfl, ⟨rfl, rfl⟩, rfl, fun _ => rfl, fun _ => rfl⟩
    dsimp only
    exact .after (bumpSpecLines _ _ _ _ _) (.after (modRoom _ _ _ fun _ => ⟨rfl, rfl, rfl, rfl⟩) (.after (copyWords 32 _ _ _) (hp _)))

theorem putWord (c : Chip) (spec : Bool) (a : Nat) (w : Word) : WritesMemory c (putWord c spec a w).1 := by
  unfold Machine.putWord
  split
  · cases spec
    · exact setPhys _ _ _
    · exact (specTouch c a).trans (setPhys _ _ _)
  · exact (recrypt c a).trans (setPhys _ _ _)

theorem putWords (l : List (Nat × Word × Bool)) : ∀ (c : Chip) (spec : Bool), WritesMemory c (putWords c spec l).1 := by
  induction l with
  | nil => exact fun c _ => refl c
  | cons e l ih => exact fun c spec => (putWord c spec e.1 e.2.1).trans (ih _ spec)

/-- A fold writes memory only if its steps do. -/
theorem foldl {α : Type} {f : Chip → α → Chip} (hf : ∀ c x, WritesMemory c (f c x)) (l : List α) :
    ∀ c, WritesMemory c (l.foldl f c) := by
  induction l with
  | nil => exact refl
  | cons x l ih => exact fun c => (hf c x).trans (ih _)

theorem markUnits (c : Chip) (ps : List (Nat × Bool)) : WritesMemory c (markUnits c ps) := by
  refine foldl (fun d b => ?_) _ c
  simp only
  split
  · exact setPois d b true
  · split
    · exact setPois d b false
    · exact refl d

/-- Entries of a table changed in place, but for what p reads of them. -/
theorem tget_map {α β : Type} (d : Nat → α) (f : Nat → α → α) (p : α → β) (hf : ∀ n x, p (f n x) = p x) (t : Table α)
    (k : Nat) : p (tget d (t.map fun e => (e.1, f e.1 e.2)) k) = p (tget d t k) := by
  induction t with
  | nil => rfl
  | cons e t ih =>
    simp only [List.map_cons, tget]
    split
    · exact hf _ _
    · exact ih

theorem spoil (c : Chip) (own : Option (Nat × Nat)) (as : List Nat) : WritesMemory c (spoil c own as) :=
  ⟨fun _ _ _ => rfl, rfl, fun n => tget_map _ (spoilCore own as) Core.strands (fun _ _ => rfl) c.cores n,
    fun _ => ⟨rfl, rfl, rfl⟩, rfl, rfl, rfl, ⟨rfl, rfl⟩, rfl,
    fun n => tget_map _ (spoilCore own as) Core.paused (fun _ _ => rfl) c.cores n, fun _ => rfl⟩

theorem wrOwn (own : Option (Nat × Nat)) (c : Chip) (spec : Bool) (l : List (Nat × Word × Bool)) :
    WritesMemory c (wrOwn own c spec l) :=
  ((putWords l c spec).trans (markUnits _ _)).trans (spoil _ _ _)

theorem wrMarked (c : Chip) (spec : Bool) (l : List (Nat × Word × Bool)) : WritesMemory c (wrMarked c spec l) :=
  wrOwn none c spec l

theorem wrWords (c : Chip) (spec : Bool) (a : Nat) (ws : List Word) : WritesMemory c (wrWords c spec a ws) :=
  wrMarked c spec _

end WritesMemory

/-- What the signs of a Pump's work leave alone: every register but its progress, flags and counts, what gives the blocks
their clocks, and the requests at the DRAM. -/
structure PumpSigns (c d : Chip) : Prop where
  regs : ∀ b n, n ≠ 0x01E → n ≠ 0x020 → n ≠ 0x022 → rawReg d b n = rawReg c b n
  stack : ∀ j, (stackOf d j).pll = (stackOf c j).pll ∧ (stackOf d j).dram = (stackOf c j).dram ∧
    (stackOf d j).powered = (stackOf c j).powered
  room : ∀ r, (roomOf d r).power = (roomOf c r).power
  plls : d.plls = c.plls
  hung : d.hung = c.hung

namespace PumpSigns

theorem refl (c : Chip) : PumpSigns c c := ⟨fun _ _ _ _ _ => rfl, fun _ => ⟨rfl, rfl, rfl⟩, fun _ => rfl, rfl, rfl⟩

theorem after {c d e : Chip} (k : PumpSigns d e) (h : PumpSigns c d) : PumpSigns c e where
  regs b n h1 h2 h3 := (k.regs b n h1 h2 h3).trans (h.regs b n h1 h2 h3)
  stack j := by
    obtain ⟨h1, h2, h3⟩ := h.stack j
    obtain ⟨k1, k2, k3⟩ := k.stack j
    exact ⟨k1.trans h1, k2.trans h2, k3.trans h3⟩
  room r := (k.room r).trans (h.room r)
  plls := k.plls.trans h.plls
  hung := k.hung.trans h.hung

theorem ite {c d e : Chip} {p : Prop} [Decidable p] (h : PumpSigns c d) (k : PumpSigns c e) :
    PumpSigns c (if p then d else e) := by
  split
  · exact h
  · exact k

theorem fresh (c : Chip) (n : Nat) : PumpSigns c { c with fresh := n } :=
  ⟨fun _ _ _ _ _ => rfl, fun _ => ⟨rfl, rfl, rfl⟩, fun _ => rfl, rfl, rfl⟩

theorem report (c : Chip) (n code : Nat) (l : List Nat) : PumpSigns c (report c n code l) :=
  ⟨fun _ _ _ _ _ => rfl, fun _ => ⟨rfl, rfl, rfl⟩, fun _ => rfl, rfl, rfl⟩

theorem setF (c : Chip) (b : BlockId) {n : Nat} (hi lo v : Nat) (h : n = 0x01E ∨ n = 0x020 ∨ n = 0x022) :
    PumpSigns c (setF c b n hi lo v) :=
  ⟨fun d m h1 h2 h3 => rawReg_setF_ne _ _ _ _ (.inr (by rintro rfl; tauto)), fun _ => ⟨rfl, rfl, rfl⟩, fun _ => rfl, rfl, rfl⟩

theorem modStack (c : Chip) (k : Nat) (f : Stack → Stack)
    (hf : ∀ x, (f x).pll = x.pll ∧ (f x).dram = x.dram ∧ (f x).powered = x.powered) : PumpSigns c (modStack c k f) where
  regs _ _ _ _ _ := rfl
  stack j := by
    rw [stackOf_modStack]
    split
    · next h => rw [h]; exact hf _
    · exact ⟨rfl, rfl, rfl⟩
  room _ := rfl
  plls := rfl
  hung := rfl

theorem foldl {α : Type} {f : Chip → α → Chip} (hf : ∀ c x, PumpSigns c (f c x)) (l : List α) :
    ∀ c, PumpSigns c (l.foldl f c) := by
  induction l with
  | nil => exact refl
  | cons x l ih => exact fun c => (ih _).after (hf c x)

theorem wrMarked (c : Chip) (spec : Bool) (l : List (Nat × Word × Bool)) : PumpSigns c (wrMarked c spec l) :=
  have h := WritesMemory.wrMarked c spec l
  ⟨fun b n _ h2 _ => h.regs b n h2, fun j => by rw [stackOf, h.stk, stackOf]; exact ⟨rfl, rfl, rfl⟩, fun r => (h.room r).1, h.plls, h.hung⟩

theorem pass2Signs (k : Nat) (w : Pass2) (c : Chip) : PumpSigns c (pass2Signs k w c) := by
  simp only [Machine.pass2Signs]
  refine after (foldl (fun _ _ => report _ _ _ _) _ _) ?_
  have hc : PumpSigns c (bumpF (bumpF (orF c (pmpB k) 0x020 4 0 w.flags) (pmpB k) 0x022 31 16 w.frozen) (pmpB k) 0x022 15 0
      w.events.length) :=
    after (setF _ _ _ _ _ (by decide)) (after (setF _ _ _ _ _ (by decide)) (setF _ _ _ _ _ (by decide)))
  exact ite (after (modStack _ _ _ fun _ => ⟨rfl, rfl, rfl⟩) (ite (after (report _ _ _ _) hc) hc)) (ite (after (report _ _ _ _) hc) hc)

theorem pumpProgress (k : Nat) (c : Chip) : PumpSigns c (pumpProgress k c) := by
  simp only [Machine.pumpProgress]
  split
  · exact refl c
  · exact after (fresh _ _) (setF _ _ _ _ _ (.inl rfl))

/-- A Pump that abandons its pass (R392). -/
theorem pumpAbandon (k : Nat) (c : Chip) : PumpSigns c (pumpAbandon k c) := by
  simp only [Machine.pumpAbandon]
  split
  · exact refl c
  · refine after (modStack _ _ _ fun _ => ⟨rfl, rfl, rfl⟩) ?_
    split
    · exact after (setF _ _ _ _ _ (.inr (.inl rfl))) (after (wrMarked _ _ _) (after (fresh _ _) (pumpProgress k c)))
    · exact after (pass2Signs _ _ _) (after (wrMarked _ _ _) (after (fresh _ _) (pumpProgress k c)))

end PumpSigns

theorem bRun_of_raw {c d : Chip} {b : BlockId} (h : rawReg d b 0 = rawReg c b 0) : bRun d b = bRun c b := by
  rw [bRun, bRun, getF, getF, h]

/-- What ends with a drained block leaves its RUN and what holds it in STOPPED alone. -/
theorem drainLoss_frame (b : BlockId) (c : Chip) :
    bRun (drainLoss b c) b = bRun c b ∧ startHeld (drainLoss b c) b = startHeld c b := by
  cases b with
  | dma r =>
    have hp : (roomOf (drainLoss (.dma r) c) r).power = (roomOf c r).power := by
      simp [drainLoss, modDma, roomOf_modRoom]
    refine ⟨rfl, ?_⟩
    simp only [startHeld, hasClock, roomClocked, hp]
    rfl
  | pmp k =>
    have h := PumpSigns.pumpAbandon k c
    refine ⟨bRun_of_raw (h.regs _ _ (by decide) (by decide) (by decide)), ?_⟩
    simp only [startHeld, hasClock, pllLocked, drainLoss, (h.stack _).1]
  | _ => exact ⟨rfl, rfl⟩

/-- A block that drains ends STOPPED, and at once STARTING when RUN is 1 again and nothing holds it (R47, R48). -/
theorem bState_blockDrained {b : BlockId} {c : Chip} (hs : bState c b = 3) (hd : blockDry c b = true)
    (hk : hasClock c b = true) (hh : tget (fun _ => false) c.hung (blockKey b) = false) :
    bState (blockDrained b c) b = if bRun c b && !startHeld c b then 1 else 0 := by
  have hx {x : Chip} (hx : x = setState (drainLoss b c) b 0 ∨ x = setF (setState (drainLoss b c) b 0) b 0x002 9 9 1) :
      bState (settle b x) b = if bRun c b && !startHeld c b then 1 else 0 := by
    have h0 : bState x b = 0 ∧ bRun x b = bRun c b ∧ startHeld x b = startHeld c b := by
      rcases hx with rfl | rfl
      · exact ⟨bState_setState_self _ _ 0, (bRun_setState _ _ _ _).trans (drainLoss_frame b c).1,
          (startHeld_setF _ _ _ _ _ _ _).trans (drainLoss_frame b c).2⟩
      · refine ⟨?_, (bRun_setF_ne _ _ _ _ (.inr (by decide))).trans ((bRun_setState _ _ _ _).trans (drainLoss_frame b c).1),
          (startHeld_setF _ _ _ _ _ _ _).trans ((startHeld_setF _ _ _ _ _ _ _).trans (drainLoss_frame b c).2)⟩
        exact (getF_setF_field _ _ _ _ _ _ _ _ (by decide) (by decide) (by decide)).trans (bState_setState_self _ _ 0)
    rw [bState_settle, h0.1, h0.2.1, h0.2.2]
    simp
  simp only [blockDrained, hs, hd, hk, hh, ne_eq, not_true_eq_false, Bool.true_eq_false, Bool.false_eq_true, or_self, if_false]
  exact hx (ite_eq_or_eq _ _ _).symm

theorem blockDrained_waits {b : BlockId} {c : Chip} (h : bState c b ≠ 3 ∨ blockDry c b = false ∨ hasClock c b = false ∨
    tget (fun _ => false) c.hung (blockKey b) = true) : blockDrained b c = c := by simp only [blockDrained, if_pos h]

/-! ### The statements -/

/-- A command on the package that finds nothing to do. -/
theorem onChip_same {s : State} {f : Chip → Chip} (h : f s.chip = s.chip) : onChip s f = .next s := by
  simp only [onChip, h]

theorem rawReg_of_regs {c d : Chip} (h : d.regs = c.regs) (b : BlockId) (n : Nat) : rawReg d b n = rawReg c b n := by
  rw [rawReg, rawReg, blkRegs, blkRegs, h]

theorem getF_of_regs {c d : Chip} (h : d.regs = c.regs) (b : BlockId) (n hi lo : Nat) : getF d b n hi lo = getF c b n hi lo := by
  rw [getF, getF, rawReg_of_regs h]

/-- A block that hangs in STOPPING is reported and stays there (R48). -/
theorem stopHung_reports {b : BlockId} {c : Chip} (h3 : bState c b = 3) :
    bState (stopHung b c) b = 3 ∧ tget (fun _ => false) (stopHung b c).hung (blockKey b) = true ∧
      ((stopBound (blockKind b)).isSome = true → getF (stopHung b c) b 0x002 9 9 = 1) ∧
      (stopHung b c).reports = c.reports ++ [⟨blockReeve b, 0x0101, [blockKey b]⟩] := by
  have hr : (stopHung b c).regs = (if (stopBound (blockKind b)).isSome = true then setF c b 0x002 9 9 1 else c).regs := by
    simp only [stopHung, h3, ne_eq, not_true_eq_false, if_false]; rfl
  refine ⟨?_, ?_, fun hb => ?_, ?_⟩
  · rw [bState, getF_of_regs hr]
    split
    · rw [getF_setF_field _ _ _ _ _ _ _ _ (by decide) (by decide) (by decide)]; exact h3
    · exact h3
  · simp [stopHung, h3, report]
  · rw [getF_of_regs hr, if_pos hb, getF_setF_self _ _ _ _ _ _ (by decide) (by decide)]; rfl
  · simp only [stopHung, h3, ne_eq, not_true_eq_false, if_false, report]
    split <;> simp

theorem blocksMoveBetweenStates_holds : BlocksMoveBetweenStates := by
  intro s b c
  have run (v : Bool) {P : Chip → Prop} (h : P (setRun1 b v c)) : ChipAnswers (.run b v) s P := ⟨_, rfl, h⟩
  refine ⟨?_, ?_, ?_, ?_, ?_, ?_, ?_, ?_, ?_, ?_, ?_, ?_⟩
  · intro h0 hh; exact run _ (by simp [bState_setRun1, h0, hh])
  · intro h0 hh; exact run _ (by simp [bState_setRun1, h0, hh])
  · intro h0; exact run _ (by simp [bState_setRun1, h0])
  · intro h2; exact run _ (by simp [bState_setRun1, h2])
  · intro h2 hk; exact run _ (by simp [bState_setRun1, h2, hk])
  · intro h2 hk; exact run _ (by simp [bState_setRun1, h2, hk])
  · intro v h; exact run _ (by rcases h with h | h <;> simp [bState_setRun1, h])
  · intro hl
    have check {P : Chip → Prop} (h : P (agreementCheck b c)) : ChipAnswers (.agreementCheck b) s P :=
      ⟨_, exec_agreementCheck hl b, h⟩
    have stays (h : bState c b ≠ 1 ∨ hasClock c b = false) : exec (.agreementCheck b) s = .next s := by
      rw [exec_agreementCheck hl, agreementCheck_waits h]
    refine ⟨fun _ hk => stays (.inr hk), fun h1 hk hd => check ?_, fun fa fb h1 hk hd => check (agreementCheck_fails_regs h1 hk hd),
      fun h1 => stays (.inl h1)⟩
    rw [agreementCheck_passes h1 hk hd, bState_settle, bState_setState_self, bRun_setState]
    have : hasClock (setState c b 2) b = true := (hasClock_setF _ _ _ _ _ _ _).trans hk
    cases hr : bRun c b <;> simp [this]
  · intro h3 hd hk hh; exact ⟨_, rfl, bState_blockDrained h3 hd hk hh⟩
  · intro _ h; exact onChip_same (blockDrained_waits (.inr h))
  · intro h3; exact ⟨_, rfl, stopHung_reports h3⟩
  · intro h3; exact ⟨onChip_same (if_pos h3), onChip_same (blockDrained_waits (.inl h3))⟩

/-- The pumps that wait start, or stay, by what became of their controller (R53, R359). -/
theorem startLate_pump {s : State} {k : Fin 8} (hl : s.dev.warden.lateStart = [.pmp k]) :
    (startLate s).chip = (if bRun s.chip (.hmc k) = true ∧ bState s.chip (.hmc k) = 2 then setRun1 (.pmp k) true s.chip else s.chip) ∧
    (startLate s).dev.warden.lateStart = if bRun s.chip (.hmc k) = true ∧ bState s.chip (.hmc k) ≠ 2 then [.pmp k] else [] := by
  have hb : hmcB k.val = .hmc k := by simp [hmcB]
  simp only [startLate, hl, List.filter_cons, List.filter_nil, hb]
  cases hr : bRun s.chip (.hmc k)
  · simp [startThese]
  · by_cases h2 : bState s.chip (.hmc k) = 2 <;> simp [startThese, mayStart, hb, h2]

theorem pumpsStartAfterTheirControllers_holds : PumpsStartAfterTheirControllers := by
  intro s k c hl h1 hk hr h0
  have hne : (BlockId.pmp k) ≠ .hmc k := by simp
  obtain ⟨t, ht, htc, htl⟩ : ∃ t, t = modChip (agreementCheck (.hmc k)) s ∧ t.chip = agreementCheck (.hmc k) c ∧
      t.dev.warden.lateStart = [.pmp k] := ⟨_, rfl, rfl, hl⟩
  obtain ⟨hc, hw⟩ := startLate_pump htl
  have answer {P : State → Prop} (h : P (startLate t)) : Answers (.agreementCheck (.hmc k)) s P := ⟨_, by rw [ht]; rfl, h⟩
  rw [htc] at hc hw
  have other (d : Chip) (n hi lo v : Nat) : bState (setF d (.hmc k) n hi lo v) (.pmp k) = bState d (.pmp k) ∧
      bRun (setF d (.hmc k) n hi lo v) (.pmp k) = bRun d (.pmp k) :=
    ⟨bState_setF_ne _ _ _ _ (.inl hne), bRun_setF_ne _ _ _ _ (.inl hne)⟩
  constructor
  · intro hd hh
    have ha : agreementCheck (.hmc k) c = setState c (.hmc k) 2 := by
      rw [agreementCheck_passes h1 hk hd, settle_stays] <;> simp [hr]
    have hrun : bRun (setState c (.hmc k) 2) (.hmc k) = true := by simpa using hr
    have hp : bState (setState c (.hmc k) 2) (.pmp k) = 0 := (other c _ _ _ _).1.trans h0
    have hs2 : bState (setState c (.hmc k) 2) (.hmc k) = 2 := bState_setState_self _ _ 2
    have hh' : startHeld (setState c (.hmc k) 2) (.pmp k) = false := (startHeld_setF _ _ _ _ _ _ _).trans hh
    rw [ha, hrun, hs2] at hc hw
    refine answer ⟨?_, ?_, ?_, hw⟩ <;> rw [hc, if_pos ⟨rfl, rfl⟩]
    · rw [setRun1_eq, settle_starts (by rw [bState_setF_ne _ _ _ _ (.inr (by decide)), hp]) (bRun_setRun _ _ true)
        ((startHeld_setF _ _ _ _ _ _ _).trans hh'), bState_setState_ne _ _ hne.symm, bState_setF_ne _ _ _ _ (.inr (by decide)), hs2]
    · simp [bState_setRun1, hp, hh']
    · simp
  · intro hd
    obtain ⟨⟨fa, fb⟩, hd⟩ := Option.ne_none_iff_exists'.mp hd
    obtain ⟨hs, hrun, -, -⟩ := agreementCheck_fails_regs h1 hk hd
    rw [hrun] at hc hw
    have hf := agreementCheck_fails h1 hk hd
    simp only [Bool.false_eq_true, false_and, if_false] at hc hw
    refine answer ⟨by rw [hc, hs], ?_, ?_, hw⟩ <;> rw [hc, hf]
    · rw [bState, getF_setRaw_ne _ _ _ _ (.inl hne)]
      exact (other _ _ _ _ _).1.trans ((other _ _ _ _ _).1.trans ((other c _ _ _ _).1.trans h0))
    · rw [bRun, getF_setRaw_ne _ _ _ _ (.inl hne), ← bRun]
      exact (other _ _ _ _ _).2.trans ((other _ _ _ _ _).2.trans (other c _ _ _ _).2)

theorem land_eq_left_iff (a b : Nat) : a &&& b = a ↔ ∀ p, a.testBit p = true → b.testBit p = true := by
  constructor
  · intro h p hp
    rw [← h, Nat.testBit_and, Bool.and_eq_true] at hp
    exact hp.2
  · intro h
    apply Nat.eq_of_testBit_eq
    intro p
    rw [Nat.testBit_and]
    cases hp : a.testBit p
    · rfl
    · simp [h p hp]

/-- A field of 16 bits of a register, bit by bit. -/
theorem testBit_field16 (x : W32) (lo p : Nat) :
    (natBits x.toNat (lo + 15) lo).testBit p = (decide (p < 16) && x.getLsbD (lo + p)) := by
  have h16 : lo + 15 + 1 - lo = 16 := by omega
  rw [testBit_natBits, BitVec.getLsbD, h16]

/-- One field of 16 bits lies within another when each of its bits does. -/
theorem field16_within (x y : W32) (i j : Nat) :
    (natBits x.toNat (i + 15) i &&& natBits y.toNat (j + 15) j = natBits x.toNat (i + 15) i) ↔
      ∀ p < 16, x.getLsbD (i + p) = true → y.getLsbD (j + p) = true := by
  simp only [land_eq_left_iff, testBit_field16, Bool.and_eq_true, decide_eq_true_eq]
  exact ⟨fun h p hp hx => (h p ⟨hp, hx⟩).2, fun h p ⟨hp, hx⟩ => ⟨hp, h p hp hx⟩⟩

/-- The first pair that fails is named. -/
theorem classroomPairs_holds : ClassroomPairs := by
  intro s cl c b core en pg fuse h1 hk hl
  have check (fa fb : Nat) (h : firstBad (pairsCls c b) = some (fa, fb)) :
      ChipAnswers (.agreementCheck b) s (fun t => rawReg t b 0x006 = BitVec.ofNat 32 (fa * 2 ^ 16 + fb)) :=
    ⟨_, exec_agreementCheck hl b, (agreementCheck_fails_regs h1 hk h).2.2.2⟩
  have hen : (getF c b 0x010 15 0 &&& getF c b 0x012 15 0 = getF c b 0x010 15 0) ↔ ∀ p < 16, en p = true → fuse p = true := by
    simpa [getF, en, fuse, core] using field16_within (rawReg c b 0x010) (rawReg c b 0x012) 0 0
  have hpg : (getF c b 0x010 31 16 &&& getF c b 0x010 15 0 = getF c b 0x010 31 16) ↔ ∀ p < 16, pg p = true → en p = true := by
    simpa [getF, en, pg, core] using field16_within (rawReg c b 0x010) (rawReg c b 0x010) 16 0
  constructor
  · rintro ⟨p, hp, he, hf⟩
    refine check 0x0400 0x0480 ?_
    have : ¬ (getF c b 0x010 15 0 &&& getF c b 0x012 15 0 = getF c b 0x010 15 0) := fun h => by
      simp [hen.mp h p hp he] at hf
    simp only [pairsCls, firstBad, beq_eq_false_iff_ne.mpr this, Bool.false_eq_true, if_false]
  · rintro hall ⟨p, hp, hg, he⟩
    refine check 0x0410 0x0400 ?_
    have : ¬ (getF c b 0x010 31 16 &&& getF c b 0x010 15 0 = getF c b 0x010 31 16) := fun h => by
      simp [hpg.mp h p hp hg] at he
    simp only [pairsCls, firstBad, beq_eq_false_iff_ne.mpr this, beq_iff_eq.mpr (hen.mpr hall), Bool.false_eq_true, if_false, if_true]

end Sys2Proof.Machine

/-- Settles O40: the levels of RUN, the checks at the end of STARTING and the drain at the end of STOPPING, each by what
`settle` does with the state it finds. -/
theorem blocksMoveBetweenStates : Obligations.BlocksMoveBetweenStates :=
  ⟨blocksMoveBetweenStates_holds, pumpsStartAfterTheirControllers_holds, classroomPairs_holds⟩
end

section
/-! PROOFS. The ring and its reports (spec/01 R30 to R35): transactions in the order of their originator; an entry of the event
log waits while fewer than 128 do, whatever a halt and the wakes that it brings log behind it. -/

open Sys2Proof Sys2Proof.Machine
namespace Sys2Proof.Machine

/-! ### Transactions of the ring (R30 to R33) -/

theorem find?_after {α : Type} {p : α → Bool} {a : List α} {x : α} (b : List α) (ha : ∀ y ∈ a, p y = false) (hx : p x = true) :
    (a ++ x :: b).find? p = some x := by
  rw [List.find?_append, List.find?_eq_none.mpr (by simpa using ha), List.find?_cons_of_pos hx]; rfl

theorem erase_after {α : Type} [BEq α] [LawfulBEq α] {a : List α} {x : α} (b : List α) (ha : x ∉ a) :
    (a ++ x :: b).erase x = a ++ b := by
  rw [List.erase_append_right _ ha, List.erase_cons_head]

/-- An access that reaches no block is an error; one that does is the register command of its block (R31, R36). -/
theorem ringAnswer_none {q : RingReq} (c : Chip)
    (h : (if ringTarget q.origin q.node then blockAt q.node (q.off / 0x400) else none) = none) :
    ringAnswer q c = (c, ⟨q.origin, none, true, none⟩) := by
  simp only [ringAnswer]
  split at h
  · next ht => simp [ht, nodeAccess, h]
  · next ht => simp [ht]

theorem ringAnswer_some {q : RingReq} {b : BlockId} (c : Chip)
    (h : (if ringTarget q.origin q.node then blockAt q.node (q.off / 0x400) else none) = some b) :
    ringAnswer q c = match q.wr with
      | some v => (busWrite b (q.off % 0x400) v c, ⟨q.origin, none, false, none⟩)
      | none => (busRead b (q.off % 0x400) c, ⟨q.origin, some (busRead b (q.off % 0x400) c).readOut, false, none⟩) := by
  split at h
  · next ht => cases hw : q.wr <;> simp [ringAnswer, ht, nodeAccess, h, hw]
  · cases h

theorem ringAnswer_origin (q : RingReq) (c : Chip) : (ringAnswer q c).2.origin = q.origin := by
  simp only [ringAnswer]; split <;> rfl

/-- A transaction that goes out adds one to the ring, of its originator. -/
theorem ringIssue_ring (q : RingReq) (s : State) : ∃ y, (ringIssue q s).dev.ring = s.dev.ring ++ [y] ∧ y.origin = q.origin := by
  simp only [ringIssue]
  split
  · exact ⟨_, rfl, rfl⟩
  · exact ⟨_, rfl, ringAnswer_origin q _⟩

theorem ringIssue_ringWait (q : RingReq) (s : State) : (ringIssue q s).dev.ringWait = s.dev.ringWait := rfl
theorem ringIssue_ringErr (q : RingReq) (s : State) : (ringIssue q s).dev.ringErr = s.dev.ringErr := rfl

theorem ringRequest_eq {o : RingOrigin} {node off : Nat} {wr : Option W32} {s : State} (hu : ringUp s = true)
    (ho : outstanding o s < 16) : ringRequest o node off wr s = ringIssue ⟨originKey o, node, off, wr⟩ s := by
  simp [ringRequest, hu, Nat.not_le.mpr ho]

/-- The state once the response t has left the ring. -/
def ringTaken (t : RingTx) (s : State) : State := modDev (fun d => { d with ring := d.ring.erase t, ringErr := t.err }) s

/-- The response that completes: its originator's next transaction goes out, a read shows its value (R31, R33). -/
theorem ringResponse_of_find {o : RingOrigin} {s : State} {t : RingTx}
    (h : s.dev.ring.find? (fun t => t.origin == originKey o && t.held.isNone) = some t) :
    (ringResponse o s).dev = (ringNext o (ringTaken t s)).dev ∧
      (∀ v, t.val = some v → (ringResponse o s).chip = { (ringNext o (ringTaken t s)).chip with readOut := v }) ∧
      (t.val = none → (ringResponse o s).chip = (ringNext o (ringTaken t s)).chip) := by
  simp only [ringResponse, h, ringTaken]
  split
  · next v hv => exact ⟨rfl, fun w hw => by rw [hv] at hw; cases hw; rfl, fun hn => by simp [hv] at hn⟩
  · next hv => exact ⟨rfl, fun w hw => by simp [hv] at hw, fun _ => rfl⟩

/-- The oldest transaction that waits at the originator goes out; without one, nothing does. -/
theorem ringNext_none {o : RingOrigin} {s : State} (h : ∀ y ∈ s.dev.ringWait, y.origin ≠ originKey o) : ringNext o s = s := by
  have : s.dev.ringWait.find? (fun q => q.origin == originKey o) = none := by
    rw [List.find?_eq_none]; intro y hy; simpa using h y hy
  simp only [ringNext, this]

theorem ringNext_after {o : RingOrigin} {s : State} {a b : List RingReq} {w : RingReq} (hs : s.dev.ringWait = a ++ w :: b)
    (ha : ∀ y ∈ a, y.origin ≠ originKey o) (hw : w.origin = originKey o) :
    (∃ y, (ringNext o s).dev.ring = s.dev.ring ++ [y] ∧ y.origin = originKey o) ∧ (ringNext o s).dev.ringWait = a ++ b ∧
      (ringNext o s).dev.ringErr = s.dev.ringErr := by
  have hf : s.dev.ringWait.find? (fun q => q.origin == originKey o) = some w := by
    rw [hs]; exact find?_after b (fun y hy => by simpa using ha y hy) (by simpa using hw)
  have he : s.dev.ringWait.erase w = a ++ b := by rw [hs]; exact erase_after b (fun h => ha w h hw)
  simp only [ringNext, hf]
  obtain ⟨y, hy, hyo⟩ := ringIssue_ring w (modDev (fun d => { d with ringWait := d.ringWait.erase w }) s)
  exact ⟨⟨y, hy, hyo.trans hw⟩, he, rfl⟩

theorem ringTransactions_holds : RingTransactions := by
  intro s o node off wr c d k q target reg
  have ask {P : State → Prop} (h : P (ringRequest o node off.toNat wr s)) : Answers (.ringRequest o node off wr) s P := ⟨_, rfl, h⟩
  have hear {P : State → Prop} (h : P (ringResponse o s)) : Answers (.ringResponse o) s P := ⟨_, rfl, h⟩
  refine ⟨fun hu => ?_, fun hu => ⟨fun ho => ask ?_, fun ho hr => ask ?_, fun ho hr => ⟨fun ht => ask ?_, fun b hb => ask ?_⟩⟩, fun hn => ?_, ?_⟩
  · exact congrArg Host.Outcome.next (show ringRequest o node off.toNat wr s = s by simp [ringRequest, hu])
  · simp only [ringRequest, hu, Bool.not_true, Bool.false_eq_true, if_false, if_pos ho]
    exact ⟨rfl, rfl, rfl⟩
  · rw [ringRequest_eq hu ho]
    have hr' : nodeInReset s (⟨originKey o, node, off.toNat, wr⟩ : RingReq).node = true := hr
    simp only [ringIssue, hr', if_true]
    exact ⟨rfl, rfl, rfl⟩
  · rw [ringRequest_eq hu ho]
    have hr' : nodeInReset s (⟨originKey o, node, off.toNat, wr⟩ : RingReq).node = false := hr
    simp only [ringIssue, hr', Bool.false_eq_true, if_false]
    rw [ringAnswer_none (q := q) c ht]
    exact ⟨rfl, rfl, rfl⟩
  · rw [ringRequest_eq hu ho]
    have hr' : nodeInReset s (⟨originKey o, node, off.toNat, wr⟩ : RingReq).node = false := hr
    simp only [ringIssue, hr', Bool.false_eq_true, if_false]
    rw [ringAnswer_some (q := q) c hb]
    refine ⟨rfl, ?_, ?_⟩
    · rintro v rfl; exact ⟨rfl, rfl⟩
    · rintro rfl; exact ⟨rfl, rfl⟩
  · refine congrArg Host.Outcome.next (show ringResponse o s = s from ?_)
    have : s.dev.ring.find? (fun t => t.origin == originKey o && t.held.isNone) = none := by
      rw [List.find?_eq_none]
      intro y hy
      rcases hn y hy with h | h
      · simp [k] at h; simp [h]
      · simp [Option.isSome_iff_ne_none] at h; simp [h]
    simp only [ringResponse, this]
  · intro p x r hd hp hx hheld
    have hfind : s.dev.ring.find? (fun t => t.origin == originKey o && t.held.isNone) = some x := by
      rw [show s.dev.ring = p ++ x :: r from hd]
      refine find?_after r (fun y hy => ?_) (by simp [hheld, show x.origin = originKey o from hx])
      rcases hp y hy with h | h
      · simp [show y.origin ≠ originKey o from h]
      · cases hy : y.held <;> simp_all
    have herase : s.dev.ring.erase x = p ++ r := by
      rw [show s.dev.ring = p ++ x :: r from hd]
      refine erase_after r (fun hxp => ?_)
      rcases hp x hxp with h | h
      · exact h hx
      · simp [hheld] at h
    obtain ⟨hdev, hsome, hnone⟩ := ringResponse_of_find hfind
    have ht : (ringTaken x s).dev.ring = p ++ r ∧ (ringTaken x s).dev.ringWait = d.ringWait ∧ (ringTaken x s).dev.ringErr = x.err ∧
        (ringTaken x s).chip = c := ⟨herase, rfl, rfl, rfl⟩
    obtain ⟨hring, hwait, herr, hchip⟩ := ht
    constructor
    · intro hw
      rw [ringNext_none (by rw [hwait]; exact hw)] at hdev hsome hnone
      exact hear ⟨by rw [hdev, hring], by rw [hdev, herr], fun v hv => by rw [hsome v hv, hchip], fun hv => by rw [hnone hv, hchip]⟩
    · intro a w b hw ha hwo
      obtain ⟨⟨y, hy, hyo⟩, hwait', herr'⟩ := ringNext_after (hwait.trans hw) ha hwo
      exact hear ⟨⟨y, by rw [hdev, hy, hring], hyo⟩, by rw [hdev, hwait'], by rw [hdev, herr', herr], fun v hv => by rw [hsome v hv]⟩

/-! ### The event log (R535) -/

/-- The entry that the Warden appends for an event. -/
def logEntry (src code : Nat) (data : List Nat) (s : State) : LogEntry :=
  ⟨(s.dev.warden.seq + 1) % 2 ^ 32, s.flash.boots % 2 ^ 16, src, code, Config.severity code % 4, s.chip.nowUs, data.take 3⟩

/-- An event goes to the log and to both hosts: everything but the Warden's log, the flash and the PCIe ports stays. -/
theorem logEvent_frame (src code : Nat) (data : List Nat) (s : State) :
    (logEvent src code data s).chip = s.chip ∧ (logEvent src code data s).dev.bell = s.dev.bell ∧
      (logEvent src code data s).dev.power = s.dev.power ∧ (logEvent src code data s).dev.warden.job = s.dev.warden.job ∧
      (logEvent src code data s).dev.warden.dstate = s.dev.warden.dstate ∧
      (logEvent src code data s).dev.warden.msgs = s.dev.warden.msgs := by
  simp only [logEvent, sendVector, modPcie_chip, modPcie_bell, modPcie_power, modPcie_warden]
  split
  · exact ⟨rfl, rfl, rfl, rfl, rfl, rfl⟩
  · exact ⟨rfl, rfl, rfl, rfl, rfl, rfl⟩

@[simp] theorem logEvent_chip (src code : Nat) (data : List Nat) (s : State) : (logEvent src code data s).chip = s.chip :=
  (logEvent_frame src code data s).1
@[simp] theorem logEvent_bell (src code : Nat) (data : List Nat) (s : State) : (logEvent src code data s).dev.bell = s.dev.bell :=
  (logEvent_frame src code data s).2.1
@[simp] theorem logEvent_power (src code : Nat) (data : List Nat) (s : State) :
    (logEvent src code data s).dev.power = s.dev.power := (logEvent_frame src code data s).2.2.1
@[simp] theorem logEvent_job (src code : Nat) (data : List Nat) (s : State) : jobOf (logEvent src code data s) = jobOf s :=
  (logEvent_frame src code data s).2.2.2.1
@[simp] theorem logEvent_dstate (src code : Nat) (data : List Nat) (s : State) : dstate (logEvent src code data s) = dstate s :=
  (logEvent_frame src code data s).2.2.2.2.1
@[simp] theorem logEvent_msgs (src code : Nat) (data : List Nat) (s : State) :
    (logEvent src code data s).dev.warden.msgs = s.dev.warden.msgs := (logEvent_frame src code data s).2.2.2.2.2

/-- An entry waits behind the others while fewer than 128 do. -/
theorem logEvent_waiting {src code : Nat} {data : List Nat} {s : State} (h : s.dev.warden.waiting.length < 127) :
    (logEvent src code data s).dev.warden.waiting = s.dev.warden.waiting ++ [logEntry src code data s] := by
  simp only [logEvent, sendVector, modPcie_warden]
  rw [if_neg (by simp; omega)]
  rfl

/-! ### Refusals are logged once a second (R554) -/

/-- Whether a refusal by this refuser would be logged now. -/
def refusalDue (s : State) (refuser : Nat) : Bool :=
  match tget (fun _ => none) s.dev.power.logged refuser with
  | none => true
  | some t => decide (t + 1000000 ≤ s.chip.nowUs)

/-- The entries that still fit the log's buffer when the refusals of these two refusers have been logged too. -/
def logLoad (a b : Nat) (s : State) : Nat :=
  s.dev.warden.waiting.length + (refusalDue s a).toNat + (refusalDue s b).toNat

/-- Entries wait in the log, and refusals of two refusers leave them there. -/
structure Waits (a b : Nat) (es : List LogEntry) (s : State) : Prop where
  mem : ∀ e ∈ es, e ∈ s.dev.warden.waiting
  load : logLoad a b s < 126

theorem refusalDue_of_same {s t : State} (hp : t.dev.power.logged = s.dev.power.logged) (hc : t.chip.nowUs = s.chip.nowUs) (r : Nat) :
    refusalDue t r = refusalDue s r := by simp only [refusalDue, hp, hc]

/-- What changes neither the log nor what has been logged of refusals. -/
theorem Waits.of_same {a b : Nat} {es : List LogEntry} {s t : State} (h : Waits a b es s) (hw : t.dev.warden.waiting = s.dev.warden.waiting)
    (hp : t.dev.power.logged = s.dev.power.logged) (hc : t.chip.nowUs = s.chip.nowUs) : Waits a b es t :=
  ⟨hw ▸ h.mem, by simpa [logLoad, hw, refusalDue_of_same hp hc] using h.load⟩

/-- The time of a refuser's last logged refusal is noted. -/
def noteLogged (r : Nat) (s : State) : State :=
  modPower (fun p => { p with logged := tput (fun _ => none) p.logged r (some s.chip.nowUs) }) s

theorem refusalDue_noteLogged (s : State) (r q : Nat) :
    refusalDue (noteLogged r s) q = if q = r then false else refusalDue s q := by
  simp only [refusalDue, noteLogged, modPower_power, modPower_chip, tget_tput]
  by_cases h : q = r
  · simp [h]
  · simp only [if_neg h]; rfl

/-- A refusal is counted, and logged when it is due. -/
theorem countRefusal_eq (r req kind : Nat) (s : State) : ∃ rs, countRefusal r req kind s =
    if refusalDue (modPower (fun p => { p with refusals := rs }) s) r = true then
      logEvent 0 (0x0501 + kind) [r, req] (noteLogged r (modPower (fun p => { p with refusals := rs }) s))
    else modPower (fun p => { p with refusals := rs }) s := ⟨_, rfl⟩

/-- The refusal of one of the two is logged at most now, and then not again in this second. -/
theorem Waits.countRefusal {a b r : Nat} {es : List LogEntry} {s : State} (hr : r = a ∨ r = b) (hab : a ≠ b) (h : Waits a b es s)
    (req kind : Nat) : Waits a b es (countRefusal r req kind s) := by
  obtain ⟨rs, hc⟩ := countRefusal_eq r req kind s
  rw [hc]
  have h1 : Waits a b es (modPower (fun p => { p with refusals := rs }) s) := h.of_same rfl rfl rfl
  split
  · next hd =>
    generalize modPower (fun p => { p with refusals := rs }) s = s1 at h1 hd ⊢
    have hl := h1.load
    have hload : s1.dev.warden.waiting.length + (if a = r then 0 else (refusalDue s1 a).toNat) +
        (if b = r then 0 else (refusalDue s1 b).toNat) + 1 < 126 := by
      simp only [logLoad] at hl
      rcases hr with rfl | rfl
      · simp only [hd, Bool.toNat_true, if_true, if_neg hab.symm] at hl ⊢; omega
      · simp only [hd, Bool.toNat_true, if_true, if_neg hab] at hl ⊢; omega
    refine ⟨?_, ?_⟩
    · rw [logEvent_waiting (by simp only [noteLogged, modPower_warden]; omega)]
      exact fun e he => List.mem_append_left _ (h1.mem e he)
    · simp only [logLoad, refusalDue_of_same (congrArg Power.logged (logEvent_power _ _ _ _)) (congrArg Chip.nowUs (logEvent_chip _ _ _ _)),
        refusalDue_noteLogged, apply_ite Bool.toNat, Bool.toNat_false]
      rw [logEvent_waiting (by simp only [noteLogged, modPower_warden]; omega)]
      simp only [List.length_append, noteLogged, modPower_warden, List.length_singleton]
      omega
  · exact h1

/-! ### A halt of the school (R426, R454) -/

theorem settle_clock (b : BlockId) (c : Chip) : (settle b c).nowUs = c.nowUs ∧ (settle b c).reports = c.reports := by
  unfold settle
  split
  · exact ⟨rfl, rfl⟩
  · split <;> exact ⟨rfl, rfl⟩

/-- A fold leaves what none of its steps changes. -/
theorem foldl_reads {α β γ : Type} (p : α → γ) {f : α → β → α} (hf : ∀ a b, p (f a b) = p a) (l : List β) :
    ∀ a, p (l.foldl f a) = p a := by
  induction l with
  | nil => exact fun _ => rfl
  | cons b l ih => exact fun a => (ih _).trans (hf a b)

theorem setPower_clock (r : Nat) (p : RoomPower) (c : Chip) :
    (setPower r p c).nowUs = c.nowUs ∧ (setPower r p c).reports = c.reports := by
  simp only [setPower]
  exact ⟨(settle_clock _ _).1.trans (settle_clock _ _).1, (settle_clock _ _).2.trans (settle_clock _ _).2⟩

theorem wakeCores_clock (r : Nat) (c : Chip) : (wakeCores r c).nowUs = c.nowUs ∧ (wakeCores r c).reports = c.reports := by
  unfold wakeCores
  generalize List.range 16 = l
  obtain ⟨hn, hr⟩ := setPower_clock r .run c
  exact ⟨(foldl_reads Chip.nowUs (fun _ _ => modCore_nowUs _ _ _) l _).trans ((setF_nowUs _ _ _ _ _ _).trans hn),
    (foldl_reads Chip.reports (fun _ _ => modCore_reports _ _ _) l _).trans ((setF_reports _ _ _ _ _ _).trans hr)⟩

theorem wakeRoom_clock (r code : Nat) (c : Chip) :
    (wakeRoom r code c).nowUs = c.nowUs ∧ (wakeRoom r code c).reports = c.reports := by
  unfold wakeRoom
  generalize List.range 16 = l
  obtain ⟨hn, hr⟩ := wakeCores_clock r c
  exact ⟨(foldl_reads Chip.nowUs (fun _ _ => setF_nowUs _ _ _ _ _ _) l _).trans ((setF_nowUs _ _ _ _ _ _).trans hn),
    (foldl_reads Chip.reports (fun _ _ => setF_reports _ _ _ _ _ _) l _).trans ((setF_reports _ _ _ _ _ _).trans hr)⟩

/-- A refused or aborted entry is counted, and perhaps logged: the package, the bells and the job stay. -/
theorem countRefusal_frame (r q k : Nat) (s : State) : (countRefusal r q k s).chip = s.chip ∧
    (countRefusal r q k s).dev.bell = s.dev.bell := by
  obtain ⟨rs, hc⟩ := countRefusal_eq r q k s
  rw [hc]
  split <;> simp [noteLogged]

/-- What a wake of a classroom leaves alone. -/
theorem wakeTo_frame (r code : Nat) (s : State) : (wakeTo r code s).chip.nowUs = s.chip.nowUs ∧
    (wakeTo r code s).chip.reports = s.chip.reports ∧ (wakeTo r code s).dev.bell = s.dev.bell := by
  unfold wakeTo
  split
  · exact ⟨rfl, rfl, rfl⟩
  · obtain ⟨hc, hb⟩ := countRefusal_frame (0x0510 + code) 2 1 (modChip (setPower r .run) s)
    simp only [abortEntry, hc, hb, modChip_chip]
    exact ⟨(setPower_clock r .run s.chip).1, (setPower_clock r .run s.chip).2, congrArg Dev.bell (modChip_dev _ s)⟩
  · split
    · obtain ⟨hc, hb⟩ := countRefusal_frame 0x0502 3 0 s
      exact ⟨by rw [hc], by rw [hc], hb⟩
    · rw [modChip_chip]
      exact ⟨(wakeRoom_clock r code s.chip).1, (wakeRoom_clock r code s.chip).2, congrArg Dev.bell (modChip_dev _ s)⟩
  · split
    · obtain ⟨hc, hb⟩ := countRefusal_frame 0x0502 3 0 s
      exact ⟨by rw [hc], by rw [hc], hb⟩
    · rw [modChip_chip]
      exact ⟨(wakeRoom_clock r code s.chip).1, (wakeRoom_clock r code s.chip).2, congrArg Dev.bell (modChip_dev _ s)⟩

/-- A wake of a classroom leaves waiting entries in the log: it is refused by the Breach or aborts an entry. -/
theorem Waits.wakeTo {es : List LogEntry} {code : Nat} {s : State} (h : Waits 0x0502 (0x0510 + code) es s) (r : Nat) :
    Waits 0x0502 (0x0510 + code) es (wakeTo r code s) := by
  have hne : 0x0502 ≠ 0x0510 + code := by omega
  have hw (f : Chip → Chip) (hf : (f s.chip).nowUs = s.chip.nowUs) : Waits 0x0502 (0x0510 + code) es (modChip f s) := h.of_same rfl rfl hf
  have wakes : Waits 0x0502 (0x0510 + code) es
      (if s.dev.power.breach = true then Machine.countRefusal 0x0502 3 0 s else modChip (wakeRoom r code) s) := by
    split
    · exact h.countRefusal (.inl rfl) hne 3 0
    · exact hw (wakeRoom r code) (wakeRoom_clock r code s.chip).1
  unfold Machine.wakeTo
  split
  · exact h
  · simp only [abortEntry]
    exact (hw (setPower r .run) (setPower_clock r .run s.chip).1).countRefusal (.inr rfl) hne 2 1
  · exact wakes
  · exact wakes

theorem Waits.mem_logEvent {a b : Nat} {es : List LogEntry} {s : State} (h : Waits a b es s) (src code : Nat) (data : List Nat) :
    ∀ e ∈ es ++ [logEntry src code data s], e ∈ (logEvent src code data s).dev.warden.waiting := by
  have hl := h.load
  rw [logEvent_waiting (by simp only [logLoad] at hl; omega)]
  intro e he
  exact (List.mem_append.mp he).elim (fun hx => List.mem_append_left _ (h.mem e hx)) (List.mem_append_right _)

theorem queueBell_frame (typ : Nat) (f : Frame) (s : State) : (queueBell typ f s).chip = s.chip ∧
    (queueBell typ f s).dev.bell = s.dev.bell ∧ (queueBell typ f s).dev.warden = s.dev.warden ∧
    (queueBell typ f s).dev.power = s.dev.power := ⟨rfl, rfl, rfl, rfl⟩

/-- Frames of a halt go out; of the bells only the halts noted change. -/
theorem sendHalt_frame (j : Job) (o st p r e : Nat) (s : State) : (sendHalt j o st p r e s).chip = s.chip ∧
    (sendHalt j o st p r e s).dev.bell = { s.dev.bell with halts := s.dev.bell.halts ++ [(o, st)] } ∧
    (sendHalt j o st p r e s).dev.warden = s.dev.warden ∧ (sendHalt j o st p r e s).dev.power = s.dev.power := by
  unfold sendHalt
  generalize ((parentOf j.rank).toList ++ childrenOf j.rank j.size).filter (fun q => q != e) = l
  refine ⟨foldl_reads State.chip (fun _ _ => (queueBell_frame _ _ _).1) l _,
    foldl_reads (fun s : State => s.dev.bell) (fun _ _ => (queueBell_frame _ _ _).2.1) l _,
    foldl_reads (fun s : State => s.dev.warden) (fun _ _ => (queueBell_frame _ _ _).2.2.1) l _,
    foldl_reads (fun s : State => s.dev.power) (fun _ _ => (queueBell_frame _ _ _).2.2.2) l _⟩

/-- The package as the strands with a lesson have been told of the halt, every classroom of theirs woken. -/
def haltTold (s : State) : State :=
  (((lessonStrands s.chip).map (fun u => coreRoom u.core)).eraseDups).foldl (fun s r => wakeTo r 8 s)
    (modChip (fun c => (lessonStrands s.chip).foldl (fun c u => setIpend 8 u c) c)
      (modBell (fun b => { b with halted := true, stopping := true, ringDue := none, relCls := 0, relPmp := 0 }) s))

theorem haltAt_eq {s : State} {j : Job} (hj : jobOf s = some j) {origin step : Nat} (h : (origin, step) ∉ s.dev.bell.halts)
    (period reason except : Nat) : haltAt origin step period reason except s =
      sendHalt j origin step period reason except (logEvent 0 0x0307 [origin, reason] (haltTold s)) := by
  simp only [haltAt, hj, List.contains_eq_mem, h, decide_false, Bool.false_eq_true, if_false]
  rfl

theorem haltAt_stays {s : State} {origin step : Nat} (h : jobOf s = none ∨ (origin, step) ∈ s.dev.bell.halts)
    (period reason except : Nat) : haltAt origin step period reason except s = s := by
  unfold haltAt
  split
  · rfl
  · next hj => rw [if_pos (by rcases h with h | h <;> simp_all)]

theorem setIpend_clock (us : List StrandId) (c : Chip) : (us.foldl (fun c u => setIpend 8 u c) c).nowUs = c.nowUs ∧
    (us.foldl (fun c u => setIpend 8 u c) c).reports = c.reports :=
  ⟨foldl_reads Chip.nowUs (fun _ _ => modStrand_nowUs _ _ _) us c, foldl_reads Chip.reports (fun _ _ => modStrand_reports _ _ _) us c⟩

theorem haltTold_frame (s : State) : (haltTold s).chip.nowUs = s.chip.nowUs ∧ (haltTold s).chip.reports = s.chip.reports ∧
    (haltTold s).dev.bell.halted = true := by
  unfold haltTold
  generalize ((lessonStrands s.chip).map (fun u => coreRoom u.core)).eraseDups = l
  generalize lessonStrands s.chip = us
  obtain ⟨hn, hr⟩ := setIpend_clock us s.chip
  exact ⟨(foldl_reads (fun s : State => s.chip.nowUs) (fun s r => (wakeTo_frame r 8 s).1) l _).trans hn,
    (foldl_reads (fun s : State => s.chip.reports) (fun s r => (wakeTo_frame r 8 s).2.1) l _).trans hr,
    (congrArg Bell.halted (foldl_reads (fun s : State => s.dev.bell) (fun s r => (wakeTo_frame r 8 s).2.2) l _)).trans rfl⟩

theorem Waits.haltTold {es : List LogEntry} {s : State} (h : Waits 0x0502 0x0518 es s) : Waits 0x0502 0x0518 es (haltTold s) := by
  unfold Machine.haltTold
  exact foldl_keeps (P := Waits 0x0502 0x0518 es) (fun s r h => h.wakeTo (code := 8) r) _ _ (h.of_same rfl rfl (setIpend_clock _ _).1)

/-- An entry that waits with room behind it still waits after a halt. -/
theorem Waits.mem_haltAt {e : LogEntry} {s : State} (h : Waits 0x0502 0x0518 [e] s) (o st p r x : Nat) :
    e ∈ (haltAt o st p r x s).dev.warden.waiting := by
  by_cases hs : jobOf s = none ∨ (o, st) ∈ s.dev.bell.halts
  · rw [haltAt_stays hs]; exact h.mem e (List.mem_cons_self ..)
  · obtain ⟨hj, hh⟩ := not_or.mp hs
    obtain ⟨j, hj⟩ := Option.ne_none_iff_exists'.mp hj
    rw [haltAt_eq hj hh, (sendHalt_frame _ _ _ _ _ _ _).2.2.1]
    exact h.haltTold.mem_logEvent _ _ _ e (List.mem_cons_self ..)

theorem haltAt_reports (o st p r x : Nat) (s : State) : (haltAt o st p r x s).chip.reports = s.chip.reports := by
  by_cases hs : jobOf s = none ∨ (o, st) ∈ s.dev.bell.halts
  · rw [haltAt_stays hs]
  · obtain ⟨hj, hh⟩ := not_or.mp hs
    obtain ⟨j, hj⟩ := Option.ne_none_iff_exists'.mp hj
    rw [haltAt_eq hj hh, (sendHalt_frame _ _ _ _ _ _ _).1, logEvent_chip, (haltTold_frame s).2.1]

theorem haltAt_halts {s : State} {j : Job} (hj : jobOf s = some j) {o st : Nat} (h : (o, st) ∉ s.dev.bell.halts) (p r x : Nat) :
    (haltAt o st p r x s).dev.bell.halted = true := by
  rw [haltAt_eq hj h, (sendHalt_frame _ _ _ _ _ _ _).2.1, logEvent_bell]
  exact (haltTold_frame s).2.2

/-! ### Reports (R35) -/

/-- What the Warden does with a report beside logging it: a halt for a lost lesson, a repair candidate, a TORN shard. -/
theorem reportAct_cases (r : Report) (s : State) :
    reportAct r s = s ∨ (∃ j, jobOf s = some j ∧ reportAct r s = haltAt j.rank (stepNow s) (periodNow s) 0x0102 0xFFFF s) ∨
      reportAct r s = addCandidate (r.items.getD 0 0) (r.items.getD 1 0) s ∨ reportAct r s = tornShard s := by
  simp only [reportAct, failSchool]
  split
  · split
    · exact .inl rfl
    · next j hj =>
      split
      · exact .inr (.inl ⟨j, hj, rfl⟩)
      · exact .inl rfl
  · split
    · exact .inr (.inr (.inl rfl))
    · split
      · exact .inr (.inr (.inr rfl))
      · exact .inl rfl

theorem addCandidate_frame (k row : Nat) (s : State) : (addCandidate k row s).chip = s.chip ∧
    (addCandidate k row s).dev = s.dev := by
  simp only [addCandidate]
  split
  · exact ⟨rfl, rfl⟩
  · exact ⟨rfl, rfl⟩

theorem reportAct_reports (r : Report) (s : State) : (reportAct r s).chip.reports = s.chip.reports := by
  rcases reportAct_cases r s with h | ⟨j, -, h⟩ | h | h <;> rw [h]
  · exact haltAt_reports _ _ _ _ _ s
  · rw [(addCandidate_frame _ _ s).1]
  · rfl

theorem Waits.mem_reportAct {e : LogEntry} {s : State} (h : Waits 0x0502 0x0518 [e] s) (r : Report) :
    e ∈ (reportAct r s).dev.warden.waiting := by
  rcases reportAct_cases r s with ha | ⟨j, -, ha⟩ | ha | ha <;> rw [ha]
  · exact h.mem e (List.mem_cons_self ..)
  · exact h.mem_haltAt _ _ _ _ _
  · rw [(addCandidate_frame _ _ s).2]; exact h.mem e (List.mem_cons_self ..)
  · exact h.mem e (List.mem_cons_self ..)

theorem reportsReachTheLog_holds : ReportsReachTheLog := by
  intro s node
  refine ⟨fun h => ?_, fun p q r hup hr hp hn => ⟨reportIn node s, rfl, ?_⟩⟩
  · refine congrArg Host.Outcome.next (show reportIn node s = s from ?_)
    unfold reportIn
    rcases h with h | h
    · simp [h]
    · have : s.chip.reports.find? (fun r => r.node == node.val) = none := by
        rw [List.find?_eq_none]; intro x hx; simpa using h x hx
      split
      · rfl
      · simp only [this]
  · have hf : s.chip.reports.find? (fun r => r.node == node.val) = some r := by
      rw [hr]; exact find?_after q (fun y hy => by simpa using hp y hy) (by simpa using hn)
    have he : s.chip.reports.erase r = p ++ q := by
      rw [hr]; exact erase_after q (fun h => hp r h hn)
    have hin : reportIn node s = reportAct r (logEvent node r.code (reportData r.code r.items)
        (modChip (fun c => { c with reports := c.reports.erase r }) s)) := by
      simp only [reportIn, hup, Bool.not_true, Bool.false_eq_true, if_false, hf]
    rw [hin]
    obtain ⟨s1, hs1⟩ : ∃ s1, modChip (fun c => { c with reports := c.reports.erase r }) s = s1 := ⟨_, rfl⟩
    have h1 : s1.dev = s.dev ∧ s1.chip.reports = p ++ q ∧ s1.chip.nowUs = s.chip.nowUs ∧ s1.chip.regs = s.chip.regs := by
      rw [← hs1]; exact ⟨rfl, he, rfl, rfl⟩
    rw [hs1]
    obtain ⟨hdev, hrep, hnow, hregs⟩ := h1
    refine ⟨?_, fun hroom => ⟨logEntry node r.code (reportData r.code r.items) s1, ?_, rfl, rfl, hnow, fun hc => ?_⟩, fun ht => ?_, ?_⟩
    · rw [reportAct_reports, logEvent_chip, hrep]
    · have hlen : s1.dev.warden.waiting.length < 120 := by rw [hdev]; exact hroom
      have hw := logEvent_waiting (src := node) (code := r.code) (data := reportData r.code r.items) (s := s1) (by omega)
      refine Waits.mem_reportAct ⟨by rw [hw]; simp [logEntry], ?_⟩ r
      simp only [logLoad, hw, List.length_append, List.length_singleton]
      have := Bool.toNat_le (refusalDue (logEvent node r.code (reportData r.code r.items) s1) 0x0502)
      have := Bool.toNat_le (refusalDue (logEvent node r.code (reportData r.code r.items) s1) 0x0518)
      omega
    · simp [logEntry, reportData, hc]
    · have h2 : r.code ≠ 0x0102 ∧ r.code ≠ 0x0202 := by rcases ht with h | ⟨h, -⟩ <;> rw [h] <;> decide
      simp only [reportAct, h2.1, h2.2, false_and, if_false, if_pos ht]
      rfl
    · intro j hc hi hj hd hh
      have hd' : dstate (logEvent node r.code (reportData r.code r.items) s1) = 4 := by
        rw [logEvent_dstate, dstate, hdev]; exact hd
      have hj' : jobOf (logEvent node r.code (reportData r.code r.items) s1) = some j := by rw [logEvent_job, jobOf, hdev]; exact hj
      have hst : stepNow (logEvent node r.code (reportData r.code r.items) s1) = stepNow s := by
        rw [stepNow, logEvent_chip, rawReg_of_regs hregs, stepNow]
      simp only [reportAct, if_pos (And.intro hc hi), failSchool, hj', if_pos hd', haltSchool, hst]
      exact haltAt_halts hj' (by rw [logEvent_bell, hdev]; exact hh) _ _ _

end Sys2Proof.Machine
end

section
/-! PROOFS. Core pigeonholes (spec/14 R504, R505): the words of a window read back as they were written, messages are taken,
logged and answered. -/

open Sys2Proof Sys2Proof.Machine
namespace Sys2Proof.Machine

/-! ### Words above classroom memory: the windows of the cores (R36, R38) -/

theorem inHbm_above {a : Nat} (h : clsEnd ≤ a) : inHbm a = false := by
  simp only [inHbm, hbmEnd, clsEnd, clsBase, clsWords, decide_eq_false_iff_not, not_lt] at h ⊢; omega
theorem inCls_above {a : Nat} (h : clsEnd ≤ a) : inCls a = false := by
  simp [inCls, Nat.not_lt.mpr h]
theorem inHome_above (c : Chip) {a : Nat} (h : clsEnd ≤ a) : inHome c a = false := by
  simp [inHome, inCls_above h]

/-- A word above classroom memory reads as it stands. -/
theorem physWord_above (c : Chip) {a : Nat} (h : clsEnd ≤ a) : physWord c a = wordAt c.mem a := by
  simp [physWord, inHbm_above h, inCls_above h]

theorem rdWord_above (c : Chip) (spec : Bool) {a : Nat} (h : clsEnd ≤ a) : (rdWord c spec a).1 = wordAt c.mem a := by
  simp [rdWord, physRd, inHome_above c h, physWord_above c h]

theorem rdWords_above (c : Chip) (spec : Bool) (n : Nat) : ∀ {a : Nat}, clsEnd ≤ a →
    (rdWords c spec a n).map Prod.fst = (List.range n).map (fun i => wordAt c.mem (a + i)) := by
  induction n with
  | zero => exact fun _ => rfl
  | succ n ih =>
    intro a h
    rw [rdWords, List.map_cons, rdWord_above c spec h, ih (by omega), List.range_succ_eq_map, List.map_cons, List.map_map]
    congr 1
    apply List.map_congr_left
    intro i _
    simp only [Function.comp, Nat.succ_eq_add_one]
    congr 1
    omega

theorem putWord_above (c : Chip) (spec : Bool) {a : Nat} (w : Word) (h : clsEnd ≤ a) :
    (putWord c spec a w).1.mem = setWord c.mem a w := by
  simp [putWord, inHome_above c h, recrypt, inHbm_above h, setPhys]

theorem putWords_above (ws : List Word) : ∀ (c : Chip) (spec : Bool) {a : Nat}, clsEnd ≤ a →
    (putWords c spec (atRun a ws)).1.mem = setRun c.mem a ws := by
  induction ws with
  | nil => exact fun _ _ _ _ => rfl
  | cons w ws ih =>
    intro c spec a h
    simp only [atRun, putWords, setRun]
    rw [ih _ spec (by omega), putWord_above c spec w h]

/-- Words written above classroom memory stand there. -/
theorem wrWords_above (c : Chip) (spec : Bool) {a : Nat} (ws : List Word) (h : clsEnd ≤ a) :
    (wrWords c spec a ws).mem = setRun c.mem a ws := by
  simp only [wrWords, wrMarked, wrOwn, spoil_mem, markUnits_mem, putWords_above ws c spec h]

theorem window_above (core : Fin 1024) (i : Nat) : clsEnd ≤ pgnBase + 256 * core.val + i := by
  simp only [clsEnd, clsBase, clsWords, pgnBase]; omega

/-- The bit of PIGEON_EN of a core (R56, R57). -/
theorem pigeonEn_eq (c : Chip) (core : Nat) : natBit (getF c (clsB (coreRoom core)) 0x010 31 16) (corePos core) =
    (rawReg c (.cls (Fin.ofNat 64 (core / 16))) 0x010).getLsbD (16 + core % 16) := by
  have : core % 16 < 16 := Nat.mod_lt _ (by decide)
  simp [natBit_eq_testBit, getF, testBit_field16 _ 16, corePos, this, clsB, coreRoom]

/-! ### Core pigeonholes (R504, R505) -/

theorem pgnWord_eq (c : Chip) (core : Fin 1024) (i : Nat) :
    pgnWord c core i = (rdWord c false (pgnBase + 256 * core.val + i)).1.toNat := by
  rw [pgnWord, physWord_above _ (window_above core i), rdWord_above _ _ (window_above core i)]

/-- A message of an enabled window with GO set is taken: GO is cleared, the message waits at the Warden. -/
theorem corePigeonMessage_taken {s : State} {core : Fin 1024}
    (hp : powered s = true) (hgo : 2 ^ 15 ≤ (rdWord s.chip false (pgnBase + 256 * core.val)).1.toNat)
    (hm : ∀ m ∈ s.dev.warden.msgs, m.core ≠ core.val)
    (hen : (rawReg s.chip (.cls (Fin.ofNat 64 (core.val / 16))) 0x010).getLsbD (16 + core.val % 16) = true) :
    ∃ m : CoreMsg, corePigeonMessage core s = modWarden (fun x => { x with msgs := x.msgs ++ [m] })
        (modChip (fun c => wrWords c false (pgnBase + 256 * core.val) [BitVec.ofNat 16 (natBits (pgnWord s.chip core 0) 14 0)]) s) ∧
      m = ⟨core, pgnWord s.chip core 1 % 8, natBits (pgnWord s.chip core 0) 7 0,
        (rdWords s.chip false (pgnBase + 256 * core.val + 2) (min 126 (natBits (pgnWord s.chip core 0) 14 8))).map Prod.fst,
        if natBits (pgnWord s.chip core 0) 7 0 ≠ 1 ∧ natBits (pgnWord s.chip core 0) 7 0 ≠ 2 then some (1, [])
        else if 126 < natBits (pgnWord s.chip core 0) 14 8 then some (2, []) else none⟩ := by
  refine ⟨_, ?_, rfl⟩
  have hb : natBit (pgnWord s.chip core 0) 15 = true := by
    rw [pgnWord_eq, Nat.add_zero, natBit, beq_iff_eq]
    have := (rdWord s.chip false (pgnBase + 256 * core.val)).1.isLt
    omega
  have hany : s.dev.warden.msgs.any (fun m => m.core == core.val) = false := by
    rw [List.any_eq_false]; intro m h; simpa using hm m h
  simp only [corePigeonMessage, hp, hb, hany, pigeonEn_eq, hen, Bool.not_true, Bool.or_self, Bool.false_eq_true, if_false]

theorem wordAt_run (m : List Host.Cell) (a : Nat) (ws : List Word) (i : Nat) (h : i < ws.length) :
    wordAt (setRun m a ws) (a + i) = ws[i] := wordAt_setRun ws m a i h

theorem unitsOf_length : ∀ ws : List Word, (unitsOf ws).length = (ws.length + 1) / 2
  | [] => rfl
  | [_] => by simp [unitsOf]
  | _ :: _ :: ws => by simp only [unitsOf, List.length_cons, unitsOf_length ws]; omega

/-- One event in several entries leaves the package and the messages alone. -/
theorem logUnits_frame (src code n : Nat) : ∀ (us : List Nat) (s : State), (logUnits src code us n s).chip = s.chip ∧
    (logUnits src code us n s).dev.warden.msgs = s.dev.warden.msgs := by
  induction n with
  | zero => exact fun us s => by simp [logUnits]
  | succ n ih =>
    intro us s
    obtain ⟨hc, hm⟩ := ih (us.drop 3) (logEvent src code (us.take 3) s)
    exact ⟨hc.trans (logEvent_chip _ _ _ _), hm.trans (logEvent_msgs _ _ _ _)⟩

/-- An entry waits while the further entries of an event fit behind it. -/
theorem mem_logUnits {e : LogEntry} (src code n : Nat) : ∀ (us : List Nat) {s : State}, e ∈ s.dev.warden.waiting →
    s.dev.warden.waiting.length + n < 128 → e ∈ (logUnits src code us n s).dev.warden.waiting := by
  induction n with
  | zero => exact fun us s h _ => by simpa [logUnits] using h
  | succ n ih =>
    intro us s h hl
    have hw := logEvent_waiting (src := src) (code := code) (data := us.take 3) (s := s) (by omega)
    exact ih _ (by rw [hw]; exact List.mem_append_left _ h) (by rw [hw, List.length_append, List.length_singleton]; omega)

/-- The first entry of an event holds its first units. -/
theorem first_mem_logUnits {src code n : Nat} {us : List Nat} {s : State} (hn : 0 < n) (h : s.dev.warden.waiting.length + n < 128) :
    logEntry src code (us.take 3) s ∈ (logUnits src code us n s).dev.warden.waiting := by
  obtain ⟨n, rfl⟩ := Nat.exists_eq_add_one.mpr hn
  have hw := logEvent_waiting (src := src) (code := code) (data := us.take 3) (s := s) (by omega)
  exact mem_logUnits src code n (us.drop 3) (s := logEvent src code (us.take 3) s) (by rw [hw]; simp)
    (by rw [hw, List.length_append, List.length_singleton]; omega)

theorem setReply_msgs {m : CoreMsg} {s : State} (h : m ∈ s.dev.warden.msgs) (st : Nat) (ws : List Word) :
    ∃ x ∈ (setReply m st ws s).dev.warden.msgs, x.core = m.core ∧ x.reply = some (st, ws) :=
  ⟨{ m with reply := some (st, ws) }, List.mem_map.mpr ⟨m, h, by simp⟩, rfl, rfl⟩

/-- The message that the Warden answers next (R504, R505). -/
theorem msgOf_after {s : State} {core kind : Nat} {a q : List CoreMsg} {m : CoreMsg} (hs : s.dev.warden.msgs = a ++ m :: q)
    (ha : ∀ x ∈ a, x.core ≠ core) (hc : m.core = core) (hk : m.kind = kind) (hr : m.reply = none) : msgOf core kind s = some m := by
  rw [msgOf, hs]
  exact find?_after q (fun y hy => by simp [ha y hy]) (by simp [hc, hk, hr])

theorem regRead_belStep (c : Chip) : (regRead c .bel 0x012).toNat = (rawReg c .bel 0x012).toNat := by
  have hf : fieldsAt .bel 0x012 = [⟨0x012, 31, 0, .ro, 0x0⟩] := rfl
  have hb : natBits (rawReg c .bel 0x012).toNat 31 0 = (rawReg c .bel 0x012).toNat := by
    have := (rawReg c .bel 0x012).isLt
    rw [natBits]; omega
  simp [regRead, blockKind, hf, regHeld, regKey, hb]

theorem corePigeonholes_holds : CorePigeonholes := by
  intro s core c base w kind len en
  have hbase : clsEnd ≤ base := window_above core 0
  refine ⟨fun hp hgo hm hen => ?_, fun m a q hup hs ha hc hr => ⟨fun hk => ?_, fun hk => ?_⟩, fun m a q r hs ha hc hr h1 h2 h3 => ?_⟩
  · obtain ⟨m, hx, hm⟩ := corePigeonMessage_taken hp hgo hm hen
    have hw := (rdWord c false base).1.isLt
    have h0 : pgnWord s.chip core 0 = w := pgnWord_eq c core 0
    have hkind : natBits w 7 0 = kind := by simp [natBits, kind]
    have hlen : natBits w 14 8 = len := by simp [natBits, len]
    refine ⟨_, congrArg Host.Outcome.next hx, ?_, m, rfl, ?_, ?_, ?_, ?_, ?_⟩
    · rw [h0]
      rw [show ∀ t : State, (modWarden (fun x => { x with msgs := x.msgs ++ [m] }) t).chip = t.chip from fun _ => rfl,
        modChip_chip, rdWord_above _ _ hbase, wrWords_above _ _ _ hbase]
      exact (congrArg BitVec.toNat (wordAt_setWord_self _ _ _)).trans (by simp only [natBits, BitVec.toNat_ofNat]; omega)
    all_goals rw [hm]
    · exact hkind ▸ h0 ▸ rfl
    · rw [pgnWord_eq]
    · rw [h0, hlen]
    · rw [h0, hlen, hkind]
  · have hmem : m ∈ s.dev.warden.msgs := by rw [hs]; simp
    obtain ⟨t, ht, hlog⟩ : ∃ t, t = logUnits (blockNode (clsB (coreRoom core))) 0x0105 (unitsOf m.payload ++ [m.core, m.strand])
        (((unitsOf m.payload ++ [m.core, m.strand]).length + 2) / 3) s ∧ pigeonLog core s = setReply m 0 [] t := by
      refine ⟨_, rfl, ?_⟩
      simp only [pigeonLog, hup, Bool.not_true, Bool.false_eq_true, if_false, msgOf_after hs ha hc hk hr]
    obtain ⟨htc, htm⟩ := logUnits_frame (blockNode (clsB (coreRoom core))) 0x0105
      (((unitsOf m.payload ++ [m.core, m.strand]).length + 2) / 3) (unitsOf m.payload ++ [m.core, m.strand]) s
    rw [← ht] at htc htm
    refine ⟨_, congrArg Host.Outcome.next hlog, ?_, fun hw hl => ?_, htc⟩
    · obtain ⟨x, hx, hxc, hxr⟩ := setReply_msgs (htm ▸ hmem) 0 []
      exact ⟨x, hx, hxc.trans hc, hxr⟩
    · have hlen : (unitsOf m.payload ++ [m.core, m.strand]).length = (m.payload.length + 1) / 2 + 2 := by
        simp [unitsOf_length]
      have hroom : s.dev.warden.waiting.length + ((unitsOf m.payload ++ [m.core, m.strand]).length + 2) / 3 < 128 := by
        rw [hlen]; omega
      refine ⟨_, by rw [ht]; exact first_mem_logUnits (by rw [hlen]; omega) hroom, rfl, ?_, by simp [logEntry]⟩
      simp only [logEntry, clsB, blockNode, coreRoom, Fin.val_ofNat]
      omega
  · have hq : pigeonQuery core s = setReply m 0 (natWords (regRead s.chip .bel 0x012).toNat 2 ++
        natWords (regRead s.chip .bel 0x014).toNat 2 ++ natWords (dstate s) 2) s := by
      simp only [pigeonQuery, hup, Bool.not_true, Bool.false_eq_true, if_false, msgOf_after hs ha hc hk hr]
    obtain ⟨x, hx, hxc, hxr⟩ := setReply_msgs (m := m) (s := s) (by rw [hs]; simp) 0 (natWords (regRead s.chip .bel 0x012).toNat 2 ++
        natWords (regRead s.chip .bel 0x014).toNat 2 ++ natWords (dstate s) 2)
    exact ⟨_, congrArg Host.Outcome.next hq, rfl, x, hx, hxc.trans hc, by rw [hxr, regRead_belStep]; rfl⟩
  · have hf : s.dev.warden.msgs.find? (fun m => m.core == core.val && m.reply.isSome) = some m := by
      rw [hs]; exact find?_after q (fun y hy => by simp [ha y hy]) (by simp [hc, hr])
    have he : s.dev.warden.msgs.erase m = a ++ q := by
      rw [hs]; exact erase_after q (fun h => ha m h hc)
    obtain ⟨ws, hws⟩ : ∃ ws, ws = [BitVec.ofNat 16 (2 ^ 15 + r.1), BitVec.ofNat 16 r.2.length] ++ r.2 := ⟨_, rfl⟩
    have hx : corePigeonReply core s = modChip (fun c => setIpend 1 (strandId core m.strand) (pgnWrite core 0x80 ws c))
        (modWarden (fun w => { w with msgs := w.msgs.erase m }) s) := by
      simp only [corePigeonReply, hf, hr, Option.getD_some, hws]
    refine ⟨_, congrArg Host.Outcome.next hx, he, fun hen => ?_, fun hen => ?_, ?_⟩
    · have hmem : (setIpend 1 (strandId core m.strand) (pgnWrite core 0x80 ws c)).mem = setRun c.mem (base + 0x80) ws := by
        simp only [setIpend, modStrand_mem, pgnWrite, pigeonEn_eq]
        exact (congrArg Chip.mem (if_pos hen)).trans (wrWords_above c false ws (window_above core 0x80))
      have word (i : Nat) (h : i < ws.length) (k : Nat) (hk : k = base + 0x80 + i) :
          (rdWord (setIpend 1 (strandId core m.strand) (pgnWrite core 0x80 ws c)) false k).1 = ws[i] := by
        rw [hk, rdWord_above _ _ (by omega), hmem, wordAt_setRun]
      have hlen : ws.length = r.2.length + 2 := by simp [hws]
      refine ⟨?_, ?_, ?_⟩
      · refine (congrArg BitVec.toNat (word 0 (by omega) _ rfl)).trans ?_
        simp only [hws, List.cons_append, List.nil_append, List.getElem_cons_zero, BitVec.toNat_ofNat]
        omega
      · refine (congrArg BitVec.toNat (word 1 (by omega) _ rfl)).trans ?_
        simp only [hws, List.cons_append, List.nil_append, List.getElem_cons_succ, List.getElem_cons_zero, BitVec.toNat_ofNat]
        omega
      · refine (rdWords_above _ false _ (by omega)).trans (List.ext_getElem (by simp) fun i h1 h2 => ?_)
        have hi : i + 2 < ws.length := by omega
        have hw := word (i + 2) hi (base + 0x82 + i) (by omega)
        rw [rdWord_above _ _ (by omega)] at hw
        simp only [List.getElem_map, List.getElem_range]
        refine hw.trans ?_
        simp [hws]
    · simp only [modChip_chip, modWarden_chip, setIpend, modStrand_mem, pgnWrite, pigeonEn_eq]
      exact congrArg Chip.mem (if_neg (by rw [show BitVec.getLsbD _ _ = false from hen]; decide))
    · have hu : (⟨core, Fin.ofNat 8 m.strand⟩ : StrandId) = strandId core m.strand := by
        simp [strandId]
      rw [hu, modChip_chip, setIpend, strandOf_modStrand_self, natBit_eq_testBit]
      simp [creg, setCreg]

end Sys2Proof.Machine

/-- Settles O42: the ring by the splits of its lists at the transaction that moves, the reports by an entry that waits in the
log whatever the wakes of a halt log behind it, the pigeonholes by the words of a window read back. -/
theorem ringTransactionsAndReports : Obligations.RingTransactionsAndReports :=
  ⟨ringTransactions_holds, reportsReachTheLog_holds, corePigeonholes_holds⟩
end

section
/-! PROOFS. Bytes in and out of the pigeonholes (spec/14 R497, R501): numbers as bytes, runs of bytes in a table, and the
response that a command leaves at DONE. -/

open Sys2Proof Sys2Proof.Machine
namespace Sys2Proof.Machine

/-! ### Numbers as bytes -/

@[simp] theorem natBytes_length (n : Nat) : ∀ v, (natBytes v n).length = n := by
  induction n with
  | zero => exact fun _ => rfl
  | succ n ih => exact fun v => by simp [natBytes, ih]

@[simp] theorem bytesNat_natBytes (n : Nat) : ∀ v, bytesNat (natBytes v n) = v % 256 ^ n := by
  induction n with
  | zero => intro v; simp [natBytes, bytesNat, Nat.mod_one]
  | succ n ih =>
    intro v
    have hm : v % (256 * 256 ^ n) = v % 256 + 256 * (v / 256 % 256 ^ n) := Nat.mod_mul
    rw [natBytes, bytesNat, ih, BitVec.toNat_ofNat, show 256 ^ (n + 1) = 256 * 256 ^ n from pow_succ' 256 n, hm]

theorem bytesNat_lt : ∀ l : List Byte, bytesNat l < 256 ^ l.length
  | [] => by simp [bytesNat]
  | b :: l => by
    have := bytesNat_lt l
    have := b.isLt
    rw [bytesNat, List.length_cons, pow_succ]
    omega

/-- A run of bytes within a longer one. -/
theorem slice_append_middle (a b c : List Byte) {i n : Nat} (hi : i = a.length) (hn : n = b.length) :
    slice (a ++ (b ++ c)) i n = b := by
  subst hi; subst hn
  simp [slice]

/-- One record of a run of records of one length. -/
theorem slice_flatMap {α : Type} {f : α → List Byte} {w : Nat} (hf : ∀ x, (f x).length = w) :
    ∀ (l : List α) (i k n : Nat) (h : i < l.length), k + n ≤ w → slice (l.flatMap f) (w * i + k) n = slice (f l[i]) k n
  | [], i, _, _, h, _ => by cases h
  | x :: l, 0, k, n, _, hk => by
    have : (f x).drop k ++ l.flatMap f = ((x :: l).flatMap f).drop k := by
      rw [List.flatMap_cons, List.drop_append_of_le_length (by rw [hf]; omega)]
    rw [slice, Nat.mul_zero, Nat.zero_add, ← this, List.take_append_of_le_length (by rw [List.length_drop, hf]; omega)]
    rfl
  | x :: l, i + 1, k, n, h, hk => by
    have hd : w * (i + 1) + k = (f x).length + (w * i + k) := by rw [hf]; ring
    rw [slice, hd, List.flatMap_cons, ← List.drop_drop, List.drop_left, List.getElem_cons_succ]
    exact slice_flatMap hf l i k n (by simpa using h) hk

theorem length_flatMap_const {α : Type} {f : α → List Byte} {w : Nat} (hf : ∀ x, (f x).length = w) (l : List α) :
    (l.flatMap f).length = w * l.length := by
  induction l with
  | nil => simp
  | cons x l ih => rw [List.flatMap_cons, List.length_append, hf, ih, List.length_cons]; ring

/-! ### Runs of bytes in a table -/

theorem tget_putBytes_below (d : Byte) : ∀ (bs : List Byte) (t : Table Byte) (i j : Nat), j < i →
    tget (fun _ => d) (putBytes d t i bs) j = tget (fun _ => d) t j
  | [], _, _, _, _ => rfl
  | b :: bs, t, i, j, h => by
    rw [putBytes, tget_putBytes_below d bs _ _ _ (by omega), tget_tput_ne _ _ _ (by omega)]

theorem tget_putBytes (d : Byte) : ∀ (bs : List Byte) (t : Table Byte) (i k : Nat) (h : k < bs.length),
    tget (fun _ => d) (putBytes d t i bs) (i + k) = bs[k]
  | [], _, _, _, h => by cases h
  | b :: bs, t, i, 0, _ => by rw [putBytes, tget_putBytes_below d bs _ _ _ (by omega)]; simp
  | b :: bs, t, i, k + 1, h => by
    rw [putBytes, show i + (k + 1) = i + 1 + k by omega, tget_putBytes d bs _ _ _ (by simpa using h)]
    rfl

theorem tbytes_length (d : Byte) (t : Table Byte) (n : Nat) : ∀ i, (tbytes d t i n).length = n := by
  induction n with
  | zero => exact fun _ => rfl
  | succ n ih => exact fun i => by simp [tbytes, ih]

theorem getElem_tbytes (d : Byte) (t : Table Byte) (n : Nat) : ∀ (i k : Nat) (h : k < (tbytes d t i n).length),
    (tbytes d t i n)[k] = tget (fun _ => d) t (i + k) := by
  induction n with
  | zero => intro i k h; simp [tbytes] at h
  | succ n ih =>
    intro i k h
    cases k with
    | zero => rfl
    | succ k => simp only [tbytes, List.getElem_cons_succ, ih]; congr 1; omega

/-- Bytes that were written read back. -/
theorem tbytes_putBytes (d : Byte) (t : Table Byte) (bs : List Byte) {i k n : Nat} (h : k + n ≤ bs.length) :
    tbytes d (putBytes d t i bs) (i + k) n = slice bs k n := by
  apply List.ext_getElem
  · rw [tbytes_length, slice, List.length_take, List.length_drop]; omega
  · intro j h1 h2
    have hj : j < n := by rwa [tbytes_length] at h1
    rw [getElem_tbytes, Nat.add_assoc, tget_putBytes d bs t i (k + j) (by omega)]
    simp [slice]

/-! ### The response of a command (R497) -/

theorem respBytes_length (seq : Nat) (r : Reply) : (respBytes seq r).length = 64 := by
  simp [respBytes]

/-- The fields of a response block at their offsets. -/
theorem slice_respBytes (seq : Nat) (r : Reply) :
    slice (respBytes seq r) 0 2 = natBytes r.status 2 ∧ slice (respBytes seq r) 4 4 = natBytes seq 4 ∧
      slice (respBytes seq r) 8 4 = natBytes r.data.length 4 ∧
      ∀ i < 6, slice (respBytes seq r) (0x10 + 8 * i) 8 = natBytes (r.res.getD i 0) 8 := by
  have hr : respBytes seq r = natBytes r.status 2 ++ (natBytes 0 2 ++ (natBytes seq 4 ++ (natBytes r.data.length 4 ++
      (natBytes 0 4 ++ (List.range 6).flatMap (fun i => natBytes (r.res.getD i 0) 8))))) := by
    simp only [respBytes, List.append_assoc]
  refine ⟨?_, ?_, ?_, fun i hi => ?_⟩
  · rw [hr]; exact slice_append_middle [] _ _ rfl (natBytes_length _ _).symm
  · rw [hr, ← List.append_assoc]; exact slice_append_middle _ _ _ (by simp) (natBytes_length _ _).symm
  · rw [hr, ← List.append_assoc, ← List.append_assoc]
    exact slice_append_middle _ _ _ (by simp) (natBytes_length _ _).symm
  · have hd : (respBytes seq r).drop 0x10 = (List.range 6).flatMap (fun i => natBytes (r.res.getD i 0) 8) := by
      rw [hr, ← List.append_assoc, ← List.append_assoc, ← List.append_assoc, ← List.append_assoc]
      exact List.drop_left' (by simp)
    calc slice (respBytes seq r) (0x10 + 8 * i) 8
        = slice ((List.range 6).flatMap (fun i => natBytes (r.res.getD i 0) 8)) (8 * i + 0) 8 := by
          rw [slice, ← List.drop_drop, hd]; rfl
      _ = slice (natBytes (r.res.getD i 0) 8) 0 8 := by
          rw [slice_flatMap (fun i => natBytes_length 8 (r.res.getD i 0)) (List.range 6) i 0 8 (by simpa using hi) (by omega),
            List.getElem_range]
      _ = natBytes (r.res.getD i 0) 8 := List.take_of_length_le (by simp)

/-- The status, SEQ, data and results of a response that stands in a pigeonhole. -/
theorem hasAnswer_of_bytes {s t : State} {ph : Nat} {r : Reply} {g0 d0 : Table Byte} (hst : (pigeonOf t ph).state = 3)
    (hr : (pigeonOf t ph).resp = putBytes 0 g0 0 (respBytes (cmdNat (pigeonOf s ph) 4 4) r))
    (hd : (pigeonOf t ph).data = putBytes 0 d0 0 r.data) (hs : r.status < 65536) :
    HasAnswer s t ph r.status r.res r.data := by
  have hl := respBytes_length (cmdNat (pigeonOf s ph) 4 4) r
  obtain ⟨h0, h4, h8, hres⟩ := slice_respBytes (cmdNat (pigeonOf s ph) 4 4) r
  have field (i n : Nat) (h : i + n ≤ 64) : respN (pigeonOf t ph) i n = bytesNat (slice (respBytes (cmdNat (pigeonOf s ph) 4 4) r) i n) := by
    rw [respN, hr]
    simpa using congrArg bytesNat (tbytes_putBytes 0 g0 _ (i := 0) (k := i) (n := n) (by omega))
  have hseq : cmdNat (pigeonOf s ph) 4 4 < 256 ^ 4 := by
    simpa [cmdNat, tbytes_length] using bytesNat_lt (tbytes 0 (pigeonOf s ph).cmd 4 4)
  refine ⟨hst, ?_, ?_, ?_, fun i hi => ?_, ?_⟩
  · rw [field 0 2 (by decide), h0, bytesNat_natBytes]; omega
  · rw [field 4 4 (by decide), h4, bytesNat_natBytes, Nat.mod_eq_of_lt hseq]
  · rw [field 8 4 (by decide), h8, bytesNat_natBytes]; rfl
  · rw [field _ 8 (by omega), hres i hi, bytesNat_natBytes]; rfl
  · rw [hd]
    simpa [slice] using tbytes_putBytes 0 d0 r.data (i := 0) (k := 0) (n := r.data.length) (by omega)

theorem sendVector_pigeon (p v ph : Nat) (s : State) : pigeonOf (sendVector p v s) ph = pigeonOf s ph := by
  unfold sendVector
  by_cases h : ph / 8 = p
  · subst h; simp [pigeonOf, flushVectors]
  · simp [pigeonOf, pcieOf_modPcie_ne _ _ h]

/-- What an answer leaves alone: all but the ports. -/
theorem answer_frame (ph : Nat) (long : Bool) (r : Reply) (s : State) : (answer ph long r s).chip = s.chip ∧
    (answer ph long r s).flash = s.flash ∧ (answer ph long r s).dev.warden = s.dev.warden ∧
    (answer ph long r s).dev.power = s.dev.power ∧ (answer ph long r s).dev.bell = s.dev.bell := by
  simp only [answer]
  split
  · simp [modPigeon]
  · split <;> simp [modPigeon, sendVector]

/-- A command that ends leaves its answer in its pigeonhole, and nothing in progress. -/
theorem finish_answers {c : Cmd} {r : Reply} {s t : State} (hd : (pigeonOf s c.ph).drop = false)
    (hp : pigeonOf t c.ph = pigeonOf s c.ph) (hs : r.status < 65536) :
    HasAnswer s (finish c r t) c.ph r.status r.res r.data ∧ (finish c r t).dev.warden.cur = none ∧
      (finish c r t).chip = t.chip ∧ (finish c r t).flash = t.flash := by
  obtain ⟨hc, hf, hw, -, -⟩ := answer_frame c.ph false r (modWarden (fun w => { w with cur := none }) t)
  refine ⟨?_, by rw [finish, hw]; rfl, hc, hf⟩
  have hg : pigeonOf (modWarden (fun w => { w with cur := none }) t) c.ph = pigeonOf s c.ph := hp
  have hx : pigeonOf (finish c r t) c.ph = { pigeonOf s c.ph with
      state := 3, resp := putBytes 0 (pigeonOf s c.ph).resp 0 (respBytes (cmdNat (pigeonOf s c.ph) 4 4) r)
      data := putBytes 0 (pigeonOf s c.ph).data 0 r.data } := by
    simp only [finish, answer, hg, hd, Bool.false_eq_true, if_false]
    split
    · rw [sendVector_pigeon, pigeonOf_modPigeon_self, hg, hd]
    · rw [pigeonOf_modPigeon_self, hg, hd]
  exact hasAnswer_of_bytes (by rw [hx]) (by rw [hx]) (by rw [hx]) hs

end Sys2Proof.Machine
end

section
/-! PROOFS. The event log, the settings, the job's status and the registers for a host (spec/14 R497 to R501, R527 to
R535). -/

open Sys2Proof Sys2Proof.Machine
namespace Sys2Proof.Machine

/-- The command in progress is performed by the command of its pigeonhole and opcode. -/
theorem perform_current {s : State} {p : Fin 2} {h : Fin 8} {op : Nat} {c : Cmd} (hc : Current s p h op c)
    (f : Cmd → State → State) : perform p h op s f = f c s := by
  obtain ⟨hcur, hph, hop, -⟩ := hc
  simp [perform, hcur, hph, hop]

/-- A command that ends by this answer, from a state that shows its pigeonhole unchanged. -/
theorem finishes_of {i : Instr} {s t : State} {p : Fin 2} {h : Fin 8} {op : Nat} {c : Cmd} {r : Reply} {P : State → Prop}
    (hc : Current s p h op c) (he : exec i s = .next (finish c r t)) (hp : pigeonOf t c.ph = pigeonOf s c.ph)
    (hs : r.status < 65536) (hP : ∀ u : State, u.chip = t.chip → u.flash = t.flash → P u) :
    Finishes i s c r.status r.res r.data P := by
  obtain ⟨ha, hcur, hchip, hflash⟩ := finish_answers hc.2.2.2 hp hs
  exact ⟨_, he, ha, hcur, hP _ hchip hflash⟩

/-! ### The entries of the event log -/

/-- A number at the front of a run of bytes. -/
theorem sliceNat_natBytes_append (v n : Nat) (l : List Byte) : sliceNat (natBytes v n ++ l) 0 n = v % 256 ^ n := by
  rw [sliceNat, ← bytesNat_natBytes n v]
  exact congrArg bytesNat (slice_append_middle [] _ _ rfl (natBytes_length _ _).symm)

/-- A number behind another one. -/
theorem sliceNat_skip (v n k m : Nat) (l : List Byte) : sliceNat (natBytes v n ++ l) (n + k) m = sliceNat l k m := by
  rw [sliceNat, slice, ← List.drop_drop, List.drop_left' (natBytes_length n v)]
  rfl

theorem entryBytes_eq (e : LogEntry) : entryBytes e = natBytes e.seq 4 ++ (natBytes e.boot 2 ++ (natBytes e.src 2 ++
    (natBytes e.code 2 ++ (natBytes e.sev 2 ++ (natBytes e.time 8 ++ (natBytes (e.data.getD 0 0) 4 ++
      (natBytes (e.data.getD 1 0) 4 ++ natBytes (e.data.getD 2 0) 4))))))) := by
  simp [entryBytes, List.range_succ]

theorem entryBytes_length (e : LogEntry) : (entryBytes e).length = 32 := by
  simp [entryBytes_eq]

/-- The fields of an entry at their offsets. -/
theorem sliceNat_entryBytes (e : LogEntry) : sliceNat (entryBytes e) 0 4 = e.seq % 2 ^ 32 ∧
    sliceNat (entryBytes e) 6 2 = e.src % 2 ^ 16 ∧ sliceNat (entryBytes e) 8 2 = e.code % 2 ^ 16 ∧
    sliceNat (entryBytes e) 12 8 = e.time % 2 ^ 64 ∧ sliceNat (entryBytes e) 20 4 = e.data.getD 0 0 % 2 ^ 32 := by
  rw [entryBytes_eq]
  have boot := sliceNat_skip e.seq 4
  have src := sliceNat_skip e.boot 2
  have code := sliceNat_skip e.src 2
  have sev := sliceNat_skip e.code 2
  have time := sliceNat_skip e.sev 2
  have data := sliceNat_skip e.time 8
  refine ⟨sliceNat_natBytes_append _ _ _, (boot 2 2 _).trans ?_, (boot 4 2 _).trans ((src 2 2 _).trans ?_),
    (boot 8 8 _).trans ((src 6 8 _).trans ((code 4 8 _).trans ((sev 2 8 _).trans ?_))), (boot 16 4 _).trans
    ((src 14 4 _).trans ((code 12 4 _).trans ((sev 10 4 _).trans ((time 8 4 _).trans ?_))))⟩
  · exact (src 0 2 _).trans (sliceNat_natBytes_append _ _ _)
  · exact (code 0 2 _).trans (sliceNat_natBytes_append _ _ _)
  · exact (time 0 8 _).trans (sliceNat_natBytes_append _ _ _)
  · exact (data 0 4 _).trans (sliceNat_natBytes_append _ _ _)

/-- What is read from a sequence number that is kept begins with its entry. -/
theorem logFrom_kept {s : State} {a b : List LogEntry} {e : LogEntry} (hk : logKept s = a ++ e :: b)
    (ha : ∀ x ∈ a, x.seq ≠ e.seq) : logFrom e.seq s = e :: b := by
  have hd : (keptLog s).dropWhile (fun x => x.seq != e.seq) = e :: b := by
    rw [show keptLog s = a ++ e :: b from hk, List.dropWhile_append_of_pos (fun x hx => by simpa using ha x hx)]
    simp
  simp only [logFrom, hd]

theorem eventRead_finishes {s : State} {p : Fin 2} {h : Fin 8} {c : Cmd} {a b : List LogEntry} {e : LogEntry} {n : Nat}
    (hc : Current s p h 0x0005 c) (hk : logKept s = a ++ e :: b) (ha : ∀ x ∈ a, x.seq ≠ argOf c 0) (he : e.seq = argOf c 0)
    (hn : n = min (min (argOf c 1) 16384) (b.length + 1)) :
    ∃ d, d.length = 32 * n ∧ Finishes (.eventRead p h) s c 0 [n] d (fun t => t.chip = s.chip) ∧
      ∀ i < n, ∃ x, (e :: b)[i]? = some x ∧ sliceNat d (32 * i) 4 = x.seq % 2 ^ 32 ∧
        sliceNat d (32 * i + 6) 2 = x.src % 2 ^ 16 ∧ sliceNat d (32 * i + 8) 2 = x.code % 2 ^ 16 ∧
        sliceNat d (32 * i + 12) 8 = x.time % 2 ^ 64 ∧ sliceNat d (32 * i + 20) 4 = x.data.getD 0 0 % 2 ^ 32 := by
  obtain ⟨l, hl⟩ : ∃ l, l = (e :: b).take (min (argOf c 1) 16384) := ⟨_, rfl⟩
  have hln : l.length = n := by rw [hn, hl, List.length_take, List.length_cons]
  refine ⟨l.flatMap entryBytes, by rw [length_flatMap_const entryBytes_length, hln], ?_, fun i hi => ?_⟩
  · refine finishes_of (r := ok [n] (l.flatMap entryBytes)) hc ?_ rfl (by simp [ok, stOk]) (fun u hu _ => hu)
    refine congrArg Host.Outcome.next ((perform_current hc eventRead).trans ?_)
    rw [eventRead, ← he, logFrom_kept hk (he ▸ ha), ← hl, hln]
  · have hi' : i < l.length := by rwa [hln]
    have hx : (e :: b)[i]? = some l[i] := by
      rw [← List.getElem?_eq_getElem hi', hl, List.getElem?_take, if_pos (by omega)]
    have at_ (k w : Nat) (hk : k + w ≤ 32) : sliceNat (l.flatMap entryBytes) (32 * i + k) w = sliceNat (entryBytes l[i]) k w := by
      rw [sliceNat, slice_flatMap entryBytes_length l i k w hi' hk]; rfl
    obtain ⟨h0, h6, h8, h12, h20⟩ := sliceNat_entryBytes l[i]
    exact ⟨_, hx, (at_ 0 4 (by decide)).trans h0, (at_ 6 2 (by decide)).trans h6, (at_ 8 2 (by decide)).trans h8,
      (at_ 12 8 (by decide)).trans h12, (at_ 20 4 (by decide)).trans h20⟩

/-! ### The log's flash region (R529, R535) -/

/-- While the entries fit the good blocks, none is erased. -/
theorem wrapLog_fits {good : List Nat} {f : Flash} (h : f.log.length ≤ 8192 * good.length) : ∀ n, wrapLog good f n = f
  | 0 => rfl
  | _ + 1 => if_pos (.inl h)

/-- Blocks of the log that wrap leave the marks, the settings and the image slots alone. -/
theorem wrapLog_frame (good : List Nat) : ∀ (n : Nat) (f : Flash), (wrapLog good f n).bad = f.bad ∧
    (wrapLog good f n).slotA = f.slotA ∧ (wrapLog good f n).settings = f.settings
  | 0, _ => ⟨rfl, rfl, rfl⟩
  | n + 1, f => by
    rw [wrapLog]
    split
    · exact ⟨rfl, rfl, rfl⟩
    · exact wrapLog_frame good n _

theorem flushLog_fits {s : State} (h : (logKept s).length ≤ 8192 * (goodBlocks s.flash 164 128).length) :
    (flushLog s).flash.log = logKept s ∧ (flushLog s).dev.warden.waiting = [] ∧ (flushLog s).chip = s.chip := by
  refine ⟨?_, rfl, rfl⟩
  simp only [flushLog, modWarden_flash, modFlash]
  rw [wrapLog_fits h]

theorem flushLog_frame (s : State) : (flushLog s).flash.bad = s.flash.bad ∧ (flushLog s).flash.slotA = s.flash.slotA ∧
    (flushLog s).flash.settings = s.flash.settings := wrapLog_frame _ _ _

/-- An event leaves the marks, the settings and the image slots alone. -/
theorem logEvent_flash (src code : Nat) (data : List Nat) (s : State) :
    (logEvent src code data s).flash.bad = s.flash.bad ∧ (logEvent src code data s).flash.slotA = s.flash.slotA ∧
      (logEvent src code data s).flash.settings = s.flash.settings := by
  simp only [logEvent, sendVector, modPcie_flash]
  split
  · exact flushLog_frame _
  · exact ⟨rfl, rfl, rfl⟩

/-- An entry that waits leaves the flash alone. -/
theorem logEvent_flash_waits {src code : Nat} {data : List Nat} {s : State} (h : s.dev.warden.waiting.length < 127) :
    (logEvent src code data s).flash = s.flash := by
  simp only [logEvent, sendVector, modPcie_flash]
  rw [if_neg (by simp; omega)]
  rfl

/-- The entry that fills the buffer goes to flash behind all that is kept. -/
theorem logEvent_flushes {src code : Nat} {data : List Nat} {s : State} (h : 127 ≤ s.dev.warden.waiting.length)
    (hl : (logKept s).length < 8192 * (goodBlocks s.flash 164 128).length) :
    (logEvent src code data s).dev.warden.waiting = [] ∧
      (logEvent src code data s).flash.log = logKept s ++ [logEntry src code data s] := by
  obtain ⟨t, ht⟩ : ∃ t, t = modWarden (fun w => { w with
    seq := (w.seq + 1) % 2 ^ 32, waiting := w.waiting ++ [logEntry src code data s] }) s := ⟨_, rfl⟩
  have hk : logKept t = logKept s ++ [logEntry src code data s] := by
    rw [ht]; exact (List.append_assoc _ _ _).symm
  have he : logEvent src code data s = sendVector 1 8 (sendVector 0 8 (flushLog t)) := by
    have hw : 128 ≤ (modWarden (fun w => { w with
        seq := (w.seq + 1) % 2 ^ 32, waiting := w.waiting ++ [logEntry src code data s] }) s).dev.warden.waiting.length := by
      simp; omega
    rw [ht]
    exact congrArg (fun t => sendVector 1 8 (sendVector 0 8 t)) (if_pos hw)
  obtain ⟨h1, h2, -⟩ := flushLog_fits (s := t) (by rw [hk, List.length_append, List.length_singleton, ht]; exact hl)
  rw [he]
  exact ⟨h2, h1.trans hk⟩

/-! ### The bell unit's counters (R428) -/

/-- A read of a bell unit's register shows its fields and clears those that a read clears. -/
theorem busRead_bel {off : Nat} {fs : List FieldRow} (he : off % 2 ≠ 1) (hf : fieldsAt .bel off = fs) (c : Chip) :
    busRead .bel off c = fs.foldl (fun c f => if f.acc = .rc then setF c .bel off f.hi f.lo 0 else c) { c with
      readOut := BitVec.ofNat 32 (fs.foldl (fun a f =>
        if f.acc = .wo then a else a + natBits (rawReg c .bel off).toNat f.hi f.lo * 2 ^ f.lo) 0) } := by
  subst hf
  exact if_neg he

/-- A read of a counter that has a register of its own shows what it holds, clears it, and leaves the others. -/
theorem busRead_counter {off : Nat} (he : off % 2 ≠ 1) (hf : fieldsAt .bel off = [⟨off, 31, 0, .rc, 0x0⟩]) (c : Chip) :
    (busRead .bel off c).readOut = rawReg c .bel off ∧ rawReg (busRead .bel off c) .bel off = 0 ∧
      ∀ n, n ≠ off → rawReg (busRead .bel off c) .bel n = rawReg c .bel n := by
  have hw := (rawReg c .bel off).isLt
  have hb : busRead .bel off c = setF { c with readOut := BitVec.ofNat 32 (0 + natBits (rawReg c .bel off).toNat 31 0 * 2 ^ 0) }
    .bel off 31 0 0 := busRead_bel he hf c
  rw [hb]
  refine ⟨?_, ?_, fun n hn => rawReg_setF_ne _ _ _ _ (.inr hn)⟩
  · apply BitVec.eq_of_toNat_eq
    simp only [setF_readOut, natBits, BitVec.toNat_ofNat]
    omega
  · apply BitVec.eq_of_toNat_eq
    rw [rawReg_setF_self _ _ _ _ _ _ (by decide) (by decide)]
    change natSetBits (rawReg c .bel off).toNat 31 0 0 = 0
    simp only [natSetBits, natBits]
    omega

/-- A read of the register of two counters shows what it holds, clears both, and leaves the others. -/
theorem busRead_counters {off : Nat} (he : off % 2 ≠ 1)
    (hf : fieldsAt .bel off = [⟨off, 31, 16, .rc, 0x0⟩, ⟨off, 15, 0, .rc, 0x0⟩]) (c : Chip) :
    (busRead .bel off c).readOut = rawReg c .bel off ∧ rawReg (busRead .bel off c) .bel off = 0 ∧
      ∀ n, n ≠ off → rawReg (busRead .bel off c) .bel n = rawReg c .bel n := by
  have hw := (rawReg c .bel off).isLt
  have hb : busRead .bel off c = setF (setF { c with readOut := BitVec.ofNat 32 (0 +
    natBits (rawReg c .bel off).toNat 31 16 * 2 ^ 16 + natBits (rawReg c .bel off).toNat 15 0 * 2 ^ 0) }
    .bel off 31 16 0) .bel off 15 0 0 := busRead_bel he hf c
  rw [hb]
  refine ⟨?_, ?_, fun n hn => (rawReg_setF_ne _ _ _ _ (.inr hn)).trans (rawReg_setF_ne _ _ _ _ (.inr hn))⟩
  · apply BitVec.eq_of_toNat_eq
    simp only [setF_readOut, natBits, BitVec.toNat_ofNat]
    omega
  · apply BitVec.eq_of_toNat_eq
    rw [rawReg_setF_self _ _ _ _ _ _ (by decide) (by decide), rawReg_setF_self _ _ _ _ _ _ (by decide) (by decide)]
    change natSetBits (natSetBits (rawReg c .bel off).toNat 31 16 0) 15 0 0 = 0
    simp only [natSetBits, natBits]
    omega

/-- The package after the sweep of the bell unit's counters. -/
def swept (c : Chip) : Chip := busRead .bel 0x01A (busRead .bel 0x018 (busRead .bel 0x016 c))

/-- The sweep clears the counters. -/
theorem swept_clears (c : Chip) : rawReg (swept c) .bel 0x016 = 0 ∧ rawReg (swept c) .bel 0x018 = 0 ∧
    rawReg (swept c) .bel 0x01A = 0 := by
  obtain ⟨-, h16, -⟩ := busRead_counters (off := 0x016) (by decide) rfl c
  obtain ⟨-, h18, k18⟩ := busRead_counter (off := 0x018) (by decide) rfl (busRead .bel 0x016 c)
  obtain ⟨-, h1A, k1A⟩ := busRead_counter (off := 0x01A) (by decide) rfl (busRead .bel 0x018 (busRead .bel 0x016 c))
  exact ⟨(k1A _ (by decide)).trans ((k18 _ (by decide)).trans h16), (k1A _ (by decide)).trans h18, h1A⟩

/-- The sweep logs what the counters held. -/
theorem rcCounterSweep_logs {s : State} (h : fwUp s = true) : rcCounterSweep s = logEvent 0 Config.sweepCode
    [(rawReg s.chip .bel 0x016).toNat, (rawReg s.chip .bel 0x018).toNat, (rawReg s.chip .bel 0x01A).toNat]
      (modChip swept s) := by
  obtain ⟨r16, -, k16⟩ := busRead_counters (off := 0x016) (by decide) rfl s.chip
  obtain ⟨r18, -, k18⟩ := busRead_counter (off := 0x018) (by decide) rfl (busRead .bel 0x016 s.chip)
  obtain ⟨r1A, -, -⟩ := busRead_counter (off := 0x01A) (by decide) rfl (busRead .bel 0x018 (busRead .bel 0x016 s.chip))
  have hs : rcCounterSweep s = logEvent 0 Config.sweepCode [(busRead .bel 0x016 s.chip).readOut.toNat,
      (busRead .bel 0x018 (busRead .bel 0x016 s.chip)).readOut.toNat, (swept s.chip).readOut.toNat] (modChip swept s) :=
    if_neg (by simp [h])
  rw [hs, r16, r18, k16 _ (by decide), show (swept s.chip).readOut = _ from r1A, k18 _ (by decide), k16 _ (by decide)]

/-- A bad block is marked and logged; its region's end may be logged too. -/
theorem flashBad_marks {s : State} {b : Nat} (hup : fwUp s = true) (hb : b < 324) (hbad : b ∉ s.flash.bad) :
    (flashBad b s).flash.bad = s.flash.bad ++ [b] ∧ (flashBad b s).flash.slotA = s.flash.slotA ∧
      (flashBad b s).flash.settings = s.flash.settings ∧
      (LogHasRoom s → ∃ e ∈ (flashBad b s).dev.warden.waiting, e.code = 0x0005) := by
  obtain ⟨t, ht⟩ : ∃ t, t = modFlash (fun f => { f with bad := f.bad ++ [b] }) s := ⟨_, rfl⟩
  obtain ⟨low, hx⟩ : ∃ low : Bool, flashBad b s = if low = true then logEvent 0 0x0007 [] (logEvent 0 0x0005 [] t)
      else logEvent 0 0x0005 [] t := by
    rw [ht]
    exact ⟨_, if_neg (by simp [hup, hbad]; omega)⟩
  have hm (hr : LogHasRoom s) : (logEvent 0 0x0005 [] t).dev.warden.waiting = s.dev.warden.waiting ++ [logEntry 0 0x0005 [] t] := by
    have hw : t.dev.warden.waiting = s.dev.warden.waiting := by rw [ht]; rfl
    rw [logEvent_waiting (by rw [hw]; exact Nat.lt_of_lt_of_le hr (by decide)), hw]
  obtain ⟨h1, h2, h3⟩ := logEvent_flash 0 0x0005 [] t
  have hf : t.flash = { s.flash with bad := s.flash.bad ++ [b] } := by rw [ht]; rfl
  rw [hf] at h1 h2 h3
  rw [hx]
  cases low
  · exact ⟨h1, h2, h3, fun hr => ⟨logEntry 0 0x0005 [] t, by rw [if_neg (by decide), hm hr]; simp, rfl⟩⟩
  · obtain ⟨k1, k2, k3⟩ := logEvent_flash 0 0x0007 [] (logEvent 0 0x0005 [] t)
    refine ⟨k1.trans h1, k2.trans h2, k3.trans h3, fun hr => ⟨logEntry 0 0x0005 [] t, ?_, rfl⟩⟩
    rw [if_pos rfl, logEvent_waiting (by rw [hm hr, List.length_append, List.length_singleton]; exact Nat.lt_of_lt_of_le (Nat.succ_lt_succ hr) (by decide)),
      hm hr]
    simp

theorem eventLog_holds : EventLog := by
  intro s
  refine ⟨fun p h c a e b hc hk ha he => ?_, fun hup hl => ?_, fun hup => ?_, fun blk hup hb hbad => ?_⟩
  · exact eventRead_finishes hc hk ha he rfl
  · exact ⟨flushLog s, congrArg Host.Outcome.next (if_pos hup), flushLog_fits hl⟩
  · obtain ⟨h16, h18, h1A⟩ := swept_clears s.chip
    obtain ⟨u, hu⟩ : ∃ u, u = modChip swept s := ⟨_, rfl⟩
    obtain ⟨l, hl⟩ : ∃ l, l = [(rawReg s.chip .bel 0x016).toNat, (rawReg s.chip .bel 0x018).toNat,
      (rawReg s.chip .bel 0x01A).toNat] := ⟨_, rfl⟩
    have hc : (logEvent 0 Config.sweepCode l u).chip = swept s.chip := by rw [logEvent_chip, hu]; rfl
    have hd : u.dev = s.dev := by rw [hu]; rfl
    have hf : u.flash = s.flash := by rw [hu]; rfl
    have hk : logKept u = logKept s := by rw [logKept, hd, hf]
    have he : (logEntry 0 Config.sweepCode l u).data = l := by rw [hl]; rfl
    refine ⟨logEvent 0 Config.sweepCode l u, congrArg Host.Outcome.next (by rw [hu, hl]; exact rcCounterSweep_logs hup),
      by rw [hc, getF, h16]; rfl, by rw [hc, getF, h16]; rfl, hc ▸ h18, hc ▸ h1A, ?_⟩
    simp only [← hl]
    refine ⟨fun hw => ?_, fun hw hs => ?_⟩
    · rw [← hd] at hw
      exact ⟨(logEvent_flash_waits hw).trans hf, _, by rw [logEvent_waiting hw]; simp, he⟩
    · rw [← hd] at hw
      rw [← hk, ← hf] at hs
      obtain ⟨h1, h2⟩ := logEvent_flushes (src := 0) (code := Config.sweepCode) (data := l) hw hs
      rw [h2, hk]
      exact ⟨h1, List.take_left, _, by simp, he⟩
  · exact ⟨_, rfl, flashBad_marks hup hb hbad⟩

/-! ### Settings (R345, R532, R534, R554) -/

theorem moved_settings (g : Flash) (a b : Nat) : ({ g with setFirst := a, setUsed := b } : Flash).settings = g.settings := rfl

/-- A compaction moves the records and changes none. -/
theorem compact_settings (f : Flash) : (compact f).settings = f.settings := by
  simp only [compact]
  split
  · rfl
  · refine (moved_settings _ _ _).trans (foldl_keeps (P := fun g => Flash.settings g = f.settings) ?_ _ f rfl)
    exact fun _ _ h => h

/-- A written record is the key's record, with the next SEQ; the other keys keep theirs. -/
theorem putSetting_of (key : Nat) (val : List Byte) (s : State) : ∃ r, settingOf (putSetting key val s).flash key = some r ∧
    r.val = val ∧ r.ver = (keyVer key).getD 1 ∧ (∀ q, settingOf s.flash key = some q → r.seq = q.seq + 1) ∧
    ∀ k, k ≠ key → settingOf (putSetting key val s).flash k = settingOf s.flash k := by
  obtain ⟨q, hq⟩ : ∃ q, q = (match settingOf s.flash key with | some r => r.seq + 1 | none => 1) := ⟨_, rfl⟩
  have hs : (putSetting key val s).flash.settings =
      s.flash.settings.filter (fun r => r.key != key) ++ [⟨key, (keyVer key).getD 1, q, val⟩] := by
    rw [hq]; exact compact_settings _
  refine ⟨⟨key, (keyVer key).getD 1, q, val⟩, ?_, rfl, rfl, fun r hr => by rw [hr] at hq; exact hq, fun k hk => ?_⟩
  · have hn : (s.flash.settings.filter (fun r => r.key != key)).find? (fun r => r.key == key) = none := by
      simp [List.find?_eq_none]
    rw [settingOf, hs, List.find?_append, hn]
    simp
  · rw [settingOf, hs, List.find?_append, List.find?_filter]
    have hk' : (fun r : Setting => decide ((r.key != key) = true ∧ (r.key == k) = true)) = fun r => r.key == k := by
      funext r; by_cases h : r.key = k <;> simp [h, hk]
    rw [hk']
    simp [settingOf, Ne.symm hk]

/-- The keys and values that SETTINGS_WRITE takes. -/
theorem settingOk_iff (key : Nat) (v : List Byte) (s : State) : settingOk key v s = true ↔
    (key = 1 ∧ v.length = 1 ∧ bytesNat v ≤ 1) ∨ (key = 2 ∧ v.length = 2 ∧ 1 ≤ bytesNat v ∧ bytesNat v ≤ 600) ∨
      (key = 0x105 ∧ v.length = 2 ∧ 600 ≤ bytesNat v ∧ bytesNat v ≤ 1200 ∧ bytesNat v ≤ bytesNat (settingVal s.flash 0x106)) ∨
      (key = 0x106 ∧ v.length = 2 ∧ bytesNat (settingVal s.flash 0x105) ≤ bytesNat v ∧ bytesNat v ≤ 1500) := by
  rw [← show plBurst s = bytesNat (settingVal s.flash 0x106) from rfl, ← show plSus s = bytesNat (settingVal s.flash 0x105) from rfl,
    settingOk]
  split_ifs with h1 h2 h3 h4
  · simp [h1]
  · simp [h2, and_assoc]
  · subst h3; simp [and_assoc]
  · subst h4; simp [and_assoc]
  · simp [h1, h2, h3, h4]

/-- A key whose value the Warden keeps as a record alone. -/
theorem liveValue_none {key : Nat} (s : State) (h : key ≠ 0x40) (h' : key < 0x100 ∨ 0x104 < key) : liveValue key s = none := by
  unfold liveValue
  rw [if_neg h, if_neg (by omega), if_neg (by omega)]

/-- What a key shows that the Warden keeps as a record: its record, or its default. -/
theorem settingRead_of {key : Nat} {s : State} (h : liveValue key s = none) :
    (∀ r v, settingOf s.flash key = some r → keyVer key = some v → r.ver ≤ v → settingRead key s = (r.ver, r.val)) ∧
      (settingOf s.flash key = none → settingRead key s = (0, keyDefault key)) := by
  refine ⟨fun r v hr hv hle => ?_, fun hr => ?_⟩
  · simp [settingRead, h, hr, hv, hle]
  · simp [settingRead, h, hr]

theorem settingsRead_finishes {s : State} {p : Fin 2} {h : Fin 8} {c : Cmd} (hc : Current s p h 0x0006 c) {v : Nat} {d : List Byte}
    (hr : settingRead (argOf c 0) s = (v, d)) : Finishes (.settingsRead p h) s c 0 [] (natBytes v 2 ++ d) (fun t => t.flash = s.flash) :=
  finishes_of (r := ok [] (natBytes v 2 ++ d)) hc
    (congrArg Host.Outcome.next ((perform_current hc settingsRead).trans (by rw [settingsRead, hr]))) rfl (show 0 < 65536 by decide)
    (fun _ _ hf => hf)

/-- The refusal counts, 8 bytes each. -/
theorem refusalBytes_fields (l : List Refused) : (refusalBytes l).length = 8 * l.length ∧
    ∀ i x, l[i]? = some x → sliceNat (refusalBytes l) (8 * i) 2 = x.refuser % 2 ^ 16 ∧
      sliceNat (refusalBytes l) (8 * i + 2) 1 = x.req % 2 ^ 8 ∧ sliceNat (refusalBytes l) (8 * i + 3) 1 = x.kind % 2 ^ 8 ∧
      sliceNat (refusalBytes l) (8 * i + 4) 4 = x.count % 2 ^ 32 := by
  have hlen (x : Refused) : (natBytes x.refuser 2 ++ natBytes x.req 1 ++ natBytes x.kind 1 ++ natBytes x.count 4).length = 8 := by simp
  refine ⟨length_flatMap_const hlen l, fun i x hx => ?_⟩
  obtain ⟨hi, hx⟩ := List.getElem?_eq_some_iff.mp hx
  have at_ (k w : Nat) (hk : k + w ≤ 8) : sliceNat (refusalBytes l) (8 * i + k) w =
      sliceNat (natBytes x.refuser 2 ++ (natBytes x.req 1 ++ (natBytes x.kind 1 ++ (natBytes x.count 4 ++ [])))) k w := by
    rw [sliceNat, refusalBytes, slice_flatMap hlen l i k w hi hk, hx]
    simp only [sliceNat, List.append_assoc, List.append_nil]
  have req := sliceNat_skip x.refuser 2
  have kind := sliceNat_skip x.req 1
  have count := sliceNat_skip x.kind 1
  exact ⟨(at_ 0 2 (by decide)).trans (sliceNat_natBytes_append _ _ _),
    (at_ 2 1 (by decide)).trans ((req 0 1 _).trans (sliceNat_natBytes_append _ _ _)),
    (at_ 3 1 (by decide)).trans ((req 1 1 _).trans ((kind 0 1 _).trans (sliceNat_natBytes_append _ _ _))),
    (at_ 4 4 (by decide)).trans ((req 2 4 _).trans ((kind 1 4 _).trans ((count 0 4 _).trans (sliceNat_natBytes_append _ _ _))))⟩

theorem settingsAndStatus_holds : SettingsAndStatus := by
  intro s p h c key n inRange
  refine ⟨fun hc hk hk' => ⟨fun r v hr hv hle => ?_, fun hr => ?_⟩, fun hc => ⟨fun hin => ?_, fun hin => ?_⟩, fun hc => ?_,
    fun hc => ?_, fun hup => ?_⟩
  · exact settingsRead_finishes hc ((settingRead_of (liveValue_none s hk hk')).1 r v hr hv hle)
  · exact settingsRead_finishes hc ((settingRead_of (liveValue_none s hk hk')).2 hr)
  · have hok : settingOk key c.data s = true := (settingOk_iff key c.data s).mpr hin
    have hv : (keyVer key).getD 1 = 1 := by
      rcases hin with ⟨hk, -⟩ | ⟨hk, -⟩ | ⟨hk, -⟩ | ⟨hk, -⟩ <;> rw [hk] <;> rfl
    obtain ⟨r, hr, hval, hver, hseq, hne⟩ := putSetting_of key c.data s
    refine finishes_of (r := ok [] []) hc (congrArg Host.Outcome.next ((perform_current hc settingsWrite).trans (if_pos hok)))
      rfl (show 0 < 65536 by decide) (fun u _ hf => ?_)
    rw [hf]
    exact ⟨r, hr, hval, hver.trans hv, hseq, hne⟩
  · have hok : ¬ settingOk key c.data s = true := fun h => hin ((settingOk_iff key c.data s).mp h)
    exact finishes_of (r := sayStatus stBadArg) hc
      (congrArg Host.Outcome.next ((perform_current hc settingsWrite).trans (if_neg hok))) rfl (show 3 < 65536 by decide) (fun _ _ hf => hf)
  · refine finishes_of (r := ok [stepNow s, (regRead s.chip .bel 0x014).toNat, dstate s] []) hc
      (congrArg Host.Outcome.next ((perform_current hc _).trans ?_)) rfl (show 0 < 65536 by decide) (fun _ hu _ => hu)
    rw [stepNow, regRead_belStep]
  · exact finishes_of (r := ok [] (settingVal s.flash (0x20 + argOf c 0))) hc
      (congrArg Host.Outcome.next (perform_current hc _)) rfl (show 0 < 65536 by decide) (fun _ _ hf => hf)
  · obtain ⟨r, hr, hval, -⟩ := putSetting_of 0x104 (refusalBytes s.dev.power.refusals) s
    refine ⟨_, congrArg Host.Outcome.next (if_pos hup), r, hr, ?_⟩
    rw [hval]
    exact refusalBytes_fields _

/-! ### Registers for a host (R39, R501, R579) -/

/-- A block stands at a node and a region of its own. -/
theorem blockNode_of_blockAt {node region : Nat} {b : BlockId} (h : blockAt node region = some b) : blockNode b = node := by
  unfold blockAt at h
  split_ifs at h
  all_goals cases h
  all_goals simp only [blockNode, Fin.val_ofNat]
  all_goals omega

theorem ctlAddr_of {node region off : Nat} {b : BlockId} (hn : node < 128) (hr : region < 64) (ho : off < 0x400)
    (he : off % 2 = 0) (hb : blockAt node region = some b) :
    ctlAddr (0x20000000000 + node * 0x10000 + region * 0x400 + off) = some (b, off) := by
  have hsub : 0x20000000000 + node * 0x10000 + region * 0x400 + off - 0x20000000000 = node * 0x10000 + region * 0x400 + off := by omega
  have hnode : (node * 0x10000 + region * 0x400 + off) / 0x10000 = node := by omega
  have hregion : (node * 0x10000 + region * 0x400 + off) % 0x10000 / 0x400 = region := by omega
  have hoff : (node * 0x10000 + region * 0x400 + off) % 0x400 = off := by omega
  rw [ctlAddr, if_neg (by omega)]
  simp only [hsub, hnode, hregion, hoff, hb, Option.map_some]

theorem regReadCmd_of {s : State} {c : Cmd} {b : BlockId} {off : Nat} (h : ctlAddr (argOf c 0) = some (b, off)) :
    regReadCmd c s = if nodeInReset s (blockNode b) = true then s else
      finish c (ok [(busRead b off s.chip).readOut.toNat] []) (modChip (busRead b off) s) := by
  rw [regReadCmd, h]; rfl

theorem regWriteCmd_of {s : State} {c : Cmd} {b : BlockId} {off : Nat} (h : ctlAddr (argOf c 0) = some (b, off)) :
    regWriteCmd c s = if nodeInReset s (blockNode b) = true then s else
      finish c (ok [(regRead (busWrite b off (BitVec.ofNat 32 (argOf c 1)) s.chip) b off).toNat] [])
        (modChip (busWrite b off (BitVec.ofNat 32 (argOf c 1))) s) := by
  rw [regWriteCmd, h]; rfl

theorem registersFromTheHost_holds : RegistersFromTheHost := by
  intro s p h c node region off b hn hr ho he hb ha
  have hat : ctlAddr (argOf c 0) = some (b, off) := ha ▸ ctlAddr_of hn hr ho he hb
  have hoff : (BitVec.ofNat 10 off).toNat = off := by rw [BitVec.toNat_ofNat]; omega
  have hnode : blockNode b = node := blockNode_of_blockAt hb
  have hread (hc : Current s p h 0x0008 c) : perform p h 0x0008 s regReadCmd = _ := (perform_current hc _).trans (regReadCmd_of hat)
  have hwrite (hc : Current s p h 0x0009 c) : perform p h 0x0009 s regWriteCmd = _ := (perform_current hc _).trans (regWriteCmd_of hat)
  rw [hnode] at hread hwrite
  refine ⟨fun hrst => ⟨fun hc => congrArg Host.Outcome.next ((hread hc).trans (if_pos hrst)),
    fun hc => congrArg Host.Outcome.next ((hwrite hc).trans (if_pos hrst))⟩, fun hc hrst => ?_, fun hc hrst => ?_⟩
  · refine ⟨busRead b off s.chip, congrArg (fun o => Host.Outcome.next (s.withChip (busRead b o s.chip))) hoff, ?_⟩
    exact finishes_of (r := ok [(busRead b off s.chip).readOut.toNat] []) hc
      (congrArg Host.Outcome.next ((hread hc).trans (if_neg (by simp [hrst])))) rfl (show 0 < 65536 by decide) (fun _ hu _ => hu)
  · obtain ⟨d, hd⟩ : ∃ d, d = busWrite b off (BitVec.ofNat 32 (argOf c 1)) s.chip := ⟨_, rfl⟩
    have hx : exec (.registerWrite b (BitVec.ofNat 10 off) (BitVec.ofNat 32 (argOf c 1))) s = .next (s.withChip d) := by
      rw [hd]; exact congrArg (fun o => Host.Outcome.next (s.withChip (busWrite b o (BitVec.ofNat 32 (argOf c 1)) s.chip))) hoff
    have hw : exec (.regWrite p h) s = .next (finish c (ok [(regRead d b off).toNat] []) (s.withChip d)) := by
      rw [hd]; exact congrArg Host.Outcome.next ((hwrite hc).trans (if_neg (by simp [hrst])))
    obtain ⟨t, ht, ha, hcur, hu⟩ := finishes_of (P := fun t => t.chip = d) hc hw rfl (show 0 < 65536 by decide) (fun _ hu _ => hu)
    exact ⟨t, ht, by rw [hu]; exact hx, by rw [hu]; exact ha, hcur⟩

end Sys2Proof.Machine

/-- Settles O50: a response stands byte by byte at its offsets, the log goes to flash without a wrap while its entries
fit, and the registers are reached at their control-space addresses. -/
theorem eventLogSettingsAndRegisters : Obligations.EventLogSettingsAndRegisters :=
  ⟨Sys2Proof.Machine.eventLog_holds, Sys2Proof.Machine.settingsAndStatus_holds, Sys2Proof.Machine.registersFromTheHost_holds⟩
end

section
/-! PROOFS. Sleep states (spec/16 R543 to R554): what a change of a classroom's power shows and leaves alone, and what the
refusals of entries leave of the device. -/

open Sys2Proof Sys2Proof.Machine
namespace Sys2Proof.Machine

/-! ### A refused or aborted entry (R554) -/

/-- What the log and the refusal counts leave alone of the device. -/
structure LogsOnly (s t : State) : Prop where
  chip : t.chip = s.chip
  pigeon : ∀ ph, pigeonOf t ph = pigeonOf s ph
  breach : t.dev.power.breach = s.dev.power.breach
  eth : t.dev.eth = s.dev.eth
  cur : t.dev.warden.cur = s.dev.warden.cur
  dstate : t.dev.warden.dstate = s.dev.warden.dstate
  before : t.dev.warden.before = s.dev.warden.before
  restart : t.dev.warden.restart = s.dev.warden.restart
  lateStart : t.dev.warden.lateStart = s.dev.warden.lateStart
  rested : t.dev.warden.rested = s.dev.warden.rested

namespace LogsOnly

theorem refl (s : State) : LogsOnly s s := ⟨rfl, fun _ => rfl, rfl, rfl, rfl, rfl, rfl, rfl, rfl, rfl⟩

theorem after {s t u : State} (k : LogsOnly t u) (h : LogsOnly s t) : LogsOnly s u :=
  ⟨k.chip.trans h.chip, fun ph => (k.pigeon ph).trans (h.pigeon ph), k.breach.trans h.breach, k.eth.trans h.eth, k.cur.trans h.cur,
    k.dstate.trans h.dstate, k.before.trans h.before, k.restart.trans h.restart, k.lateStart.trans h.lateStart,
    k.rested.trans h.rested⟩

theorem sendVector (p v : Nat) (s : State) : LogsOnly s (sendVector p v s) :=
  ⟨rfl, fun ph => sendVector_pigeon p v ph s, rfl, rfl, rfl, rfl, rfl, rfl, rfl, rfl⟩

theorem flushLog (s : State) : LogsOnly s (flushLog s) := ⟨rfl, fun _ => rfl, rfl, rfl, rfl, rfl, rfl, rfl, rfl, rfl⟩

theorem logEvent (src code : Nat) (data : List Nat) (s : State) : LogsOnly s (logEvent src code data s) := by
  obtain ⟨q, w, hs⟩ : ∃ q w, Machine.logEvent src code data s =
      Machine.sendVector 1 8 (Machine.sendVector 0 8
        (if 128 ≤ (modWarden (fun x => { x with seq := q, waiting := w }) s).dev.warden.waiting.length then
          Machine.flushLog (modWarden (fun x => { x with seq := q, waiting := w }) s)
        else modWarden (fun x => { x with seq := q, waiting := w }) s)) := ⟨_, _, rfl⟩
  have ht : LogsOnly s (modWarden (fun x => { x with seq := q, waiting := w }) s) :=
    ⟨rfl, fun _ => rfl, rfl, rfl, rfl, rfl, rfl, rfl, rfl, rfl⟩
  rw [hs]
  refine .after (sendVector _ _ _) (.after (sendVector _ _ _) ?_)
  split
  · exact .after (flushLog _) ht
  · exact ht

theorem modPower {f : Power → Power} (s : State) (h : (f s.dev.power).breach = s.dev.power.breach) : LogsOnly s (modPower f s) :=
  ⟨rfl, fun _ => rfl, h, rfl, rfl, rfl, rfl, rfl, rfl, rfl⟩

theorem countRefusal (r q k : Nat) (s : State) : LogsOnly s (countRefusal r q k s) := by
  obtain ⟨rs, hc⟩ := countRefusal_eq r q k s
  rw [hc]
  split
  · exact .after (logEvent _ _ _ _) (.after (modPower (f := fun p => { p with logged := _ }) _ rfl) (modPower _ rfl))
  · exact modPower _ rfl

end LogsOnly

/-- The refusal counts as they are with one more refusal. -/
def counted (r q k : Nat) (rs : List Refused) : List Refused :=
  if rs.any (fun x => x.refuser == r && x.req == q && x.kind == k) then
    rs.map (fun x => if (x.refuser == r && x.req == q && x.kind == k) = true then { x with count := min (2 ^ 32 - 1) (x.count + 1) } else x)
  else if rs.length < 1024 then
    rs.filter (fun x => decide (x.refuser ≤ r)) ++ ⟨r, q, k, 1⟩ :: rs.filter (fun x => decide (r < x.refuser))
  else rs

theorem countRefusal_refusals (r q k : Nat) (s : State) :
    (countRefusal r q k s).dev.power.refusals = counted r q k s.dev.power.refusals := by
  have hc : countRefusal r q k s = if refusalDue (modPower (fun p => { p with refusals := counted r q k s.dev.power.refusals }) s) r = true
      then logEvent 0 (0x0501 + k) [r, q] (noteLogged r (modPower (fun p => { p with refusals := counted r q k s.dev.power.refusals }) s))
      else modPower (fun p => { p with refusals := counted r q k s.dev.power.refusals }) s := rfl
  rw [hc]
  split
  · rw [logEvent_power]; rfl
  · rfl

/-- A refusal stands among the counts. -/
def InCounts (r q k : Nat) (rs : List Refused) : Prop :=
  ∃ x ∈ rs, x.refuser = r ∧ x.req = q ∧ x.kind = k ∧ 1 ≤ x.count

/-- A refusal joins the counts while they have room. -/
theorem inCounts_counted {r q k : Nat} {rs : List Refused} (h : rs.length < 1024) : InCounts r q k (counted r q k rs) := by
  rw [counted, if_pos h]
  split
  · next ha =>
    obtain ⟨x, hx, hh⟩ := List.any_eq_true.mp ha
    obtain ⟨⟨h1, h2⟩, h3⟩ : (x.refuser = r ∧ x.req = q) ∧ x.kind = k := by simpa using hh
    exact ⟨_, List.mem_map.mpr ⟨x, hx, if_pos hh⟩, h1, h2, h3, by simp only; omega⟩
  · exact ⟨⟨r, q, k, 1⟩, List.mem_append_right _ (List.mem_cons_self ..), rfl, rfl, rfl, le_refl 1⟩

/-- A refusal among the counts stays there. -/
theorem InCounts.counted {a b e : Nat} {rs : List Refused} (h : InCounts a b e rs) (r q k : Nat) : InCounts a b e (counted r q k rs) := by
  obtain ⟨x, hx, h1, h2, h3, h4⟩ := h
  unfold Machine.counted
  split
  · refine ⟨_, List.mem_map.mpr ⟨x, hx, rfl⟩, ?_⟩
    split
    · exact ⟨h1, h2, h3, by simp only; omega⟩
    · exact ⟨h1, h2, h3, h4⟩
  · split
    · refine ⟨x, ?_, h1, h2, h3, h4⟩
      by_cases hr : x.refuser ≤ r
      · exact List.mem_append_left _ (List.mem_filter.mpr ⟨hx, by simpa using hr⟩)
      · exact List.mem_append_right _ (List.mem_cons_of_mem _ (List.mem_filter.mpr ⟨hx, by simpa using hr⟩))
    · exact ⟨x, hx, h1, h2, h3, h4⟩

/-- One refusal adds one entry at most. -/
theorem length_counted (r q k : Nat) (rs : List Refused) : (counted r q k rs).length ≤ rs.length + 1 := by
  unfold counted
  split
  · simp
  · split
    · have : (rs.filter (fun x => decide (r < x.refuser))) = rs.filter (fun x => !decide (x.refuser ≤ r)) := by
        apply List.filter_congr; intro x _; simp only [← not_le, decide_not]
      rw [List.length_append, List.length_cons, this]
      have := List.length_eq_length_filter_add (l := rs) (fun x => decide (x.refuser ≤ r))
      omega
    · omega

/-! ### The levels of RUN, seen by a block -/

/-- A settled block differs in the registers and in when it began to stop. -/
theorem settle_eq (b : BlockId) (c : Chip) : ∃ rs st, settle b c = { c with regs := rs, stopAt := st } := by
  unfold settle
  split
  · exact ⟨_, _, rfl⟩
  · split
    · exact ⟨_, _, rfl⟩
    · exact ⟨_, _, rfl⟩

/-- Of the registers only the block's state. -/
theorem rawReg_settle_ne (c : Chip) {b d : BlockId} {m : Nat} (h : d ≠ b ∨ m ≠ 2) : rawReg (settle b c) d m = rawReg c d m := by
  unfold settle
  split
  · exact rawReg_setF_ne _ _ _ _ h
  · split
    · exact rawReg_setF_ne c 1 0 3 h
    · rfl

@[simp] theorem settle_mem (b : BlockId) (c : Chip) : (settle b c).mem = c.mem := by obtain ⟨_, _, h⟩ := settle_eq b c; rw [h]
@[simp] theorem settle_rooms (b : BlockId) (c : Chip) : (settle b c).rooms = c.rooms := by obtain ⟨_, _, h⟩ := settle_eq b c; rw [h]
@[simp] theorem settle_cores (b : BlockId) (c : Chip) : (settle b c).cores = c.cores := by obtain ⟨_, _, h⟩ := settle_eq b c; rw [h]
@[simp] theorem settle_stk (b : BlockId) (c : Chip) : (settle b c).stk = c.stk := by obtain ⟨_, _, h⟩ := settle_eq b c; rw [h]
@[simp] theorem settle_plls (b : BlockId) (c : Chip) : (settle b c).plls = c.plls := by obtain ⟨_, _, h⟩ := settle_eq b c; rw [h]
@[simp] theorem settle_meshOn (b : BlockId) (c : Chip) : (settle b c).meshOn = c.meshOn := by obtain ⟨_, _, h⟩ := settle_eq b c; rw [h]
@[simp] theorem settle_portOff (b : BlockId) (c : Chip) : (settle b c).portOff = c.portOff := by obtain ⟨_, _, h⟩ := settle_eq b c; rw [h]
@[simp] theorem settle_waiting (b : BlockId) (c : Chip) : (settle b c).waiting = c.waiting := by obtain ⟨_, _, h⟩ := settle_eq b c; rw [h]
@[simp] theorem settle_hung (b : BlockId) (c : Chip) : (settle b c).hung = c.hung := by obtain ⟨_, _, h⟩ := settle_eq b c; rw [h]

theorem roomOf_of_rooms {c d : Chip} (h : d.rooms = c.rooms) (r : Nat) : roomOf d r = roomOf c r := by rw [roomOf, roomOf, h]
theorem coreOf_of_cores {c d : Chip} (h : d.cores = c.cores) (n : Nat) : coreOf d n = coreOf c n := by rw [coreOf, coreOf, h]
theorem strandOf_of_cores {c d : Chip} (h : d.cores = c.cores) (u : StrandId) : strandOf d u = strandOf c u := by
  rw [strandOf, strandOf, coreOf_of_cores h]

/-! ### The power of a classroom (R552) -/

@[simp] theorem setPower_mem (r : Nat) (p : RoomPower) (c : Chip) : (setPower r p c).mem = c.mem := by simp [setPower]
@[simp] theorem setPower_cores (r : Nat) (p : RoomPower) (c : Chip) : (setPower r p c).cores = c.cores := by simp [setPower]
@[simp] theorem setPower_stk (r : Nat) (p : RoomPower) (c : Chip) : (setPower r p c).stk = c.stk := by simp [setPower]
@[simp] theorem setPower_plls (r : Nat) (p : RoomPower) (c : Chip) : (setPower r p c).plls = c.plls := by simp [setPower]
@[simp] theorem setPower_meshOn (r : Nat) (p : RoomPower) (c : Chip) : (setPower r p c).meshOn = c.meshOn := by simp [setPower]
@[simp] theorem setPower_portOff (r : Nat) (p : RoomPower) (c : Chip) : (setPower r p c).portOff = c.portOff := by simp [setPower]
@[simp] theorem setPower_waiting (r : Nat) (p : RoomPower) (c : Chip) : (setPower r p c).waiting = c.waiting := by simp [setPower]
@[simp] theorem setPower_hung (r : Nat) (p : RoomPower) (c : Chip) : (setPower r p c).hung = c.hung := by simp [setPower]

theorem roomOf_setPower (r q : Nat) (p : RoomPower) (c : Chip) :
    roomOf (setPower r p c) q = if q = r then { roomOf c q with power := p } else roomOf c q := by
  have h : (setPower r p c).rooms = (modRoom c r (fun m => { m with power := p })).rooms := by simp [setPower]
  rw [roomOf_of_rooms h, roomOf_modRoom]
  split
  · next hq => rw [hq]
  · rfl

/-- Of the registers, CLS_PWR.STATE and the states of the two blocks. -/
theorem rawReg_setPower_ne {r m : Nat} {b : BlockId} (p : RoomPower) (c : Chip)
    (h : (b ≠ clsB r ∧ b ≠ dmaB r) ∨ (m ≠ 0x002 ∧ (b ≠ clsB r ∨ m ≠ 0x028))) : rawReg (setPower r p c) b m = rawReg c b m := by
  simp only [setPower]
  rw [rawReg_settle_ne _ (by tauto), rawReg_settle_ne _ (by tauto), rawReg_setF_ne _ _ _ _ (by tauto)]
  rfl

theorem rawReg_setPower_pwr (r : Nat) (p : RoomPower) (c : Chip) : rawReg (setPower r p c) (clsB r) 0x028 =
    rawReg (setF c (clsB r) 0x028 19 18 (powerCode p)) (clsB r) 0x028 := by
  simp only [setPower]
  rw [rawReg_settle_ne _ (.inr (by decide)), rawReg_settle_ne _ (.inr (by decide))]
  rfl

theorem getF_of_rawReg {c d : Chip} {b : BlockId} {n : Nat} (h : rawReg d b n = rawReg c b n) (hi lo : Nat) :
    getF d b n hi lo = getF c b n hi lo := by rw [getF, getF, h]

theorem powerCode_lt (p : RoomPower) : powerCode p < 4 := by cases p <;> decide

@[simp] theorem getF_setPower_state (r : Nat) (p : RoomPower) (c : Chip) :
    getF (setPower r p c) (clsB r) 0x028 19 18 = powerCode p := by
  rw [getF_of_rawReg (rawReg_setPower_pwr r p c), getF_setF_self _ _ _ _ _ _ (by decide) (by decide)]
  exact Nat.mod_eq_of_lt (powerCode_lt p)

/-- The other fields of CLS_PWR. -/
theorem getF_setPower_pwr (r : Nat) (p : RoomPower) (c : Chip) {hi lo : Nat} (h : hi < 18 ∨ 19 < lo) :
    getF (setPower r p c) (clsB r) 0x028 hi lo = getF c (clsB r) 0x028 hi lo := by
  rw [getF_of_rawReg (rawReg_setPower_pwr r p c), getF_setF_field _ _ _ _ _ _ _ _ (by decide) (by decide) h]

/-! ### Cores of a classroom -/

/-- Cores changed one by one, each once. -/
theorem coreOf_modCores (f : Core → Core) (n : Nat) : ∀ (l : List Nat) (c : Chip), l.Nodup →
    coreOf (l.foldl (fun c m => modCore c m f) c) n = if n ∈ l then f (coreOf c n) else coreOf c n
  | [], _, _ => rfl
  | m :: l, c, h => by
    obtain ⟨hm, hl⟩ := List.nodup_cons.mp h
    rw [List.foldl_cons, coreOf_modCores f n l _ hl, coreOf_modCore]
    by_cases hn : n = m
    · subst hn; simp [hm]
    · simp [hn]

/-- The cores of a classroom by number. -/
def roomCores (r : Nat) : List Nat := (List.range 16).map (fun p => 16 * r + p)

theorem mem_roomCores {r n : Nat} : n ∈ roomCores r ↔ n / 16 = r := by
  simp only [roomCores, List.mem_map, List.mem_range]
  refine ⟨fun ⟨p, hp, hn⟩ => by omega, fun h => ⟨n % 16, Nat.mod_lt _ (by decide), by omega⟩⟩

theorem roomCores_nodup (r : Nat) : (roomCores r).Nodup :=
  List.Nodup.map (fun _ _ h => Nat.add_left_cancel h) List.nodup_range

theorem foldl_roomCores {α : Type} (f : α → Nat → α) (r : Nat) (a : α) :
    (List.range 16).foldl (fun a p => f a (16 * r + p)) a = (roomCores r).foldl f a := by
  rw [roomCores, List.foldl_map]

/-- Every core of a classroom changed. -/
theorem coreOf_modRoomCores (f : Core → Core) (r n : Nat) (c : Chip) :
    coreOf ((List.range 16).foldl (fun c p => modCore c (16 * r + p) f) c) n = if n / 16 = r then f (coreOf c n) else coreOf c n := by
  rw [foldl_roomCores (fun c m => modCore c m f), coreOf_modCores f n _ c (roomCores_nodup r)]
  simp only [mem_roomCores]

/-- The package with other cores, and with other registers. -/
def withCores (k : Table Core) (c : Chip) : Chip := { c with cores := k }
def withRegs (rs : Table (Table W32)) (c : Chip) : Chip := { c with regs := rs }

section
variable (k : Table Core) (rs : Table (Table W32)) (c : Chip)
@[simp] theorem withCores_mem : (withCores k c).mem = c.mem := (rfl)
@[simp] theorem withCores_waiting : (withCores k c).waiting = c.waiting := (rfl)
@[simp] theorem withCores_stk : (withCores k c).stk = c.stk := (rfl)
@[simp] theorem withCores_plls : (withCores k c).plls = c.plls := (rfl)
@[simp] theorem withCores_meshOn : (withCores k c).meshOn = c.meshOn := (rfl)
@[simp] theorem withCores_portOff : (withCores k c).portOff = c.portOff := (rfl)
@[simp] theorem withCores_hung : (withCores k c).hung = c.hung := (rfl)
@[simp] theorem withCores_regs : (withCores k c).regs = c.regs := (rfl)
@[simp] theorem roomOf_withCores (r : Nat) : roomOf (withCores k c) r = roomOf c r := (rfl)
@[simp] theorem rawReg_withCores (b : BlockId) (n : Nat) : rawReg (withCores k c) b n = rawReg c b n := (rfl)
@[simp] theorem getF_withCores (b : BlockId) (n hi lo : Nat) : getF (withCores k c) b n hi lo = getF c b n hi lo := (rfl)
@[simp] theorem withRegs_mem : (withRegs rs c).mem = c.mem := (rfl)
@[simp] theorem withRegs_waiting : (withRegs rs c).waiting = c.waiting := (rfl)
@[simp] theorem withRegs_stk : (withRegs rs c).stk = c.stk := (rfl)
@[simp] theorem withRegs_plls : (withRegs rs c).plls = c.plls := (rfl)
@[simp] theorem withRegs_meshOn : (withRegs rs c).meshOn = c.meshOn := (rfl)
@[simp] theorem withRegs_portOff : (withRegs rs c).portOff = c.portOff := (rfl)
@[simp] theorem withRegs_cores : (withRegs rs c).cores = c.cores := (rfl)
@[simp] theorem roomOf_withRegs (r : Nat) : roomOf (withRegs rs c) r = roomOf c r := (rfl)
@[simp] theorem coreOf_withRegs (n : Nat) : coreOf (withRegs rs c) n = coreOf c n := (rfl)
theorem withRegs_setF (b : BlockId) (n hi lo v : Nat) : withRegs rs (setF c b n hi lo v) = withRegs rs c := (rfl)
end

/-- What a fold over cores changes of the package is their cores. -/
theorem foldl_modCore_eq {f : Nat → Core → Core} (l : List Nat) : ∀ c : Chip, ∃ k,
    l.foldl (fun c p => modCore c p (f p)) c = withCores k c := by
  induction l with
  | nil => exact fun c => ⟨_, rfl⟩
  | cons p l ih =>
    intro c
    obtain ⟨k, hk⟩ := ih (modCore c p (f p))
    exact ⟨k, hk.trans rfl⟩

theorem foldl_modRoomCores_eq (f : Core → Core) (r : Nat) (c : Chip) : ∃ k,
    (List.range 16).foldl (fun c p => modCore c (16 * r + p) f) c = withCores k c := by
  rw [foldl_roomCores (fun c m => modCore c m f)]
  exact foldl_modCore_eq _ c

/-! ### Wake records (R549, R553) -/

theorem clsB_injective {r q : Nat} (hr : r < 64) (hq : q < 64) (h : clsB r = clsB q) : r = q := by
  have := congrArg Fin.val (BlockId.cls.inj h)
  simpa [Nat.mod_eq_of_lt hr, Nat.mod_eq_of_lt hq] using this

theorem clsB_val (r : Fin 64) : clsB r.val = .cls r := by
  simp [clsB]

theorem dmaB_val (r : Fin 64) : dmaB r.val = .dma r := by
  simp [dmaB]

/-- The register that holds a core's wake source. -/
def wakeReg (n : Nat) : Nat := if n % 16 < 8 then 0x02A else 0x02C

theorem coreWoke_eq (m code : Nat) (c : Chip) : coreWoke m code c =
    setF c (clsB (m / 16)) (wakeReg m) (4 * (m % 16 % 8) + 3) (4 * (m % 16 % 8)) code := rfl

theorem coreWakeCode_eq (c : Chip) (n : Nat) :
    coreWakeCode c n = getF c (clsB (n / 16)) (wakeReg n) (4 * (n % 16 % 8) + 3) (4 * (n % 16 % 8)) := rfl

theorem wakeReg_eq {n m : Nat} : wakeReg n = wakeReg m ↔ (n % 16 < 8 ↔ m % 16 < 8) := by
  unfold wakeReg
  split_ifs with h1 h2 h2 <;> simp [h1, h2]

/-- A core's wake source shows in its record and in no other. -/
theorem coreWakeCode_coreWoke {n m code : Nat} (hn : n < 1024) (hm : m < 1024) (hc : code < 16) (c : Chip) :
    coreWakeCode (coreWoke m code c) n = if n = m then code else coreWakeCode c n := by
  rw [coreWakeCode_eq, coreWoke_eq, coreWakeCode_eq]
  by_cases h : n = m
  · subst h
    rw [if_pos rfl, getF_setF_self _ _ _ _ _ _ (by omega) (by omega)]
    have hw : 4 * (n % 16 % 8) + 3 + 1 - 4 * (n % 16 % 8) = 4 := by omega
    rw [hw]
    exact Nat.mod_eq_of_lt hc
  · rw [if_neg h]
    by_cases hr : n / 16 = m / 16
    · by_cases hreg : wakeReg n = wakeReg m
      · have h8 := wakeReg_eq.mp hreg
        rw [hr, hreg]
        exact getF_setF_field _ _ _ _ _ _ _ _ (by omega) (by omega) (by omega)
      · exact getF_setF_ne _ _ _ _ _ _ (.inr hreg)
    · exact getF_setF_ne _ _ _ _ _ _ (.inl fun he => hr (clsB_injective (by omega) (by omega) he))

/-- Wake records are registers. -/
theorem foldl_coreWoke_eq (code : Nat) (l : List Nat) : ∀ c : Chip, ∃ rs,
    l.foldl (fun c m => coreWoke m code c) c = withRegs rs c := by
  induction l with
  | nil => exact fun c => ⟨_, rfl⟩
  | cons p l ih =>
    intro c
    obtain ⟨rs, h⟩ := ih (coreWoke p code c)
    exact ⟨rs, h.trans rfl⟩

theorem coreWakeCode_foldl {n code : Nat} (hn : n < 1024) (hc : code < 16) : ∀ (l : List Nat) (c : Chip), (∀ m ∈ l, m < 1024) →
    coreWakeCode (l.foldl (fun c m => coreWoke m code c) c) n = if n ∈ l then code else coreWakeCode c n
  | [], _, _ => rfl
  | m :: l, c, hl => by
    rw [List.foldl_cons, coreWakeCode_foldl hn hc l _ (fun x hx => hl x (List.mem_cons_of_mem _ hx)),
      coreWakeCode_coreWoke hn (hl m (List.mem_cons_self ..)) hc]
    by_cases h1 : n ∈ l <;> by_cases h2 : n = m <;> simp [h1, h2]

/-- The other registers of the classroom, and those of other blocks. -/
theorem rawReg_coreWoke_ne {m n : Nat} {b : BlockId} (code : Nat) (c : Chip) (h : b ≠ clsB (m / 16) ∨ (n ≠ 0x02A ∧ n ≠ 0x02C)) :
    rawReg (coreWoke m code c) b n = rawReg c b n := by
  rw [coreWoke_eq]
  refine rawReg_setF_ne _ _ _ _ (h.imp id fun ⟨h1, h2⟩ => ?_)
  unfold wakeReg
  split
  · exact h1
  · exact h2

theorem rawReg_foldl_coreWoke_ne {n : Nat} {b : BlockId} (code : Nat) : ∀ (l : List Nat) (c : Chip),
    (∀ m ∈ l, b ≠ clsB (m / 16) ∨ (n ≠ 0x02A ∧ n ≠ 0x02C)) →
    rawReg (l.foldl (fun c m => coreWoke m code c) c) b n = rawReg c b n
  | [], _, _ => rfl
  | m :: l, c, h => by
    rw [List.foldl_cons, rawReg_foldl_coreWoke_ne code l _ (fun x hx => h x (List.mem_cons_of_mem _ hx)),
      rawReg_coreWoke_ne code c (h m (List.mem_cons_self ..))]
/-! ### A classroom comes back (R550) -/

theorem wakeCores_eq (r : Nat) (c : Chip) : ∃ k, wakeCores r c = withCores k (setF (setPower r .run c) (clsB r) 0x028 17 17 0) := by
  rw [wakeCores]
  exact foldl_modRoomCores_eq _ r _

theorem roomOf_wakeCores (r q : Nat) (c : Chip) :
    roomOf (wakeCores r c) q = if q = r then { roomOf c q with power := .run } else roomOf c q := by
  obtain ⟨k, h⟩ := wakeCores_eq r c
  rw [h, roomOf_withCores, roomOf_setF, roomOf_setPower]

theorem coreOf_wakeCores (r n : Nat) (c : Chip) :
    coreOf (wakeCores r c) n = if n / 16 = r then { coreOf c n with paused := false } else coreOf c n := by
  rw [wakeCores, coreOf_modRoomCores, coreOf_setF, coreOf_of_cores (setPower_cores r .run c)]

/-- What a wake leaves of the package beside registers, cores and classrooms. -/
theorem wakeCores_frame (r : Nat) (c : Chip) : (wakeCores r c).mem = c.mem ∧ (wakeCores r c).waiting = c.waiting ∧
    (wakeCores r c).stk = c.stk ∧ (wakeCores r c).plls = c.plls ∧ (wakeCores r c).meshOn = c.meshOn ∧
    (wakeCores r c).portOff = c.portOff := by
  obtain ⟨k, h⟩ := wakeCores_eq r c
  have hk (d : Chip) : (withCores k d).mem = d.mem ∧ (withCores k d).waiting = d.waiting ∧ (withCores k d).stk = d.stk ∧
    (withCores k d).plls = d.plls ∧ (withCores k d).meshOn = d.meshOn ∧ (withCores k d).portOff = d.portOff := ⟨rfl, rfl, rfl, rfl, rfl, rfl⟩
  have hs := hk (setF (setPower r .run c) (clsB r) 0x028 17 17 0)
  generalize withCores k (setF (setPower r .run c) (clsB r) 0x028 17 17 0) = d at h hs
  rw [h]
  simpa using hs

theorem rawReg_wakeCores_ne {r m : Nat} {b : BlockId} (c : Chip)
    (h : (b ≠ clsB r ∧ b ≠ dmaB r) ∨ (m ≠ 0x002 ∧ (b ≠ clsB r ∨ m ≠ 0x028))) : rawReg (wakeCores r c) b m = rawReg c b m := by
  obtain ⟨k, hk⟩ := wakeCores_eq r c
  rw [hk, rawReg_withCores, rawReg_setF_ne _ _ _ _ (by tauto), rawReg_setPower_ne _ _ h]

/-- CLS_PWR of a classroom that is back: on the FIO, in operation. -/
theorem getF_wakeCores (r : Nat) (c : Chip) : getF (wakeCores r c) (clsB r) 0x028 17 17 = 0 ∧
    getF (wakeCores r c) (clsB r) 0x028 19 18 = 0 := by
  obtain ⟨k, hk⟩ := wakeCores_eq r c
  rw [hk, getF_withCores, getF_withCores]
  exact ⟨getF_setF_self (setPower r .run c) _ _ _ _ _ (by decide) (by decide),
    (getF_setF_field (setPower r .run c) _ _ _ _ _ _ _ (by decide) (by decide) (by decide)).trans (getF_setPower_state r .run c)⟩

theorem wakeRoom_eq (r code : Nat) (c : Chip) : wakeRoom r code c =
    (roomCores r).foldl (fun c m => coreWoke m code c) (setF (wakeCores r c) (clsB r) 0x028 23 20 code) := by
  rw [wakeRoom, foldl_roomCores (fun c m => coreWoke m code c)]

theorem wakeRoom_regs (r code : Nat) (c : Chip) : ∃ rs, wakeRoom r code c = withRegs rs (wakeCores r c) := by
  rw [wakeRoom_eq]
  obtain ⟨rs, h⟩ := foldl_coreWoke_eq code (roomCores r) (setF (wakeCores r c) (clsB r) 0x028 23 20 code)
  exact ⟨rs, h.trans (withRegs_setF _ _ _ _ _ _ _)⟩

theorem roomOf_wakeRoom (r code q : Nat) (c : Chip) :
    roomOf (wakeRoom r code c) q = if q = r then { roomOf c q with power := .run } else roomOf c q := by
  obtain ⟨rs, h⟩ := wakeRoom_regs r code c
  rw [h, roomOf_withRegs, roomOf_wakeCores]

theorem coreOf_wakeRoom (r code n : Nat) (c : Chip) :
    coreOf (wakeRoom r code c) n = if n / 16 = r then { coreOf c n with paused := false } else coreOf c n := by
  obtain ⟨rs, h⟩ := wakeRoom_regs r code c
  rw [h, coreOf_withRegs, coreOf_wakeCores]

theorem wakeRoom_frame (r code : Nat) (c : Chip) : (wakeRoom r code c).mem = c.mem ∧ (wakeRoom r code c).waiting = c.waiting ∧
    (wakeRoom r code c).stk = c.stk ∧ (wakeRoom r code c).plls = c.plls ∧ (wakeRoom r code c).meshOn = c.meshOn ∧
    (wakeRoom r code c).portOff = c.portOff := by
  obtain ⟨rs, h⟩ := wakeRoom_regs r code c
  simpa [h] using wakeCores_frame r c

theorem rawReg_wakeRoom_ne {r m : Nat} {b : BlockId} (code : Nat) (c : Chip)
    (h : (b ≠ clsB r ∧ b ≠ dmaB r) ∨ (m ≠ 0x002 ∧ (b ≠ clsB r ∨ (m ≠ 0x028 ∧ m ≠ 0x02A ∧ m ≠ 0x02C)))) :
    rawReg (wakeRoom r code c) b m = rawReg c b m := by
  rw [wakeRoom_eq, rawReg_foldl_coreWoke_ne code _ _ (fun x hx => by rw [mem_roomCores.mp hx]; tauto),
    rawReg_setF_ne _ _ _ _ (by tauto), rawReg_wakeCores_ne c (by tauto)]

theorem getF_wakeRoom_pwr (r code : Nat) (c : Chip) {hi lo : Nat} (h : hi < 20 ∨ 23 < lo) :
    getF (wakeRoom r code c) (clsB r) 0x028 hi lo = getF (wakeCores r c) (clsB r) 0x028 hi lo := by
  rw [wakeRoom_eq, getF_of_rawReg (rawReg_foldl_coreWoke_ne code _ _ (fun _ _ => .inr (by decide))),
    getF_setF_field _ _ _ _ _ _ _ _ (by decide) (by decide) h]

/-- A classroom and its cores record the source of their wake. -/
theorem wakeRoom_codes {r code n : Nat} (hn : n < 1024) (hc : code < 16) (c : Chip) :
    getF (wakeRoom r code c) (clsB r) 0x028 23 20 = code ∧ (n / 16 = r → coreWakeCode (wakeRoom r code c) n = code) := by
  rw [wakeRoom_eq]
  refine ⟨?_, fun h => ?_⟩
  · rw [getF_of_rawReg (rawReg_foldl_coreWoke_ne code _ _ (fun _ _ => .inr (by decide))),
      getF_setF_self _ _ _ _ _ _ (by decide) (by decide)]
    exact Nat.mod_eq_of_lt hc
  · rw [coreWakeCode_foldl hn hc _ _ (fun m hm => by have := mem_roomCores.mp hm; omega), if_pos (mem_roomCores.mpr h)]

/-! ### A classroom goes into recess (R543, R546) -/

theorem dropCaches_eq (r : Nat) (c : Chip) : ∃ k, dropCaches r c = withCores k c := by
  rw [dropCaches]
  exact foldl_modRoomCores_eq _ r c

theorem roomOf_recessNow (r q : Nat) (c : Chip) :
    roomOf (recessNow r c) q = if q = r then { roomOf c q with power := .recess, pll := false } else roomOf c q := by
  obtain ⟨k, h⟩ := dropCaches_eq r c
  rw [recessNow, roomOf_setPower, roomOf_modRoom, h]
  split
  · next hq => rw [hq, roomOf_withCores]
  · rw [roomOf_withCores]

theorem coreOf_recessNow (r n : Nat) (c : Chip) :
    coreOf (recessNow r c) n = if n / 16 = r then { coreOf c n with cache := [] } else coreOf c n := by
  have h : (recessNow r c).cores = (dropCaches r c).cores := by
    rw [recessNow, setPower_cores, modRoom_cores]
  rw [coreOf_of_cores h, dropCaches, coreOf_modRoomCores]

theorem recessNow_frame (r : Nat) (c : Chip) : (recessNow r c).mem = c.mem ∧ (recessNow r c).waiting = c.waiting ∧
    (recessNow r c).stk = c.stk ∧ (recessNow r c).plls = c.plls ∧ (recessNow r c).meshOn = c.meshOn ∧
    (recessNow r c).portOff = c.portOff ∧ (recessNow r c).hung = c.hung := by
  obtain ⟨k, h⟩ := dropCaches_eq r c
  simp [recessNow, h]

theorem rawReg_recessNow_ne {r m : Nat} {b : BlockId} (c : Chip)
    (h : (b ≠ clsB r ∧ b ≠ dmaB r) ∨ (m ≠ 0x002 ∧ (b ≠ clsB r ∨ m ≠ 0x028))) : rawReg (recessNow r c) b m = rawReg c b m := by
  obtain ⟨k, hk⟩ := dropCaches_eq r c
  rw [recessNow, rawReg_setPower_ne _ _ h, hk]
  exact rawReg_withCores k c b m

end Sys2Proof.Machine
end

section
/-! PROOFS. Pause and recess (spec/16 R544 to R547, R549, R550, R564): who may pause, what a wake of a core and of a
classroom shows, when a recess begins, ends and is refused. -/

open Sys2Proof Sys2Proof.Machine
namespace Sys2Proof.Machine

/-! ### The strands of a core -/

theorem strandId_val (n : Fin 1024) (i : Fin 8) : strandId n.val i.val = ⟨n, i⟩ := by simp [strandId]

/-- The eight strands of a core, by number. -/
theorem forall_strands {P : StrandId → Prop} (n : Fin 1024) : (∀ x ∈ List.range 8, P (strandId n.val x)) ↔ ∀ i : Fin 8, P ⟨n, i⟩ :=
  ⟨fun h i => strandId_val n i ▸ h i.val (List.mem_range.mpr i.isLt), fun h x hx => by
    have := h ⟨x, List.mem_range.mp hx⟩
    rwa [← strandId_val] at this⟩

theorem exists_strands {P : StrandId → Prop} (n : Fin 1024) : (∃ x ∈ List.range 8, P (strandId n.val x)) ↔ ∃ i : Fin 8, P ⟨n, i⟩ :=
  ⟨fun ⟨x, hx, h⟩ => ⟨⟨x, List.mem_range.mp hx⟩, by rwa [← strandId_val]⟩,
    fun ⟨i, h⟩ => ⟨i.val, List.mem_range.mpr i.isLt, by rwa [strandId_val]⟩⟩

theorem allIdle_iff (c : Chip) (n : Fin 1024) : allIdle c n.val = true ↔ ∀ i : Fin 8, (strandOf c ⟨n, i⟩).run = .idle := by
  rw [← forall_strands (P := fun u => (strandOf c u).run = .idle), allIdle, List.all_eq_true]
  simp only [beq_iff_eq]

/-- A strand that is idle or waits. -/
def rests (st : Strand) : Bool := match st.run with | .idle | .waiting _ => true | _ => false
/-- A strand that waits. -/
def waitsRun (st : Strand) : Bool := match st.run with | .waiting _ => true | _ => false

theorem rests_iff (st : Strand) : rests st = true ↔ st.run = .idle ∨ ∃ k, st.run = .waiting k := by
  unfold rests
  split <;> simp_all

theorem waitsRun_iff (st : Strand) : waitsRun st = true ↔ ∃ k, st.run = .waiting k := by
  unfold waitsRun
  split <;> simp_all

/-- Whether a core may enter pause by itself (R545). -/
theorem canPause_iff (c : Chip) (n : Fin 1024) : canPause c n.val = true ↔
    ((∀ i : Fin 8, ((strandOf c ⟨n, i⟩).run = .idle ∨ ∃ k, (strandOf c ⟨n, i⟩).run = .waiting k) ∧ (strandOf c ⟨n, i⟩).flight = [] ∧
      (strandOf c ⟨n, i⟩).parked = []) ∧ (∃ i : Fin 8, ∃ k, (strandOf c ⟨n, i⟩).run = .waiting k)) ∧ (coreOf c n).fill = none ∧
      storesOut c n = 0 := by
  have h : canPause c n.val = (((List.range 8).all (fun i => rests (strandOf c (strandId n i)) && (strandOf c (strandId n i)).flight.isEmpty &&
      (strandOf c (strandId n i)).parked.isEmpty) && (List.range 8).any (fun i => waitsRun (strandOf c (strandId n i)))) &&
      (coreOf c n).fill.isNone && storesOut c n == 0) := by
    simp only [canPause, List.all_map, List.any_map]; rfl
  rw [h, Bool.and_eq_true, Bool.and_eq_true, Bool.and_eq_true, List.all_eq_true, List.any_eq_true, beq_iff_eq, Option.isNone_iff_eq_none,
    forall_strands (P := fun u => (rests (strandOf c u) && (strandOf c u).flight.isEmpty && (strandOf c u).parked.isEmpty) = true),
    exists_strands (P := fun u => waitsRun (strandOf c u) = true)]
  simp only [Bool.and_eq_true, rests_iff, waitsRun_iff, List.isEmpty_iff, and_assoc]

/-! ### What ends a POWER_STATE (R547) -/

theorem powerDone_chip (s : State) : (powerDone s).chip = s.chip := by
  unfold powerDone
  split
  · rfl
  · split
    · exact (answer_frame _ _ _ _).1
    · rfl

/-- A classroom that has reached its state waits no longer; nothing else of the package changes. -/
theorem askReached_chip (r : Nat) (s : State) : (askReached r s).chip = s.chip ∨
    (askReached r s).chip = modRoom s.chip r (fun m => { m with asked := none }) := by
  unfold askReached
  split
  · split
    · exact .inr (powerDone_chip _)
    · exact .inl rfl
  · exact .inl rfl

/-- What asking leaves alone of the package: all but the ask. -/
theorem askReached_frame (r : Nat) (s : State) : (askReached r s).chip.mem = s.chip.mem ∧ (askReached r s).chip.cores = s.chip.cores ∧
    (askReached r s).chip.regs = s.chip.regs ∧ ∀ q, (roomOf (askReached r s).chip q).power = (roomOf s.chip q).power ∧
      (roomOf (askReached r s).chip q).pll = (roomOf s.chip q).pll := by
  rcases askReached_chip r s with h | h
  · rw [h]; exact ⟨rfl, rfl, rfl, fun _ => ⟨rfl, rfl⟩⟩
  · rw [h]
    refine ⟨rfl, rfl, rfl, fun q => ?_⟩
    rw [roomOf_modRoom]
    split
    · next hq => rw [hq]; exact ⟨rfl, rfl⟩
    · exact ⟨rfl, rfl⟩

/-! ### Pause (R545) -/

theorem corePause_pauses {s : State} {n : Fin 1024}
    (h : canPause s.chip n.val = true ∨ ((roomOf s.chip (n.val / 16)).asked ≠ none ∧ allIdle s.chip n.val = true)) :
    Answers (.corePause n) s (fun t => coreOf t.chip n = { coreOf s.chip n with paused := true } ∧ t.chip.mem = s.chip.mem) := by
  have hx : exec (.corePause n) s = .next (askReached (n.val / 16) (modChip (fun c => modCore c n (fun k => { k with paused := true })) s)) := by
    refine congrArg Host.Outcome.next (if_pos ?_)
    rcases h with h | ⟨ha, hi⟩
    · rw [h]; rfl
    · rw [Bool.or_eq_true, Bool.and_eq_true, hi]
      exact .inr ⟨Option.isSome_iff_ne_none.mpr ha, rfl⟩
  obtain ⟨hm, hc, -, -⟩ := askReached_frame (n.val / 16) (modChip (fun c => modCore c n (fun k => { k with paused := true })) s)
  refine ⟨_, hx, ?_, hm⟩
  rw [coreOf_of_cores hc]
  exact (coreOf_modCore _ _ _ _).trans (if_pos rfl)

theorem corePause_stays {s : State} {n : Fin 1024} (h : canPause s.chip n.val = false)
    (ha : (roomOf s.chip (n.val / 16)).asked = none ∨ allIdle s.chip n.val = false) : exec (.corePause n) s = .next s := by
  refine congrArg Host.Outcome.next (if_neg ?_)
  rw [h, Bool.false_or, Bool.and_eq_true, Option.isSome_iff_ne_none]
  rintro ⟨h1, h2⟩
  rcases ha with ha | ha
  · exact h1 ha
  · rw [ha] at h2; cases h2

/-! ### A core wakes (R544, R545, R549) -/

theorem strandOf_modCore_strands (c : Chip) (n : Nat) (f : Core → Core) (hf : ∀ k, (f k).strands = k.strands) (u : StrandId) :
    strandOf (modCore c n f) u = strandOf c u := by
  rw [strandOf, coreOf_modCore]
  split
  · next h => rw [hf, strandOf, h]
  · rfl

theorem strandOf_strandRun (u v : StrandId) (code : Nat) (c : Chip) :
    strandOf (strandRun u code c) v = if v = u then { strandOf c v with run := .active } else strandOf c v := by
  have hs (d : Chip) (hd : ∀ w, strandOf d w = strandOf c w) : strandOf (modStrand (modCore d u.core (fun k => { k with paused := false })) u
      (fun st => { st with run := .active })) v = if v = u then { strandOf c v with run := .active } else strandOf c v := by
    have hp (w : StrandId) : strandOf (modCore d u.core (fun k => { k with paused := false })) w = strandOf c w :=
      (strandOf_modCore_strands d u.core (fun k => { k with paused := false }) (fun _ => rfl) w).trans (hd w)
    by_cases h : v = u
    · subst h; rw [strandOf_modStrand_self, if_pos rfl, hp]
    · rw [strandOf_modStrand_ne _ _ h, if_neg h, hp]
  simp only [strandRun]
  split
  · exact hs _ fun _ => rfl
  · exact hs _ fun _ => rfl

theorem coreOf_modStrand_paused (c : Chip) (u : StrandId) (f : Strand → Strand) (n : Nat) :
    (coreOf (modStrand c u f) n).paused = (coreOf c n).paused := by
  rw [modStrand, setStrand, coreOf_modCore]
  split
  · next h => rw [h]
  · rfl

/-- The core of a strand that runs leaves pause. -/
theorem paused_strandRun (u : StrandId) (code n : Nat) (c : Chip) :
    (coreOf (strandRun u code c) n).paused = if n = u.core then false else (coreOf c n).paused := by
  simp only [strandRun]
  rw [coreOf_modStrand_paused, coreOf_modCore]
  split
  · rfl
  · split <;> rfl

/-- The source of a core's wake is recorded when it leaves pause. -/
theorem coreWakeCode_strandRun (u : StrandId) {code : Nat} (hc : code < 16) (c : Chip) : coreWakeCode (strandRun u code c) u.core =
    if (coreOf c u.core).paused = true then code else coreWakeCode c u.core := by
  simp only [strandRun]
  split
  · exact (coreWakeCode_coreWoke u.core.isLt u.core.isLt hc c).trans (if_pos rfl)
  · rfl

/-- Strands of a core that run again, one after the other. -/
theorem strandOf_runAgain (code : Nat) (v : StrandId) : ∀ (l : List StrandId) (c : Chip), strandOf (l.foldl (fun c u => strandRun u code c) c) v =
    if v ∈ l then { strandOf c v with run := .active } else strandOf c v
  | [], _ => rfl
  | u :: l, c => by
    rw [List.foldl_cons, strandOf_runAgain code v l, strandOf_strandRun]
    by_cases h : v = u <;> by_cases hl : v ∈ l <;> simp [h, hl]

theorem paused_runAgain (code n : Nat) : ∀ (l : List StrandId) (c : Chip), (coreOf c n).paused = false →
    (coreOf (l.foldl (fun c u => strandRun u code c) c) n).paused = false
  | [], _, h => h
  | u :: l, c, h => paused_runAgain code n l _ (by rw [paused_strandRun, h]; split <;> rfl)

theorem coreWakeCode_runAgain {code : Nat} (hc : code < 16) (n : Fin 1024) : ∀ (l : List StrandId) (c : Chip), (∀ u ∈ l, u.core = n) →
    (coreOf c n).paused = false → coreWakeCode (l.foldl (fun c u => strandRun u code c) c) n = coreWakeCode c n
  | [], _, _, _ => rfl
  | u :: l, c, hl, h => by
    have hu : u.core = n := hl u (List.mem_cons_self ..)
    rw [List.foldl_cons, coreWakeCode_runAgain hc n l _ (fun x hx => hl x (List.mem_cons_of_mem _ hx))
      (by rw [paused_strandRun, h]; split <;> rfl)]
    have := coreWakeCode_strandRun u hc c
    rwa [hu, h, if_neg (by decide)] at this

theorem wakeable_core (c : Chip) (n : Fin 1024) : ∀ u ∈ wakeable c n.val, u.core = n := by
  intro u hu
  obtain ⟨x, -, rfl⟩ := List.mem_map.mp (List.mem_filter.mp hu).1
  simp [strandId]

theorem mem_wakeable (c : Chip) (n : Fin 1024) (i : Fin 8) : ⟨n, i⟩ ∈ wakeable c n.val ↔
    creg (strandOf c ⟨n, i⟩) 28 &&& creg (strandOf c ⟨n, i⟩) 29 ≠ 0 ∧
      ((strandOf c ⟨n, i⟩).run = .idle ∨ ∃ k, (strandOf c ⟨n, i⟩).run = .waiting k) := by
  have h : wakeable c n.val = ((List.range 8).map (strandId n.val)).filter (fun u => wakePend (strandOf c u) && rests (strandOf c u)) := rfl
  have hm : (⟨n, i⟩ : StrandId) ∈ (List.range 8).map (strandId n.val) :=
    List.mem_map.mpr ⟨i.val, List.mem_range.mpr i.isLt, strandId_val n i⟩
  rw [h, List.mem_filter, Bool.and_eq_true, rests_iff]
  simp [hm, wakePend]

theorem coreWake_wakes {s : State} {n : Fin 1024} (hr : (roomOf s.chip (n.val / 16)).power = .run) :
    Answers (.coreWake n) s (fun t => (∀ i : Fin 8, (⟨n, i⟩ ∈ wakeable s.chip n.val →
        strandOf t.chip ⟨n, i⟩ = { strandOf s.chip ⟨n, i⟩ with run := .active }) ∧
      (⟨n, i⟩ ∉ wakeable s.chip n.val → strandOf t.chip ⟨n, i⟩ = strandOf s.chip ⟨n, i⟩)) ∧
      ((∃ i : Fin 8, ⟨n, i⟩ ∈ wakeable s.chip n.val) → (coreOf t.chip n).paused = false ∧
        ((coreOf s.chip n).paused = true → coreWakeCode t.chip n = 2))) := by
  obtain ⟨l, hl⟩ : ∃ l, l = wakeable s.chip n.val := ⟨_, rfl⟩
  have hcore : ∀ u ∈ l, u.core = n := hl ▸ wakeable_core s.chip n
  have hx : exec (.coreWake n) s = .next (s.withChip (l.foldl (fun c u => strandRun u 2 c) s.chip)) := by
    rw [hl]; exact congrArg (fun d => Host.Outcome.next (s.withChip d)) (if_pos hr)
  rw [← hl]
  refine ⟨_, hx, fun i => ⟨fun h => ?_, fun h => ?_⟩, fun ⟨i, h⟩ => ?_⟩
  · exact (strandOf_runAgain 2 ⟨n, i⟩ l s.chip).trans (if_pos h)
  · exact (strandOf_runAgain 2 ⟨n, i⟩ l s.chip).trans (if_neg h)
  · obtain ⟨u, m, rfl⟩ : ∃ u m, l = u :: m := List.exists_cons_of_ne_nil (List.ne_nil_of_mem h)
    have hu : u.core = n := hcore u (List.mem_cons_self ..)
    have hp : (coreOf (strandRun u 2 s.chip) n).paused = false := by rw [paused_strandRun, hu, if_pos rfl]
    refine ⟨paused_runAgain 2 n m _ hp, fun hpaused => ?_⟩
    refine (coreWakeCode_runAgain (by decide) n m _ (fun x hx => hcore x (List.mem_cons_of_mem _ hx)) hp).trans ?_
    have := coreWakeCode_strandRun u (code := 2) (by decide) s.chip
    rwa [hu, hpaused, if_pos rfl] at this

/-! ### Recess (R546, R550, R554, R564) -/

theorem enabledCores_range {c : Chip} {r n : Nat} (h : n ∈ enabledCores c r) : n / 16 = r := by
  obtain ⟨p, hp, rfl⟩ := List.mem_map.mp h
  have := List.mem_range.mp (List.mem_filter.mp hp).1
  omega

/-- Whether a strand waits for no other sleep state than recess. -/
def fitsRecess (st : Strand) : Bool := match st.run with | .waiting k => k == 2 | _ => true

theorem fitsRecess_iff (st : Strand) : fitsRecess st = true ↔ ∀ k, st.run = .waiting k → k = 2 := by
  unfold fitsRecess
  split <;> simp_all

theorem recessReady_iff (c : Chip) (r : Nat) : recessReady c r = true ↔ enabledCores c r ≠ [] ∧ ∀ n ∈ enabledCores c r,
    (coreOf c n).paused = true ∧ ∀ i < 8, ∀ k, (strandOf c (strandId n i)).run = .waiting k → k = 2 := by
  have h : recessReady c r = (!(enabledCores c r).isEmpty && (enabledCores c r).all (fun n => (coreOf c n).paused &&
    (List.range 8).all (fun i => fitsRecess (strandOf c (strandId n i))))) := rfl
  simp [h, fitsRecess_iff]

theorem foldl_add_pos {α : Type} (f : α → Nat) : ∀ (l : List α) (n : Nat), 0 < l.foldl (fun a b => a + f b) n ↔ 0 < n ∨ ∃ x ∈ l, 0 < f x
  | [], n => by simp
  | y :: l, n => by
    rw [List.foldl_cons, foldl_add_pos f l]
    simp only [List.mem_cons, exists_eq_or_imp, Nat.add_pos_iff_pos_or_pos, or_assoc]

/-- Requests of the mesh port at a classroom's banks, queued or waiting. -/
theorem meshQueued_pos (c : Chip) (r : Nat) : 0 < meshQueued c r ↔ (∃ b ∈ (roomOf c r).banks, ∃ e ∈ b.2.q, e.rq = 16) ∨
    ∃ x ∈ c.waiting, x.1 = r ∧ x.2.2.rq = 16 := by
  rw [meshQueued, Nat.add_pos_iff_pos_or_pos, foldl_add_pos (fun b : Nat × BankQ => (b.2.q.filter (fun e => e.rq == 16)).length)]
  simp [List.length_pos_iff_exists_mem]

/-- What refuses a recess, in the order of its checks. -/
theorem recessRefuser_of (c : Chip) (r : Nat) :
    ((dmaOf c r).active ≠ [] → recessRefuser c r = some (0x0400 + r)) ∧
    ((dmaOf c r).active = [] → getF c (clsB r) 0x020 31 31 = 1 → recessRefuser c r = some (0x0440 + r)) ∧
    ((dmaOf c r).active = [] → getF c (clsB r) 0x020 31 31 ≠ 1 → 0 < meshQueued c r → recessRefuser c r = some (0x0480 + r)) ∧
    ((dmaOf c r).active = [] → getF c (clsB r) 0x020 31 31 ≠ 1 → ¬ 0 < meshQueued c r → recessRefuser c r = none) := by
  refine ⟨fun h => ?_, fun h h2 => ?_, fun h h2 h3 => ?_, fun h h2 h3 => ?_⟩ <;> simp [recessRefuser, *]

theorem recessEntry_of_run {s : State} {r : Nat} (hp : (roomOf s.chip r).power = .run) (hr : recessReady s.chip r = true) :
    recessEntry r s = match recessRefuser s.chip r with
      | some x => countRefusal x 2 0 s
      | none => modChip (setPower r .entering) s := by
  rw [recessEntry, hp]
  simp only [hr, Bool.not_true, Bool.false_eq_true, if_false] <;> rfl

theorem recessEntry_refused {s : State} {r : Fin 64} {x : Nat} (hp : (roomOf s.chip r).power = .run) (hr : recessReady s.chip r = true)
    (hx : recessRefuser s.chip r = some x) : Answers (.recessEntry r) s (fun t => t.chip = s.chip ∧ Counted s t x 2 0) := by
  have h : recessEntry r s = countRefusal x 2 0 s := by rw [recessEntry_of_run hp hr, hx]
  refine ⟨_, congrArg Host.Outcome.next h, (LogsOnly.countRefusal x 2 0 s).chip, fun hl => ?_⟩
  rw [countRefusal_refusals]
  exact inCounts_counted hl

theorem recessEntry_completes {s : State} {r : Fin 64} (hp : (roomOf s.chip r).power = .entering) :
    Answers (.recessEntry r) s (fun t => ((roomOf t.chip r).power = .recess ∧ getF t.chip (.cls r) 0x028 19 18 = 1) ∧
      t.chip.mem = s.chip.mem ∧ (roomOf t.chip r).pll = false ∧
      ∀ p < 16, coreOf t.chip (16 * r + p) = { coreOf s.chip (16 * r + p) with cache := [] }) := by
  have h : recessEntry r s = askReached r (modChip (recessNow r) s) := by rw [recessEntry, hp]
  obtain ⟨hm, hc, hg, hq⟩ := askReached_frame r (modChip (recessNow r) s)
  have hroom := roomOf_recessNow r r s.chip
  rw [if_pos rfl] at hroom
  refine ⟨_, congrArg Host.Outcome.next h, ⟨(hq r).1.trans (congrArg Room.power hroom), ?_⟩,
    hm.trans (recessNow_frame r s.chip).1, (hq r).2.trans (congrArg Room.pll hroom), fun p hpl => ?_⟩
  · rw [getF_of_regs hg, ← clsB_val]
    exact getF_setPower_state _ _ _
  · rw [coreOf_of_cores hc]
    exact (coreOf_recessNow r _ s.chip).trans (if_pos (by omega))

theorem recessWake_wakes {s : State} {r : Fin 64} {code : Fin 16} (hw : wakesRoom code.val = true)
    (hp : (roomOf s.chip r).power = .recess ∨ (roomOf s.chip r).power = .closed) (hb : s.dev.power.breach = false) :
    Answers (.recessWake r code) s (fun t => ((roomOf t.chip r).power = .run ∧ getF t.chip (.cls r) 0x028 19 18 = 0) ∧
      getF t.chip (.cls r) 0x028 17 17 = 0 ∧ getF t.chip (.cls r) 0x028 23 20 = code.val ∧
      (∀ p < 16, coreWakeCode t.chip (16 * r + p) = code.val ∧ (coreOf t.chip (16 * r + p)).paused = false) ∧
      t.chip.mem = s.chip.mem) := by
  have h : (if wakesRoom code.val = true then wakeTo r code s else s) = modChip (wakeRoom r code) s := by
    rw [if_pos hw, wakeTo]
    rcases hp with hp | hp <;> simp [hp, hb]
  obtain ⟨h17, h18⟩ := getF_wakeCores r s.chip
  have hroom := roomOf_wakeRoom r code r s.chip
  rw [if_pos rfl] at hroom
  have hr := r.isLt
  refine ⟨_, congrArg Host.Outcome.next h, ⟨congrArg Room.power hroom, ?_⟩, ?_, ?_, fun p hpl => ⟨?_, ?_⟩, (wakeRoom_frame r code s.chip).1⟩
  · rw [← clsB_val]; exact (getF_wakeRoom_pwr r code s.chip (by decide)).trans h18
  · rw [← clsB_val]; exact (getF_wakeRoom_pwr r code s.chip (by decide)).trans h17
  · rw [← clsB_val]; exact (wakeRoom_codes (n := 0) (by decide) code.isLt s.chip).1
  · exact (wakeRoom_codes (by omega) code.isLt s.chip).2 (by omega)
  · have := coreOf_wakeRoom r code (16 * r + p) s.chip
    rw [if_pos (by omega)] at this
    exact congrArg Core.paused this

theorem pauseAndRecess_holds : PauseAndRecess := by
  intro s c
  refine ⟨fun n => ?_, fun r => ?_⟩
  · intro st idle waits pend
    refine ⟨fun h1 h2 h3 h4 h5 => ?_, fun h1 h2 => ?_, fun h1 h2 => ?_, fun h1 => ?_, fun h1 => ?_⟩
    · exact corePause_pauses (.inl ((canPause_iff c n).mpr ⟨⟨fun i => ⟨h1 i, h3 i⟩, h2⟩, h4, h5⟩))
    · exact corePause_pauses (.inr ⟨h2, (allIdle_iff c n).mpr h1⟩)
    · refine corePause_stays (Bool.eq_false_iff.mpr fun hc => ?_) (h1.imp id fun ⟨i, hi⟩ => Bool.eq_false_iff.mpr fun ha => hi ((allIdle_iff c n).mp ha i))
      obtain ⟨⟨hall, k, hk⟩, hfill, hst⟩ := (canPause_iff c n).mp hc
      rcases h2 with ⟨i, hi, hi'⟩ | h2 | ⟨i, hi⟩ | h2 | h2
      · exact (hall i).1.elim hi hi'
      · obtain ⟨j, hj⟩ := hk
        exact absurd ((h2 k).symm.trans hj) (by simp)
      · exact hi.elim (· (hall i).2.1) (· (hall i).2.2)
      · exact h2 hfill
      · exact h2 hst
    · obtain ⟨t, ht, hs, hp⟩ := coreWake_wakes (n := n) h1
      refine ⟨t, ht, fun i => ⟨fun h => (hs i).1 ((mem_wakeable c n i).mpr h), fun h => (hs i).2 fun hm => h ((mem_wakeable c n i).mp hm)⟩, fun ⟨i, h⟩ => ?_⟩
      exact hp ⟨i, (mem_wakeable c n i).mpr h⟩
    · exact onChip_same (if_neg h1)
  · intro room ready dma epoch mesh state
    obtain ⟨hd, he, hm, hn⟩ := recessRefuser_of c r
    rw [clsB_val] at he hm hn
    refine ⟨fun hp hr h1 h2 h3 => ?_, fun hp hr h1 => ?_, fun hp hr h1 h2 => ?_, fun hp hr h1 h2 h3 => ?_, fun hp hr => ?_, fun hp => ?_,
      fun code => ⟨fun hw => ?_, fun hw => ⟨fun hp => ?_, fun hp hb => ?_, fun hp hb => ?_, fun hp => ?_⟩⟩⟩
    · have hx : recessEntry r s = modChip (setPower r .entering) s := by
        rw [recessEntry_of_run hp ((recessReady_iff c r).mpr hr), hn (not_not.mp h1) h2 (fun h => h3 ((meshQueued_pos c r).mp h))]
      have hroom := roomOf_setPower r r .entering c
      rw [if_pos rfl] at hroom
      refine ⟨_, congrArg Host.Outcome.next hx, ?_⟩
      dsimp only
      rw [modChip_chip, setPower_mem, setPower_cores]
      refine ⟨⟨congrArg Room.power hroom, ?_⟩, rfl, rfl⟩
      rw [← clsB_val]; exact getF_setPower_state _ _ _
    · exact recessEntry_refused hp ((recessReady_iff c r).mpr hr) (hd h1)
    · exact recessEntry_refused hp ((recessReady_iff c r).mpr hr) (he (not_not.mp h1) h2)
    · exact recessEntry_refused hp ((recessReady_iff c r).mpr hr) (hm (not_not.mp h1) h2 ((meshQueued_pos c r).mpr h3))
    · have hx : recessEntry r s = s := by
        have hp' : (roomOf s.chip r).power = .run := hp
        have hr' : recessReady s.chip r = false := Bool.eq_false_iff.mpr fun h => hr ((recessReady_iff c r).mp h)
        rw [recessEntry, hp']
        simp [hr']
      exact congrArg Host.Outcome.next hx
    · exact recessEntry_completes hp
    · exact congrArg Host.Outcome.next (if_neg (by simp [hw]))
    · have hx : wakeTo r code s = s := by rw [wakeTo, show (roomOf s.chip r).power = .run from hp]
      exact congrArg Host.Outcome.next ((if_pos hw).trans hx)
    · exact recessWake_wakes hw hp hb
    · have hx : wakeTo r code s = countRefusal 0x0502 3 0 s := by
        rw [wakeTo]
        rcases hp with hp | hp
        · rw [show (roomOf s.chip r).power = .recess from hp]; simp [hb]
        · rw [show (roomOf s.chip r).power = .closed from hp]; simp [hb]
      refine ⟨_, congrArg Host.Outcome.next ((if_pos hw).trans hx), (LogsOnly.countRefusal _ _ _ s).chip, fun hl => ?_⟩
      rw [countRefusal_refusals]
      exact inCounts_counted hl
    · have hx : wakeTo r code s = abortEntry r code s := by rw [wakeTo, show (roomOf s.chip r).power = .entering from hp]
      have hroom := roomOf_setPower r r .run c
      rw [if_pos rfl] at hroom
      refine ⟨_, congrArg Host.Outcome.next ((if_pos hw).trans hx), ?_, fun hl => ?_⟩
      · simp only [state, abortEntry, (LogsOnly.countRefusal _ _ _ _).chip, ← clsB_val]
        exact ⟨congrArg Room.power hroom, getF_setPower_state r .run c⟩
      · rw [abortEntry, countRefusal_refusals]
        exact inCounts_counted hl

end Sys2Proof.Machine
end

section
/-! PROOFS. What the memory system, the tile unit's requests and the loss of requests leave alone of the package: the settings
of the blocks, the power of the classrooms, and of every strand its run state and a legal MODE (spec/02 R91, spec/08, spec/09). -/

open Sys2Proof Sys2Proof.Machine
namespace Sys2Proof.Machine

/-! ### Strands with a legal MODE -/

/-- A strand's MODE, and every pending write of it, is one that MODE may hold (R91). -/
def StrandLegal (st : Strand) : Prop := LegalMode (creg st 0) ∧ ∀ w ∈ st.pend, w.reg = 64 → LegalMode w.val

theorem modesLegal_iff (c : Chip) : ModesLegal c ↔ ∀ u, StrandLegal (strandOf c u) := Iff.rfl

/-- A strand whose control registers and pending writes are another's. -/
theorem StrandLegal.of_same {s t : Strand} (h : StrandLegal s) (hc : t.c = s.c) (hp : t.pend = s.pend) : StrandLegal t := by
  rw [StrandLegal, hp, creg, hc]; exact h

/-- Pending writes changed but for what names MODE. -/
theorem StrandLegal.mapPend {s t : Strand} (h : StrandLegal s) (hc : t.c = s.c) {f : PendW → PendW} (hp : t.pend = s.pend.map f)
    (hf : ∀ w, (f w).reg = w.reg ∧ (w.reg = 64 → (f w).val = w.val)) : StrandLegal t := by
  refine ⟨by rw [creg, hc]; exact h.1, fun w hw hr => ?_⟩
  obtain ⟨x, hx, rfl⟩ := List.mem_map.mp (hp ▸ hw)
  have hx64 : x.reg = 64 := (hf x).1 ▸ hr
  rw [(hf x).2 hx64]
  exact h.2 x hx hx64

/-! ### Quiet changes -/

/-- The registers whose settings and states the invariants are about: the state of every block, and of a classroom its core
and pigeonhole enables and its speculative ranges (R44, R57, R315). -/
def Watched (b : BlockId) (n : Nat) : Prop :=
  n = 0x002 ∨ ((∃ r, b = .cls r) ∧ (n = 0x010 ∨ n = 0x01A ∨ n = 0x01C ∨ n = 0x01E))

/-- A change of the package that leaves alone the watched registers, the power of the classrooms and the run state of every
strand, and keeps a legal MODE legal. -/
structure Quiet (c d : Chip) : Prop where
  regs : ∀ b n, Watched b n → rawReg d b n = rawReg c b n
  run : ∀ u, (strandOf d u).run = (strandOf c u).run
  legal : ∀ u, StrandLegal (strandOf c u) → StrandLegal (strandOf d u)
  paused : ∀ n, (coreOf d n).paused = (coreOf c n).paused
  power : ∀ r, (roomOf d r).power = (roomOf c r).power
  asked : ∀ r, (roomOf d r).asked = (roomOf c r).asked

namespace Quiet

theorem refl (c : Chip) : Quiet c c := ⟨fun _ _ _ => rfl, fun _ => rfl, fun _ h => h, fun _ => rfl, fun _ => rfl, fun _ => rfl⟩

variable {c d e : Chip}

theorem trans (h : Quiet c d) (k : Quiet d e) : Quiet c e where
  regs b n hw := (k.regs b n hw).trans (h.regs b n hw)
  run u := (k.run u).trans (h.run u)
  legal u hl := k.legal u (h.legal u hl)
  paused n := (k.paused n).trans (h.paused n)
  power r := (k.power r).trans (h.power r)
  asked r := (k.asked r).trans (h.asked r)

/-- What changes neither registers nor cores nor classrooms. -/
theorem same (h : Quiet c d) (hr : e.regs = d.regs := by rfl) (hc : e.cores = d.cores := by rfl) (hm : e.rooms = d.rooms := by rfl) :
    Quiet c e :=
  h.trans ⟨fun b n _ => rawReg_of_regs hr b n, fun u => by rw [strandOf_of_cores hc], fun u hl => by rwa [strandOf_of_cores hc],
    fun n => by rw [coreOf_of_cores hc], fun r => by rw [roomOf_of_rooms hm], fun r => by rw [roomOf_of_rooms hm]⟩

theorem fresh (h : Quiet c d) (n : Nat) : Quiet c { d with fresh := n } := h.same

theorem waiting (h : Quiet c d) (l : List (Nat × Nat × BankReq)) : Quiet c { d with waiting := l } := h.same

theorem setF (h : Quiet c d) {b : BlockId} {n : Nat} (hi lo v : Nat) (hw : ¬ Watched b n) : Quiet c (setF d b n hi lo v) :=
  h.trans ⟨fun b' n' hw' => rawReg_setF_ne _ _ _ _ (by
      by_contra hc; push Not at hc; obtain ⟨rfl, rfl⟩ := hc; exact hw hw'), fun _ => rfl, fun _ h => h, fun _ => rfl, fun _ => rfl, fun _ => rfl⟩

/-- A change of a classroom that leaves its power and what it is asked for alone. -/
theorem modRoom (h : Quiet c d) (r : Nat) {f : Room → Room}
    (hf : ∀ m, (f m).power = m.power ∧ (f m).asked = m.asked := by exact fun _ => ⟨rfl, rfl⟩) : Quiet c (modRoom d r f) := by
  have hroom (q : Nat) : (roomOf (Machine.modRoom d r f) q).power = (roomOf d q).power ∧
      (roomOf (Machine.modRoom d r f) q).asked = (roomOf d q).asked := by
    rw [roomOf_modRoom]
    split
    · next hq => rw [hq]; exact hf _
    · exact ⟨rfl, rfl⟩
  exact h.trans ⟨fun _ _ _ => rfl, fun _ => rfl, fun _ h => h, fun _ => rfl, fun q => (hroom q).1, fun q => (hroom q).2⟩

/-- A change of a core beside its strands and its pause. -/
theorem modCore (h : Quiet c d) (n : Nat) {f : Core → Core} (hs : ∀ k, (f k).strands = k.strands := by exact fun _ => rfl)
    (hp : ∀ k, (f k).paused = k.paused := by exact fun _ => rfl) : Quiet c (modCore d n f) := by
  have hst (u : StrandId) : strandOf (Machine.modCore d n f) u = strandOf d u := strandOf_modCore_strands d n f hs u
  refine h.trans ⟨fun _ _ _ => rfl, fun u => by rw [hst], fun u hl => by rwa [hst], fun m => ?_, fun _ => rfl, fun _ => rfl⟩
  rw [coreOf_modCore]
  split
  · next hm => rw [hm]; exact hp _
  · rfl

/-- A change of a strand that leaves its run state alone and its MODE legal. -/
theorem modStrand (h : Quiet c d) (u : StrandId) {f : Strand → Strand} (hr : (f (strandOf d u)).run = (strandOf d u).run)
    (hl : StrandLegal (strandOf d u) → StrandLegal (f (strandOf d u))) : Quiet c (modStrand d u f) := by
  refine h.trans ⟨fun _ _ _ => rfl, fun v => ?_, fun v hv => ?_, fun n => coreOf_modStrand_paused d u f n, fun _ => rfl, fun _ => rfl⟩
  · by_cases hu : v = u
    · subst hu; rw [strandOf_modStrand_self, hr]
    · rw [strandOf_modStrand_ne _ _ hu]
  · by_cases hu : v = u
    · subst hu; rw [strandOf_modStrand_self]; exact hl hv
    · rwa [strandOf_modStrand_ne _ _ hu]

/-- A fold is quiet when its steps are. -/
theorem foldl {α : Type} {f : Chip → α → Chip} (h : Quiet c d) (hf : ∀ c x, Quiet c (f c x)) (l : List α) : Quiet c (l.foldl f d) :=
  foldl_keeps (P := Quiet c) (fun a b ha => ha.trans (hf a b)) l d h

/-- A write of memory. -/
theorem ofWrites (h : Quiet c d) (k : WritesMemory d e) : Quiet c e :=
  h.trans ⟨fun b n hw => k.regs b n (by rcases hw with rfl | ⟨-, rfl | rfl | rfl | rfl⟩ <;> decide),
    fun u => by rw [strandOf, strandOf, k.strands], fun u hl => by rwa [strandOf, k.strands],
    k.paused, fun r => (k.room r).1, k.asked⟩

theorem wrMarked (h : Quiet c d) (spec : Bool) (l : List (Nat × Word × Bool)) : Quiet c (wrMarked d spec l) :=
  h.ofWrites (.wrMarked d spec l)

theorem putWords (h : Quiet c d) (spec : Bool) (l : List (Nat × Word × Bool)) : Quiet c (putWords d spec l).1 :=
  h.ofWrites (.putWords l d spec)

theorem wrWords (h : Quiet c d) (spec : Bool) (a : Nat) (ws : List Word) : Quiet c (wrWords d spec a ws) :=
  h.ofWrites (.wrWords d spec a ws)

/-! ### The banks of the classrooms (R282 to R286) -/

theorem offerBank (h : Quiet c d) (r b : Nat) (q : BankReq) : Quiet c (offerBank d r b q) := by
  unfold Machine.offerBank
  split
  · exact h.modRoom r
  · exact h.same

theorem refillBanks (h : Quiet c d) : Quiet c (refillBanks d) := by
  unfold Machine.refillBanks
  exact (h.waiting []).foldl (fun c x => (refl c).offerBank x.1 x.2.1 x.2.2) d.waiting

theorem enqBank (h : Quiet c d) (rq : Nat) (core : Option Nat) (a : Nat) (wr : Bool) (who : Reader) (sgn : Bool)
    (ws : List (Nat × Nat × Nat)) : Quiet c (enqBank d rq core a wr who sgn ws) := h.offerBank _ _ _

/-! ### Who waits for a request -/

theorem modOp (h : Quiet c d) (core s id : Nat) (f : TileOp → TileOp) : Quiet c (modOp core s id f d) :=
  h.modStrand _ rfl fun hl => hl.of_same rfl rfl

/-- A load's value changes in the pending writes of registers g and f. -/
theorem patchReader (h : Quiet c d) (who : Reader) (sgn : Bool) (all n : Nat) (hits : List (Nat × Nat × Nat)) (ws : List Word) :
    Quiet c (patchReader who sgn all n hits ws d) := by
  unfold Machine.patchReader
  split
  · refine h.modStrand _ rfl fun hl => hl.mapPend rfl rfl fun w => ?_
    split
    · next hw => exact ⟨rfl, fun h64 => absurd hw.2 (by omega)⟩
    · exact ⟨rfl, fun _ => rfl⟩
  · exact h.modOp _ _ _ _
  · exact h.modRoom _
  · exact h

theorem poisonReader (h : Quiet c d) (who : Reader) (hits : List (Nat × Nat × Nat)) : Quiet c (poisonReader who hits d) := by
  unfold Machine.poisonReader
  split
  · next core s id =>
    have hk : Quiet c (Machine.modCore d core (fun k => { k with
        fill := k.fill.map (fun f => if f.strand = s ∧ f.id = id then { f with pois := true } else f) })) :=
      h.modCore core
    dsimp only
    split
    · exact hk
    · refine hk.modStrand _ rfl fun hl => hl.mapPend rfl rfl fun w => ?_
      split <;> exact ⟨rfl, fun _ => rfl⟩
  · exact h.modOp _ _ _ _
  · exact h.modRoom _
  · exact h

theorem mapReaders (h : Quiet c d) (f : Reader → Reader) : Quiet c (mapReaders f d) := by
  have hroom (r : Nat) : (roomOf (Machine.mapReaders f d) r).power = (roomOf d r).power ∧
      (roomOf (Machine.mapReaders f d) r).asked = (roomOf d r).asked := by
    have := tget_tmap (fun _ => roomReset) (fun _ (r : Room) => { r with
      banks := tmap (fun _ => bankQReset) (fun _ q => { q with q := q.q.map (fun e => { e with who := f e.who }) }) r.banks }) d.rooms r rfl
    rw [roomOf, Machine.mapReaders, this]
    exact ⟨rfl, rfl⟩
  exact h.trans ⟨fun _ _ _ => rfl, fun _ => rfl, fun _ h => h, fun _ => rfl, fun r => (hroom r).1, fun r => (hroom r).2⟩

/-! ### The controllers (R329 to R332) -/

theorem modStack (h : Quiet c d) (k : Nat) (f : Stack → Stack) : Quiet c (modStack d k f) := h.same

theorem modDram (h : Quiet c d) (k b : Nat) (f : DramQ → DramQ) : Quiet c (modDram d k b f) := h.modStack _ _

theorem not_watched_hmc (k : Fin 8) {n : Nat} (h : n ≠ 0x002) : ¬ Watched (.hmc k) n := by
  rintro (rfl | ⟨⟨_, hb⟩, -⟩)
  · exact h rfl
  · cases hb

theorem giveTicket (h : Quiet c d) (k b : Nat) (r : HReq) : Quiet c (giveTicket d k b r) :=
  (h.modDram k b _).setF _ _ _ (not_watched_hmc _ (by decide))

theorem acceptLine (h : Quiet c d) (k b : Nat) (r : HReq) : Quiet c (acceptLine d k b r) := by
  simp only [Machine.acceptLine]
  split
  · exact (h.modDram k b _).wrMarked _ _
  · split
    · exact (((h.modDram k b _)).patchReader _ _ _ _ _ _).poisonReader _ _
    · exact ((h.modDram k b _)).patchReader _ _ _ _ _ _

theorem askLine (h : Quiet c d) (k : Nat) (r : HReq) : Quiet c (askLine k r d) := by
  simp only [Machine.askLine]
  split
  · exact h.giveTicket _ _ _
  · split
    · exact h.modStack _ _
    · exact h.acceptLine _ _ _

theorem restall (h : Quiet c d) (k : Nat) : Quiet c (restall k d) := by
  unfold Machine.restall
  split
  · exact h
  · exact (h.modStack k _).foldl (fun c r => (refl c).askLine k r) _

theorem askHbm (h : Quiet c d) (src a : Nat) (who : Reader) (sgn : Bool) (ws : List (Nat × Nat × Nat)) :
    Quiet c (askHbm d src a who sgn ws) := h.askLine _ _

theorem sendHbm (h : Quiet c d) (src a : Nat) (who : Reader) (as : List Nat) (l : List (Nat × Word × Bool)) :
    Quiet c (sendHbm d src a who as l) := h.askLine _ _

theorem askWords (h : Quiet c d) (core a : Nat) (who : Reader) (sgn : Bool) (ws : List (Nat × Nat × Nat)) :
    Quiet c (askWords d core a who sgn ws) := by
  unfold Machine.askWords
  split
  · exact h.askHbm _ _ _ _ _
  · split
    · exact h.enqBank _ _ _ _ _ _ _
    · exact h

theorem askReads (h : Quiet c d) (core : Nat) (spec : Bool) (who : Reader) (a n : Nat) : Quiet c (askReads d core spec who a n) :=
  h.foldl (fun c _ => (refl c).askWords _ _ _ _ _) _

theorem askClsWrites (h : Quiet c d) (core : Nat) (who : Reader) (as : List Nat) : Quiet c (askClsWrites d core who as) :=
  h.foldl (fun c _ => (refl c).enqBank _ _ _ _ _ _ _) _

theorem coreWrite (h : Quiet c d) (core : Nat) (spec : Bool) (who : Reader) (l : List (Nat × Word × Bool)) :
    Quiet c (coreWrite d core spec who l) :=
  ((h.wrMarked _ _).askClsWrites _ _ _).foldl (fun c _ => (refl c).sendHbm _ _ _ _ _) _

/-! ### Tile instructions that are abandoned or cut short (R243, R247, R273) -/

theorem someRows (h : Quiet c d) (u : StrandId) (rows : List (List (Nat × Word × Bool))) : Quiet c (someRows d u rows) :=
  (h.same (e := { d with fresh := d.fresh + 1 }) rfl rfl rfl).coreWrite _ _ _ _

theorem loseBuffer (h : Quiet c d) (u : StrandId) (sl : Slot) : Quiet c (loseBuffer d u sl) :=
  (h.putWords _ _).same rfl rfl rfl

theorem cutCommit (h : Quiet c d) (u : StrandId) : Quiet c (cutCommit d u) := by
  have hf : Quiet c { d with fresh := d.fresh + 1 } := h.same
  unfold Machine.cutCommit
  split
  · exact h
  · split
    · exact h
    · split
      · exact hf.loseBuffer _ _
      · exact hf

theorem abandonOp (h : Quiet c d) (u : StrandId) (before : List TileOp) (op : TileOp) : Quiet c (abandonOp u before op d) := by
  have hf : Quiet c { d with fresh := d.fresh + 1 } := h.same
  simp only [Machine.abandonOp]
  split
  · exact h
  · split
    · split
      · exact h
      · exact hf.modCore _
    · split
      · exact h
      · exact hf.modCore _
    · split
      · exact h
      · exact h.someRows _ _
    · split
      · exact h
      · exact h.someRows _ _
    · exact h

theorem abandonOps (u : StrandId) (l : List TileOp) : ∀ (before : List TileOp) {d : Chip}, Quiet c d → Quiet c (abandonOps u before l d) := by
  induction l with
  | nil => exact fun _ _ h => h
  | cons op l ih => exact fun before d h => ih _ (h.abandonOp u before op)

theorem abandonAll (h : Quiet c d) (u : StrandId) : Quiet c (abandonAll d u) := abandonOps u _ [] h

theorem cutCommits (h : Quiet c d) (core : Nat) : Quiet c (cutCommits d core) :=
  h.foldl (fun c _ => ((refl c).abandonAll _).cutCommit _) _

theorem orphanReqs (h : Quiet c d) (n : Nat) : Quiet c (orphanReqs d n) := h.mapReaders _

/-! ### Writes that become visible (R98, R100) -/

/-- A pending write becomes visible: one of MODE is legal. -/
theorem commitW (h : Quiet c d) (u : StrandId) {w : PendW} (hw : w.reg = 64 → LegalMode w.val) : Quiet c (commitW u d w) := by
  unfold Machine.commitW
  split
  · exact h.modStrand _ rfl fun hl => hl.of_same rfl rfl
  split
  · exact h.modCore _
  split
  · exact h.modCore _
  split
  · exact h.modCore _
  split
  · exact h.modCore _
  split
  · refine h.modStrand _ rfl fun hl => ⟨?_, hl.2⟩
    rw [creg, setCreg, tget_tput_ne _ _ _ (by decide)]
    exact hl.1
  split
  · refine h.modStrand _ rfl fun hl => ⟨?_, hl.2⟩
    by_cases hm : w.reg = 64
    · rw [hm]; simp only [creg, setCreg, Nat.sub_self, tget_tput_self]; exact hw hm
    · simp only [creg, setCreg]
      rw [tget_tput_ne _ _ _ (by omega)]
      exact hl.1
  split
  · exact h.modStrand _ rfl fun hl => hl.of_same rfl rfl
  · exact h.modStrand _ rfl fun hl => hl.of_same rfl rfl

theorem commitV (h : Quiet c d) (u : StrandId) (w : PendV) : Quiet c (commitV u d w) :=
  h.modCore _

/-- Flags go into the float or the vector status, never into MODE. -/
theorem commitF (h : Quiet c d) (u : StrandId) (w : PendF) : Quiet c (commitF u d w) := by
  refine h.modStrand u ?_ fun hl => ?_
  · unfold orFlags
    split <;> rfl
  · unfold orFlags
    split
    · refine ⟨?_, hl.2⟩
      rw [creg, setCreg, tget_tput_ne _ _ _ (by decide)]
      exact hl.1
    · exact hl.of_same rfl rfl

theorem commitWs (h : Quiet c d) (u : StrandId) : ∀ (l : List PendW), (∀ w ∈ l, w.reg = 64 → LegalMode w.val) →
    Quiet c (l.foldl (Machine.commitW u) d) := by
  intro l
  induction l generalizing d with
  | nil => exact fun _ => h
  | cons w l ih => exact fun hl => ih (h.commitW u (hl w (List.mem_cons_self ..))) fun x hx => hl x (List.mem_cons_of_mem _ hx)

end Quiet

/-- What changes of a strand and its core's registers alone. -/
structure AtStrand (u : StrandId) (c d : Chip) : Prop where
  regs : d.regs = c.regs
  rooms : d.rooms = c.rooms
  run : (strandOf d u).run = (strandOf c u).run
  others : ∀ v, v ≠ u → strandOf d v = strandOf c v
  paused : ∀ n, (coreOf d n).paused = (coreOf c n).paused

namespace AtStrand

theorem refl (u : StrandId) (c : Chip) : AtStrand u c c := ⟨rfl, rfl, rfl, fun _ _ => rfl, fun _ => rfl⟩

variable {u : StrandId} {c d e : Chip}

theorem trans (h : AtStrand u c d) (k : AtStrand u d e) : AtStrand u c e :=
  ⟨k.regs.trans h.regs, k.rooms.trans h.rooms, k.run.trans h.run, fun v hv => (k.others v hv).trans (h.others v hv),
    fun n => (k.paused n).trans (h.paused n)⟩

theorem modStrand (h : AtStrand u c d) {f : Strand → Strand} (hr : (f (strandOf d u)).run = (strandOf d u).run) :
    AtStrand u c (modStrand d u f) :=
  h.trans ⟨rfl, rfl, by rw [strandOf_modStrand_self, hr], fun v hv => strandOf_modStrand_ne _ _ hv, fun n => coreOf_modStrand_paused d u f n⟩

theorem modCore (h : AtStrand u c d) (n : Nat) {f : Core → Core} (hs : ∀ k, (f k).strands = k.strands := by exact fun _ => rfl)
    (hp : ∀ k, (f k).paused = k.paused := by exact fun _ => rfl) : AtStrand u c (modCore d n f) := by
  have hst (v : StrandId) : strandOf (Machine.modCore d n f) v = strandOf d v := strandOf_modCore_strands d n f hs v
  refine h.trans ⟨rfl, rfl, by rw [hst], fun v _ => hst v, fun m => ?_⟩
  rw [coreOf_modCore]
  split
  · next hm => rw [hm]; exact hp _
  · rfl

theorem commitW (h : AtStrand u c d) (w : PendW) : AtStrand u c (commitW u d w) := by
  unfold Machine.commitW
  split
  · exact h.modStrand rfl
  split
  · exact h.modCore _
  split
  · exact h.modCore _
  split
  · exact h.modCore _
  split
  · exact h.modCore _
  split
  · exact h.modStrand rfl
  split
  · exact h.modStrand rfl
  split
  · exact h.modStrand rfl
  · exact h.modStrand rfl

theorem commitV (h : AtStrand u c d) (w : PendV) : AtStrand u c (commitV u d w) := h.modCore _

theorem commitF (h : AtStrand u c d) (w : PendF) : AtStrand u c (commitF u d w) :=
  h.modStrand (by unfold orFlags; split <;> rfl)

theorem foldl {α : Type} {f : Chip → α → Chip} (h : AtStrand u c d) (hf : ∀ {c d} x, AtStrand u c d → AtStrand u c (f d x)) (l : List α) :
    AtStrand u c (l.foldl f d) := foldl_keeps (P := AtStrand u c) (fun _ x ha => hf x ha) l d h

theorem setStrand (h : AtStrand u c d) {st : Strand} (hr : st.run = (strandOf d u).run := by rfl) : AtStrand u c (setStrand d u st) :=
  h.modStrand (f := fun _ => st) hr

end AtStrand

namespace Quiet
variable {c d e : Chip}

/-- A change of one strand, its MODE legal after it if it was before. -/
theorem atStrand (h : Quiet c d) {u : StrandId} (k : AtStrand u d e) (hl : StrandLegal (strandOf d u) → StrandLegal (strandOf e u)) :
    Quiet c e := by
  refine h.trans ⟨fun b n _ => rawReg_of_regs k.regs b n, fun v => ?_, fun v hv => ?_, k.paused, fun r => by rw [roomOf_of_rooms k.rooms],
    fun r => by rw [roomOf_of_rooms k.rooms]⟩
  · by_cases hu : v = u
    · rw [hu, k.run]
    · rw [k.others v hu]
  · by_cases hu : v = u
    · rw [hu] at hv ⊢; exact hl hv
    · rwa [k.others v hu]

/-- A strand set, then legal writes of it made visible. -/
theorem legal_commits {u : StrandId} {st : Strand} (h : StrandLegal st) {l : List PendW} (hl : ∀ w ∈ l, w.reg = 64 → LegalMode w.val)
    (lv : List PendV) (lf : List PendF) : StrandLegal (strandOf (lf.foldl (Machine.commitF u) (lv.foldl (Machine.commitV u)
      (l.foldl (Machine.commitW u) (setStrand d u st)))) u) :=
  ((((refl _).commitWs u l hl).foldl (fun c x => (refl c).commitV u x) lv).foldl (fun c x => (refl c).commitF u x) lf).legal u
    (by rwa [strandOf_setStrand_self])

/-- Every write that is due becomes visible. -/
theorem commitDue (h : Quiet c d) (u : StrandId) : Quiet c (commitDue d u) := by
  simp only [Machine.commitDue]
  refine h.atStrand (u := u) ?_ fun hl => ?_
  · exact (((AtStrand.refl u d).setStrand.foldl (fun x k => k.commitW x) _).foldl (fun x k => k.commitV x) _).foldl (fun x k => k.commitF x) _
  · apply legal_commits
    · exact ⟨hl.1, fun w hw hr => hl.2 w (List.mem_of_mem_filter hw) hr⟩
    · exact fun w hw hr => hl.2 w (List.mem_of_mem_filter hw) hr

theorem serveReader (h : Quiet c d) (who : Reader) : Quiet c (serveReader who d) := by
  unfold Machine.serveReader
  split
  · refine (h.modStrand _ rfl fun hl => hl.mapPend rfl rfl fun w => ?_).commitDue _
    split <;> exact ⟨rfl, fun _ => rfl⟩
  · exact h

/-! ### What a stop loses (R47, R49, R309, R319) -/

theorem loseReader (h : Quiet c d) (x : Reader × Bool × List (Nat × Nat × Nat)) : Quiet c (loseReader d x) :=
  ((h.fresh _).patchReader _ _ _ _ _ _).serveReader _

theorem dropRoom (h : Quiet c d) (r : Nat) : Quiet c (dropRoom r d) := by
  unfold Machine.dropRoom
  have h1 : Quiet c { d with waiting := d.waiting.filter (fun x => x.1 != r) } := h.same
  have h2 := h1.modRoom r (f := fun m => { m with banks := [] })
  exact (h2.foldl (fun c x => (refl c).loseReader x) (roomReaders d r)).refillBanks

theorem dropStack (h : Quiet c d) (k : Nat) : Quiet c (dropStack k d) :=
  (h.modStack k _).foldl (fun c x => (refl c).loseReader x) _

theorem modDma (h : Quiet c d) (r : Nat) (f : Dma → Dma) : Quiet c (modDma d r f) := h.modRoom r

theorem dmaAbandon (h : Quiet c d) (r : Nat) : Quiet c (dmaAbandon r d) := by
  unfold Machine.dmaAbandon
  exact ((h.mapReaders _).foldl (fun c p => ((refl c).wrMarked _ _).fresh _) _).modDma r _

theorem not_watched_spec (b : BlockId) : ¬ Watched b 0x020 := by
  rintro (h | ⟨-, h | h | h | h⟩) <;> cases h

theorem specClose (h : Quiet c d) (commit : Bool) (r : Nat) : Quiet c (specClose commit r d) := by
  unfold Machine.specClose
  exact ((h.modRoom r).setF _ _ _ (not_watched_spec _)).setF _ _ _ (not_watched_spec _)

/-- The tile instructions of a core's strands are dropped. -/
theorem tileDiscard (h : Quiet c d) (n : Nat) : Quiet c (tileDiscard n d) := by
  refine (h.cutCommits n).trans ?_
  unfold Machine.tileDiscard
  generalize Machine.cutCommits d n = e
  have hs (u : StrandId) : ∃ fl pk, strandOf (Machine.modCore e n (fun k => { k with
      strands := tmap strandReset (fun _ st => { st with flight := [], parked := [] }) k.strands, banks := [] })) u =
      { strandOf e u with flight := fl, parked := pk } := by
    rw [strandOf, coreOf_modCore]
    split
    · next hu =>
      rw [tget_tmap strandReset (fun _ st => { st with flight := [], parked := [] }) _ _ rfl, ← hu]
      exact ⟨_, _, rfl⟩
    · exact ⟨(strandOf e u).flight, (strandOf e u).parked, rfl⟩
  refine ⟨fun _ _ _ => rfl, fun u => ?_, fun u hl => ?_, fun m => ?_, fun _ => rfl, fun _ => rfl⟩
  · obtain ⟨_, _, h⟩ := hs u; rw [h]
  · obtain ⟨_, _, h⟩ := hs u; rw [h]; exact hl.of_same rfl rfl
  · rw [coreOf_modCore]
    split
    · next hm => rw [hm]
    · rfl

end Quiet

end Sys2Proof.Machine
end

section
/-! PROOFS. A classroom is closed (spec/16 R537, R543, R547): its cores reset, its blocks stopped, and the other classrooms
as they were. -/

open Sys2Proof Sys2Proof.Machine
namespace Sys2Proof.Machine

/-! ### A change that concerns one classroom -/

/-- What a change at classroom r leaves of the others: power, what they are asked for, run states, pause and settings. -/
structure Elsewhere (r : Nat) (c d : Chip) : Prop where
  regs : ∀ b n, Watched b n → b ≠ clsB r → b ≠ dmaB r → rawReg d b n = rawReg c b n
  run : ∀ u : StrandId, u.core.val / 16 ≠ r → (strandOf d u).run = (strandOf c u).run
  paused : ∀ n, n / 16 ≠ r → (coreOf d n).paused = (coreOf c n).paused
  power : ∀ q, q ≠ r → (roomOf d q).power = (roomOf c q).power
  asked : ∀ q, q ≠ r → (roomOf d q).asked = (roomOf c q).asked

namespace Elsewhere
variable {r : Nat} {c d e : Chip}

theorem refl (r : Nat) (c : Chip) : Elsewhere r c c := ⟨fun _ _ _ _ _ => rfl, fun _ _ => rfl, fun _ _ => rfl, fun _ _ => rfl, fun _ _ => rfl⟩

theorem trans (h : Elsewhere r c d) (k : Elsewhere r d e) : Elsewhere r c e where
  regs b n hw h1 h2 := (k.regs b n hw h1 h2).trans (h.regs b n hw h1 h2)
  run u hu := (k.run u hu).trans (h.run u hu)
  paused n hn := (k.paused n hn).trans (h.paused n hn)
  power q hq := (k.power q hq).trans (h.power q hq)
  asked q hq := (k.asked q hq).trans (h.asked q hq)

theorem quiet (h : Elsewhere r c d) (k : Quiet d e) : Elsewhere r c e :=
  h.trans ⟨fun b n hw _ _ => k.regs b n hw, fun u _ => k.run u, fun n _ => k.paused n, fun q _ => k.power q, fun q _ => k.asked q⟩

theorem modRoom (h : Elsewhere r c d) (f : Room → Room) : Elsewhere r c (modRoom d r f) :=
  h.trans ⟨fun _ _ _ _ _ => rfl, fun _ _ => rfl, fun _ _ => rfl, fun q hq => by rw [roomOf_modRoom, if_neg hq],
    fun q hq => by rw [roomOf_modRoom, if_neg hq]⟩

theorem modCore (h : Elsewhere r c d) {n : Nat} (hn : n / 16 = r) (f : Core → Core) : Elsewhere r c (modCore d n f) := by
  have hne (m : Nat) (hm : m / 16 ≠ r) : coreOf (Machine.modCore d n f) m = coreOf d m := by
    rw [coreOf_modCore, if_neg (by rintro rfl; exact hm hn)]
  exact h.trans ⟨fun _ _ _ _ _ => rfl, fun u hu => by rw [strandOf, hne _ hu]; rfl, fun m hm => by rw [hne m hm], fun _ _ => rfl,
    fun _ _ => rfl⟩

theorem setF (h : Elsewhere r c d) {b : BlockId} (hb : b = clsB r ∨ b = dmaB r) (n hi lo v : Nat) : Elsewhere r c (setF d b n hi lo v) :=
  h.trans ⟨fun b' n' _ h1 h2 => rawReg_setF_ne _ _ _ _ (.inl (by rcases hb with rfl | rfl <;> assumption)), fun _ _ => rfl,
    fun _ _ => rfl, fun _ _ => rfl, fun _ _ => rfl⟩

/-- A change of the cores' and classrooms' tables that is known, and of the two blocks' registers. -/
theorem same (h : Elsewhere r c d) (hc : e.cores = d.cores := by rfl) (hm : e.rooms = d.rooms := by rfl)
    (hr : ∀ b n, b ≠ clsB r → b ≠ dmaB r → rawReg e b n = rawReg d b n := by exact fun _ _ _ _ => rfl) : Elsewhere r c e :=
  h.trans ⟨fun b n _ h1 h2 => hr b n h1 h2, fun u _ => by rw [strandOf_of_cores hc], fun n _ => by rw [coreOf_of_cores hc],
    fun q _ => by rw [roomOf_of_rooms hm], fun q _ => by rw [roomOf_of_rooms hm]⟩

theorem fresh (h : Elsewhere r c d) (n : Nat) : Elsewhere r c { d with fresh := n } := h.same

theorem settle (h : Elsewhere r c d) {b : BlockId} (hb : b = clsB r ∨ b = dmaB r) : Elsewhere r c (settle b d) :=
  h.same (settle_cores b d) (settle_rooms b d) fun b' n h1 h2 => rawReg_settle_ne d (.inl (by rcases hb with rfl | rfl <;> assumption))

theorem setPower (h : Elsewhere r c d) (p : RoomPower) : Elsewhere r c (setPower r p d) := by
  unfold Machine.setPower
  exact (((h.modRoom _).setF (.inl rfl) _ _ _ _).settle (.inl rfl)).settle (.inr rfl)

theorem hwStop (h : Elsewhere r c d) {b : BlockId} (hb : b = clsB r ∨ b = dmaB r) : Elsewhere r c (hwStop d b) := by
  unfold Machine.hwStop
  split
  · exact h
  · have h1 : Elsewhere r c { d with hung := tput (fun _ => false) d.hung (blockKey b) false } := h.same
    exact ((h1.setF hb 0x002 1 0 0).setF hb _ _ _ _).setF hb _ _ _ _

theorem foldl {α : Type} {f : Chip → α → Chip} (h : Elsewhere r c d) (l : List α) (hf : ∀ c, ∀ x ∈ l, Elsewhere r c (f c x)) :
    Elsewhere r c (l.foldl f d) := by
  induction l generalizing d with
  | nil => exact h
  | cons x l ih => exact ih (h.trans (hf d x (List.mem_cons_self ..))) fun c y hy => hf c y (List.mem_cons_of_mem _ hy)

/-- The cores of the classroom, one after the other. -/
theorem foldCores {f : Chip → Nat → Chip} (h : Elsewhere r c d) (hf : ∀ c n, n / 16 = r → Elsewhere r c (f c n)) :
    Elsewhere r c ((List.range 16).foldl (fun c p => f c (16 * r + p)) d) :=
  h.foldl _ fun c p hp => hf c _ (by have := List.mem_range.mp hp; omega)

end Elsewhere

theorem Quiet.stopLoss {c d : Chip} (h : Quiet c d) {b : BlockId} (hb : (∃ r, b = .cls r) ∨ ∃ r, b = .dma r) : Quiet c (stopLoss b d) := by
  rcases hb with ⟨r, rfl⟩ | ⟨r, rfl⟩
  · exact (h.foldl (fun c p => (Quiet.refl c).tileDiscard _) (List.range 16)).specClose _ _
  · exact h.dmaAbandon _

theorem Elsewhere.stopHard {r : Nat} {c d : Chip} (h : Elsewhere r c d) {b : BlockId} (hb : b = clsB r ∨ b = dmaB r) :
    Elsewhere r c (stopHard b d) := by
  unfold Machine.stopHard
  split
  · exact h
  · exact (h.quiet (Quiet.stopLoss (Quiet.refl d) (hb.imp (fun h => ⟨_, h⟩) fun h => ⟨_, h⟩))).hwStop hb

theorem Elsewhere.loseSlots {r n : Nat} {c d : Chip} (h : Elsewhere r c d) (hn : n / 16 = r) : Elsewhere r c (loseSlots n d) := by
  unfold Machine.loseSlots
  exact (h.modCore hn _).fresh _

theorem Elsewhere.loseMemory {r : Nat} {c d : Chip} (h : Elsewhere r c d) (q : Nat) : Elsewhere r c (loseMemory q d) := h.same

theorem Elsewhere.closeRoom {r : Nat} {c d : Chip} (h : Elsewhere r c d) : Elsewhere r c (closeRoom r d) := by
  have h1 := (h.stopHard (b := clsB r) (.inl rfl)).stopHard (b := dmaB r) (.inr rfl)
  have h2 := h1.foldCores (f := fun c n => Machine.loseSlots n (Machine.modCore (orphanReqs c n) n (fun _ => corePower))) fun c n hn =>
    (((Elsewhere.refl r c).quiet ((Quiet.refl c).orphanReqs n)).modCore hn _).loseSlots hn
  unfold Machine.closeRoom
  exact ((((h2.quiet ((Quiet.refl _).dropRoom r)).quiet ((Quiet.refl _).modDma r _)).loseMemory r).modRoom _).setPower _

/-! ### The classroom that is closed -/

theorem rooms_hwStop (b : BlockId) (c : Chip) : (hwStop c b).rooms = c.rooms := by
  unfold hwStop
  split <;> rfl

theorem asked_stopHard (b : BlockId) (hb : (∃ r, b = .cls r) ∨ ∃ r, b = .dma r) (c : Chip) (q : Nat) :
    (roomOf (stopHard b c) q).asked = (roomOf c q).asked := by
  unfold stopHard
  split
  · rfl
  · rw [roomOf_of_rooms (rooms_hwStop b _)]
    exact (Quiet.stopLoss (Quiet.refl c) hb).asked q

/-- Cores reset one after the other, their requests orphaned. -/
def loseCore (c : Chip) (n : Nat) : Chip := loseSlots n (modCore (orphanReqs c n) n (fun _ => corePower))

/-- The classroom's bookkeeping as its polder loses power. -/
def unpowered (m : Room) : Room := { m with sel := [], dirty := [], pll := false }

/-- Its requests and its memory are lost, then its power. -/
def roomDown (r : Nat) (c : Chip) : Chip :=
  setPower r .closed (modRoom (loseMemory r (modDma (dropRoom r c) r (fun e => { dmaReset with nextId := e.nextId }))) r unpowered)

theorem closeRoom_eq (r : Nat) (c : Chip) : closeRoom r c =
    roomDown r ((List.range 16).foldl (fun c p => loseCore c (16 * r + p)) (stopHard (dmaB r) (stopHard (clsB r) c))) := by
  unfold closeRoom roomDown loseCore unpowered
  rfl

theorem asked_loseCore (c : Chip) (n q : Nat) : (roomOf (loseCore c n) q).asked = (roomOf c q).asked :=
  ((Quiet.refl c).orphanReqs n).asked q

theorem power_closeRoom (r : Nat) (c : Chip) : (roomOf (closeRoom r c) r).power = .closed := by
  rw [closeRoom_eq, roomDown, roomOf_setPower, if_pos rfl]

theorem asked_roomDown (r : Nat) (c : Chip) : (roomOf (roomDown r c) r).asked = (roomOf c r).asked := by
  rw [roomDown, roomOf_setPower, if_pos rfl, roomOf_modRoom, if_pos rfl]
  exact (((Quiet.refl c).dropRoom r).modDma r (fun e => { dmaReset with nextId := e.nextId })).asked r

theorem asked_closeRoom (r : Nat) (c : Chip) : (roomOf (closeRoom r c) r).asked = (roomOf c r).asked := by
  rw [closeRoom_eq, asked_roomDown]
  refine (foldl_reads (fun c => (roomOf c r).asked) (fun c p => asked_loseCore c _ r) _ _).trans ?_
  exact (asked_stopHard _ (.inr ⟨_, rfl⟩) _ r).trans (asked_stopHard _ (.inl ⟨_, rfl⟩) c r)

/-! ### Strands that stay reset -/

/-- A change that leaves every strand reset that was. -/
def KeepsReset (c d : Chip) : Prop := ∀ u : StrandId, strandOf c u = strandReset u.strand.val → strandOf d u = strandReset u.strand.val

theorem KeepsReset.trans {c d e : Chip} (h : KeepsReset c d) (k : KeepsReset d e) : KeepsReset c e := fun u hu => k u (h u hu)

theorem KeepsReset.ofCores {c d : Chip} (h : d.cores = c.cores) : KeepsReset c d := fun u hu => by rwa [strandOf_of_cores h]

theorem KeepsReset.modStrand (c : Chip) (u : StrandId) {f : Strand → Strand} (hf : ∀ i, f (strandReset i) = strandReset i) :
    KeepsReset c (modStrand c u f) := by
  intro v hv
  by_cases hu : v = u
  · subst hu; rw [strandOf_modStrand_self, hv, hf]
  · rwa [strandOf_modStrand_ne _ _ hu]

theorem KeepsReset.modCore (c : Chip) (n : Nat) {f : Core → Core} (hf : ∀ k, (f k).strands = k.strands) : KeepsReset c (modCore c n f) :=
  fun u hu => by rwa [strandOf_modCore_strands c n f hf]

theorem KeepsReset.foldl {α : Type} {f : Chip → α → Chip} (hf : ∀ c x, KeepsReset c (f c x)) (l : List α) (c : Chip) :
    KeepsReset c (l.foldl f c) := foldl_keeps (P := KeepsReset c) (fun a b h => h.trans (hf a b)) l c fun _ h => h

/-- Nothing is due of a strand that is reset. -/
theorem KeepsReset.commitDue (c : Chip) (u : StrandId) : KeepsReset c (commitDue c u) := by
  intro v hv
  by_cases hu : v = u
  · subst hu
    have h : Machine.commitDue c v = setStrand c v (strandReset v.strand.val) := by simp only [Machine.commitDue, hv]; rfl
    rw [h, strandOf_setStrand_self]
  · have hk : AtStrand u c (Machine.commitDue c u) := by
      simp only [Machine.commitDue]
      exact (((AtStrand.refl u c).setStrand.foldl (fun x k => k.commitW x) _).foldl (fun x k => k.commitV x) _).foldl (fun x k => k.commitF x) _
    rwa [hk.others v hu]

theorem KeepsReset.patchReader (c : Chip) (who : Reader) (sgn : Bool) (all n : Nat) (hits : List (Nat × Nat × Nat)) (ws : List Word) :
    KeepsReset c (patchReader who sgn all n hits ws c) := by
  unfold Machine.patchReader
  split
  · exact .modStrand _ _ fun _ => rfl
  · exact .modStrand _ _ fun _ => rfl
  · exact .ofCores rfl
  · exact fun _ h => h

theorem KeepsReset.serveReader (c : Chip) (who : Reader) : KeepsReset c (serveReader who c) := by
  unfold Machine.serveReader
  split
  · exact (KeepsReset.modStrand c _ fun _ => rfl).trans (.commitDue _ _)
  · exact fun _ h => h

theorem KeepsReset.loseReader (c : Chip) (x : Reader × Bool × List (Nat × Nat × Nat)) : KeepsReset c (loseReader c x) :=
  (KeepsReset.ofCores (d := { c with fresh := c.fresh + 32 }) rfl).trans ((KeepsReset.patchReader _ _ _ _ _ _ _).trans (.serveReader _ _))

theorem cores_refillBanks (c : Chip) : (refillBanks c).cores = c.cores := by
  refine foldl_reads Chip.cores (fun d x => ?_) c.waiting { c with waiting := [] }
  unfold offerBank
  split <;> rfl

theorem KeepsReset.dropRoom (c : Chip) (r : Nat) : KeepsReset c (dropRoom r c) := by
  unfold Machine.dropRoom
  intro u hu
  rw [strandOf_of_cores (cores_refillBanks _)]
  exact KeepsReset.foldl (fun c x => .loseReader c x) _ _ u hu

theorem strandOf_dmaAbandon (r : Nat) (c : Chip) (u : StrandId) : strandOf (dmaAbandon r c) u = strandOf c u := by
  unfold dmaAbandon
  have hw (d : Chip) (sp : Bool) (l : List (Nat × Word × Bool)) : strandOf (wrMarked d sp l) u = strandOf d u := by
    rw [strandOf, (WritesMemory.wrMarked d sp l).strands, strandOf]
  refine (strandOf_of_cores (modDma_cores _ r (fun e => { dmaReset with nextId := e.nextId })) u).trans ?_
  refine foldl_reads (fun d => strandOf d u) (fun d p => ?_) (dmaOf c r).pieces _
  exact hw d _ _

theorem KeepsReset.stopHard_dma (c : Chip) (r : Fin 64) : KeepsReset c (stopHard (.dma r) c) := by
  unfold stopHard
  split
  · exact fun _ h => h
  · intro u hu
    have h : (hwStop (dmaAbandon r.val c) (.dma r)).cores = (dmaAbandon r.val c).cores := by
      unfold hwStop
      split <;> rfl
    rw [← strandOf_dmaAbandon r.val c u] at hu
    exact (strandOf_of_cores h u).trans hu

theorem strandOf_withFresh (c : Chip) (k : Nat) (u : StrandId) : strandOf { c with fresh := k } u = strandOf c u := rfl

theorem strandOf_loseCore (c : Chip) (n : Nat) (u : StrandId) :
    strandOf (loseCore c n) u = if u.core.val = n then strandReset u.strand.val else strandOf c u := by
  have h : strandOf (loseCore c n) u = strandOf (modCore (orphanReqs c n) n (fun _ => corePower)) u := by
    rw [loseCore, loseSlots, strandOf_withFresh]
    exact strandOf_modCore_strands _ n _ (by exact fun _ => rfl) u
  rw [h, strandOf, coreOf_modCore]
  split
  · rfl
  · rfl

theorem strandOf_loseCores (u : StrandId) (l : List Nat) (c : Chip) :
    strandOf (l.foldl loseCore c) u = if u.core.val ∈ l then strandReset u.strand.val else strandOf c u := by
  induction l generalizing c with
  | nil => rfl
  | cons n l ih =>
    rw [List.foldl_cons, ih, strandOf_loseCore]
    by_cases h1 : u.core.val ∈ l <;> by_cases h2 : u.core.val = n <;> simp [h1, h2]

theorem strandOf_roomDown (r : Nat) (c : Chip) (u : StrandId) : strandOf (roomDown r c) u = strandOf (dropRoom r c) u :=
  strandOf_of_cores (by
    rw [roomDown, setPower_cores, modRoom_cores]
    exact modDma_cores (dropRoom r c) r (fun e => { dmaReset with nextId := e.nextId })) u

/-- The cores of a STOPPED classroom that is closed are reset, those of the others that were stay so. -/
theorem closeRoom_reset {r : Fin 64} {c : Chip} (hs : bState c (.cls r) = 0) (u : StrandId)
    (hu : u.core.val / 16 = r.val ∨ strandOf c u = strandReset u.strand.val) :
    strandOf (closeRoom r c) u = strandReset u.strand.val := by
  have h0 : stopHard (clsB r) c = c := by rw [clsB_val]; exact if_pos hs
  rw [closeRoom_eq, h0, dmaB_val, foldl_roomCores loseCore, strandOf_roomDown]
  refine KeepsReset.dropRoom _ r u ?_
  rw [strandOf_loseCores]
  split
  · rfl
  · next hn =>
    refine KeepsReset.stopHard_dma c r u (hu.resolve_left fun h => hn (mem_roomCores.mpr h))


end Sys2Proof.Machine
end

section
/-! PROOFS. POWER_STATE (spec/16 R547): what it does to one classroom after the other, and what it answers. -/

open Sys2Proof Sys2Proof.Machine
namespace Sys2Proof.Machine

/-! ### A classroom that another's change leaves alone -/

/-- Of classroom q: its state and settings, its DMA engine's state, its cores' run states and pause, its power and what it
is asked for. -/
structure SameRoom (q : Nat) (c d : Chip) : Prop where
  regs : ∀ b n, Watched b n → b = clsB q ∨ b = dmaB q → rawReg d b n = rawReg c b n
  run : ∀ u : StrandId, u.core.val / 16 = q → (strandOf d u).run = (strandOf c u).run
  paused : ∀ n, n / 16 = q → (coreOf d n).paused = (coreOf c n).paused
  power : (roomOf d q).power = (roomOf c q).power
  asked : (roomOf d q).asked = (roomOf c q).asked

namespace SameRoom
variable {q r : Nat} {c d e : Chip}

theorem refl (q : Nat) (c : Chip) : SameRoom q c c := ⟨fun _ _ _ _ => rfl, fun _ _ => rfl, fun _ _ => rfl, rfl, rfl⟩

theorem trans (h : SameRoom q c d) (k : SameRoom q d e) : SameRoom q c e :=
  ⟨fun b n hw hb => (k.regs b n hw hb).trans (h.regs b n hw hb), fun u hu => (k.run u hu).trans (h.run u hu),
    fun n hn => (k.paused n hn).trans (h.paused n hn), k.power.trans h.power, k.asked.trans h.asked⟩

theorem state (h : SameRoom q c d) {b : BlockId} (hb : b = clsB q ∨ b = dmaB q) (hi lo : Nat) : getF d b 0x002 hi lo = getF c b 0x002 hi lo :=
  getF_of_rawReg (h.regs b 0x002 (.inl rfl) hb) hi lo

theorem enabledCores_eq (h : SameRoom q c d) : enabledCores d q = enabledCores c q := by
  rw [enabledCores, enabledCores, getF_of_rawReg (h.regs (clsB q) 0x010 (.inr ⟨⟨_, rfl⟩, .inl rfl⟩) (.inl rfl))]

theorem allIdle_eq (h : SameRoom q c d) (hq : q < 64) {n : Nat} (hn : n / 16 = q) : allIdle d n = allIdle c n := by
  have hr (i : Nat) : (strandOf d (strandId n i)).run = (strandOf c (strandId n i)).run :=
    h.run _ (by simp [strandId, Nat.mod_eq_of_lt (show n < 1024 by omega), hn])
  simp only [allIdle, hr]

end SameRoom

theorem dmaB_injective {r q : Nat} (hr : r < 64) (hq : q < 64) (h : dmaB r = dmaB q) : r = q := by
  have h : (Fin.ofNat 64 r).val = (Fin.ofNat 64 q).val := congrArg Fin.val (BlockId.dma.inj h)
  simpa [Nat.mod_eq_of_lt hr, Nat.mod_eq_of_lt hq] using h

theorem Elsewhere.sameRoom {q r : Nat} {c d : Chip} (h : Elsewhere r c d) (hr : r < 64) (hq : q < 64) (hne : q ≠ r) : SameRoom q c d where
  regs b n hw hb := by
    refine h.regs b n hw ?_ ?_ <;> rcases hb with rfl | rfl
    · exact fun hb => hne (clsB_injective hq hr hb)
    · simp [dmaB, clsB]
    · simp [dmaB, clsB]
    · exact fun hb => hne (dmaB_injective hq hr hb)
  run u hu := h.run u (by omega)
  paused n hn := h.paused n (by omega)
  power := h.power q hne
  asked := h.asked q hne

/-! ### Steps through the classrooms -/

/-- A step at classroom r: the others are left alone, the command in progress too, and of the refusal counts there are at
most k more. -/
structure RoomStep (k r : Nat) (s t : State) : Prop where
  chip : Elsewhere r s.chip t.chip
  cur : t.dev.warden.cur = s.dev.warden.cur
  pigeon : ∀ ph, pigeonOf t ph = pigeonOf s ph
  breach : t.dev.power.breach = s.dev.power.breach
  counts : ∀ a b e, InCounts a b e s.dev.power.refusals → InCounts a b e t.dev.power.refusals
  length : t.dev.power.refusals.length ≤ s.dev.power.refusals.length + k

namespace RoomStep
variable {j k r : Nat} {s t u : State}

theorem refl (k r : Nat) (s : State) : RoomStep k r s s := ⟨.refl r _, rfl, fun _ => rfl, rfl, fun _ _ _ h => h, Nat.le_add_right ..⟩

theorem trans (h : RoomStep j r s t) (g : RoomStep k r t u) : RoomStep (j + k) r s u :=
  ⟨h.chip.trans g.chip, g.cur.trans h.cur, fun ph => (g.pigeon ph).trans (h.pigeon ph), g.breach.trans h.breach,
    fun a b e hc => g.counts a b e (h.counts a b e hc), by have := h.length; have := g.length; omega⟩

theorem mono (h : RoomStep j r s t) (hk : j ≤ k) : RoomStep k r s t :=
  { h with length := by have := h.length; omega }

theorem modChip (h : RoomStep k r s t) {f : Chip → Chip} (hf : Elsewhere r t.chip (f t.chip)) : RoomStep k r s (modChip f t) :=
  ⟨h.chip.trans hf, h.cur, h.pigeon, h.breach, h.counts, h.length⟩

theorem countRefusal (h : RoomStep k r s t) (a b e : Nat) : RoomStep (k + 1) r s (countRefusal a b e t) := by
  have hl := LogsOnly.countRefusal a b e t
  refine h.trans ⟨hl.chip ▸ .refl r _, hl.cur, hl.pigeon, hl.breach, fun _ _ _ hc => ?_, ?_⟩
  · rw [countRefusal_refusals]; exact hc.counted a b e
  · rw [countRefusal_refusals]; exact length_counted a b e _

theorem countRefusals (h : RoomStep k r s t) (want e : Nat) (l : List Nat) :
    RoomStep (k + l.length) r s (l.foldl (fun s n => Machine.countRefusal n want e s) t) := by
  induction l generalizing k t with
  | nil => exact h
  | cons n l ih => exact (ih (h.countRefusal n want e)).mono (by simp; omega)

end RoomStep

section
variable {f : State → Nat → State} {Inv : Nat → State → Prop} {Pre Post : Nat → State → Prop}
  (hinv : ∀ k s r, Inv (k + 1) s → Inv k (f s r))
  (hdo : ∀ k s r, r < 64 → Inv (k + 1) s → Pre r s → Post r (f s r))
  (hpre : ∀ s r q, r < 64 → q < 64 → q ≠ r → Pre r s → Pre q s → Pre q (f s r))
  (hpost : ∀ s r q, r < 64 → q < 64 → q ≠ r → Pre r s → Post q s → Post q (f s r))

include hpre hpost in
/-- What holds of a classroom, steps at others keep. -/
theorem foldl_rooms_keep {a : Nat} (ha64 : a < 64) : ∀ (l : List Nat) (s : State), a ∉ l → l.Nodup → (∀ r ∈ l, r < 64) →
    (∀ r ∈ l, Pre r s) → Post a s → Post a (l.foldl f s)
  | [], _, _, _, _, _, h => h
  | b :: l, s, ha, hn, hlt, hp, h => by
    obtain ⟨hb, hl⟩ := List.nodup_cons.mp hn
    obtain ⟨hb64, hl64⟩ := List.forall_mem_cons.mp hlt
    obtain ⟨hpb, hpl⟩ := List.forall_mem_cons.mp hp
    have hab : a ≠ b := fun h => ha (h ▸ List.mem_cons_self ..)
    exact foldl_rooms_keep ha64 l _ (fun h => ha (List.mem_cons_of_mem _ h)) hl hl64
      (fun q hq => hpre s b q hb64 (hl64 q hq) (fun h => hb (h ▸ hq)) hpb (hpl q hq)) (hpost s b a hb64 ha64 hab hpb h)

include hinv hdo hpre hpost in
/-- Classrooms treated one after the other, each once: what holds of each before brings what holds of it after. -/
theorem foldl_rooms : ∀ (l : List Nat) (s : State), l.Nodup → (∀ r ∈ l, r < 64) → Inv l.length s → (∀ r ∈ l, Pre r s) →
    ∀ r ∈ l, Post r (l.foldl f s)
  | [], _, _, _, _, _ => fun _ h => absurd h List.not_mem_nil
  | a :: l, s, hn, hlt, hi, hp => by
    obtain ⟨ha, hl⟩ := List.nodup_cons.mp hn
    obtain ⟨ha64, hl64⟩ := List.forall_mem_cons.mp hlt
    obtain ⟨hpa, hpl⟩ := List.forall_mem_cons.mp hp
    have hpl' : ∀ q ∈ l, Pre q (f s a) := fun q hq => hpre s a q ha64 (hl64 q hq) (fun h => ha (h ▸ hq)) hpa (hpl q hq)
    refine List.forall_mem_cons.mpr ⟨?_, ?_⟩
    · exact foldl_rooms_keep hpre hpost ha64 l _ ha hl hl64 hpl' (hdo _ s a ha64 hi hpa)
    · exact foldl_rooms l _ hl hl64 (hinv _ s a hi) hpl'
end

/-! ### What POWER_STATE answers (R547) -/

theorem maskRooms_nodup (mask : Nat) : (maskRooms mask).Nodup := List.nodup_range.filter _

theorem mem_maskRooms {mask r : Nat} : r ∈ maskRooms mask ↔ r < 64 ∧ natBit mask r = true := by
  simp [maskRooms]

theorem foldl_add_two_pow (n m : Nat) : ((List.range n).filter (natBit m)).foldl (fun a r => a + 2 ^ r) 0 = m % 2 ^ n := by
  induction n with
  | zero => simp [Nat.mod_one]
  | succ n ih =>
    rw [List.range_succ, List.filter_append, List.foldl_append, ih, Nat.mod_pow_succ]
    cases h : natBit m n
    · have h0 : m / 2 ^ n % 2 = 0 := by simp only [natBit, beq_eq_false_iff_ne] at h; omega
      simp [h, h0]
    · have h1 : m / 2 ^ n % 2 = 1 := by simpa [natBit] using h
      simp [h, h1]

/-- Every classroom of the mask in the state: the answer is the mask. -/
theorem stateMask_all {c : Chip} {want mask : Nat} (h : ∀ r ∈ maskRooms mask, inState c want r = true) :
    stateMask c want mask = mask % 2 ^ 64 := by
  rw [stateMask, List.filter_eq_self.mpr h, maskRooms, foldl_add_two_pow]

theorem stateMask_none {c : Chip} {want mask : Nat} (h : ∀ r ∈ maskRooms mask, inState c want r = false) :
    stateMask c want mask = 0 := by
  rw [stateMask, List.filter_eq_nil_iff.mpr (fun r hr => by simp [h r hr])]
  rfl

/-- The command in progress ends once no classroom of its mask waits. -/
theorem powerDone_eq {t : State} {cmd : Cmd} (hc : t.dev.warden.cur = some cmd) (hop : cmd.op = 0x000B) (ho : argOf cmd 0 ≤ 3)
    (ha : ∀ r ∈ maskRooms (argOf cmd 1), (roomOf t.chip r).asked = none) :
    powerDone t = finish cmd (ok [stateMask t.chip (argOf cmd 0) (argOf cmd 1)] []) t := by
  have hall : (maskRooms (argOf cmd 1)).all (fun r => (roomOf t.chip r).asked.isNone) = true :=
    List.all_eq_true.mpr fun r hr => by rw [ha r hr]; rfl
  simp only [powerDone, hc]
  rw [if_pos ⟨hop, ho, hall⟩]

/-- A classroom that waits keeps the command in progress. -/
theorem powerDone_waits {t : State} {cmd : Cmd} (hc : t.dev.warden.cur = some cmd) {r : Nat} (hr : r ∈ maskRooms (argOf cmd 1))
    (ha : (roomOf t.chip r).asked ≠ none) : powerDone t = t := by
  have hall : ¬ (maskRooms (argOf cmd 1)).all (fun r => (roomOf t.chip r).asked.isNone) = true := fun h => by
    simpa [ha] using List.all_eq_true.mp h r hr
  simp only [powerDone, hc]
  rw [if_neg fun h => hall h.2.2]

/-- POWER_STATE ends with the mask of the classrooms in the state. -/
theorem powerDone_finishes {i : Instr} {s t : State} {p : Fin 2} {h : Fin 8} {cmd : Cmd} {P : State → Prop}
    (hc : Current s p h 0x000B cmd) (he : exec i s = .next (powerDone t)) (hcur : t.dev.warden.cur = s.dev.warden.cur)
    (hp : ∀ ph, pigeonOf t ph = pigeonOf s ph) (ho : argOf cmd 0 ≤ 3)
    (ha : ∀ r ∈ maskRooms (argOf cmd 1), (roomOf t.chip r).asked = none)
    (hP : ∀ u : State, u.chip = t.chip → u.dev.power = t.dev.power → P u) :
    Finishes i s cmd 0 [stateMask t.chip (argOf cmd 0) (argOf cmd 1)] [] P := by
  obtain ⟨hs, -, hop, hd⟩ := hc
  rw [powerDone_eq (hcur.trans hs) hop ho ha] at he
  obtain ⟨h1, h2, h3, -⟩ := finish_answers (r := ok [stateMask t.chip (argOf cmd 0) (argOf cmd 1)] []) hd (hp _) (Nat.zero_lt_succ _)
  exact ⟨_, he, h1, h2, hP _ h3 (answer_frame _ _ _ _).2.2.2.1⟩

/-! ### The cores of a classroom that are asked (R506, R547) -/

/-- A core in pause. -/
def pausedCore (k : Core) : Core := { k with paused := true }

/-- The Prefect puts the idle cores of a classroom into pause. -/
def pauseIdle (r : Nat) (c : Chip) : Chip :=
  (enabledCores c r).foldl (fun c n => if allIdle c n then modCore c n pausedCore else c) c

theorem allIdle_modCore (c : Chip) (m : Nat) (f : Core → Core) (hf : ∀ k, (f k).strands = k.strands) (n : Nat) :
    allIdle (modCore c m f) n = allIdle c n := by
  simp only [allIdle, strandOf_modCore_strands c m f hf]

theorem foldl_pauseIdle (l : List Nat) : ∀ c : Chip, ∃ k,
    l.foldl (fun c n => if allIdle c n then modCore c n pausedCore else c) c = withCores k c ∧
    (∀ u, strandOf (withCores k c) u = strandOf c u) ∧
    ∀ n, coreOf (withCores k c) n = if n ∈ l ∧ allIdle c n = true then pausedCore (coreOf c n) else coreOf c n := by
  induction l with
  | nil => exact fun c => ⟨c.cores, rfl, fun _ => rfl, fun n => by simp; rfl⟩
  | cons m l ih =>
    intro c
    by_cases hm : allIdle c m = true
    · obtain ⟨k, hk, hs, hc⟩ := ih (modCore c m pausedCore)
      refine ⟨k, by rw [List.foldl_cons, if_pos hm, hk]; rfl, fun u => (hs u).trans ?_, fun n => (hc n).trans ?_⟩
      · exact strandOf_modCore_strands c m pausedCore (fun _ => rfl) u
      · rw [allIdle_modCore c m pausedCore (fun _ => rfl), coreOf_modCore]
        by_cases hn : n = m
        · subst hn; simp only [hm, and_true, if_true, List.mem_cons_self]; split <;> rfl
        · simp [hn]
    · obtain ⟨k, hk, hs, hc⟩ := ih c
      refine ⟨k, by rw [List.foldl_cons, if_neg hm, hk], hs, fun n => (hc n).trans ?_⟩
      by_cases hn : n = m
      · subst hn; simp [hm]
      · simp [hn]

theorem pauseIdle_eq (r : Nat) (c : Chip) : ∃ k, pauseIdle r c = withCores k c ∧ (∀ u, strandOf (withCores k c) u = strandOf c u) ∧
    ∀ n, coreOf (withCores k c) n = if n ∈ enabledCores c r ∧ allIdle c n = true then pausedCore (coreOf c n) else coreOf c n :=
  foldl_pauseIdle _ c

theorem strandOf_pauseIdle (r : Nat) (c : Chip) (u : StrandId) : strandOf (pauseIdle r c) u = strandOf c u := by
  obtain ⟨k, hk, hs, -⟩ := pauseIdle_eq r c
  rw [hk, hs]

theorem coreOf_pauseIdle (r : Nat) (c : Chip) (n : Nat) : coreOf (pauseIdle r c) n =
    if n ∈ enabledCores c r ∧ allIdle c n = true then pausedCore (coreOf c n) else coreOf c n := by
  obtain ⟨k, hk, -, hc⟩ := pauseIdle_eq r c
  rw [hk, hc]

theorem allIdle_pauseIdle (r : Nat) (c : Chip) (n : Nat) : allIdle (pauseIdle r c) n = allIdle c n := by
  simp only [allIdle, strandOf_pauseIdle]

theorem pauseIdle_frame (r : Nat) (c : Chip) : (pauseIdle r c).regs = c.regs ∧ (pauseIdle r c).rooms = c.rooms ∧
    (pauseIdle r c).mem = c.mem ∧ (pauseIdle r c).waiting = c.waiting := by
  obtain ⟨k, hk, -⟩ := pauseIdle_eq r c
  rw [hk]
  exact ⟨rfl, rfl, rfl, rfl⟩

theorem enabledCores_of_regs {c d : Chip} (h : d.regs = c.regs) (r : Nat) : enabledCores d r = enabledCores c r := by
  rw [enabledCores, enabledCores, getF_of_regs h]

theorem Elsewhere.pauseIdle (r : Nat) (c : Chip) : Elsewhere r c (pauseIdle r c) :=
  (Elsewhere.refl r c).foldl _ fun c n hn => by
    split
    · exact (Elsewhere.refl r c).modCore (enabledCores_range hn) _
    · exact .refl r c

theorem Elsewhere.recessNow {r : Nat} {c d : Chip} (h : Elsewhere r c d) : Elsewhere r c (recessNow r d) := by
  unfold Machine.recessNow dropCaches
  exact ((h.foldCores fun c n hn => (Elsewhere.refl r c).modCore hn _).modRoom _).setPower _

theorem Elsewhere.modStrand {r : Nat} {c d : Chip} (h : Elsewhere r c d) {u : StrandId} (hu : u.core.val / 16 = r) (f : Strand → Strand) :
    Elsewhere r c (modStrand d u f) := by
  unfold Machine.modStrand
  exact h.modCore hu _

theorem Elsewhere.askCore {r n : Nat} {c d : Chip} (h : Elsewhere r c d) (hr : r < 64) (hn : n / 16 = r) (want : Nat) :
    Elsewhere r c (askCore want n d) := by
  unfold Machine.askCore pgnWrite setIpend
  have hs : (strandId n 0).core.val / 16 = r := by simp [strandId, Nat.mod_eq_of_lt (show n < 1024 by omega), hn]
  split
  · exact (h.quiet ((Quiet.refl d).wrWords _ _ _)).modStrand hs _
  · exact h.modStrand hs _

/-- The cores of a classroom that are not where the command wants them. -/
def busyCores (want r : Nat) (c : Chip) : List Nat := (enabledCores c r).filter (fun n => !coreThere c want n)

/-- The requests to the cores of a classroom that are not idle. -/
def askCores (want r : Nat) (c : Chip) : Chip :=
  ((enabledCores c r).filter (fun n => !allIdle c n)).foldl (fun c n => askCore want n c) c

/-- Recess, or what refuses it. -/
def tryRecess (r : Nat) (s : State) : State :=
  match recessRefuser s.chip r with
  | some x => countRefusal x 2 0 s
  | none => modChip (recessNow r) s

theorem askRoom_eq (ph want r : Nat) (s : State) : askRoom ph want r s =
    if want = 3 ∧ bState s.chip (clsB r) ≠ 0 then countRefusal 0x0500 3 0 s
    else if want = 3 ∧ (enabledCores s.chip r).all (allIdle s.chip) then modChip (closeRoom r) s
    else
      let t := modChip (askCores want r) (modChip (pauseIdle r) s)
      let u := if want = 2 ∧ (roomOf t.chip r).power = .run ∧ (busyCores want r s.chip).isEmpty then tryRecess r t else t
      if (busyCores want r s.chip).isEmpty then u
      else modChip (fun c => modRoom c r (fun m => { m with asked := some (want, ph) })) u := rfl

theorem Elsewhere.askCores {r : Nat} (hr : r < 64) (want : Nat) (c : Chip) : Elsewhere r c (askCores want r c) :=
  (Elsewhere.refl r c).foldl _ fun c _ hn => (Elsewhere.refl r c).askCore hr (enabledCores_range (List.mem_filter.mp hn).1) want

theorem RoomStep.tryRecess {k r : Nat} {s t : State} (h : RoomStep k r s t) : RoomStep (k + 1) r s (tryRecess r t) := by
  unfold Machine.tryRecess
  split
  · exact h.countRefusal _ _ _
  · exact (h.modChip (Elsewhere.refl r _).recessNow).mono (Nat.le_succ k)

theorem RoomStep.askRoom {r : Nat} (hr : r < 64) (ph want : Nat) (s : State) : RoomStep 1 r s (askRoom ph want r s) := by
  rw [askRoom_eq]
  split
  · exact (RoomStep.refl 0 r s).countRefusal _ _ _
  split
  · exact (RoomStep.refl 1 r s).modChip (Elsewhere.refl r _).closeRoom
  have ht : RoomStep 0 r s (Machine.modChip (Machine.askCores want r) (Machine.modChip (Machine.pauseIdle r) s)) :=
    ((RoomStep.refl 0 r s).modChip (.pauseIdle r _)).modChip (.askCores hr want _)
  dsimp only
  generalize Machine.modChip (Machine.askCores want r) (Machine.modChip (Machine.pauseIdle r) s) = t at ht ⊢
  have hu : RoomStep 1 r s (if want = 2 ∧ (roomOf t.chip r).power = .run ∧ (busyCores want r s.chip).isEmpty then Machine.tryRecess r t else t) := by
    split
    · exact ht.tryRecess
    · exact ht.mono (Nat.le_succ 0)
  split
  · exact hu
  · exact hu.modChip ((Elsewhere.refl r _).modRoom _)

/-! ### POWER_STATE 0 (R547) -/

theorem foldl_roomStep {f : State → Nat → State} (hf : ∀ t r, r < 64 → ∃ k, RoomStep k r t (f t r)) (l : List Nat) (hl : ∀ r ∈ l, r < 64)
    (s : State) : (l.foldl f s).dev.warden.cur = s.dev.warden.cur ∧ (∀ ph, pigeonOf (l.foldl f s) ph = pigeonOf s ph) ∧
      (l.foldl f s).dev.power.breach = s.dev.power.breach := by
  induction l generalizing s with
  | nil => exact ⟨rfl, fun _ => rfl, rfl⟩
  | cons r l ih =>
    obtain ⟨hr, hl⟩ := List.forall_mem_cons.mp hl
    obtain ⟨k, h⟩ := hf s r hr
    obtain ⟨h1, h2, h3⟩ := ih hl (f s r)
    exact ⟨h1.trans h.cur, fun ph => (h2 ph).trans (h.pigeon ph), h3.trans h.breach⟩

theorem Elsewhere.coreWoke {r n : Nat} {c d : Chip} (h : Elsewhere r c d) (hn : n / 16 = r) (code : Nat) :
    Elsewhere r c (coreWoke n code d) := by
  rw [coreWoke_eq, hn]
  exact h.setF (.inl rfl) _ _ _ _

theorem Elsewhere.wakeRoom {r : Nat} {c d : Chip} (h : Elsewhere r c d) (code : Nat) : Elsewhere r c (wakeRoom r code d) := by
  unfold Machine.wakeRoom Machine.wakeCores
  exact ((((h.setPower _).setF (.inl rfl) _ _ _ _).foldCores fun c n hn => (Elsewhere.refl r c).modCore hn _).setF (.inl rfl) _ _ _ _).foldCores
    fun c n hn => (Elsewhere.refl r c).coreWoke hn code

theorem Elsewhere.unpause {r : Nat} {c d : Chip} (h : Elsewhere r c d) : Elsewhere r c (unpause r d) := by
  refine h.foldCores (f := fun c n => if (coreOf c n).paused then Machine.coreWoke n 4 (Machine.modCore c n (fun k => { k with paused := false })) else c)
    fun c n hn => ?_
  split
  · exact ((Elsewhere.refl r c).modCore hn _).coreWoke hn 4
  · exact .refl r c

theorem RoomStep.wakeTo (r code : Nat) (s : State) : RoomStep 1 r s (wakeTo r code s) := by
  unfold Machine.wakeTo
  have hw : RoomStep 1 r s (if s.dev.power.breach then Machine.countRefusal 0x0502 3 0 s else Machine.modChip (Machine.wakeRoom r code) s) := by
    split
    · exact (RoomStep.refl 0 r s).countRefusal _ _ _
    · exact (RoomStep.refl 1 r s).modChip ((Elsewhere.refl r _).wakeRoom code)
  split
  · exact .refl 1 r s
  · exact ((RoomStep.refl 0 r s).modChip ((Elsewhere.refl r _).setPower _)).countRefusal _ _ _
  · exact hw
  · exact hw

theorem rooms_unpause (r : Nat) (c : Chip) : (unpause r c).rooms = c.rooms := by
  refine foldl_reads Chip.rooms (fun d p => ?_) (List.range 16) c
  split
  · rw [coreWoke_eq]; rfl
  · rfl

/-- A classroom woken while the Breach is not latched runs. -/
theorem power_wakeTo {s : State} (hb : s.dev.power.breach = false) (r code : Nat) : (roomOf (wakeTo r code s).chip r).power = .run := by
  have hw : (roomOf (if s.dev.power.breach then countRefusal 0x0502 3 0 s else modChip (wakeRoom r code) s).chip r).power = .run := by
    rw [hb, if_neg Bool.false_ne_true, modChip_chip, roomOf_wakeRoom, if_pos rfl]
  unfold wakeTo
  split
  · assumption
  · rw [abortEntry, (LogsOnly.countRefusal _ _ _ _).chip, modChip_chip, roomOf_setPower, if_pos rfl]
  · exact hw
  · exact hw

/-- The step of POWER_STATE 0 at a classroom. -/
def runRoom (s : State) (r : Nat) : State :=
  modChip (fun c => modRoom (unpause r c) r (fun m => { m with asked := none })) (wakeTo r 4 s)

theorem RoomStep.runRoom (r : Nat) (s : State) : RoomStep 1 r s (runRoom s r) :=
  (RoomStep.wakeTo r 4 s).modChip (((Elsewhere.refl r _).unpause).modRoom _)

theorem runRoom_runs {s : State} (hb : s.dev.power.breach = false) (r : Nat) :
    (roomOf (runRoom s r).chip r).power = .run ∧ (roomOf (runRoom s r).chip r).asked = none := by
  have h : roomOf (runRoom s r).chip r = { roomOf (wakeTo r 4 s).chip r with asked := none } := by
    rw [runRoom, modChip_chip, roomOf_modRoom, if_pos rfl, roomOf_of_rooms (rooms_unpause r _)]
  rw [h]
  exact ⟨power_wakeTo hb r 4, rfl⟩

theorem powerStateRun_finishes {s : State} {p : Fin 2} {h : Fin 8} {cmd : Cmd} (hc : Current s p h 0x000B cmd) (h0 : argOf cmd 0 = 0)
    (hb : s.dev.power.breach = false) : Finishes (.powerStateRun p h) s cmd 0 [argOf cmd 1 % 2 ^ 64] [] (fun t =>
      ∀ r ∈ maskRooms (argOf cmd 1), (roomOf t.chip r).power = .run ∧ (roomOf t.chip r).asked = none) := by
  have he : exec (.powerStateRun p h) s = .next (powerDone ((maskRooms (argOf cmd 1)).foldl runRoom s)) := by
    have hx : exec (.powerStateRun p h) s = .next (perform p h 0x000B s (fun c s => if argOf c 0 ≠ 0 then s else
      powerDone ((maskRooms (argOf c 1)).foldl runRoom s))) := rfl
    rw [hx, perform_current hc, if_neg (by simpa using h0)]
  have hl : ∀ r ∈ maskRooms (argOf cmd 1), r < 64 := fun r hr => (mem_maskRooms.mp hr).1
  obtain ⟨hcur, hp, -⟩ := foldl_roomStep (fun t r _ => ⟨1, RoomStep.runRoom r t⟩) _ hl s
  have hall := foldl_rooms (f := runRoom) (Inv := fun _ t => t.dev.power.breach = false) (Pre := fun _ _ => True)
    (Post := fun r t => (roomOf t.chip r).power = .run ∧ (roomOf t.chip r).asked = none)
    (fun _ t r hi => (RoomStep.runRoom r t).breach.trans hi) (fun _ t r _ hi _ => runRoom_runs hi r) (fun _ _ _ _ _ _ _ _ => trivial)
    (fun t r q _ _ hne _ h => by
      have hk := (RoomStep.runRoom r t).chip
      rwa [hk.power q hne, hk.asked q hne])
    _ s (maskRooms_nodup (argOf cmd 1)) hl hb fun _ _ => trivial
  have hm := powerDone_finishes (P := fun t => ∀ r ∈ maskRooms (argOf cmd 1), (roomOf t.chip r).power = .run ∧ (roomOf t.chip r).asked = none)
    hc he hcur hp (by omega) (fun r hr => (hall r hr).2) fun u hu _ => by rw [hu]; exact hall
  rwa [h0, stateMask_all fun r hr => by rw [inState, (hall r hr).1]; rfl] at hm

end Sys2Proof.Machine
end

section
/-! PROOFS. POWER_STATE 1 to 3 at idle classrooms (spec/16 R547): they are taken there at once. -/

open Sys2Proof Sys2Proof.Machine
namespace Sys2Proof.Machine

/-! ### The DMA engine of a classroom that is closed (R47, R547) -/

theorem settle_unclocked {r : Fin 64} {c : Chip} (h : roomClocked c r.val = false) {b : BlockId} (hb : b = .cls r ∨ b = .dma r) :
    settle b c = c := by
  have hc : hasClock c b = false := by rcases hb with rfl | rfl <;> simp [hasClock, h]
  exact settle_stays (fun _ _ => by simp [startHeld, hc]) fun _ _ => hc

/-- Without a clock neither block of a classroom follows its RUN. -/
theorem setPower_closed (r : Fin 64) (c : Chip) : setPower r.val .closed c =
    setF (modRoom c r.val (fun m => { m with power := .closed })) (.cls r) 0x028 19 18 (powerCode .closed) := by
  have hk : roomClocked (setF (modRoom c r.val (fun m => { m with power := .closed })) (.cls r) 0x028 19 18 (powerCode .closed)) r.val = false := by
    have : roomOf (setF (modRoom c r.val (fun m => { m with power := .closed })) (.cls r) 0x028 19 18 (powerCode .closed)) r.val =
        { roomOf c r.val with power := .closed } := by
      rw [roomOf_of_rooms (d := setF _ _ _ _ _ _) (c := modRoom c r.val (fun m => { m with power := .closed })) rfl, roomOf_modRoom, if_pos rfl]
    rw [roomClocked, this]; rfl
  rw [setPower, clsB_val, dmaB_val, settle_unclocked hk (.inl rfl), settle_unclocked hk (.inr rfl)]

theorem rawReg_loseCore (c : Chip) (n : Nat) {b : BlockId} {m : Nat} (hw : Watched b m) : rawReg (loseCore c n) b m = rawReg c b m :=
  ((Quiet.refl c).orphanReqs n).regs b m hw

theorem rawReg_roomDown (r : Fin 64) (c : Chip) {b : BlockId} (hb : b ≠ .cls r) {m : Nat} (hw : Watched b m) :
    rawReg (roomDown r.val c) b m = rawReg c b m := by
  rw [roomDown, setPower_closed, rawReg_setF_ne _ _ _ _ (.inl hb)]
  exact (((Quiet.refl c).dropRoom r).modDma r (fun e => { dmaReset with nextId := e.nextId })).regs b m hw

/-- The DMA engine of a classroom that is closed is stopped by hardware, if it was not STOPPED. -/
theorem closeRoom_dma {r : Fin 64} {c : Chip} (hs : bState c (.cls r) = 0) : bState (closeRoom r.val c) (.dma r) = 0 ∧
    (bState c (.dma r) ≠ 0 → getF (closeRoom r.val c) (.dma r) 0x002 8 8 = 1) := by
  have h0 : stopHard (clsB r) c = c := by rw [clsB_val]; exact if_pos hs
  have hreg : rawReg (closeRoom r.val c) (.dma r) 0x002 = rawReg (stopHard (.dma r) c) (.dma r) 0x002 := by
    rw [closeRoom_eq, rawReg_roomDown r _ (by simp) (.inl rfl), h0, dmaB_val]
    exact foldl_reads (fun d => rawReg d (.dma r) 0x002) (fun d p => rawReg_loseCore d _ (.inl rfl)) _ _
  rw [bState, getF_of_rawReg hreg, getF_of_rawReg hreg]
  unfold stopHard
  split
  · next h => exact ⟨h, fun hn => absurd h hn⟩
  · next h =>
    have hq : bState (stopLoss (.dma r) c) (.dma r) ≠ 0 := by
      rwa [bState, getF_of_rawReg ((Quiet.stopLoss (Quiet.refl c) (.inr ⟨r, rfl⟩)).regs _ _ (.inl rfl))]
    rw [hwStop, if_neg hq]
    refine ⟨?_, fun _ => ?_⟩ <;> rw [getF_of_rawReg (rawReg_setF_ne _ _ _ _ (.inr (by decide)))]
    · rw [getF_setF_field _ _ _ _ _ _ _ _ (by decide) (by decide) (by decide)]
      exact getF_setF_self _ _ _ _ _ _ (by decide) (by decide)
    · exact getF_setF_self _ _ _ _ _ _ (by decide) (by decide)

/-! ### Idle classrooms -/

theorem busyCores_idle {c : Chip} {r : Nat} (h : ∀ n ∈ enabledCores c r, allIdle c n = true) (want : Nat) : busyCores want r c = [] :=
  List.filter_eq_nil_iff.mpr fun n hn => by simp [coreThere, h n hn]

theorem modChip_same {f : Chip → Chip} {s : State} (h : f s.chip = s.chip) : modChip f s = s := by rw [modChip, h]

/-- A classroom of idle cores is put into pause, and into recess where that is wanted. -/
theorem askRoom_idle {s : State} {r want : Nat} (hw : want ≠ 3) (h : ∀ n ∈ enabledCores s.chip r, allIdle s.chip n = true) (ph : Nat) :
    askRoom ph want r s = if want = 2 ∧ (roomOf s.chip r).power = .run then tryRecess r (modChip (pauseIdle r) s)
      else modChip (pauseIdle r) s := by
  have ha : modChip (askCores want r) (modChip (pauseIdle r) s) = modChip (pauseIdle r) s := by
    have hf : (enabledCores (pauseIdle r s.chip) r).filter (fun n => !allIdle (pauseIdle r s.chip) n) = [] := by
      rw [enabledCores_of_regs (pauseIdle_frame r s.chip).1]
      exact List.filter_eq_nil_iff.mpr fun n hn => by simp [allIdle_pauseIdle, h n hn]
    have hc : askCores want r (pauseIdle r s.chip) = pauseIdle r s.chip := by rw [askCores, hf]; rfl
    exact modChip_same (by rw [modChip_chip, hc])
  rw [askRoom_eq, if_neg (fun hh => hw hh.1), if_neg (fun hh => hw hh.1), ha, busyCores_idle h]
  have hp : roomOf (modChip (pauseIdle r) s).chip r = roomOf s.chip r := roomOf_of_rooms (pauseIdle_frame r s.chip).2.1 r
  dsimp only
  rw [hp]
  simp

/-- The command's step at each classroom of the mask, and then its end. -/
theorem powerState_exec {s : State} {p : Fin 2} {h : Fin 8} {cmd : Cmd} (hc : Current s p h 0x000B cmd) {want : Nat}
    (h0 : argOf cmd 0 = want) {i : Instr} (hi : exec i s = .next (perform p h 0x000B s (powerState want))) :
    exec i s = .next (powerDone ((maskRooms (argOf cmd 1)).foldl (fun s r => askRoom cmd.ph want r s) s)) := by
  rw [hi, perform_current hc, powerState, if_neg (by simpa using h0)]

theorem mask_lt {cmd : Cmd} : ∀ r ∈ maskRooms (argOf cmd 1), r < 64 := fun _ hr => (mem_maskRooms.mp hr).1

theorem askRoom_steps (ph want : Nat) : ∀ (t : State) (r : Nat), r < 64 → ∃ k, RoomStep k r t (askRoom ph want r t) :=
  fun t _ hr => ⟨1, .askRoom hr ph want t⟩

/-- What POWER_STATE needs of a classroom's cores: idle, the classroom not yet asked for another state. -/
def IdleRoom (c : Chip) (r : Nat) : Prop := (roomOf c r).asked = none ∧ ∀ n ∈ enabledCores c r, allIdle c n = true

theorem IdleRoom.same {c d : Chip} {r : Nat} (h : IdleRoom c r) (k : SameRoom r c d) (hr : r < 64) : IdleRoom d r :=
  ⟨k.asked.trans h.1, fun n hn => by
    rw [k.enabledCores_eq] at hn
    rw [k.allIdle_eq hr (enabledCores_range hn), h.2 n hn]⟩

/-- A classroom in pause: it runs, nothing is asked of it, and its enabled cores pause. -/
def InPause (c : Chip) (r : Nat) : Prop :=
  (roomOf c r).power = .run ∧ (roomOf c r).asked = none ∧ ∀ n ∈ enabledCores c r, (coreOf c n).paused = true

theorem InPause.same {c d : Chip} {r : Nat} (h : InPause c r) (k : SameRoom r c d) : InPause d r := by
  obtain ⟨h1, h2, h3⟩ := h
  refine ⟨k.power.trans h1, k.asked.trans h2, fun n hn => ?_⟩
  rw [k.enabledCores_eq] at hn
  rw [k.paused n (enabledCores_range hn), h3 n hn]

theorem pauseIdle_inPause {c : Chip} {r : Nat} (hi : IdleRoom c r) (hp : (roomOf c r).power = .run) : InPause (pauseIdle r c) r := by
  obtain ⟨hregs, hrooms, -, -⟩ := pauseIdle_frame r c
  refine ⟨by rw [roomOf_of_rooms hrooms, hp], by rw [roomOf_of_rooms hrooms, hi.1], fun n hn => ?_⟩
  rw [enabledCores_of_regs hregs] at hn
  rw [coreOf_pauseIdle, if_pos ⟨hn, hi.2 n hn⟩]
  rfl

theorem powerStatePause_finishes {s : State} {p : Fin 2} {h : Fin 8} {cmd : Cmd} (hc : Current s p h 0x000B cmd) (h0 : argOf cmd 0 = 1)
    (hi : ∀ r ∈ maskRooms (argOf cmd 1), IdleRoom s.chip r ∧ (roomOf s.chip r).power = .run) :
    Finishes (.powerStatePause p h) s cmd 0 [argOf cmd 1 % 2 ^ 64] [] (fun t => ∀ r ∈ maskRooms (argOf cmd 1), InPause t.chip r ∧
      enabledCores t.chip r = enabledCores s.chip r) := by
  obtain ⟨hcur, hp, -⟩ := foldl_roomStep (askRoom_steps cmd.ph 1) _ (mask_lt (cmd := cmd)) s
  have hall := foldl_rooms (f := fun s r => askRoom cmd.ph 1 r s) (Inv := fun _ _ => True)
    (Pre := fun r t => IdleRoom t.chip r ∧ (roomOf t.chip r).power = .run ∧ enabledCores t.chip r = enabledCores s.chip r)
    (Post := fun r t => InPause t.chip r ∧ enabledCores t.chip r = enabledCores s.chip r) (fun _ _ _ _ => trivial)
    (fun _ t r _ _ ⟨h1, h2, h3⟩ => by
      rw [askRoom_idle (by decide) h1.2, if_neg (by simp), modChip_chip, enabledCores_of_regs (pauseIdle_frame r t.chip).1]
      exact ⟨pauseIdle_inPause h1 h2, h3⟩)
    (fun t r q hr hq hne _ ⟨h1, h2, h3⟩ => by
      have hk := (RoomStep.askRoom hr cmd.ph 1 t).chip.sameRoom hr hq hne
      exact ⟨h1.same hk hq, hk.power.trans h2, hk.enabledCores_eq.trans h3⟩)
    (fun t r q hr hq hne _ ⟨h1, h2⟩ => by
      have hk := (RoomStep.askRoom hr cmd.ph 1 t).chip.sameRoom hr hq hne
      exact ⟨h1.same hk, hk.enabledCores_eq.trans h2⟩)
    _ s (maskRooms_nodup (argOf cmd 1)) mask_lt trivial fun r hr => ⟨(hi r hr).1, (hi r hr).2, rfl⟩
  have hm := powerDone_finishes (P := fun t => ∀ r ∈ maskRooms (argOf cmd 1), InPause t.chip r ∧ enabledCores t.chip r = enabledCores s.chip r)
    hc (powerState_exec (i := .powerStatePause p h) hc h0 rfl) hcur hp (by omega) (fun r hr => (hall r hr).1.2.1) fun u hu _ => by rw [hu]; exact hall
  rwa [h0, stateMask_all fun r hr => by
    obtain ⟨h1, -, h3⟩ := (hall r hr).1
    simpa [inState, h1] using h3] at hm

/-! ### Recess at once (R546, R547) -/

/-- What refuses a recess is asked of the classroom's engine, its epoch and the requests at its banks. -/
theorem recessRefuser_same {c d : Chip} {r : Nat} (hd : (roomOf d r).dma = (roomOf c r).dma) (hb : (roomOf d r).banks = (roomOf c r).banks)
    (hw : d.waiting = c.waiting) (he : rawReg d (clsB r) 0x020 = rawReg c (clsB r) 0x020) : recessRefuser d r = recessRefuser c r := by
  unfold recessRefuser dmaOf meshQueued
  rw [hd, hb, hw, getF_of_rawReg he]

theorem recessRefuser_pauseIdle (r q : Nat) (c : Chip) : recessRefuser (pauseIdle r c) q = recessRefuser c q := by
  obtain ⟨h1, h2, -, h4⟩ := pauseIdle_frame r c
  exact recessRefuser_same (by rw [roomOf_of_rooms h2]) (by rw [roomOf_of_rooms h2]) h4 (rawReg_of_regs h1 _ _)

theorem recessRefuser_recessNow {r q : Nat} (hr : r < 64) (hq : q < 64) (hne : q ≠ r) (c : Chip) :
    recessRefuser (recessNow r c) q = recessRefuser c q :=
  recessRefuser_same (by rw [roomOf_recessNow, if_neg hne]) (by rw [roomOf_recessNow, if_neg hne]) (recessNow_frame r c).2.1
    (rawReg_recessNow_ne c (.inr ⟨by decide, .inl fun h => hne (clsB_injective hq hr h)⟩))

/-- A running classroom of idle cores that nothing refuses is in recess at once. -/
theorem askRoom_recess {t : State} {r : Nat} (hi : IdleRoom t.chip r) (hp : (roomOf t.chip r).power = .run)
    (hn : recessRefuser t.chip r = none) (ph : Nat) :
    askRoom ph 2 r t = modChip (recessNow r) (modChip (pauseIdle r) t) := by
  rw [askRoom_idle (by decide) hi.2, if_pos ⟨rfl, hp⟩, tryRecess, modChip_chip, recessRefuser_pauseIdle, hn]

theorem powerStateRecess_finishes {s : State} {p : Fin 2} {h : Fin 8} {cmd : Cmd} (hc : Current s p h 0x000B cmd) (h0 : argOf cmd 0 = 2)
    (hi : ∀ r ∈ maskRooms (argOf cmd 1), IdleRoom s.chip r ∧ (roomOf s.chip r).power = .run ∧ recessRefuser s.chip r = none) :
    Finishes (.powerStateRecess p h) s cmd 0 [argOf cmd 1 % 2 ^ 64] [] (fun t => t.chip.mem = s.chip.mem ∧
      ∀ r ∈ maskRooms (argOf cmd 1), (roomOf t.chip r).power = .recess) := by
  obtain ⟨hcur, hp, -⟩ := foldl_roomStep (askRoom_steps cmd.ph 2) _ (mask_lt (cmd := cmd)) s
  have hmem (t : State) (r : Nat) (h1 : IdleRoom t.chip r) (h2 : (roomOf t.chip r).power = .run) (h3 : recessRefuser t.chip r = none) :
      (askRoom cmd.ph 2 r t).chip.mem = t.chip.mem := by
    rw [askRoom_recess h1 h2 h3, modChip_chip, (recessNow_frame r _).1, modChip_chip, (pauseIdle_frame r _).2.2.1]
  have hall := foldl_rooms (f := fun s r => askRoom cmd.ph 2 r s) (Inv := fun _ _ => True)
    (Pre := fun r t => IdleRoom t.chip r ∧ (roomOf t.chip r).power = .run ∧ recessRefuser t.chip r = none ∧ t.chip.mem = s.chip.mem)
    (Post := fun r t => (roomOf t.chip r).power = .recess ∧ (roomOf t.chip r).asked = none ∧ t.chip.mem = s.chip.mem) (fun _ _ _ _ => trivial)
    (fun _ t r _ _ ⟨h1, h2, h3, h4⟩ => by
      refine ⟨?_, ?_, (hmem t r h1 h2 h3).trans h4⟩ <;> rw [askRoom_recess h1 h2 h3, modChip_chip, roomOf_recessNow, if_pos rfl]
      rw [modChip_chip, roomOf_of_rooms (pauseIdle_frame r t.chip).2.1]
      exact h1.1)
    (fun t r q hr hq hne ⟨p1, p2, p3, _⟩ ⟨h1, h2, h3, h4⟩ => by
      have hk := (RoomStep.askRoom hr cmd.ph 2 t).chip.sameRoom hr hq hne
      refine ⟨h1.same hk hq, hk.power.trans h2, ?_, (hmem t r p1 p2 p3).trans h4⟩
      rw [askRoom_recess p1 p2 p3, modChip_chip, recessRefuser_recessNow hr hq hne, modChip_chip, recessRefuser_pauseIdle, h3])
    (fun t r q hr hq hne ⟨p1, p2, p3, _⟩ ⟨h1, h2, h3⟩ => by
      have hk := (RoomStep.askRoom hr cmd.ph 2 t).chip.sameRoom hr hq hne
      exact ⟨hk.power.trans h1, hk.asked.trans h2, (hmem t r p1 p2 p3).trans h3⟩)
    _ s (maskRooms_nodup (argOf cmd 1)) mask_lt trivial fun r hr => ⟨(hi r hr).1, (hi r hr).2.1, (hi r hr).2.2, rfl⟩
  have hm0 : ((maskRooms (argOf cmd 1)).foldl (fun s r => askRoom cmd.ph 2 r s) s).chip.mem = s.chip.mem := by
    cases hl : maskRooms (argOf cmd 1) with
    | nil => rfl
    | cons r l => exact hl ▸ (hall r (hl ▸ List.mem_cons_self ..)).2.2
  have hm := powerDone_finishes (P := fun t => t.chip.mem = s.chip.mem ∧ ∀ r ∈ maskRooms (argOf cmd 1), (roomOf t.chip r).power = .recess)
    hc (powerState_exec (i := .powerStateRecess p h) hc h0 rfl) hcur hp (by omega) (fun r hr => (hall r hr).2.1) fun u hu _ => by
      rw [hu]; exact ⟨hm0, fun r hr => (hall r hr).1⟩
  rwa [h0, stateMask_all fun r hr => by rw [inState, (hall r hr).1]; rfl] at hm

end Sys2Proof.Machine
end

section
/-! PROOFS. POWER_STATE 3, busy classrooms and the timeout (spec/16 R506, R547). -/

open Sys2Proof Sys2Proof.Machine
namespace Sys2Proof.Machine

/-! ### Closed at once (R543, R547) -/

theorem SameRoom.bState_cls {r : Fin 64} {c d : Chip} (h : SameRoom r.val c d) : bState d (.cls r) = bState c (.cls r) :=
  h.state (.inl (clsB_val r).symm) 1 0

theorem SameRoom.dma_state {r : Fin 64} {c d : Chip} (h : SameRoom r.val c d) (hi lo : Nat) :
    getF d (.dma r) 0x002 hi lo = getF c (.dma r) 0x002 hi lo := h.state (.inr (dmaB_val r).symm) hi lo

theorem askRoom_closes {t : State} {r : Fin 64} (hs : bState t.chip (.cls r) = 0) (hi : IdleRoom t.chip r) (ph : Nat) :
    askRoom ph 3 r t = modChip (closeRoom r) t := by
  rw [askRoom_eq, clsB_val, if_neg (fun h => h.2 hs), if_pos ⟨rfl, List.all_eq_true.mpr hi.2⟩]

/-- A classroom that is closed, its engine stopped by hardware if it was not STOPPED, its cores reset. -/
structure IsClosed (r : Fin 64) (c d : Chip) : Prop where
  power : (roomOf d r).power = .closed
  asked : (roomOf d r).asked = none
  dma : bState d (.dma r) = 0
  mark : bState c (.dma r) ≠ 0 → getF d (.dma r) 0x002 8 8 = 1
  cores : ∀ u : StrandId, u.core.val / 16 = r.val → strandOf d u = strandReset u.strand.val

theorem isClosed_closeRoom {r : Fin 64} {c : Chip} (hs : bState c (.cls r) = 0) (ha : (roomOf c r).asked = none) :
    IsClosed r c (closeRoom r c) :=
  ⟨power_closeRoom _ _, (asked_closeRoom _ _).trans ha, (closeRoom_dma hs).1, (closeRoom_dma hs).2,
    fun u hu => closeRoom_reset hs u (.inl hu)⟩

/-- Closing another STOPPED classroom leaves it so. -/
theorem IsClosed.other {r q : Fin 64} {c d : Chip} (h : IsClosed q c d) (hne : q ≠ r) (hs : bState d (.cls r) = 0) :
    IsClosed q c (closeRoom r d) := by
  have hk : SameRoom q.val d (closeRoom r d) :=
    (Elsewhere.refl r.val d).closeRoom.sameRoom r.isLt q.isLt (fun h => hne (Fin.ext h))
  refine ⟨hk.power.trans h.power, hk.asked.trans h.asked, (hk.dma_state 1 0).trans h.dma,
    fun hm => (hk.dma_state 8 8).trans (h.mark hm), fun u hu => closeRoom_reset hs u (.inr (h.cores u hu))⟩

theorem powerStateClosed_finishes {s : State} {p : Fin 2} {h : Fin 8} {cmd : Cmd} (hc : Current s p h 0x000B cmd) (h0 : argOf cmd 0 = 3)
    (hi : ∀ r : Fin 64, r.val ∈ maskRooms (argOf cmd 1) → IdleRoom s.chip r ∧ bState s.chip (.cls r) = 0) :
    Finishes (.powerStateClosed p h) s cmd 0 [argOf cmd 1 % 2 ^ 64] [] (fun t => ∀ r : Fin 64, r.val ∈ maskRooms (argOf cmd 1) →
      IsClosed r s.chip t.chip) := by
  obtain ⟨hcur, hp, -⟩ := foldl_roomStep (askRoom_steps cmd.ph 3) _ (mask_lt (cmd := cmd)) s
  have hstep (t : State) (r : Fin 64) (hm : r.val ∈ maskRooms (argOf cmd 1)) (hk : SameRoom r.val s.chip t.chip) :
      bState t.chip (.cls r) = 0 ∧ (roomOf t.chip r).asked = none ∧ askRoom cmd.ph 3 r t = modChip (closeRoom r) t := by
    obtain ⟨h1, h2⟩ := hi r hm
    have hs := hk.bState_cls.trans h2
    exact ⟨hs, hk.asked.trans h1.1, askRoom_closes hs (h1.same hk r.isLt) _⟩
  have hall := foldl_rooms (f := fun s r => askRoom cmd.ph 3 r s) (Inv := fun _ _ => True)
    (Pre := fun r t => r ∈ maskRooms (argOf cmd 1) ∧ SameRoom r s.chip t.chip)
    (Post := fun r t => ∀ q : Fin 64, q.val = r → IsClosed q s.chip t.chip) (fun _ _ _ _ => trivial)
    (fun _ t r _ _ ⟨hm, hk⟩ q hq => by
      subst hq
      obtain ⟨h1, h2, h3⟩ := hstep t q hm hk
      have hcl := isClosed_closeRoom h1 h2
      rw [h3, modChip_chip]
      exact { hcl with mark := fun hn => hcl.mark (by rwa [bState, hk.dma_state]) })
    (fun t r q hr hq hne _ ⟨h1, h2⟩ => ⟨h1, h2.trans ((RoomStep.askRoom hr cmd.ph 3 t).chip.sameRoom hr hq hne)⟩)
    (fun t r q hr hq hne ⟨hm, hk⟩ h q' hq' => by
      obtain ⟨h1, -, h3⟩ := hstep t ⟨r, hr⟩ hm hk
      rw [h3, modChip_chip]
      exact (h q' hq').other (fun he => hne (by rw [← hq', he])) h1)
    _ s (maskRooms_nodup (argOf cmd 1)) mask_lt trivial fun r hr => ⟨hr, .refl r _⟩
  have hall' (r : Nat) (hr : r ∈ maskRooms (argOf cmd 1)) := hall r hr ⟨r, (mem_maskRooms.mp hr).1⟩ rfl
  have hm := powerDone_finishes (P := fun t => ∀ r : Fin 64, r.val ∈ maskRooms (argOf cmd 1) → IsClosed r s.chip t.chip)
    hc (powerState_exec (i := .powerStateClosed p h) hc h0 rfl) hcur hp (by omega) (fun r hr => (hall' r hr).asked) fun u hu _ => by
      rw [hu]; exact fun r hr => hall r.val hr r rfl
  rwa [h0, stateMask_all fun r hr => by rw [inState, (hall' r hr).power]; all_goals simp] at hm

/-! ### Closing is refused outside STOPPED (R547) -/

theorem foldl_refused {c : Chip} (ph : Nat) : ∀ (l : List Nat) (t : State), (∀ r ∈ l, bState c (clsB r) ≠ 0) → t.chip = c →
    LogsOnly t (l.foldl (fun s r => askRoom ph 3 r s) t) ∧
    (∀ a b e, InCounts a b e t.dev.power.refusals → InCounts a b e (l.foldl (fun s r => askRoom ph 3 r s) t).dev.power.refusals) ∧
    (l ≠ [] → t.dev.power.refusals.length < 1024 →
      InCounts 0x0500 3 0 (l.foldl (fun s r => askRoom ph 3 r s) t).dev.power.refusals)
  | [], t, _, _ => ⟨.refl t, fun _ _ _ h => h, fun h => absurd rfl h⟩
  | r :: l, t, hl, ht => by
    obtain ⟨hr, hl⟩ := List.forall_mem_cons.mp hl
    have hstep : askRoom ph 3 r t = countRefusal 0x0500 3 0 t := by rw [askRoom_eq, if_pos ⟨rfl, ht ▸ hr⟩]
    have hlog := LogsOnly.countRefusal 0x0500 3 0 t
    obtain ⟨h1, h2, -⟩ := foldl_refused ph l (countRefusal 0x0500 3 0 t) hl (hlog.chip.trans ht)
    rw [List.foldl_cons, hstep]
    refine ⟨h1.after hlog, fun a b e h => h2 a b e ?_, fun _ hlt => h2 _ _ _ ?_⟩ <;> rw [countRefusal_refusals]
    · exact h.counted _ _ _
    · exact inCounts_counted hlt

theorem powerStateClosed_refused {s : State} {p : Fin 2} {h : Fin 8} {cmd : Cmd} (hc : Current s p h 0x000B cmd) (h0 : argOf cmd 0 = 3)
    (hi : ∀ r ∈ maskRooms (argOf cmd 1), bState s.chip (clsB r) ≠ 0 ∧ (roomOf s.chip r).asked = none ∧ (roomOf s.chip r).power = .run) :
    Finishes (.powerStateClosed p h) s cmd 0 [0] [] (fun t => t.chip = s.chip ∧ (maskRooms (argOf cmd 1) ≠ [] → Counted s t 0x0500 3 0)) := by
  obtain ⟨hl, -, hcnt⟩ := foldl_refused cmd.ph (maskRooms (argOf cmd 1)) s (fun r hr => (hi r hr).1) rfl
  have hm := powerDone_finishes (P := fun t => t.chip = s.chip ∧ (maskRooms (argOf cmd 1) ≠ [] → Counted s t 0x0500 3 0))
    hc (powerState_exec (i := .powerStateClosed p h) hc h0 rfl) hl.cur hl.pigeon (by omega) (fun r hr => by rw [hl.chip]; exact (hi r hr).2.1)
    fun u hu hpw => ⟨hu.trans hl.chip, fun hne hlt => hpw ▸ hcnt hne hlt⟩
  rwa [h0, stateMask_none fun r hr => by rw [hl.chip, inState, (hi r hr).2.2]; all_goals simp] at hm

/-! ### The request to a busy core (R505, R506) -/

/-- Of a core: its strands, its pigeonhole window and whether it is enabled. -/
structure CoreKept (n : Fin 1024) (c d : Chip) : Prop where
  strands : ∀ i : Fin 8, strandOf d ⟨n, i⟩ = strandOf c ⟨n, i⟩
  window : ∀ i < 256, wordAt d.mem (pgnBase + 256 * n.val + i) = wordAt c.mem (pgnBase + 256 * n.val + i)
  enabled : rawReg d (clsB (n.val / 16)) 0x010 = rawReg c (clsB (n.val / 16)) 0x010

namespace CoreKept
variable {n : Fin 1024} {c d e : Chip}

theorem refl (n : Fin 1024) (c : Chip) : CoreKept n c c := ⟨fun _ => rfl, fun _ _ => rfl, rfl⟩

theorem trans (h : CoreKept n c d) (k : CoreKept n d e) : CoreKept n c e :=
  ⟨fun i => (k.strands i).trans (h.strands i), fun i hi => (k.window i hi).trans (h.window i hi), k.enabled.trans h.enabled⟩

theorem pauseIdle (r : Nat) (c : Chip) : CoreKept n c (pauseIdle r c) :=
  ⟨fun i => strandOf_pauseIdle r c _, fun i _ => by rw [(pauseIdle_frame r c).2.2.1], rawReg_of_regs (pauseIdle_frame r c).1 _ _⟩

theorem recessNow (r : Nat) (c : Chip) : CoreKept n c (recessNow r c) where
  strands i := by
    have h : (coreOf (Machine.recessNow r c) n).strands = (coreOf c n).strands := by rw [coreOf_recessNow]; split <;> rfl
    rw [strandOf, h]; rfl
  window i _ := by rw [(recessNow_frame r c).1]
  enabled := rawReg_recessNow_ne c (.inr ⟨by decide, .inr (by decide)⟩)

/-- A write of another core's window. -/
theorem pgnWrite {m : Nat} (hm : m ≠ n.val) (hm2 : m < 1024) (c : Chip) (ws : List Word) (i : Nat) (hw : i + ws.length ≤ 256) :
    CoreKept n c (pgnWrite m i ws c) := by
  unfold Machine.pgnWrite
  split
  · have hk := WritesMemory.wrMarked c false (atRun (pgnBase + 256 * m + i) ws)
    refine ⟨fun j => by rw [strandOf, wrWords, hk.strands]; rfl, fun j hj => ?_, hk.regs _ _ (by decide)⟩
    have ha : clsEnd ≤ pgnBase + 256 * m + i := window_above ⟨m, hm2⟩ i
    rw [wrWords_above c false ws ha, wordAt_setRun_ne ws _ _ _ (by omega)]
  · exact .refl n c

theorem askCore {m : Nat} (hm : m ≠ n.val) (hm2 : m < 1024) (want : Nat) (c : Chip) : CoreKept n c (askCore want m c) := by
  refine (CoreKept.pgnWrite hm hm2 c [BitVec.ofNat 16 (2 ^ 15 + 2 ^ 14), 1, BitVec.ofNat 16 want] 0x80 (by simp)).trans ?_
  refine ⟨fun i => ?_, fun i _ => rfl, rfl⟩
  refine strandOf_modStrand_ne _ _ fun h => hm ?_
  have := congrArg (fun u : StrandId => u.core.val) h
  simpa [strandId, Nat.mod_eq_of_lt hm2] using this.symm

end CoreKept

theorem enabledCores_lt {c : Chip} {r n : Nat} (hr : r < 64) (h : n ∈ enabledCores c r) : n < 1024 := by
  have := enabledCores_range h
  omega

/-- What a Prefect asks of a classroom's cores leaves the cores of the others alone. -/
theorem CoreKept.askRoom {n : Fin 1024} {r want : Nat} (hr : r < 64) (hn : n.val / 16 ≠ r) (hw : want ≠ 3) (ph : Nat) (t : State) :
    CoreKept n t.chip (askRoom ph want r t).chip := by
  have hk (c : Chip) : CoreKept n c (askCores want r (Machine.pauseIdle r c)) :=
    (CoreKept.pauseIdle r c).trans (List.foldlRecOn (motive := CoreKept n (Machine.pauseIdle r c)) _ _ (.refl n _) fun d h m hm =>
      h.trans (.askCore (fun he => hn (by rw [← he]; exact enabledCores_range (List.mem_filter.mp hm).1))
        (enabledCores_lt hr (List.mem_filter.mp hm).1) want d))
  have hrec (u : State) (h : CoreKept n t.chip u.chip) : CoreKept n t.chip (tryRecess r u).chip := by
    unfold tryRecess
    split
    · rwa [(LogsOnly.countRefusal _ _ _ u).chip]
    · exact h.trans (.recessNow r _)
  rw [askRoom_eq, if_neg (fun h => hw h.1), if_neg (fun h => hw h.1)]
  dsimp only
  have h0 := hk t.chip
  generalize ht : modChip (askCores want r) (modChip (Machine.pauseIdle r) t) = u
  have h1 : CoreKept n t.chip u.chip := by rw [← ht]; exact h0
  have h2 : CoreKept n t.chip (if want = 2 ∧ (roomOf u.chip r).power = .run ∧ (busyCores want r t.chip).isEmpty then tryRecess r u else u).chip := by
    split
    · exact hrec u h1
    · exact h1
  split
  · exact h2
  · exact h2.trans ⟨fun _ => rfl, fun _ _ => rfl, rfl⟩

/-- A core has its Prefect's request: IPEND.PREFECT, and, where its window is enabled, the message. -/
structure Asked (n : Fin 1024) (want : Nat) (d : Chip) : Prop where
  pend : natBit (creg (strandOf d (strandId n 0)) 28).toNat 1 = true
  message : natBit (getF d (clsB (n.val / 16)) 0x010 31 16) (n.val % 16) = true →
    (rdWords d false (pgnBase + 256 * n + 0x80) 3).map Prod.fst = [0xC000, 1, BitVec.ofNat 16 want]

theorem Asked.kept {n : Fin 1024} {want : Nat} {c d : Chip} (h : Asked n want c) (k : CoreKept n c d) : Asked n want d := by
  have hwin (e : Chip) : (rdWords e false (pgnBase + 256 * n + 0x80) 3).map Prod.fst =
      (List.range 3).map (fun i => wordAt e.mem (pgnBase + 256 * n.val + 0x80 + i)) := rdWords_above e false 3 (window_above n 0x80)
  have hid : strandId n 0 = ⟨n, 0⟩ := strandId_val n 0
  refine ⟨?_, fun he => ?_⟩
  · rw [hid, k.strands, ← hid]; exact h.pend
  · rw [getF_of_rawReg k.enabled] at he
    rw [← h.message he, hwin, hwin]
    refine List.map_congr_left fun i hi => ?_
    rw [Nat.add_assoc]
    exact k.window _ (by have := List.mem_range.mp hi; omega)

theorem rawReg_askCore (want n : Nat) (c : Chip) (b : BlockId) {m : Nat} (hm : m ≠ 0x020) : rawReg (askCore want n c) b m = rawReg c b m := by
  unfold askCore setIpend
  rw [rawReg_of_regs (modStrand_regs _ _ _), pgnWrite]
  split
  · exact (WritesMemory.wrMarked c false _).regs b m hm
  · rfl

theorem asked_askCore (n : Fin 1024) (want : Nat) (c : Chip) : Asked n want (askCore want n.val c) := by
  refine ⟨?_, fun he => ?_⟩
  · rw [askCore, setIpend, strandOf_modStrand_self, natBit_eq_testBit]
    simp [creg, setCreg]
    exact .inr (by decide)
  · have hr := rawReg_askCore want n.val c (clsB (n.val / 16)) (m := 0x010) (by decide)
    rw [getF_of_rawReg hr] at he
    have hmem : (askCore want n.val c).mem = setRun c.mem (pgnBase + 256 * n + 0x80) [0xC000, 1, BitVec.ofNat 16 want] := by
      rw [askCore, setIpend, modStrand_mem, pgnWrite, coreRoom, corePos, if_pos he]
      exact wrWords_above c false _ (window_above n 0x80)
    rw [rdWords_above _ _ _ (window_above n 0x80), hmem]
    refine List.ext_getElem rfl fun i h1 h2 => ?_
    rw [List.getElem_map, List.getElem_range, wordAt_run _ _ _ i h2]

theorem asked_foldl {n : Fin 1024} (want : Nat) : ∀ (l : List Nat) (c : Chip), (∀ m ∈ l, m < 1024) → (n.val ∈ l ∨ Asked n want c) →
    Asked n want (l.foldl (fun c m => askCore want m c) c)
  | [], _, _, h => h.resolve_left List.not_mem_nil
  | m :: l, c, hl, h => by
    obtain ⟨hm, hl⟩ := List.forall_mem_cons.mp hl
    refine asked_foldl want l _ hl ?_
    by_cases he : m = n.val
    · subst he; exact .inr (asked_askCore n want c)
    · rcases h with h | h
      · exact .inl ((List.mem_cons.mp h).resolve_left (Ne.symm he))
      · exact .inr (h.kept (.askCore he hm want c))

/-- A core that neither is idle nor pauses is asked, and its classroom waits. -/
theorem askRoom_asks {t : State} {r : Nat} {n : Fin 1024} (hr : r < 64) {want : Nat} (hw : want ≠ 3) (hn : n.val ∈ enabledCores t.chip r)
    (hi : allIdle t.chip n = false) (hp : (coreOf t.chip n).paused = false) (ph : Nat) :
    (roomOf (askRoom ph want r t).chip r).asked = some (want, ph) ∧ Asked n want (askRoom ph want r t).chip ∧
      rawReg (askRoom ph want r t).chip (clsB r) 0x010 = rawReg t.chip (clsB r) 0x010 := by
  have hb : (busyCores want r t.chip).isEmpty = false := by
    rw [List.isEmpty_eq_false_iff_exists_mem]
    exact ⟨n.val, List.mem_filter.mpr ⟨hn, by simp [coreThere, hi, hp]⟩⟩
  have hm : n.val ∈ (enabledCores (pauseIdle r t.chip) r).filter (fun n => !allIdle (pauseIdle r t.chip) n) := by
    rw [enabledCores_of_regs (pauseIdle_frame r t.chip).1]
    exact List.mem_filter.mpr ⟨hn, by rw [allIdle_pauseIdle, hi]; rfl⟩
  have ha : Asked n want (askCores want r (pauseIdle r t.chip)) :=
    asked_foldl want _ _ (fun m h => enabledCores_lt hr (List.mem_filter.mp h).1) (.inl hm)
  rw [askRoom_eq, if_neg (fun h => hw h.1), if_neg (fun h => hw h.1), hb]
  dsimp only
  rw [if_neg (by simp), if_neg (by simp), modChip_chip]
  refine ⟨by rw [roomOf_modRoom, if_pos rfl], ha.kept ⟨fun _ => rfl, fun _ _ => rfl, rfl⟩, ?_⟩
  have hreg : rawReg (askCores want r (pauseIdle r t.chip)) (clsB r) 0x010 = rawReg (pauseIdle r t.chip) (clsB r) 0x010 :=
    foldl_reads (fun d => rawReg d (clsB r) 0x010) (fun d m => rawReg_askCore want m d _ (by decide)) _ _
  exact hreg.trans (rawReg_of_regs (pauseIdle_frame r t.chip).1 _ _)

theorem powerState_asks {i : Instr} {s : State} {p : Fin 2} {h : Fin 8} {cmd : Cmd} {want : Nat} (hc : Current s p h 0x000B cmd)
    (h0 : argOf cmd 0 = want) (hi : exec i s = .next (perform p h 0x000B s (powerState want))) (hw : want ≠ 3)
    {r : Nat} (hr : r ∈ maskRooms (argOf cmd 1)) {n : Fin 1024} (hn : n.val ∈ enabledCores s.chip r) (hb : allIdle s.chip n = false)
    (hp : (coreOf s.chip n).paused = false) : Answers i s (fun t => t.dev.warden.cur = some cmd ∧
      (roomOf t.chip r).asked = some (want, cmd.ph) ∧ Asked n want t.chip ∧ rawReg t.chip (clsB r) 0x010 = rawReg s.chip (clsB r) 0x010) := by
  obtain ⟨hcur, -, -⟩ := foldl_roomStep (askRoom_steps cmd.ph want) _ (mask_lt (cmd := cmd)) s
  have hnr : n.val / 16 = r := enabledCores_range hn
  have hall := foldl_rooms (f := fun s r => askRoom cmd.ph want r s) (Inv := fun _ _ => True)
    (Pre := fun q t => SameRoom q s.chip t.chip)
    (Post := fun q t => q = r → (roomOf t.chip r).asked = some (want, cmd.ph) ∧ Asked n want t.chip ∧
      rawReg t.chip (clsB r) 0x010 = rawReg s.chip (clsB r) 0x010) (fun _ _ _ _ => trivial)
    (fun _ t q hq _ hk he => by
      subst he
      obtain ⟨h1, h2, h3⟩ := askRoom_asks hq hw (hk.enabledCores_eq ▸ hn) ((hk.allIdle_eq hq hnr).trans hb) ((hk.paused _ hnr).trans hp) cmd.ph
      exact ⟨h1, h2, h3.trans (hk.regs _ _ (.inr ⟨⟨_, rfl⟩, .inl rfl⟩) (.inl rfl))⟩)
    (fun t r q hr hq hne _ hk => hk.trans ((RoomStep.askRoom hr cmd.ph want t).chip.sameRoom hr hq hne))
    (fun t q' q hr' hq hne _ hpo he => by
      obtain ⟨h1, h2, h3⟩ := hpo he
      subst he
      have hk := CoreKept.askRoom (n := n) hr' (by rwa [hnr]) hw cmd.ph t
      have henab := hk.enabled
      rw [hnr] at henab
      exact ⟨((RoomStep.askRoom hr' cmd.ph want t).chip.asked _ hne).trans h1, h2.kept hk, henab.trans h3⟩)
    _ s (maskRooms_nodup (argOf cmd 1)) mask_lt trivial (fun q _ => .refl q _) r hr rfl
  obtain ⟨ha, hask, hreg⟩ := hall
  refine ⟨_, powerState_exec hc h0 hi, ?_⟩
  rw [powerDone_waits (hcur.trans hc.1) hr (by rw [ha]; exact Option.some_ne_none _)]
  exact ⟨hcur.trans hc.1, ha, hask, hreg⟩

/-! ### The timeout (R547) -/

/-- The classroom's idle cores pause, and nothing more is asked of it. -/
def unasked (r : Nat) (c : Chip) : Chip := modRoom (pauseIdle r c) r (fun m => { m with asked := none })

theorem lateRoom_eq (r : Nat) (s : State) : lateRoom r s =
    let want := ((roomOf s.chip r).asked.getD (0, 0)).1
    let t := modChip (unasked r) s
    if (busyCores want r t.chip).isEmpty then
      (if want = 3 then modChip (closeRoom r) t
       else if want = 2 then
        (match recessRefuser t.chip r with
         | some x => countRefusal x 2 1 (modChip (setPower r .run) t)
         | none => modChip (recessNow r) t)
       else t)
    else (busyCores want r t.chip).foldl (fun s n => countRefusal n want 1 s)
      (if (roomOf t.chip r).power = .entering then modChip (setPower r .run) t else t) := rfl

theorem length_enabledCores (c : Chip) (r : Nat) : (enabledCores c r).length ≤ 16 := by
  rw [enabledCores, List.length_map]
  exact (List.length_filter_le _ _).trans (by simp)

theorem length_busyCores (want r : Nat) (c : Chip) : (busyCores want r c).length ≤ 16 :=
  (List.length_filter_le _ _).trans (length_enabledCores c r)

theorem Elsewhere.unasked (r : Nat) (c : Chip) : Elsewhere r c (unasked r c) := (Elsewhere.pauseIdle r c).modRoom _

theorem RoomStep.lateRoom (r : Nat) (s : State) : RoomStep 16 r s (lateRoom r s) := by
  have ht : RoomStep 0 r s (Machine.modChip (Machine.unasked r) s) := (RoomStep.refl 0 r s).modChip (.unasked r _)
  rw [lateRoom_eq]
  dsimp only
  generalize Machine.modChip (Machine.unasked r) s = t at ht ⊢
  split
  · split
    · exact (ht.modChip (Elsewhere.refl r _).closeRoom).mono (by decide)
    split
    · split
      · exact ((ht.modChip ((Elsewhere.refl r _).setPower _)).countRefusal _ _ _).mono (by decide)
      · exact (ht.modChip (Elsewhere.refl r _).recessNow).mono (by decide)
    · exact ht.mono (by decide)
  · have hu : RoomStep 0 r s (if (roomOf t.chip r).power = .entering then Machine.modChip (setPower r .run) t else t) := by
      split
      · exact ht.modChip ((Elsewhere.refl r _).setPower _)
      · exact ht
    exact (hu.countRefusals _ _ _).mono (by rw [Nat.zero_add]; exact length_busyCores _ r _)

/-- A core that did not follow: enabled, out of pause, and not idle. -/
def Late (c : Chip) (r n : Nat) : Prop := n ∈ enabledCores c r ∧ (coreOf c n).paused = false ∧ allIdle c n = false

/-- What the timeout leaves of a classroom that was asked for a state. -/
structure LateDone (r want : Nat) (c : Chip) (t : State) : Prop where
  asked : (roomOf t.chip r).asked = none
  aborted : (want = 2 ∨ want = 3 ∨ ∃ n, Late c r n) → (roomOf t.chip r).power ≠ .entering
  paused : want = 1 → ∀ n ∈ enabledCores c r, allIdle c n = true → (coreOf t.chip n).paused = true
  named : ∀ n, Late c r n → InCounts n want 1 t.dev.power.refusals

theorem LateDone.other {r q want k : Nat} {c : Chip} {t u : State} (h : LateDone q want c t) (k : RoomStep k r t u) (hr : r < 64) (hq : q < 64)
    (hne : q ≠ r) : LateDone q want c u := by
  have hs := k.chip.sameRoom hr hq hne
  exact ⟨hs.asked.trans h.asked, fun hw => by rw [hs.power]; exact h.aborted hw,
    fun hw n hn hi => (hs.paused n (enabledCores_range hn)).trans (h.paused hw n hn hi), fun n hn => k.counts _ _ _ (h.named n hn)⟩

theorem Late.same {c d : Chip} {r n : Nat} (k : SameRoom r c d) (hr : r < 64) (h : Late c r n) : Late d r n := by
  obtain ⟨h1, h2, h3⟩ := h
  have hn := enabledCores_range h1
  exact ⟨k.enabledCores_eq ▸ h1, (k.paused n hn).trans h2, (k.allIdle_eq hr hn).trans h3⟩

theorem LateDone.of_same {r want : Nat} {c d : Chip} {t : State} (h : LateDone r want d t) (k : SameRoom r c d) (hr : r < 64) :
    LateDone r want c t :=
  ⟨h.asked, fun hw => h.aborted (hw.imp id (Or.imp id fun ⟨n, hn⟩ => ⟨n, hn.same k hr⟩)),
    fun hw n hn hi => h.paused hw n (k.enabledCores_eq ▸ hn) ((k.allIdle_eq hr (enabledCores_range hn)).trans hi),
    fun n hn => h.named n (hn.same k hr)⟩

theorem inCounts_foldl {want n : Nat} : ∀ (l : List Nat) (s : State), s.dev.power.refusals.length + l.length ≤ 1024 → n ∈ l →
    InCounts n want 1 (l.foldl (fun s n => countRefusal n want 1 s) s).dev.power.refusals
  | [], _, _, h => absurd h List.not_mem_nil
  | m :: l, s, hl, h => by
    rw [List.length_cons] at hl
    rw [List.foldl_cons]
    have hr := countRefusal_refusals m want 1 s
    by_cases hm : n = m
    · subst hm
      refine (RoomStep.countRefusals (r := 0) (.refl 0 0 _) want 1 l).counts _ _ _ ?_
      rw [hr]
      exact inCounts_counted (by omega)
    · refine inCounts_foldl l _ ?_ ((List.mem_cons.mp h).resolve_left hm)
      have := length_counted m want 1 s.dev.power.refusals
      rw [hr]
      omega

theorem chip_countRefusals (want : Nat) (l : List Nat) (s : State) : (l.foldl (fun s n => countRefusal n want 1 s) s).chip = s.chip :=
  foldl_reads State.chip (fun s n => (LogsOnly.countRefusal n want 1 s).chip) l s

theorem unasked_late {c : Chip} {r n : Nat} (h : Late c r n) (want : Nat) : n ∈ busyCores want r (unasked r c) := by
  obtain ⟨h1, h2, h3⟩ := h
  have hi : allIdle (unasked r c) n = false := (allIdle_pauseIdle r c n).trans h3
  have hp : (coreOf (unasked r c) n).paused = false := by
    have hc : coreOf (unasked r c) n = coreOf c n := (coreOf_pauseIdle r c n).trans (if_neg (by simp [h3]))
    rw [hc, h2]
  exact List.mem_filter.mpr ⟨(enabledCores_of_regs (pauseIdle_frame r c).1 r).symm ▸ h1, by simp [coreThere, hi, hp]⟩

theorem unasked_paused {c : Chip} {r n : Nat} (hn : n ∈ enabledCores c r) (hi : allIdle c n = true) : (coreOf (unasked r c) n).paused = true := by
  have hc : coreOf (unasked r c) n = pausedCore (coreOf c n) := (coreOf_pauseIdle r c n).trans (if_pos ⟨hn, hi⟩)
  rw [hc]; rfl

theorem roomOf_unasked (r : Nat) (c : Chip) : roomOf (unasked r c) r = { roomOf c r with asked := none } := by
  rw [unasked, roomOf_modRoom, if_pos rfl, roomOf_of_rooms (pauseIdle_frame r c).2.1]

theorem lateRoom_done {s : State} {r : Nat} {x : Nat × Nat} (ha : (roomOf s.chip r).asked = some x)
    (hlen : s.dev.power.refusals.length + 16 ≤ 1024) : LateDone r x.1 s.chip (lateRoom r s) := by
  have hasked : (roomOf (unasked r s.chip) r).asked = none := by rw [roomOf_unasked]
  rw [lateRoom_eq, ha, Option.getD_some]
  dsimp only
  rw [modChip_chip]
  split
  next hb =>
    have hno (n : Nat) : ¬ Late s.chip r n := fun h => by
      have := unasked_late h x.1
      rw [List.isEmpty_iff.mp hb] at this
      exact List.not_mem_nil this
    split
    next h3 =>
      exact ⟨(asked_closeRoom _ _).trans hasked, fun _ => by rw [modChip_chip, power_closeRoom]; simp, fun h1 => by omega,
        fun n hn => absurd hn (hno n)⟩
    split
    next h2 =>
      split
      next y _ =>
        have hc := (LogsOnly.countRefusal y 2 1 (modChip (setPower r .run) (modChip (unasked r) s))).chip
        refine ⟨?_, fun _ => ?_, fun h1 => by omega, fun n hn => absurd hn (hno n)⟩ <;>
          rw [hc, modChip_chip, roomOf_setPower, if_pos rfl]
        · exact hasked
        · simp
      next =>
        refine ⟨?_, fun _ => ?_, fun h1 => by omega, fun n hn => absurd hn (hno n)⟩ <;>
          rw [modChip_chip, roomOf_recessNow, if_pos rfl]
        · exact hasked
        · simp
    next h3 h2 =>
      exact ⟨hasked, fun hw => absurd hw (by rintro (h | h | ⟨n, hn⟩); exacts [h2 h, h3 h, hno n hn]),
        fun _ n hn hi => unasked_paused hn hi, fun n hn => absurd hn (hno n)⟩
  next hb =>
    obtain ⟨u, hu⟩ : ∃ u, u = if (roomOf (unasked r s.chip) r).power = .entering then modChip (setPower r .run) (modChip (unasked r) s)
      else modChip (unasked r) s := ⟨_, rfl⟩
    have hroom : (roomOf u.chip r).asked = none ∧ (roomOf u.chip r).power ≠ .entering := by
      rw [hu]
      split
      · rw [modChip_chip, roomOf_setPower, if_pos rfl]
        exact ⟨hasked, by simp⟩
      · next h => rw [modChip_chip]; exact ⟨hasked, h⟩
    have hcores : u.chip.cores = (unasked r s.chip).cores := by
      rw [hu]
      split
      · rw [modChip_chip, setPower_cores, modChip_chip]
      · rw [modChip_chip]
    have hpow : u.dev.power = s.dev.power := by
      rw [hu]
      split <;> simp only [modChip_dev]
    rw [← hu]
    refine ⟨?_, fun _ => ?_, fun _ n hn hi => ?_, fun n hn => inCounts_foldl _ _ ?_ (unasked_late hn x.1)⟩
    · rw [chip_countRefusals]; exact hroom.1
    · rw [chip_countRefusals]; exact hroom.2
    · rw [chip_countRefusals, coreOf_of_cores hcores]; exact unasked_paused hn hi
    · rw [hpow]; have := length_busyCores x.1 r (unasked r s.chip); omega

/-- The classrooms that wait. -/
def askedRooms (c : Chip) : List Nat := (List.range 64).filter (fun r => (roomOf c r).asked.isSome)

theorem mem_askedRooms {c : Chip} {r : Nat} : r ∈ askedRooms c ↔ r < 64 ∧ (roomOf c r).asked ≠ none := by
  simp [askedRooms, Option.isSome_iff_ne_none]

theorem powerTimeout_done {s : State} (hlen : s.dev.power.refusals = []) {t : State}
    (ht : t = (askedRooms s.chip).foldl (fun s r => lateRoom r s) s) :
    (∀ r < 64, (roomOf t.chip r).asked = none) ∧
    ∀ r < 64, ∀ x, (roomOf s.chip r).asked = some x → LateDone r x.1 s.chip t := by
  have hlt : ∀ r ∈ askedRooms s.chip, r < 64 := fun r hr => (mem_askedRooms.mp hr).1
  have hn : (askedRooms s.chip).Nodup := List.nodup_range.filter _
  have hle : (askedRooms s.chip).length ≤ 64 := (List.length_filter_le _ _).trans (by simp)
  have hpre (t : State) (r q : Nat) (hr : r < 64) (hq : q < 64) (hne : q ≠ r) (_ : SameRoom r s.chip t.chip) (hk : SameRoom q s.chip t.chip) :
      SameRoom q s.chip (lateRoom r t).chip := hk.trans ((RoomStep.lateRoom r t).chip.sameRoom hr hq hne)
  have hall := foldl_rooms (f := fun s r => lateRoom r s) (Inv := fun k t => t.dev.power.refusals.length + 16 * k ≤ 1024)
    (Pre := fun r t => SameRoom r s.chip t.chip)
    (Post := fun r t => ∀ x, (roomOf s.chip r).asked = some x → LateDone r x.1 s.chip t)
    (fun k t r h => by have := (RoomStep.lateRoom r t).length; omega)
    (fun k t r hr hi hk x hx => (lateRoom_done (hk.asked.trans hx) (by omega)).of_same hk hr) hpre
    (fun t r q hr hq hne _ hp x hx => (hp x hx).other (RoomStep.lateRoom r t) hr hq hne)
    (askedRooms s.chip) s hn hlt (by rw [hlen]; simp; omega) fun q _ => .refl q _
  rw [← ht] at hall
  have hdone (r : Nat) (hr : r < 64) (x : Nat × Nat) (hx : (roomOf s.chip r).asked = some x) : LateDone r x.1 s.chip t :=
    hall r (mem_askedRooms.mpr ⟨hr, by rw [hx]; exact Option.some_ne_none x⟩) x hx
  refine ⟨fun r hr => ?_, hdone⟩
  cases hx : (roomOf s.chip r).asked with
  | some x => exact (hdone r hr x hx).asked
  | none =>
    have hkeep := foldl_rooms_keep (f := fun s r => lateRoom r s) (Pre := fun r t => SameRoom r s.chip t.chip)
      (Post := fun r t => (roomOf t.chip r).asked = none) hpre
      (fun t r q hr hq hne _ hp => ((RoomStep.lateRoom r t).chip.asked q hne).trans hp) hr (askedRooms s.chip) s
      (fun h => (mem_askedRooms.mp h).2 hx) hn hlt (fun q _ => .refl q _) hx
    rwa [← ht] at hkeep

theorem powerStateTimeout_finishes {s : State} {p : Fin 2} {h : Fin 8} {cmd : Cmd} (hc : Current s p h 0x000B cmd) (h0 : argOf cmd 0 ≤ 3)
    (hlen : s.dev.power.refusals = []) : Answers .powerStateTimeout s (fun t =>
      HasAnswer s t cmd.ph 0 [stateMask t.chip (argOf cmd 0) (argOf cmd 1)] [] ∧ t.dev.warden.cur = none ∧
      ∀ r < 64, ∀ x, (roomOf s.chip r).asked = some x → LateDone r x.1 s.chip t) := by
  obtain ⟨t, ht⟩ : ∃ t, t = (askedRooms s.chip).foldl (fun s r => lateRoom r s) s := ⟨_, rfl⟩
  obtain ⟨hcur, hp, -⟩ := foldl_roomStep (f := fun s r => lateRoom r s) (fun t r _ => ⟨16, RoomStep.lateRoom r t⟩) (askedRooms s.chip)
    (fun r hr => (mem_askedRooms.mp hr).1) s
  obtain ⟨hnone, hdone⟩ := powerTimeout_done hlen ht
  rw [← ht] at hcur hp
  have he : exec .powerStateTimeout s = .next (powerDone t) := by rw [ht]; rfl
  obtain ⟨u, hu, ha, hn, hch, hd⟩ := powerDone_finishes (P := fun u => u.chip = t.chip ∧ ∀ r < 64, ∀ x, (roomOf s.chip r).asked = some x →
    LateDone r x.1 s.chip u) hc he hcur (fun ph => hp ph) h0 (fun r hr => hnone r (mem_maskRooms.mp hr).1) fun u hu hpw =>
      ⟨hu, fun r hr x hx => by
        obtain ⟨h1, h2, h3, h4⟩ := hdone r hr x hx
        exact ⟨hu ▸ h1, hu ▸ h2, hu ▸ h3, hpw ▸ h4⟩⟩
  exact ⟨u, hu, hch ▸ ha, hn, hd⟩

/-! ### The command (R506, R547) -/

theorem of_inMask {mask : Nat} {P : Nat → Prop} (h : ∀ r : Fin 64, natBit mask r.val = true → P r.val) : ∀ r ∈ maskRooms mask, P r :=
  fun r hr => h ⟨r, (mem_maskRooms.mp hr).1⟩ (mem_maskRooms.mp hr).2

theorem inMask_of {mask : Nat} {r : Fin 64} (h : natBit mask r.val = true) : r.val ∈ maskRooms mask := mem_maskRooms.mpr ⟨r.isLt, h⟩

theorem Answers.imp {i : Instr} {s : State} {P Q : State → Prop} (h : Answers i s P) (hpq : ∀ t, P t → Q t) : Answers i s Q := by
  obtain ⟨t, ht, hp⟩ := h
  exact ⟨t, ht, hpq t hp⟩

theorem Finishes.imp {i : Instr} {s : State} {c : Cmd} {st : Nat} {res : List Nat} {data : List Byte} {P Q : State → Prop}
    (h : Finishes i s c st res data P) (hpq : ∀ t, P t → Q t) : Finishes i s c st res data Q :=
  Answers.imp h fun t ⟨h1, h2, h3⟩ => ⟨h1, h2, hpq t h3⟩

theorem strandsReset_of {r : Fin 64} {c : Chip} {t : State} (h : IsClosed r c t.chip) (q : Fin 16) :
    StrandsReset t (Fin.ofNat 1024 (16 * r + q)) := fun i => h.cores ⟨Fin.ofNat 1024 (16 * r + q), i⟩ (by
  have : (16 * r.val + q.val) % 1024 = 16 * r.val + q.val := Nat.mod_eq_of_lt (by omega)
  simp only [Fin.val_ofNat, this]
  omega)

/-- POWER_STATE asks for no other state than its argument. -/
theorem powerState_other {i : Instr} {s : State} {p : Fin 2} {h : Fin 8} {cmd : Cmd} {want : Nat} (hc : Current s p h 0x000B cmd)
    (hi : exec i s = .next (perform p h 0x000B s (powerState want))) (h0 : argOf cmd 0 ≠ want) : exec i s = .next s := by
  rw [hi, perform_current hc, powerState, if_pos h0]

theorem powerStateRun_other {s : State} {p : Fin 2} {h : Fin 8} {cmd : Cmd} (hc : Current s p h 0x000B cmd) (h0 : argOf cmd 0 ≠ 0) :
    exec (.powerStateRun p h) s = .next s := by
  have hx : exec (.powerStateRun p h) s = .next (perform p h 0x000B s (fun c s => if argOf c 0 ≠ 0 then s else
    powerDone ((maskRooms (argOf c 1)).foldl runRoom s))) := rfl
  rw [hx, perform_current hc, if_pos h0]

theorem powerStateSleep_other {s : State} {p : Fin 2} {h : Fin 8} {cmd : Cmd} (hc : Current s p h 0x000B cmd) (h0 : argOf cmd 0 ≠ 4) :
    exec (.powerStateSleep p h) s = .next s := by
  have hx : exec (.powerStateSleep p h) s = .next (perform p h 0x000B s sleepEntry) := rfl
  rw [hx, perform_current hc, sleepEntry, if_pos h0]

theorem powerState_asks_words {i : Instr} {s : State} {p : Fin 2} {h : Fin 8} {cmd : Cmd} {want : Nat} (hc : Current s p h 0x000B cmd)
    (h0 : argOf cmd 0 = want) (hi : exec i s = .next (perform p h 0x000B s (powerState want))) (hw : want ≠ 3)
    {r : Fin 64} (hr : natBit (argOf cmd 1) r.val = true) {n : Nat} (hn : n ∈ enabledCores s.chip r) (hb : allIdle s.chip n = false)
    (hp : (coreOf s.chip n).paused = false) : Answers i s (fun t => t.dev.warden.cur = some cmd ∧
      (roomOf t.chip r).asked = some (want, cmd.ph) ∧ natBit (creg (strandOf t.chip (strandId n 0)) 28).toNat 1 = true ∧
      (natBit (getF s.chip (.cls r) 0x010 31 16) (n % 16) = true →
        (rdWords t.chip false (pgnBase + 256 * n + 0x80) 3).map Prod.fst = [0xC000, 1, BitVec.ofNat 16 want])) := by
  obtain ⟨n, rfl⟩ : ∃ m : Fin 1024, m.val = n := ⟨⟨n, enabledCores_lt r.isLt hn⟩, rfl⟩
  have hnr : n.val / 16 = r.val := enabledCores_range hn
  refine Answers.imp (powerState_asks hc h0 hi hw (inMask_of hr) hn hb hp) fun t ⟨h1, h2, h3, h4⟩ => ⟨h1, h2, h3.pend, fun he => h3.message ?_⟩
  rw [hnr, getF_of_rawReg h4, clsB_val]
  exact he

theorem powerStateCommand_holds : PowerStateCommand := by
  intro s p h cmd hc c mask inMask idleRoom all
  refine ⟨fun h0 hb => ?_, fun h0 hi => ?_, fun h0 hi => ?_, fun h0 hi => ?_, fun h0 hi => ?_, fun i want hiw h0 r hr n hn hb hp => ?_,
    fun hl h0 => ?_, powerStateRun_other hc, powerState_other hc rfl, powerState_other hc rfl, powerState_other hc rfl, powerStateSleep_other hc⟩
  · exact Finishes.imp (powerStateRun_finishes hc h0 hb) fun t ht r hr => ht r.val (inMask_of hr)
  · refine Finishes.imp (powerStatePause_finishes hc h0 (of_inMask hi)) fun t ht r hr n hn => ?_
    obtain ⟨⟨-, -, hpz⟩, he⟩ := ht r.val (inMask_of hr)
    exact hpz n (he ▸ hn)
  · exact Finishes.imp (powerStateRecess_finishes hc h0 (of_inMask hi)) fun t ⟨hm, ht⟩ => ⟨hm, fun r hr => ht r.val (inMask_of hr)⟩
  · refine Finishes.imp (powerStateClosed_finishes hc h0 fun r hr => hi r (mem_maskRooms.mp hr).2) fun t ht r hr => ?_
    have hcl := ht r (inMask_of hr)
    exact ⟨hcl.power, hcl.dma, hcl.mark, strandsReset_of hcl⟩
  · refine Finishes.imp (powerStateClosed_refused hc h0 (of_inMask fun r hr => by rw [clsB_val]; exact hi r hr)) fun t ⟨hch, hcnt⟩ =>
      ⟨hch, fun ⟨r, hr⟩ => hcnt (List.ne_nil_of_mem (inMask_of hr))⟩
  · rcases hiw with ⟨rfl, rfl⟩ | ⟨rfl, rfl⟩
    · exact powerState_asks_words hc h0 rfl (by decide) hr hn hb hp
    · exact powerState_asks_words hc h0 rfl (by decide) hr hn hb hp
  · refine Answers.imp (powerStateTimeout_finishes hc h0 hl) fun t ⟨ha, hcur, hd⟩ => ⟨ha, hcur, fun r x hx => ?_⟩
    have hdone := hd r.val r.isLt x hx
    exact ⟨hdone.asked, fun hw => hdone.aborted (hw.imp id (Or.imp id fun ⟨n, hn, h1, h2⟩ => ⟨n, hn, h1, h2⟩)), hdone.paused,
      fun n hn h1 h2 _ => hdone.named n ⟨hn, h1, h2⟩⟩

end Sys2Proof.Machine
end

section
/-! PROOFS. Device sleep and its wake (spec/16 R537, R539, R548, R549, R554). -/

open Sys2Proof Sys2Proof.Machine
namespace Sys2Proof.Machine

/-! ### Blocks that stop at once (R47, R48) -/

/-- What a block that stops leaves of the package: the settings, what gives the blocks their clocks, their hangs, the requests
at the DRAM. -/
structure StopFrame (c d : Chip) : Prop where
  settings : ∀ b, rawReg d b 0x010 = rawReg c b 0x010
  stack : ∀ j, (stackOf d j).pll = (stackOf c j).pll ∧ (stackOf d j).dram = (stackOf c j).dram ∧
    (stackOf d j).powered = (stackOf c j).powered
  room : ∀ r, (roomOf d r).power = (roomOf c r).power
  plls : d.plls = c.plls
  hung : d.hung = c.hung

namespace StopFrame
variable {c d e : Chip}

theorem refl (c : Chip) : StopFrame c c := ⟨fun _ => rfl, fun _ => ⟨rfl, rfl, rfl⟩, fun _ => rfl, rfl, rfl⟩

theorem trans (h : StopFrame c d) (k : StopFrame d e) : StopFrame c e where
  settings b := (k.settings b).trans (h.settings b)
  stack j := by
    obtain ⟨h1, h2, h3⟩ := h.stack j
    obtain ⟨k1, k2, k3⟩ := k.stack j
    exact ⟨k1.trans h1, k2.trans h2, k3.trans h3⟩
  room r := (k.room r).trans (h.room r)
  plls := k.plls.trans h.plls
  hung := k.hung.trans h.hung

theorem setF (h : StopFrame c d) (b : BlockId) {n : Nat} (hn : n ≠ 0x010) (hi lo v : Nat) : StopFrame c (setF d b n hi lo v) :=
  h.trans ⟨fun _ => rawReg_setF_ne _ _ _ _ (.inr hn.symm), fun _ => ⟨rfl, rfl, rfl⟩, fun _ => rfl, rfl, rfl⟩

theorem settle (h : StopFrame c d) (b : BlockId) : StopFrame c (settle b d) :=
  h.trans ⟨fun _ => rawReg_settle_ne d (.inr (by decide)), fun j => by rw [stackOf, settle_stk, stackOf]; exact ⟨rfl, rfl, rfl⟩,
    fun r => by rw [roomOf_of_rooms (settle_rooms b d)], settle_plls b d, settle_hung b d⟩

theorem drainLoss (h : StopFrame c d) (b : BlockId) : StopFrame c (drainLoss b d) := by
  cases b with
  | dma r =>
    refine h.trans ⟨fun _ => rfl, fun _ => ⟨rfl, rfl, rfl⟩, fun q => ?_, rfl, rfl⟩
    rw [Machine.drainLoss, modDma, roomOf_modRoom]
    split
    · next hq => rw [hq]
    · rfl
  | pmp k =>
    have hp := PumpSigns.pumpAbandon k.val d
    exact h.trans ⟨fun b => hp.regs b _ (by decide) (by decide) (by decide), hp.stack, hp.room, hp.plls, hp.hung⟩
  | _ => exact h

theorem hasClock_eq (h : StopFrame c d) (b : BlockId) : hasClock d b = hasClock c b := by
  cases b <;> simp only [hasClock, roomClocked, pllLocked, h.room, h.plls, h.stack]

end StopFrame

/-- A block STOPPED, or ready to stop at once (R48). -/
def StopsAtOnce (c : Chip) (b : BlockId) : Prop := bState c b = 0 ∨ (bState c b = 2 ∧ blockDry c b = true ∧ Stoppable c b)

theorem rawReg_drainLoss_state (b b' : BlockId) (c : Chip) : rawReg (drainLoss b c) b' 0x002 = rawReg c b' 0x002 := by
  cases b with
  | pmp k => exact (PumpSigns.pumpAbandon k.val c).regs b' _ (by decide) (by decide) (by decide)
  | _ => rfl

/-- A block that drains: what it leaves alone. -/
theorem blockDrained_frame (b : BlockId) (c : Chip) : StopFrame c (blockDrained b c) ∧
    ∀ b', b' ≠ b → rawReg (blockDrained b c) b' 0x002 = rawReg c b' 0x002 := by
  by_cases hw : bState c b ≠ 3 ∨ blockDry c b = false ∨ hasClock c b = false ∨ tget (fun _ => false) c.hung (blockKey b) = true
  · rw [blockDrained_waits hw]; exact ⟨.refl c, fun _ _ => rfl⟩
  · have key (x : Chip) (hx : x = setState (drainLoss b c) b 0 ∨ x = setF (setState (drainLoss b c) b 0) b 0x002 9 9 1) :
        StopFrame c (settle b x) ∧ ∀ b', b' ≠ b → rawReg (settle b x) b' 0x002 = rawReg c b' 0x002 := by
      have h0 : StopFrame c (setState (drainLoss b c) b 0) := ((StopFrame.refl c).drainLoss b).setF b (by decide) _ _ _
      have h1 (b' : BlockId) (hb : b' ≠ b) : rawReg (setState (drainLoss b c) b 0) b' 0x002 = rawReg c b' 0x002 :=
        (rawReg_setF_ne _ _ _ _ (.inl hb)).trans (rawReg_drainLoss_state b b' c)
      rcases hx with rfl | rfl
      · exact ⟨h0.settle b, fun b' hb => (rawReg_settle_ne _ (.inl hb)).trans (h1 b' hb)⟩
      · exact ⟨(h0.setF b (by decide) _ _ _).settle b,
          fun b' hb => (rawReg_settle_ne _ (.inl hb)).trans ((rawReg_setF_ne _ _ _ _ (.inl hb)).trans (h1 b' hb))⟩
    simp only [blockDrained, if_neg hw]
    exact key _ (ite_eq_or_eq _ _ _).symm

/-- A block told to stop that stops at once: STOPPED, the others as they were. -/
theorem stopNow_stops {b : BlockId} {c : Chip} (h : StopsAtOnce c b) : bState (stopNow b c) b = 0 ∧ StopFrame c (stopNow b c) ∧
    ∀ b', b' ≠ b → rawReg (stopNow b c) b' 0x002 = rawReg c b' 0x002 := by
  have hs : bState (setRun1 b false c) b = 0 ∨ bState (setRun1 b false c) b = 3 ∧ blockDry c b = true ∧ Stoppable c b := by
    rw [bState_setRun1]
    rcases h with h | ⟨h, hd, hk⟩
    · exact .inl (by simp [h])
    · exact .inr ⟨by simp [h, hk.1], hd, hk⟩
  have hf : StopFrame c (setRun1 b false c) := by
    rw [setRun1_eq]
    exact ((StopFrame.refl c).setF b (by decide) _ _ _).settle b
  have hr (b' : BlockId) (hb : b' ≠ b) : rawReg (setRun1 b false c) b' 0x002 = rawReg c b' 0x002 := by
    rw [setRun1_eq, rawReg_settle_ne _ (.inl hb), rawReg_setF_ne _ _ _ _ (.inl hb)]
  have ha : agreementCheck b (setRun1 b false c) = setRun1 b false c := agreementCheck_waits (.inl (by rcases hs with h | ⟨h, -⟩ <;> simp [h]))
  have hb := blockDrained_frame b (setRun1 b false c)
  rw [stopNow, ha]
  refine ⟨?_, hf.trans hb.1, fun b' hne => (hb.2 b' hne).trans (hr b' hne)⟩
  rcases hs with h0 | ⟨h3, hd, hk, hh⟩
  · rw [blockDrained_waits (.inl (by simp [h0])), h0]
  · have hdry : blockDry (setRun1 b false c) b = true := by
      obtain ⟨rs, st, he⟩ := settle_eq b (setF c b 0x000 0 0 (if false then 1 else 0))
      rw [setRun1_eq, he, ← hd]
      cases b <;> rfl
    rw [bState_blockDrained h3 hdry ((hf.hasClock_eq b).trans hk) (by rw [hf.hung]; exact hh), bRun_setRun1]
    rfl

/-- A block that is neither a classroom nor a DMA engine. -/
def OffRooms : BlockId → Prop
  | .cls _ | .dma _ => False
  | _ => True

theorem StopsAtOnce.other {b : BlockId} {c d : Chip} (h : StopsAtOnce c b) (ho : OffRooms b) (hf : StopFrame c d)
    (hr : rawReg d b 0x002 = rawReg c b 0x002) : StopsAtOnce d b := by
  have hs : bState d b = bState c b := getF_of_rawReg hr 1 0
  have hd : blockDry d b = blockDry c b := by
    cases b with
    | cls _ => exact ho.elim
    | dma _ => exact ho.elim
    | hmc k => simp only [blockDry, (hf.stack _).2.1]
    | _ => rfl
  unfold StopsAtOnce Stoppable
  rw [hs, hd, hf.hasClock_eq, hf.hung]
  exact h

/-- Blocks that stop at once, told to stop one after the other. -/
theorem stopAll_stops : ∀ (l : List BlockId) (c : Chip), l.Nodup → (∀ b ∈ l, OffRooms b) → (∀ b ∈ l, StopsAtOnce c b) →
    StopFrame c (stopAll l c) ∧ (∀ b ∈ l, bState (stopAll l c) b = 0) ∧ ∀ b ∉ l, rawReg (stopAll l c) b 0x002 = rawReg c b 0x002
  | [], c, _, _, _ => ⟨.refl c, fun _ h => absurd h List.not_mem_nil, fun _ _ => rfl⟩
  | b :: l, c, hn, ho, hs => by
    obtain ⟨hb, hl⟩ := List.nodup_cons.mp hn
    obtain ⟨-, hol⟩ := List.forall_mem_cons.mp ho
    obtain ⟨hsb, hsl⟩ := List.forall_mem_cons.mp hs
    obtain ⟨h0, hf, hr⟩ := stopNow_stops hsb
    have hne : ∀ x ∈ l, x ≠ b := fun x hx h => hb (h ▸ hx)
    obtain ⟨h1, h2, h3⟩ := stopAll_stops l (stopNow b c) hl hol fun x hx => (hsl x hx).other (hol x hx) hf (hr x (hne x hx))
    have he : stopAll (b :: l) c = stopAll l (stopNow b c) := rfl
    rw [he]
    refine ⟨hf.trans h1, List.forall_mem_cons.mpr ⟨?_, h2⟩, fun x hx => ?_⟩
    · rw [bState, getF_of_rawReg (h3 b hb)]; exact h0
    · obtain ⟨hxb, hxl⟩ := not_or.mp (List.mem_cons.not.mp hx)
      exact (h3 x hxl).trans (hr x hxb)

theorem sleepBlocks_nodup : sleepBlocks.Nodup := by decide

theorem sleepBlocks_off : ∀ b ∈ sleepBlocks, OffRooms b := by
  have h : sleepBlocks.all (fun b => match b with | .cls _ | .dma _ => false | _ => true) = true := by decide
  intro b hb
  have := List.all_eq_true.mp h b hb
  cases b <;> simp_all [OffRooms]

/-- A change of registers that leaves memory and stacks alone. -/
def KeepsStacks (c d : Chip) : Prop := d.mem = c.mem ∧ d.stk = c.stk

theorem KeepsStacks.settle {c d : Chip} (h : KeepsStacks c d) (b : BlockId) : KeepsStacks c (settle b d) := by
  unfold KeepsStacks
  rw [settle_mem, settle_stk]
  exact h

theorem KeepsStacks.refl (c : Chip) : KeepsStacks c c := ⟨rfl, rfl⟩

theorem KeepsStacks.setF {c d : Chip} (h : KeepsStacks c d) (b : BlockId) (n hi lo v : Nat) : KeepsStacks c (setF d b n hi lo v) :=
  ⟨(setF_mem _ _ _ _ _ _).trans h.1, (setF_stk _ _ _ _ _ _).trans h.2⟩

theorem KeepsStacks.setRaw {c d : Chip} (h : KeepsStacks c d) (b : BlockId) (n : Nat) (v : W32) : KeepsStacks c (setRaw d b n v) :=
  ⟨(setRaw_mem _ _ _ _).trans h.1, (setRaw_stk _ _ _ _).trans h.2⟩

theorem KeepsStacks.ite {c d e : Chip} {p : Prop} [Decidable p] (h : KeepsStacks c d) (k : KeepsStacks c e) :
    KeepsStacks c (if p then d else e) := by
  split
  · exact h
  · exact k

theorem agreementCheck_stacks (b : BlockId) (c : Chip) : KeepsStacks c (agreementCheck b c) := by
  have hd : KeepsStacks c (disagreement c b).2 := by
    cases b with
    | syl k =>
      simp only [disagreement]
      split
      · exact (KeepsStacks.refl c).setF _ _ _ _ _
      · exact .refl c
    | _ => exact .refl c
  simp only [agreementCheck, setState]
  split
  · exact .refl c
  · split
    · exact (((hd.setF _ _ _ _ _).setF _ _ _ _ _).setF _ _ _ _ _).setRaw _ _ _
    · exact ((KeepsStacks.refl c).setF _ _ _ _ _).settle b

theorem pumpAbandon_idle {c : Chip} {k : Nat} (h : (stackOf c k).pump.pass = 0) : pumpAbandon k c = c := if_pos h

theorem drainLoss_stacks {c : Chip} (hp : ∀ k < 8, (stackOf c k).pump.pass = 0) (b : BlockId) : KeepsStacks c (drainLoss b c) := by
  cases b with
  | pmp k => rw [drainLoss, pumpAbandon_idle (hp k.val k.isLt)]; exact ⟨rfl, rfl⟩
  | _ => exact ⟨rfl, rfl⟩

/-- With no pass under way a stop writes no memory. -/
theorem stopNow_stacks {b : BlockId} {c : Chip} (hp : ∀ k < 8, (stackOf c k).pump.pass = 0) : KeepsStacks c (stopNow b c) := by
  have h1 : KeepsStacks c (agreementCheck b (setRun1 b false c)) := by
    obtain ⟨hm, hk⟩ := agreementCheck_stacks b (setRun1 b false c)
    rw [setRun1_eq, settle_mem] at hm
    rw [setRun1_eq, settle_stk] at hk
    rw [setRun1_eq]
    exact ⟨hm, hk⟩
  generalize hd : agreementCheck b (setRun1 b false c) = d at h1
  have hp' : ∀ k < 8, (stackOf d k).pump.pass = 0 := fun k hk => by rw [stackOf, h1.2]; exact hp k hk
  have hl : KeepsStacks d (drainLoss b d) := drainLoss_stacks hp' b
  have h2 : KeepsStacks c (drainLoss b d) := ⟨hl.1.trans h1.1, hl.2.trans h1.2⟩
  rw [stopNow, hd]
  simp only [blockDrained, setState]
  split
  · exact h1
  · refine KeepsStacks.settle ?_ b
    have h3 := h2.setF b 0x002 1 0 0
    exact .ite (h3.setF _ _ _ _ _) h3

theorem stopAll_stacks (l : List BlockId) (c : Chip) (hp : ∀ k < 8, (stackOf c k).pump.pass = 0) : KeepsStacks c (stopAll l c) :=
  foldl_keeps (P := KeepsStacks c) (fun d b h => by
    have hk := stopNow_stacks (b := b) (c := d) fun k hk => by rw [stackOf, h.2]; exact hp k hk
    exact ⟨hk.1.trans h.1, hk.2.trans h.2⟩) l c ⟨rfl, rfl⟩

/-! ### The polders go down (R539, R548) -/

theorem meshOff_eq {d : Nat} {c : Chip} (h : bState c (meshB d) = 0) : ∃ e : Chip, (e = c ∨ e = setF c (meshB d) 0x010 0 0 1) ∧
    meshOff d c = { e with meshOn := tput (fun _ => false) c.meshOn d false, plls := tput (fun _ => false) c.plls d false } := by
  have h0 : stopHard (meshB d) c = c := if_pos h
  simp only [meshOff, h0]
  split
  · exact ⟨_, .inr rfl, rfl⟩
  · exact ⟨_, .inl rfl, rfl⟩

/-- The classrooms that have a clock go into recess. -/
theorem roomOf_foldl_recessNow (q : Nat) : ∀ (l : List Nat) (c : Chip),
    (q ∈ l ∨ (roomOf c q).power = .recess → (roomOf (l.foldl (fun ch r => recessNow r ch) c) q).power = .recess)
  | [], c, h => h.resolve_left List.not_mem_nil
  | r :: l, c, h => by
    refine roomOf_foldl_recessNow q l _ ?_
    rw [roomOf_recessNow]
    by_cases hq : q = r
    · exact .inr (by rw [if_pos hq])
    · rw [if_neg hq]
      exact h.imp (fun hm => (List.mem_cons.mp hm).resolve_left hq) id

/-- A fold of an operation that takes the package last leaves alone what the operation does. -/
theorem foldl_reads_flip {α β γ : Type} (p : α → γ) {g : β → α → α} (hg : ∀ b a, p (g b a) = p a) (l : List β) (a : α) :
    p (l.foldl (fun a b => g b a) a) = p a := foldl_reads p (f := fun a b => g b a) (fun a b => hg b a) l a

theorem recessRooms_frame (l : List Nat) (c : Chip) : (l.foldl (fun ch r => recessNow r ch) c).mem = c.mem ∧
    (l.foldl (fun ch r => recessNow r ch) c).stk = c.stk ∧ (l.foldl (fun ch r => recessNow r ch) c).portOff = c.portOff ∧
    ∀ b, OffRooms b → ∀ n, rawReg (l.foldl (fun ch r => recessNow r ch) c) b n = rawReg c b n := by
  refine ⟨foldl_reads_flip Chip.mem (fun r d => (recessNow_frame r d).1) l c,
    foldl_reads_flip Chip.stk (fun r d => (recessNow_frame r d).2.2.1) l c,
    foldl_reads_flip Chip.portOff (fun r d => (recessNow_frame r d).2.2.2.2.2.1) l c, fun b hb n => ?_⟩
  refine foldl_reads (f := fun ch r => recessNow r ch) (fun d => rawReg d b n) (fun d r => rawReg_recessNow_ne d (.inl ⟨?_, ?_⟩)) l c
  · rintro rfl; exact hb
  · rintro rfl; exact hb

/-- What the polders that go down leave alone: memory, classrooms, the states of the blocks and the settings of the ports. -/
structure DownFrame (c d : Chip) : Prop where
  mem : d.mem = c.mem
  rooms : d.rooms = c.rooms
  state : ∀ b, rawReg d b 0x002 = rawReg c b 0x002
  port : ∀ n, rawReg d (.eth n) 0x010 = rawReg c (.eth n) 0x010

namespace DownFrame
variable {c d e : Chip}

theorem refl (c : Chip) : DownFrame c c := ⟨rfl, rfl, fun _ => rfl, fun _ => rfl⟩

theorem trans (h : DownFrame c d) (k : DownFrame d e) : DownFrame c e :=
  ⟨k.mem.trans h.mem, k.rooms.trans h.rooms, fun b => (k.state b).trans (h.state b), fun n => (k.port n).trans (h.port n)⟩

theorem setF (h : DownFrame c d) (b : BlockId) {n : Nat} (hn : n ≠ 0x002) (hp : (∀ m, b ≠ .eth m) ∨ n ≠ 0x010) (hi lo v : Nat) :
    DownFrame c (setF d b n hi lo v) :=
  h.trans ⟨rfl, rfl, fun _ => rawReg_setF_ne _ _ _ _ (.inr hn.symm),
    fun m => rawReg_setF_ne _ _ _ _ (hp.imp (fun hb => (hb m).symm) Ne.symm)⟩

end DownFrame

/-- The mesh polders that have gone down. -/
theorem meshesGoOff : ∀ (l : List Nat) (c : Chip), (∀ d ∈ l, bState c (meshB d) = 0) →
    DownFrame c (l.foldl (fun c d => meshOff d c) c) ∧ (l.foldl (fun c d => meshOff d c) c).stk = c.stk ∧
      (l.foldl (fun c d => meshOff d c) c).portOff = c.portOff ∧
      ∀ d, tget (fun _ => false) (l.foldl (fun c d => meshOff d c) c).meshOn d = if d ∈ l then false else tget (fun _ => false) c.meshOn d
  | [], c, _ => ⟨.refl c, rfl, rfl, fun _ => rfl⟩
  | d :: l, c, h => by
    obtain ⟨hd, hl⟩ := List.forall_mem_cons.mp h
    obtain ⟨e, he, hm⟩ := meshOff_eq hd
    have hf : DownFrame c e ∧ e.stk = c.stk ∧ e.portOff = c.portOff := by
      rcases he with rfl | rfl
      · exact ⟨.refl _, rfl, rfl⟩
      · exact ⟨(DownFrame.refl c).setF _ (by decide) (.inl (by simp [meshB])) _ _ _, rfl, rfl⟩
    have hf' : DownFrame c (meshOff d c) := by rw [hm]; exact ⟨hf.1.mem, hf.1.rooms, hf.1.state, hf.1.port⟩
    have hon : (meshOff d c).meshOn = tput (fun _ => false) c.meshOn d false := by rw [hm]
    obtain ⟨h1, h2, h3, h4⟩ := meshesGoOff l (meshOff d c) fun x hx => (getF_of_rawReg (hf'.state _) 1 0).trans (hl x hx)
    rw [List.foldl_cons]
    refine ⟨hf'.trans h1, h2.trans (by rw [hm]; exact hf.2.1), h3.trans (by rw [hm]; exact hf.2.2), fun x => ?_⟩
    rw [h4, hon, tget_tput]
    by_cases hx : x = d
    · simp [hx]
    · simp [hx]

/-- A port polder without power. -/
def portUnpowered (n : Nat) (c : Chip) : Chip :=
  { c with portOff := tput (fun _ => false) c.portOff n true, plls := tput (fun _ => false) c.plls (8 + n) false }

theorem portDown_eq (n : Nat) (c : Chip) : portDown n c = if tget (fun _ => false) c.portOff n then c
    else portUnpowered n (setF (setF c (ethB n) 0x022 0 0 1) (ethB n) 0x01A 31 31 0) := rfl

theorem portUnpowered_frame (n : Nat) (c : Chip) : DownFrame c (portUnpowered n c) ∧ (portUnpowered n c).stk = c.stk ∧
    (portUnpowered n c).meshOn = c.meshOn ∧
    ∀ m, tget (fun _ => false) (portUnpowered n c).portOff m = if m = n then true else tget (fun _ => false) c.portOff m :=
  ⟨⟨rfl, rfl, fun _ => rfl, fun _ => rfl⟩, rfl, rfl, fun m => by simp only [portUnpowered, tget_tput]⟩

theorem portDown_frame (n : Nat) (c : Chip) : DownFrame c (portDown n c) ∧ (portDown n c).stk = c.stk ∧
    (portDown n c).meshOn = c.meshOn ∧
    ∀ m, tget (fun _ => false) (portDown n c).portOff m = if m = n then true else tget (fun _ => false) c.portOff m := by
  rw [portDown_eq]
  split
  next h =>
    refine ⟨.refl c, rfl, rfl, fun m => ?_⟩
    split
    · next hm => rw [hm, h]
    · rfl
  next =>
    obtain ⟨h1, h2, h3, h4⟩ := portUnpowered_frame n (setF (setF c (ethB n) 0x022 0 0 1) (ethB n) 0x01A 31 31 0)
    have hs : DownFrame c (setF (setF c (ethB n) 0x022 0 0 1) (ethB n) 0x01A 31 31 0) :=
      ((DownFrame.refl c).setF _ (by decide) (.inr (by decide)) _ _ _).setF _ (by decide) (.inr (by decide)) _ _ _
    exact ⟨hs.trans h1, by rw [h2, setF_stk, setF_stk], by rw [h3, setF_meshOn, setF_meshOn], fun m => by rw [h4, setF_portOff, setF_portOff]⟩

/-- The ports that have gone down. -/
theorem portsGoDown : ∀ (l : List Nat) (c : Chip),
    DownFrame c (l.foldl (fun c n => portDown n c) c) ∧ (l.foldl (fun c n => portDown n c) c).stk = c.stk ∧
      (l.foldl (fun c n => portDown n c) c).meshOn = c.meshOn ∧
      ∀ m, tget (fun _ => false) (l.foldl (fun c n => portDown n c) c).portOff m = if m ∈ l then true else tget (fun _ => false) c.portOff m
  | [], c => ⟨.refl c, rfl, rfl, fun _ => rfl⟩
  | n :: l, c => by
    obtain ⟨h1, h2, h3, h4⟩ := portsGoDown l (portDown n c)
    obtain ⟨k1, k2, k3, k4⟩ := portDown_frame n c
    rw [List.foldl_cons]
    refine ⟨k1.trans h1, h2.trans k2, h3.trans k3, fun m => ?_⟩
    rw [h4, k4]
    by_cases hm : m = n
    · simp [hm]
    · simp [hm]

/-- A stack that has power refreshes itself. -/
def restStack (x : Stack) : Stack := if x.powered then { x with selfRefresh := true, pll := false } else x

theorem stackOf_foldl (f : Stack → Stack) (k : Nat) : ∀ (l : List Nat) (c : Chip), l.Nodup →
    stackOf (l.foldl (fun c k => modStack c k f) c) k = if k ∈ l then f (stackOf c k) else stackOf c k
  | [], _, _ => rfl
  | n :: l, c, h => by
    obtain ⟨hn, hl⟩ := List.nodup_cons.mp h
    rw [List.foldl_cons, stackOf_foldl f k l _ hl, stackOf_modStack]
    by_cases hk : k = n
    · subst hk; simp [hn]
    · simp [hk]

theorem foldl_modStack_frame (f : Stack → Stack) (l : List Nat) (c : Chip) :
    DownFrame c (l.foldl (fun c k => modStack c k f) c) ∧ (l.foldl (fun c k => modStack c k f) c).meshOn = c.meshOn ∧
      (l.foldl (fun c k => modStack c k f) c).portOff = c.portOff :=
  foldl_keeps (f := fun c k => modStack c k f) (P := fun d => DownFrame c d ∧ d.meshOn = c.meshOn ∧ d.portOff = c.portOff)
    (fun _ _ ⟨h1, h2, h3⟩ => ⟨h1.trans ⟨rfl, rfl, fun _ => rfl, fun _ => rfl⟩, h2, h3⟩) l c ⟨.refl c, rfl, rfl⟩

/-- The polders down, from STOPPED meshes. -/
theorem powerDown_holds {c : Chip} (h : ∀ d < 4, bState c (meshB d) = 0) : DownFrame c (powerDown c) ∧
    (∀ d < 4, tget (fun _ => false) (powerDown c).meshOn d = false) ∧
    (∀ n : Fin 16, getF c (.eth n) 0x010 8 8 = 0 → tget (fun _ => false) (powerDown c).portOff n = true) ∧
    ∀ k < 8, (stackOf c k).powered = true → (stackOf (powerDown c) k).selfRefresh = true := by
  obtain ⟨m, hm⟩ : ∃ m, m = (List.range 4).foldl (fun c d => meshOff d c) c := ⟨_, rfl⟩
  obtain ⟨p, hp⟩ : ∃ p, p = ((List.range 16).filter (fun n => !wakeEn m n)).foldl (fun c n => portDown n c) m := ⟨_, rfl⟩
  have he : powerDown c = (List.range 8).foldl (fun c k => modStack c k restStack) p := by rw [hp, hm]; rfl
  obtain ⟨h1, h2, h3, h4⟩ := meshesGoOff (List.range 4) c fun d hd => h d (List.mem_range.mp hd)
  obtain ⟨k1, k2, k3, k4⟩ := portsGoDown ((List.range 16).filter (fun n => !wakeEn m n)) m
  rw [← hm] at h1 h2 h3 h4
  rw [← hp] at k1 k2 k3 k4
  obtain ⟨f1, f2, f3⟩ := foldl_modStack_frame restStack (List.range 8) p
  rw [he]
  refine ⟨(h1.trans k1).trans f1, fun d hd => ?_, fun n hn => ?_, fun k hk hpw => ?_⟩
  · rw [f2, k3, h4, if_pos (List.mem_range.mpr hd)]
  · rw [f3, k4, if_pos]
    have hw : wakeEn m n.val = false := by
      have hb : ethB n.val = .eth n := by simp [ethB]
      rw [wakeEn, hb, getF_of_rawReg (h1.port n), hn]; rfl
    exact List.mem_filter.mpr ⟨List.mem_range.mpr n.isLt, by rw [hw]; rfl⟩
  · have hs : stackOf p k = stackOf c k := by rw [stackOf, k2, h2, stackOf]
    rw [stackOf_foldl restStack k _ _ List.nodup_range, if_pos (List.mem_range.mpr hk), hs, restStack, if_pos hpw]

/-! ### The entry (R548) -/

theorem ethOf_foldl (f : EthPort → EthPort) (n : Nat) : ∀ (l : List Nat) (s : State), l.Nodup →
    ethOf (l.foldl (fun s n => modEth n f s) s) n = if n ∈ l then f (ethOf s n) else ethOf s n
  | [], _, _ => rfl
  | m :: l, s, h => by
    obtain ⟨hm, hl⟩ := List.nodup_cons.mp h
    rw [List.foldl_cons, ethOf_foldl f n l _ hl]
    by_cases hn : n = m
    · subst hn; simp [hm]
    · rw [ethOf_modEth_ne f s hn]; simp [hn]

/-- An answer leaves the ports of the network alone. -/
theorem answer_eth (ph : Nat) (long : Bool) (r : Reply) (s : State) : (answer ph long r s).dev.eth = s.dev.eth := by
  simp only [answer]
  split
  · simp [modPigeon]
  · split <;> simp [modPigeon, Machine.sendVector]

/-- The blocks that device sleep stops and a wake starts again. -/
def toRestart (s : State) : List BlockId :=
  sleepBlocks.filter (fun b => (bState s.chip b != 0 && bRun s.chip b) || s.dev.warden.lateStart.contains b)

/-- They are noted, unless an earlier call has. -/
def noteRestart (s : State) : State :=
  modWarden (fun w => { w with restart := if w.restart.isEmpty then toRestart s else w.restart, lateStart := [] }) s

/-- The package asleep: every classroom that had its clock in recess, the polders down. -/
def asleep (c : Chip) : Chip := powerDown (((List.range 64).filter (roomClocked c)).foldl (fun ch r => recessNow r ch) c)

/-- The ports whose polders are down lose their state. -/
def portsLost (s : State) : State :=
  ((List.range 16).filter (fun n => tget (fun _ => false) s.chip.portOff n)).foldl (fun s n => modEth n portLost s) s

/-- The entry completed and answered. -/
def sleepDone (cmd : Cmd) (s : State) : State :=
  modWarden (fun w => { w with before := w.dstate, dstate := 6, rested := (List.range 64).filter (roomClocked s.chip) })
    (finish cmd (ok [] []) (portsLost (modChip asleep s)))

/-- A change of the package that does the same to this one. -/
theorem modChip_congr {f g : Chip → Chip} {t : State} (h : f t.chip = g t.chip) : modChip f t = modChip g t := by rw [modChip, modChip, h]

theorem sleepEntry_eq (cmd : Cmd) (s : State) : sleepEntry cmd s =
    if argOf cmd 0 ≠ 4 then s
    else if s.dev.warden.long.isSome then finish cmd (sayStatus stState) (countRefusal 0x0501 4 0 s)
    else if !allStopped sleepBlocks (modChip (stopAll sleepBlocks) (noteRestart s)).chip then modChip (stopAll sleepBlocks) (noteRestart s)
    else sleepDone cmd (modChip (stopAll sleepBlocks) (noteRestart s)) := by
  have h1 : modWarden (fun w => { w with
      restart := if w.restart.isEmpty then
        sleepBlocks.filter (fun b => (bState s.chip b != 0 && bRun s.chip b) || s.dev.warden.lateStart.contains b) else w.restart
      lateStart := [] }) s = noteRestart s := rfl
  have h2 (t : State) : modChip (fun ch => powerDown (((List.range 64).filter (roomClocked t.chip)).foldl (fun ch r => recessNow r ch) ch)) t =
    modChip asleep t := modChip_congr rfl
  simp only [sleepEntry, h1, h2]
  rfl

theorem portsLost_frame (s : State) : (portsLost s).chip = s.chip ∧ (portsLost s).dev.warden = s.dev.warden ∧
    (∀ ph, pigeonOf (portsLost s) ph = pigeonOf s ph) := by
  refine ⟨foldl_reads (f := fun s n => modEth n portLost s) State.chip (fun _ _ => rfl) _ s, foldl_reads (f := fun s n => modEth n portLost s) (fun s : State => s.dev.warden) (fun _ _ => rfl) _ s, fun ph => ?_⟩
  exact foldl_reads (f := fun s n => modEth n portLost s) (fun s => pigeonOf s ph) (fun _ _ => rfl) _ s

/-- What completing the entry changes of the device. -/
theorem sleepDone_holds {s u : State} {cmd : Cmd} (hd : (pigeonOf s cmd.ph).drop = false) (hp : pigeonOf u cmd.ph = pigeonOf s cmd.ph) :
    HasAnswer s (sleepDone cmd u) cmd.ph 0 [] [] ∧ (sleepDone cmd u).dev.warden.cur = none ∧ (sleepDone cmd u).chip = asleep u.chip ∧
      dstate (sleepDone cmd u) = 6 ∧ (sleepDone cmd u).dev.warden.before = u.dev.warden.dstate ∧
      (sleepDone cmd u).dev.warden.rested = (List.range 64).filter (roomClocked u.chip) ∧
      ∀ n : Nat, n < 16 → tget (fun _ => false) (asleep u.chip).portOff n = true → ethOf (sleepDone cmd u) n = portLost (ethOf u n) := by
  obtain ⟨x, hx⟩ : ∃ x, x = modChip asleep u := ⟨_, rfl⟩
  obtain ⟨p1, p2, p3⟩ := portsLost_frame x
  have hxp : pigeonOf x cmd.ph = pigeonOf s cmd.ph := by rw [hx]; exact hp
  obtain ⟨f1, f2, f3, -⟩ := finish_answers (c := cmd) (r := ok [] []) (s := s) (t := portsLost x) hd ((p3 _).trans hxp) (by decide)
  have hw : (finish cmd (ok [] []) (portsLost x)).dev.warden = { u.dev.warden with cur := none } := by
    rw [finish, (answer_frame _ _ _ _).2.2.1, modWarden_warden, p2, hx]; rfl
  have he (n : Nat) : ethOf (finish cmd (ok [] []) (portsLost x)) n = ethOf (portsLost x) n := by
    rw [ethOf, finish, answer_eth]; rfl
  have hch : (finish cmd (ok [] []) (portsLost x)).chip = asleep u.chip := by rw [f3, p1, hx]; rfl
  rw [sleepDone, ← hx]
  refine ⟨f1, f2, hch, rfl, ?_, rfl, fun n hn ho => ?_⟩
  · rw [modWarden_warden, hw]
  · refine (he n).trans ?_
    rw [portsLost, ethOf_foldl portLost n _ _ (List.nodup_range.filter _), if_pos, hx]
    · rfl
    · exact List.mem_filter.mpr ⟨List.mem_range.mpr hn, by rw [hx]; exact ho⟩

/-- What device sleep leaves of a package whose blocks have stopped. -/
theorem asleep_holds {c : Chip} (h : ∀ b ∈ sleepBlocks, bState c b = 0) : (∀ b ∈ sleepBlocks, bState (asleep c) b = 0) ∧
    (asleep c).mem = c.mem ∧ (∀ r < 64, roomClocked c r = true → (roomOf (asleep c) r).power = .recess) ∧
    (∀ d < 4, tget (fun _ => false) (asleep c).meshOn d = false) ∧
    (∀ n : Fin 16, getF c (.eth n) 0x010 8 8 = 0 → tget (fun _ => false) (asleep c).portOff n = true) ∧
    ∀ k < 8, (stackOf c k).powered = true → (stackOf (asleep c) k).selfRefresh = true := by
  obtain ⟨hmem, hstk, -, hregs⟩ := recessRooms_frame ((List.range 64).filter (roomClocked c)) c
  obtain ⟨e, he⟩ : ∃ e, e = ((List.range 64).filter (roomClocked c)).foldl (fun ch r => recessNow r ch) c := ⟨_, rfl⟩
  have hroom (r : Nat) (hr : r < 64) (hk : roomClocked c r = true) : (roomOf e r).power = .recess :=
    he ▸ roomOf_foldl_recessNow r _ c (.inl (List.mem_filter.mpr ⟨List.mem_range.mpr hr, hk⟩))
  rw [← he] at hmem hstk hregs
  have hx : asleep c = powerDown e := by rw [he]; rfl
  have hst (b : BlockId) (hb : b ∈ sleepBlocks) : bState e b = 0 :=
    (getF_of_rawReg (hregs b (sleepBlocks_off b hb) 0x002) 1 0).trans (h b hb)
  obtain ⟨hf, h2, h3, h4⟩ := powerDown_holds (c := e) fun d hd => hst _ (by
    refine List.mem_append_right _ (List.mem_map.mpr ⟨d, List.mem_range.mpr hd, rfl⟩))
  rw [hx]
  refine ⟨fun b hb => (getF_of_rawReg (hf.state b) 1 0).trans (hst b hb), hf.mem.trans hmem, fun r hr hk => ?_, h2, fun n hn => h3 n ?_,
    fun k hk hp => h4 k hk ?_⟩
  · rw [roomOf_of_rooms hf.rooms]; exact hroom r hr hk
  · rw [getF_of_rawReg (hregs (.eth n) trivial 0x010)]; exact hn
  · rw [stackOf, hstk]; exact hp

theorem powerStateSleep_enters {s : State} {p : Fin 2} {h : Fin 8} {cmd : Cmd} (hc : Current s p h 0x000B cmd) (h4 : argOf cmd 0 = 4)
    (hl : s.dev.warden.long = none) (hs : ∀ b ∈ sleepBlocks, StopsAtOnce s.chip b) :
    Finishes (.powerStateSleep p h) s cmd 0 [] [] (fun t => dstate t = 6 ∧ t.dev.warden.before = dstate s ∧
      (∀ b ∈ sleepBlocks, bState t.chip b = 0) ∧
      (∀ r : Fin 64, roomClocked s.chip r = true → (roomOf t.chip r).power = .recess ∧ r.val ∈ t.dev.warden.rested) ∧
      (∀ d < 4, tget (fun _ => false) t.chip.meshOn d = false) ∧
      (∀ n : Fin 16, getF s.chip (.eth n) 0x010 8 8 = 0 → tget (fun _ => false) t.chip.portOff n = true ∧ ethOf t n = portLost (ethOf s n)) ∧
      (∀ k < 8, (stackOf s.chip k).powered = true → (stackOf t.chip k).selfRefresh = true) ∧
      ((∀ k < 8, (stackOf s.chip k).pump.pass = 0) → t.chip.mem = s.chip.mem)) := by
  obtain ⟨hf, hst, -⟩ := stopAll_stops sleepBlocks s.chip sleepBlocks_nodup sleepBlocks_off hs
  obtain ⟨c, hcdef⟩ : ∃ c, c = stopAll sleepBlocks s.chip := ⟨_, rfl⟩
  rw [← hcdef] at hf hst
  have hall : allStopped sleepBlocks (stopAll sleepBlocks s.chip) = true := by
    rw [← hcdef]; exact List.all_eq_true.mpr fun b hb => by simp [hst b hb]
  obtain ⟨a1, a2, a3, a4, a5, a6⟩ := asleep_holds hst
  have hclk (r : Nat) : roomClocked c r = roomClocked s.chip r := by simp only [roomClocked, hf.room]
  obtain ⟨u, hu⟩ : ∃ u, u = modChip (stopAll sleepBlocks) (noteRestart s) := ⟨_, rfl⟩
  have huc : u.chip = c := by rw [hu, hcdef]; rfl
  have hue (n : Nat) : ethOf u n = ethOf s n := by rw [hu]; rfl
  have huw : u.dev.warden.dstate = s.dev.warden.dstate := by rw [hu]; rfl
  have hup : pigeonOf u cmd.ph = pigeonOf s cmd.ph := by rw [hu]; rfl
  have hx : exec (.powerStateSleep p h) s = .next (sleepDone cmd u) := by
    have hx : exec (.powerStateSleep p h) s = .next (perform p h 0x000B s sleepEntry) := rfl
    have hst' : allStopped sleepBlocks u.chip = true := by rw [huc, hcdef]; exact hall
    rw [hx, perform_current hc, sleepEntry_eq, if_neg (by simpa using h4), if_neg (by simp [hl]), ← hu, if_neg (by simp [hst'])]
  obtain ⟨d1, d2, d3, d4, d5, d6, d7⟩ := sleepDone_holds (u := u) hc.2.2.2 hup
  rw [huc] at d3 d6 d7
  refine ⟨_, hx, d1, d2, d4, d5.trans huw, ?_⟩
  rw [d3, d6]
  refine ⟨a1, fun r hr => ⟨a3 r r.isLt ((hclk r).trans hr), List.mem_filter.mpr ⟨List.mem_range.mpr r.isLt, (hclk r).trans hr⟩⟩, a4,
    fun n hn => ?_, fun k hk hp => a6 k hk ((hf.stack k).2.2.trans hp), fun hp => ?_⟩
  · have hoff := a5 n ((getF_of_rawReg (hf.settings (.eth n)) 8 8).trans hn)
    exact ⟨hoff, by rw [d7 n n.isLt hoff, hue]⟩
  · rw [a2, hcdef, (stopAll_stacks sleepBlocks s.chip hp).1]

theorem powerStateSleep_refused {s : State} {p : Fin 2} {h : Fin 8} {cmd : Cmd} (hc : Current s p h 0x000B cmd) (h4 : argOf cmd 0 = 4)
    (hl : s.dev.warden.long ≠ none) : Finishes (.powerStateSleep p h) s cmd 6 [] [] (fun t => t.chip = s.chip ∧ dstate t = dstate s ∧
      Counted s t 0x0501 4 0) := by
  have hlog := LogsOnly.countRefusal 0x0501 4 0 s
  have hx : exec (.powerStateSleep p h) s = .next (finish cmd (sayStatus stState) (countRefusal 0x0501 4 0 s)) := by
    have hx : exec (.powerStateSleep p h) s = .next (perform p h 0x000B s sleepEntry) := rfl
    rw [hx, perform_current hc, sleepEntry_eq, if_neg (by simpa using h4), if_pos (Option.isSome_iff_ne_none.mpr hl)]
  obtain ⟨f1, f2, f3, -⟩ := finish_answers (c := cmd) (r := sayStatus stState) (s := s) (t := countRefusal 0x0501 4 0 s) hc.2.2.2
    (hlog.pigeon _) (by decide)
  obtain ⟨-, -, h3, h5, -⟩ := answer_frame cmd.ph false (sayStatus stState) (modWarden (fun w => { w with cur := none }) (countRefusal 0x0501 4 0 s))
  refine ⟨_, hx, f1, f2, f3.trans hlog.chip, ?_, fun hlt => ?_⟩
  · rw [dstate, finish, h3]; exact hlog.dstate
  · rw [finish, h5, modWarden_power, countRefusal_refusals]
    exact inCounts_counted hlt

end Sys2Proof.Machine
end

section
/-! PROOFS. The wake from device sleep (spec/16 R548, R549, R554). -/

open Sys2Proof Sys2Proof.Machine
namespace Sys2Proof.Machine

/-! ### Blocks that start again (R53, R548) -/

theorem bState_setRun1_ne (c : Chip) {b d : BlockId} (v : Bool) (h : d ≠ b) : bState (setRun1 b v c) d = bState c d := by
  rw [setRun1_eq, bState, getF_of_rawReg (rawReg_settle_ne _ (.inl h))]
  exact bState_setF_ne _ _ _ _ (.inl h)

theorem bRun_setRun1_ne (c : Chip) {b d : BlockId} (v : Bool) (h : d ≠ b) : bRun (setRun1 b v c) d = bRun c d := by
  rw [setRun1_eq, bRun_of_raw (rawReg_settle_ne _ (.inl h))]
  exact bRun_setF_ne _ _ _ _ (.inl h)

/-- RUN set neither brings a block to RUNNING nor takes it from there. -/
theorem running_setRun1 (c : Chip) (b d : BlockId) : bState (setRun1 b true c) d = 2 ↔ bState c d = 2 := by
  by_cases h : d = b
  · subst h
    rw [bState_setRun1]
    split
    · next h => simp [h.1]
    · simp
  · rw [bState_setRun1_ne c true h]

theorem bRun_setRun1_mono {c : Chip} (b d : BlockId) (h : bRun c d = true) : bRun (setRun1 b true c) d = true := by
  by_cases he : d = b
  · rw [he]; exact bRun_setRun1 _ _ _
  · rw [bRun_setRun1_ne c true he]; exact h

/-- A Pump waits while its controller does not run; every other block of the list starts. -/
def MayStart (c : Chip) (b : BlockId) : Prop := ∀ k, b = .pmp k → bState c (.hmc k) = 2

theorem mayStart_iff (c : Chip) (b : BlockId) : mayStart c b = true ↔ MayStart c b := by
  cases b <;> simp [mayStart, MayStart, hmcB]

theorem MayStart.setRun1 {c : Chip} {b d : BlockId} : MayStart (setRun1 d true c) b ↔ MayStart c b := by
  simp only [MayStart, running_setRun1]

theorem startThese_holds : ∀ (l : List BlockId) (c : Chip), (∀ b, bRun c b = true → bRun (startThese l c).1 b = true) ∧
    (∀ b ∈ l, MayStart c b → bRun (startThese l c).1 b = true) ∧
    ∀ b, ¬ MayStart c b → (b ∈ l → b ∈ (startThese l c).2) ∧ bRun (startThese l c).1 b = bRun c b
  | [], c => ⟨fun _ h => h, fun _ h => absurd h List.not_mem_nil, fun _ _ => ⟨fun h => absurd h List.not_mem_nil, rfl⟩⟩
  | a :: l, c => by
    by_cases ha : mayStart c a = true
    · obtain ⟨h1, h2, h3⟩ := startThese_holds l (setRun1 a true c)
      rw [startThese, if_pos ha]
      refine ⟨fun b hb => h1 b (bRun_setRun1_mono a b hb), fun b hb hm => ?_, fun b hm => ?_⟩
      · by_cases hba : b = a
        · rw [hba]; exact h1 a (bRun_setRun1 _ _ _)
        · exact h2 b ((List.mem_cons.mp hb).resolve_left hba) (MayStart.setRun1.mpr hm)
      · have hba : b ≠ a := fun h => hm ((mayStart_iff c b).mp (h ▸ ha))
        obtain ⟨k1, k2⟩ := h3 b (mt MayStart.setRun1.mp hm)
        exact ⟨fun hb => k1 ((List.mem_cons.mp hb).resolve_left hba), k2.trans (bRun_setRun1_ne c true hba)⟩
    · obtain ⟨h1, h2, h3⟩ := startThese_holds l c
      rw [startThese, if_neg ha]
      refine ⟨h1, fun b hb hm => ?_, fun b hm => ⟨fun hb => ?_, (h3 b hm).2⟩⟩
      · refine h2 b ((List.mem_cons.mp hb).resolve_left ?_) hm
        rintro rfl
        exact ha ((mayStart_iff c b).mpr hm)
      · rcases List.mem_cons.mp hb with rfl | hb
        · exact List.mem_cons_self ..
        · exact List.mem_cons_of_mem _ ((h3 b hm).1 hb)

/-- What starting blocks leaves alone. -/
structure StartFrame (c d : Chip) : Prop where
  mem : d.mem = c.mem
  cores : d.cores = c.cores
  rooms : d.rooms = c.rooms
  stk : d.stk = c.stk
  meshOn : d.meshOn = c.meshOn
  portOff : d.portOff = c.portOff
  clock : d.nowUs = c.nowUs
  regs : ∀ b n, n ≠ 0x000 → n ≠ 0x002 → rawReg d b n = rawReg c b n

theorem StartFrame.setRun1 {c d : Chip} (h : StartFrame c d) (b : BlockId) (v : Bool) : StartFrame c (setRun1 b v d) := by
  rw [setRun1_eq]
  exact ⟨(settle_mem _ _).trans h.mem, (settle_cores _ _).trans h.cores, (settle_rooms _ _).trans h.rooms, (settle_stk _ _).trans h.stk,
    (settle_meshOn _ _).trans h.meshOn, (settle_portOff _ _).trans h.portOff, (settle_clock _ _).1.trans h.clock,
    fun b' n h0 h2 => (rawReg_settle_ne _ (.inr h2)).trans ((rawReg_setF_ne _ _ _ _ (.inr h0)).trans (h.regs b' n h0 h2))⟩

theorem startThese_frame {c : Chip} : ∀ (l : List BlockId) (d : Chip), StartFrame c d → StartFrame c (startThese l d).1
  | [], _, h => h
  | a :: l, d, h => by
    rw [startThese]
    split
    · exact startThese_frame l _ (h.setRun1 a true)
    · exact startThese_frame l d h

theorem StartFrame.refl (c : Chip) : StartFrame c c := ⟨rfl, rfl, rfl, rfl, rfl, rfl, rfl, fun _ _ _ _ => rfl⟩

/-- Blocks that wait to be started again are, a Pump only where its controller runs (R53). -/
theorem restartBlocks_runs {s t : State} (hr : t.dev.warden.restart = s.dev.warden.restart)
    (hs : ∀ b, OffRooms b → rawReg t.chip b 0x000 = rawReg s.chip b 0x000 ∧ rawReg t.chip b 0x002 = rawReg s.chip b 0x002) :
    RunAgain s (restartBlocks t) s.dev.warden.restart := by
  have hm (b : BlockId) : MayStart t.chip b ↔ MayStart s.chip b := by
    have hk (k : Fin 8) : bState t.chip (.hmc k) = bState s.chip (.hmc k) := getF_of_rawReg (hs (.hmc k) trivial).2 1 0
    simp only [MayStart, hk]
  obtain ⟨-, h2, h3⟩ := startThese_holds t.dev.warden.restart.reverse t.chip
  rw [hr] at h2 h3
  have hc : (restartBlocks t).chip = (startThese s.dev.warden.restart.reverse t.chip).1 := by rw [← hr]; rfl
  have hl : (restartBlocks t).dev.warden.lateStart = t.dev.warden.lateStart ++ (startThese s.dev.warden.restart.reverse t.chip).2 := by
    rw [← hr]; rfl
  refine ⟨fun b hb hms => ?_, fun k hk hns => ?_⟩
  · rw [hc]; exact h2 b (List.mem_reverse.mpr hb) ((hm b).mpr hms)
  · have hn : ¬ MayStart t.chip (.pmp k) := fun h => hns ((hm _).mp h k rfl)
    obtain ⟨k1, k2⟩ := h3 (.pmp k) hn
    rw [hc, hl]
    exact ⟨List.mem_append_right _ (k1 (List.mem_reverse.mpr hk)), k2.trans (bRun_of_raw (hs (.pmp k) trivial).1)⟩

theorem restartBlocks_frame (s : State) : StartFrame s.chip (restartBlocks s).chip ∧ (restartBlocks s).dev.power = s.dev.power ∧
    (∀ ph, pigeonOf (restartBlocks s) ph = pigeonOf s ph) ∧ (restartBlocks s).dev.warden.dstate = s.dev.warden.dstate ∧
    (restartBlocks s).dev.warden.before = s.dev.warden.before ∧ (restartBlocks s).dev.warden.waiting = s.dev.warden.waiting :=
  ⟨startThese_frame _ _ (.refl _), rfl, fun _ => rfl, rfl, rfl, rfl⟩

/-! ### The polders come back (R539, R548) -/

/-- What the polders that come back leave alone. -/
structure Raised (c d : Chip) : Prop where
  mem : d.mem = c.mem
  cores : d.cores = c.cores
  rooms : d.rooms = c.rooms
  clock : d.nowUs = c.nowUs
  block : ∀ b n, n = 0x000 ∨ n = 0x002 → rawReg d b n = rawReg c b n

theorem Raised.refl (c : Chip) : Raised c c := ⟨rfl, rfl, rfl, rfl, fun _ _ _ => rfl⟩

theorem Raised.trans {c d e : Chip} (h : Raised c d) (k : Raised d e) : Raised c e :=
  ⟨k.mem.trans h.mem, k.cores.trans h.cores, k.rooms.trans h.rooms, k.clock.trans h.clock,
    fun b n hn => (k.block b n hn).trans (h.block b n hn)⟩

theorem Raised.setF {c d : Chip} (h : Raised c d) (b : BlockId) {n : Nat} (hn : n ≠ 0x000 ∧ n ≠ 0x002) (hi lo v : Nat) :
    Raised c (setF d b n hi lo v) :=
  h.trans ⟨rfl, rfl, rfl, rfl, fun _ _ hm => rawReg_setF_ne _ _ _ _ (.inr (by omega))⟩

/-- A mesh polder with power. -/
def meshPowered (d : Nat) (c : Chip) : Chip := { c with meshOn := tput (fun _ => false) c.meshOn d true }

/-- A port polder with power. -/
def portPowered (n : Nat) (c : Chip) : Chip := { c with portOff := tput (fun _ => false) c.portOff n false }

theorem meshPowered_frame (d : Nat) (c : Chip) : Raised c (meshPowered d c) ∧ (meshPowered d c).meshOn = tput (fun _ => false) c.meshOn d true :=
  ⟨⟨rfl, rfl, rfl, rfl, fun _ _ _ => rfl⟩, rfl⟩

theorem portPowered_frame (n : Nat) (c : Chip) : Raised c (portPowered n c) ∧ (portPowered n c).meshOn = c.meshOn ∧
    (portPowered n c).portOff = tput (fun _ => false) c.portOff n false :=
  ⟨⟨rfl, rfl, rfl, rfl, fun _ _ _ => rfl⟩, rfl, rfl⟩

theorem meshUp_holds (d : Nat) (c : Chip) : Raised c (meshUp d c) ∧ (meshUp d c).meshOn = tput (fun _ => false) c.meshOn d true := by
  have he : meshUp d c = setF (meshPowered d c) (meshB d) 0x010 0 0 0 := rfl
  rw [he]
  exact ⟨(meshPowered_frame d c).1.setF _ (by decide) _ _ _, setF_meshOn _ _ _ _ _ _⟩

theorem foldl_meshUp : ∀ (l : List Nat) (c : Chip), Raised c (l.foldl (fun c d => meshUp d c) c) ∧
    ∀ d, d ∈ l ∨ tget (fun _ => false) c.meshOn d = true → tget (fun _ => false) (l.foldl (fun c d => meshUp d c) c).meshOn d = true
  | [], c => ⟨.refl c, fun _ h => h.resolve_left List.not_mem_nil⟩
  | a :: l, c => by
    obtain ⟨h1, h2⟩ := meshUp_holds a c
    obtain ⟨k1, k2⟩ := foldl_meshUp l (meshUp a c)
    refine ⟨h1.trans k1, fun d hd => k2 d ?_⟩
    rw [h2, tget_tput]
    by_cases he : d = a
    · exact .inr (if_pos he)
    · rw [if_neg he]
      exact hd.imp (fun h => (List.mem_cons.mp h).resolve_left he) id

/-- The step at a port polder that comes back. -/
def portUp (c : Chip) (n : Nat) : Chip := setF (portPowered n c) (ethB n) 0x022 0 0 0

theorem foldl_portUp : ∀ (l : List Nat) (c : Chip), Raised c (l.foldl portUp c) ∧ (l.foldl portUp c).meshOn = c.meshOn ∧
    ∀ n, n ∈ l ∨ tget (fun _ => false) c.portOff n = false → tget (fun _ => false) (l.foldl portUp c).portOff n = false
  | [], c => ⟨.refl c, rfl, fun _ h => h.resolve_left List.not_mem_nil⟩
  | a :: l, c => by
    obtain ⟨h1, h2, h3⟩ := portPowered_frame a c
    obtain ⟨k1, k2, k3⟩ := foldl_portUp l (portUp c a)
    have hs : (portUp c a).meshOn = c.meshOn ∧ (portUp c a).portOff = tput (fun _ => false) c.portOff a false := by
      rw [portUp, setF_meshOn, setF_portOff]; exact ⟨h2, h3⟩
    refine ⟨(h1.setF _ (by decide) _ _ _).trans k1, k2.trans hs.1, fun n hn => k3 n ?_⟩
    rw [hs.2, tget_tput]
    by_cases he : n = a
    · exact .inr (if_pos he)
    · rw [if_neg he]
      exact hn.imp (fun h => (List.mem_cons.mp h).resolve_left he) id

/-- A stack that its controller refreshes again. -/
def wakeStack (x : Stack) : Stack := { x with selfRefresh := false }

theorem powerUp_holds (c : Chip) : Raised c (powerUp c) ∧ (powerUp c).meshOn = c.meshOn ∧
    (∀ n < 16, tget (fun _ => false) (powerUp c).portOff n = false) ∧ ∀ k < 8, (stackOf (powerUp c) k).selfRefresh = false := by
  obtain ⟨p, hp⟩ : ∃ p, p = (List.range 16).foldl portUp c := ⟨_, rfl⟩
  have he : powerUp c = (List.range 8).foldl (fun c k => modStack c k wakeStack) p := by rw [hp]; rfl
  obtain ⟨h1, h2, h3⟩ := foldl_portUp (List.range 16) c
  rw [← hp] at h1 h2 h3
  obtain ⟨k1, k2, k3⟩ : Raised p ((List.range 8).foldl (fun c k => modStack c k wakeStack) p) ∧
      ((List.range 8).foldl (fun c k => modStack c k wakeStack) p).meshOn = p.meshOn ∧
      ((List.range 8).foldl (fun c k => modStack c k wakeStack) p).portOff = p.portOff :=
    foldl_keeps (f := fun c k => modStack c k wakeStack) (P := fun d => Raised p d ∧ d.meshOn = p.meshOn ∧ d.portOff = p.portOff)
      (fun _ _ ⟨h1, h2, h3⟩ => ⟨h1.trans ⟨rfl, rfl, rfl, rfl, fun _ _ _ => rfl⟩, h2, h3⟩) _ p ⟨.refl p, rfl, rfl⟩
  rw [he]
  refine ⟨h1.trans k1, k2.trans h2, fun n hn => ?_, fun k hk => ?_⟩
  · rw [k3]; exact h3 n (.inl (List.mem_range.mpr hn))
  · rw [stackOf_foldl wakeStack k _ _ List.nodup_range, if_pos (List.mem_range.mpr hk)]; rfl

/-- The power-on of a mesh polder, which the latched Breach refuses (R564). -/
def meshBack (s : State) (d : Nat) : State := if s.dev.power.breach then countRefusal 0x0502 4 0 s else modChip (meshUp d) s

theorem foldl_meshBack_refused {s : State} (hb : s.dev.power.breach = true) (l : List Nat) (t : State) (h : LogsOnly s t) :
    LogsOnly s (l.foldl meshBack t) ∧
      (InCounts 0x0502 4 0 t.dev.power.refusals → InCounts 0x0502 4 0 (l.foldl meshBack t).dev.power.refusals) := by
  induction l generalizing t with
  | nil => exact ⟨h, id⟩
  | cons d l ih =>
    have hd : meshBack t d = countRefusal 0x0502 4 0 t := if_pos (h.breach.trans hb)
    obtain ⟨k1, k2⟩ := ih _ ((LogsOnly.countRefusal 0x0502 4 0 t).after h)
    rw [List.foldl_cons, hd]
    exact ⟨k1, fun hc => k2 (by rw [countRefusal_refusals]; exact hc.counted _ _ _)⟩

theorem meshesBack_refused {s : State} (hb : s.dev.power.breach = true) : LogsOnly s (meshesBack s) ∧ Counted s (meshesBack s) 0x0502 4 0 := by
  have h0 : meshesBack s = [1, 2, 3].foldl meshBack (countRefusal 0x0502 4 0 s) := by
    have h0 : meshesBack s = [1, 2, 3].foldl meshBack (meshBack s 0) := rfl
    rw [h0, show meshBack s 0 = countRefusal 0x0502 4 0 s from if_pos hb]
  obtain ⟨k1, k2⟩ := foldl_meshBack_refused hb [1, 2, 3] _ (LogsOnly.countRefusal 0x0502 4 0 s)
  rw [h0]
  exact ⟨k1, fun hlt => k2 (by rw [countRefusal_refusals]; exact inCounts_counted hlt)⟩

theorem foldl_meshBack_up (l : List Nat) (t : State) (ht : t.dev.power.breach = false) :
    l.foldl meshBack t = modChip (fun c => l.foldl (fun c d => meshUp d c) c) t := by
  induction l generalizing t with
  | nil => rfl
  | cons d l ih =>
    have hd : meshBack t d = modChip (meshUp d) t := if_neg (by simp [ht])
    rw [List.foldl_cons, hd]
    exact (ih (modChip (meshUp d) t) ht).trans rfl

theorem meshesBack_up {s : State} (hb : s.dev.power.breach = false) :
    meshesBack s = modChip (fun c => (List.range 4).foldl (fun c d => meshUp d c) c) s := foldl_meshBack_up _ s hb

/-- The polders back: the meshes too, unless the Breach is latched. -/
theorem polders_back (s : State) : ∃ t, modChip powerUp (meshesBack s) = t ∧ Raised s.chip t.chip ∧
    (∀ n < 16, tget (fun _ => false) t.chip.portOff n = false) ∧ (∀ k < 8, (stackOf t.chip k).selfRefresh = false) ∧
    (s.dev.power.breach = false → ∀ d < 4, tget (fun _ => false) t.chip.meshOn d = true) ∧
    (s.dev.power.breach = true → Counted s t 0x0502 4 0) ∧ t.dev.power.breach = s.dev.power.breach ∧
    t.dev.warden.before = s.dev.warden.before ∧ t.dev.warden.restart = s.dev.warden.restart := by
  refine ⟨_, rfl, ?_⟩
  obtain ⟨h1, h2, h3, h4⟩ := powerUp_holds (meshesBack s).chip
  cases hb : s.dev.power.breach
  · rw [meshesBack_up hb] at h1 h2 h3 h4 ⊢
    obtain ⟨k1, k2⟩ := foldl_meshUp (List.range 4) s.chip
    exact ⟨k1.trans h1, h3, h4, fun _ d hd => (congrArg (fun m => tget (fun _ => false) m d) h2).trans (k2 d (.inl (List.mem_range.mpr hd))),
      fun h => absurd h Bool.false_ne_true, hb, rfl, rfl⟩
  · obtain ⟨k1, k2⟩ := meshesBack_refused hb
    exact ⟨k1.chip ▸ h1, h3, h4, fun h => absurd h.symm Bool.false_ne_true, fun _ => k2, k1.breach.trans hb, k1.before, k1.restart⟩

/-- The power-ons' refusals leave room in the log. -/
theorem Waits.polders_back {s : State} {b : Nat} (h : Waits 0x0502 b [] s) (hb : 0x0502 ≠ b) : Waits 0x0502 b [] (modChip powerUp (meshesBack s)) := by
  have hm : Waits 0x0502 b [] (meshesBack s) := by
    refine foldl_keeps (P := Waits 0x0502 b []) (f := meshBack) (fun t d ht => ?_) (List.range 4) s h
    unfold meshBack
    split
    · exact ht.countRefusal (.inl rfl) hb 4 0
    · exact ht.of_same rfl rfl (meshUp_holds d t.chip).1.clock
  exact hm.of_same rfl rfl (powerUp_holds (meshesBack s).chip).1.clock

/-! ### The classrooms that rested (R549, R550, R564) -/

/-- What the wake of a classroom leaves alone. -/
structure RoomsWoken (s t : State) : Prop where
  mem : t.chip.mem = s.chip.mem
  stk : t.chip.stk = s.chip.stk
  meshOn : t.chip.meshOn = s.chip.meshOn
  portOff : t.chip.portOff = s.chip.portOff
  regs : ∀ b, OffRooms b → ∀ n, rawReg t.chip b n = rawReg s.chip b n
  breach : t.dev.power.breach = s.dev.power.breach
  before : t.dev.warden.before = s.dev.warden.before
  restart : t.dev.warden.restart = s.dev.warden.restart
  counts : ∀ a b e, InCounts a b e s.dev.power.refusals → InCounts a b e t.dev.power.refusals

namespace RoomsWoken
variable {s t u : State}

theorem refl (s : State) : RoomsWoken s s := ⟨rfl, rfl, rfl, rfl, fun _ _ _ => rfl, rfl, rfl, rfl, fun _ _ _ h => h⟩

theorem trans (h : RoomsWoken s t) (k : RoomsWoken t u) : RoomsWoken s u :=
  ⟨k.mem.trans h.mem, k.stk.trans h.stk, k.meshOn.trans h.meshOn, k.portOff.trans h.portOff,
    fun b hb n => (k.regs b hb n).trans (h.regs b hb n), k.breach.trans h.breach, k.before.trans h.before, k.restart.trans h.restart,
    fun a b e hc => k.counts a b e (h.counts a b e hc)⟩

theorem countRefusal (h : RoomsWoken s t) (r q k : Nat) : RoomsWoken s (countRefusal r q k t) := by
  have hl := LogsOnly.countRefusal r q k t
  refine h.trans ⟨by rw [hl.chip], by rw [hl.chip], by rw [hl.chip], by rw [hl.chip], fun _ _ _ => by rw [hl.chip], hl.breach, hl.before, hl.restart,
    fun _ _ _ hc => ?_⟩
  rw [countRefusal_refusals]; exact hc.counted r q k

theorem modChip (h : RoomsWoken s t) {f : Chip → Chip} (hm : (f t.chip).mem = t.chip.mem) (hk : (f t.chip).stk = t.chip.stk)
    (ho : (f t.chip).meshOn = t.chip.meshOn) (hp : (f t.chip).portOff = t.chip.portOff)
    (hr : ∀ b, OffRooms b → ∀ n, rawReg (f t.chip) b n = rawReg t.chip b n) : RoomsWoken s (modChip f t) :=
  h.trans ⟨hm, hk, ho, hp, hr, rfl, rfl, rfl, fun _ _ _ h => h⟩

end RoomsWoken

theorem OffRooms.ne {b : BlockId} (h : OffRooms b) (r : Nat) : b ≠ clsB r ∧ b ≠ dmaB r :=
  ⟨by rintro rfl; exact h, by rintro rfl; exact h⟩

theorem RoomsWoken.setPower (s : State) (r : Nat) (p : RoomPower) : RoomsWoken s (Machine.modChip (Machine.setPower r p) s) :=
  (RoomsWoken.refl s).modChip (setPower_mem r p _) (setPower_stk r p _) (setPower_meshOn r p _) (setPower_portOff r p _)
    fun _ hb _ => rawReg_setPower_ne p _ (.inl (hb.ne r))

theorem RoomsWoken.wakeRoom (s : State) (r code : Nat) : RoomsWoken s (Machine.modChip (Machine.wakeRoom r code) s) := by
  obtain ⟨h1, -, h2, -, h3, h4⟩ := wakeRoom_frame r code s.chip
  exact (RoomsWoken.refl s).modChip h1 h2 h3 h4 fun b hb _ => rawReg_wakeRoom_ne code _ (.inl (hb.ne r))

theorem RoomsWoken.wakeCores (s : State) (r : Nat) : RoomsWoken s (Machine.modChip (Machine.wakeCores r) s) := by
  obtain ⟨h1, -, h2, -, h3, h4⟩ := wakeCores_frame r s.chip
  exact (RoomsWoken.refl s).modChip h1 h2 h3 h4 fun b hb _ => rawReg_wakeCores_ne _ (.inl (hb.ne r))

/-- What a wake does at a classroom, by its power. -/
theorem roomBack_cases (code r : Nat) (s : State) : (roomBack code r s = s ∧ (roomOf s.chip r).power = .run) ∨
    (roomBack code r s = abortEntry r code s ∧ (roomOf s.chip r).power = .entering) ∨
    (s.dev.power.breach = true ∧ roomBack code r s = countRefusal 0x0502 3 0 s) ∨
    (s.dev.power.breach = false ∧ roomBack code r s = modChip (wakeRoom r code) s) ∨
    (s.dev.power.breach = false ∧ roomBack code r s = modChip (wakeCores r) s) := by
  unfold roomBack wakeTo
  cases hb : s.dev.power.breach <;> cases hp : (roomOf s.chip r).power <;> cases wakesRoom code <;> simp

theorem RoomsWoken.roomBack (code r : Nat) (s : State) : RoomsWoken s (roomBack code r s) := by
  rcases roomBack_cases code r s with ⟨h, -⟩ | ⟨h, -⟩ | ⟨-, h⟩ | ⟨-, h⟩ | ⟨-, h⟩ <;> rw [h]
  · exact .refl s
  · exact (RoomsWoken.setPower s r .run).countRefusal _ _ _
  · exact (RoomsWoken.refl s).countRefusal _ _ _
  · exact .wakeRoom s r code
  · exact .wakeCores s r

theorem Waits.roomBack {s : State} {code : Nat} (h : Waits 0x0502 (0x0510 + code) [] s) (r : Nat) :
    Waits 0x0502 (0x0510 + code) [] (roomBack code r s) := by
  unfold Machine.roomBack
  split
  · exact h.wakeTo r
  · split
    · exact h.countRefusal (.inl rfl) (by omega) 3 0
    · exact h.of_same (by rw [modChip_dev]) (by rw [modChip_dev]) (by rw [modChip_chip, (wakeCores_clock r s.chip).1])

/-- A classroom back from its rest: it runs on the FIO, none of its cores in pause. -/
def IsBack (c : Chip) (r : Nat) : Prop :=
  (roomOf c r).power = .run ∧ getF c (clsB r) 0x028 17 17 = 0 ∧ ∀ n, n / 16 = r → (coreOf c n).paused = false

/-- The wake of a classroom brings it back, and leaves those that are back so. -/
theorem IsBack.wakeCores {c : Chip} {r q : Nat} (h : IsBack c r ∨ r = q) : IsBack (wakeCores q c) r := by
  refine ⟨?_, ?_, fun n hn => ?_⟩
  · rw [roomOf_wakeCores]
    split
    · rfl
    · next hne => exact (h.resolve_right hne).1
  · by_cases he : clsB r = clsB q
    · rw [he]; exact (getF_wakeCores q c).1
    · rw [getF_of_rawReg (rawReg_wakeCores_ne c (.inr ⟨by decide, .inl he⟩))]
      exact (h.resolve_right fun hq => he (by rw [hq])).2.1
  · rw [coreOf_wakeCores]
    split
    · rfl
    · next hne => exact (h.resolve_right fun hq => hne (hn.trans hq)).2.2 n hn

theorem IsBack.wakeRoom {c : Chip} {r q : Nat} (code : Nat) (h : IsBack c r ∨ r = q) : IsBack (wakeRoom q code c) r := by
  obtain ⟨h1, h2, h3⟩ := IsBack.wakeCores h
  refine ⟨?_, ?_, fun n hn => ?_⟩
  · rw [roomOf_wakeRoom, ← roomOf_wakeCores]; exact h1
  · by_cases he : clsB r = clsB q
    · rw [he, getF_wakeRoom_pwr q code c (.inl (by decide)), ← he]; exact h2
    · rw [getF_of_rawReg (rawReg_wakeRoom_ne code c (.inr ⟨by decide, .inl he⟩))]
      rwa [getF_of_rawReg (rawReg_wakeCores_ne c (.inr ⟨by decide, .inl he⟩))] at h2
  · rw [coreOf_wakeRoom, ← coreOf_wakeCores]; exact h3 n hn

theorem IsBack.setPower {c : Chip} {r : Nat} (q : Nat) (h : IsBack c r) : IsBack (setPower q .run c) r := by
  obtain ⟨h1, h2, h3⟩ := h
  refine ⟨?_, ?_, fun n hn => ?_⟩
  · rw [roomOf_setPower]
    split
    · rfl
    · exact h1
  · by_cases he : clsB r = clsB q
    · rw [he, getF_setPower_pwr q .run c (.inl (by decide)), ← he]; exact h2
    · rw [getF_of_rawReg (rawReg_setPower_ne .run c (.inr ⟨by decide, .inl he⟩))]; exact h2
  · rw [coreOf_of_cores (setPower_cores q .run c)]; exact h3 n hn

theorem IsBack.roomBack {s : State} {r : Nat} (code q : Nat) (h : IsBack s.chip r) : IsBack (roomBack code q s).chip r := by
  rcases roomBack_cases code q s with ⟨hx, -⟩ | ⟨hx, -⟩ | ⟨-, hx⟩ | ⟨-, hx⟩ | ⟨-, hx⟩ <;> rw [hx]
  · exact h
  · rw [abortEntry, (LogsOnly.countRefusal _ _ _ _).chip]; exact h.setPower q
  · rw [(LogsOnly.countRefusal _ _ _ _).chip]; exact h
  · exact .wakeRoom code (.inl h)
  · exact .wakeCores (.inl h)

theorem roomBack_isBack {s : State} {r : Nat} (code : Nat) (hb : s.dev.power.breach = false) (hp : (roomOf s.chip r).power = .recess) :
    IsBack (roomBack code r s).chip r := by
  rcases roomBack_cases code r s with ⟨-, hx⟩ | ⟨-, hx⟩ | ⟨hx, -⟩ | ⟨-, hx⟩ | ⟨-, hx⟩
  · rw [hp] at hx; cases hx
  · rw [hp] at hx; cases hx
  · rw [hb] at hx; cases hx
  · rw [hx]; exact .wakeRoom code (.inr rfl)
  · rw [hx]; exact .wakeCores (.inr rfl)

theorem power_roomBack_ne (s : State) {r q : Nat} (code : Nat) (h : r ≠ q) : (roomOf (roomBack code q s).chip r).power = (roomOf s.chip r).power := by
  rcases roomBack_cases code q s with ⟨hx, -⟩ | ⟨hx, -⟩ | ⟨-, hx⟩ | ⟨-, hx⟩ | ⟨-, hx⟩ <;> rw [hx]
  · rw [abortEntry, (LogsOnly.countRefusal _ _ _ _).chip, modChip_chip, roomOf_setPower, if_neg h]
  · rw [(LogsOnly.countRefusal _ _ _ _).chip]
  · rw [modChip_chip, roomOf_wakeRoom, if_neg h]
  · rw [modChip_chip, roomOf_wakeCores, if_neg h]

/-- Each classroom that rested is back, where the Breach is not latched. -/
theorem roomsBack_isBack {code r : Nat} : ∀ (l : List Nat) (s : State), s.dev.power.breach = false →
    (r ∈ l ∧ (roomOf s.chip r).power = .recess) ∨ IsBack s.chip r → IsBack (l.foldl (fun s r => roomBack code r s) s).chip r
  | [], _, _, h => h.resolve_left fun h => List.not_mem_nil h.1
  | q :: l, s, hb, h => by
    refine roomsBack_isBack l _ ((RoomsWoken.roomBack code q s).breach.trans hb) ?_
    rcases h with ⟨hm, hp⟩ | h
    · by_cases hq : r = q
      · exact .inr (hq ▸ roomBack_isBack code hb (hq ▸ hp))
      · exact .inl ⟨(List.mem_cons.mp hm).resolve_left hq, (power_roomBack_ne s code hq).trans hp⟩
    · exact .inr (h.roomBack code q)

/-- Under the latched Breach no classroom leaves recess or is opened. -/
theorem roomBack_refused {s : State} (code q : Nat) {r : Nat} (hb : s.dev.power.breach = true)
    (hp : (roomOf s.chip r).power = .recess ∨ (roomOf s.chip r).power = .closed) :
    (roomOf (roomBack code q s).chip r).power = (roomOf s.chip r).power := by
  by_cases hq : r = q
  · subst hq
    rcases roomBack_cases code r s with ⟨hx, -⟩ | ⟨-, hx⟩ | ⟨-, hx⟩ | ⟨hx, -⟩ | ⟨hx, -⟩
    · rw [hx]
    · rcases hp with hp | hp <;> rw [hp] at hx <;> cases hx
    · rw [hx, (LogsOnly.countRefusal _ _ _ _).chip]
    · rw [hb] at hx; cases hx
    · rw [hb] at hx; cases hx
  · exact power_roomBack_ne s code hq

theorem roomsBack_refused (code : Nat) {r : Nat} {p : RoomPower} (hpp : p = .recess ∨ p = .closed) : ∀ (l : List Nat) (s : State),
    s.dev.power.breach = true → (roomOf s.chip r).power = p → (roomOf (l.foldl (fun s r => roomBack code r s) s).chip r).power = p
  | [], _, _, h => h
  | q :: l, s, hb, h => roomsBack_refused code hpp l _ ((RoomsWoken.roomBack code q s).breach.trans hb)
      ((roomBack_refused code q hb (by rw [h]; exact hpp)).trans h)

theorem RoomsWoken.roomsBack (code : Nat) (l : List Nat) (s : State) : RoomsWoken s (l.foldl (fun s r => Machine.roomBack code r s) s) :=
  foldl_keeps (P := RoomsWoken s) (fun t r h => h.trans (.roomBack code r t)) l s (.refl s)

/-! ### The wake (R548, R549, R554) -/

/-- The device as its wake leaves it but for the log. -/
def wokenUp (code : Nat) (s : State) : State :=
  modWarden (fun w => { w with dstate := w.before, rested := [] })
    (restartBlocks (s.dev.warden.rested.foldl (fun s r => roomBack code r s) (modChip powerUp (meshesBack s))))

theorem deviceWake_eq {s : State} (h : dstate s = 6) (code : Nat) : deviceWake code s = logEvent 0 0x0503 [code] (wokenUp code s) := by
  unfold deviceWake wokenUp
  rw [if_pos h]

theorem wokenUp_holds (code : Nat) (s : State) : dstate (wokenUp code s) = s.dev.warden.before ∧ (wokenUp code s).dev.warden.rested = [] ∧
    RunAgain s (wokenUp code s) s.dev.warden.restart ∧
    (s.dev.power.breach = false → (∀ d < 4, tget (fun _ => false) (wokenUp code s).chip.meshOn d = true) ∧
      ∀ r ∈ s.dev.warden.rested, (roomOf s.chip r).power = .recess → IsBack (wokenUp code s).chip r) ∧
    (s.dev.power.breach = true → Counted s (wokenUp code s) 0x0502 4 0 ∧
      ∀ r, (roomOf s.chip r).power = .recess ∨ (roomOf s.chip r).power = .closed →
        (roomOf (wokenUp code s).chip r).power = (roomOf s.chip r).power) ∧
    (∀ n < 16, tget (fun _ => false) (wokenUp code s).chip.portOff n = false) ∧
    (∀ k < 8, (stackOf (wokenUp code s).chip k).selfRefresh = false) ∧ (wokenUp code s).chip.mem = s.chip.mem := by
  obtain ⟨t, ht, h1, h2, h3, h4, h5, h6, h7, h8⟩ := polders_back s
  have hw : wokenUp code s = modWarden (fun w => { w with dstate := w.before, rested := [] })
      (restartBlocks (s.dev.warden.rested.foldl (fun s r => roomBack code r s) t)) := by rw [wokenUp, ht]
  have hr := RoomsWoken.roomsBack code s.dev.warden.rested t
  have hback (r : Nat) (hb : s.dev.power.breach = false) (hm : r ∈ s.dev.warden.rested) (hp : (roomOf s.chip r).power = .recess) :
      IsBack (s.dev.warden.rested.foldl (fun s r => roomBack code r s) t).chip r :=
    roomsBack_isBack _ t (h6.trans hb) (.inl ⟨hm, by rw [roomOf_of_rooms h1.rooms]; exact hp⟩)
  have hstay (r : Nat) (hb : s.dev.power.breach = true) (hp : (roomOf s.chip r).power = .recess ∨ (roomOf s.chip r).power = .closed) :
      (roomOf (s.dev.warden.rested.foldl (fun s r => roomBack code r s) t).chip r).power = (roomOf s.chip r).power :=
    roomsBack_refused code hp _ t (h6.trans hb) (by rw [roomOf_of_rooms h1.rooms])
  generalize s.dev.warden.rested.foldl (fun s r => roomBack code r s) t = u at hw hr hback hstay
  obtain ⟨f1, f2, -, -, f5, -⟩ := restartBlocks_frame u
  have hc : (wokenUp code s).chip = (restartBlocks u).chip := by rw [hw]; rfl
  have hrun : RunAgain s (restartBlocks u) s.dev.warden.restart := by
    refine restartBlocks_runs (hr.restart.trans h8) fun b hb => ⟨?_, ?_⟩ <;> rw [hr.regs b hb]
    · exact h1.block b _ (.inl rfl)
    · exact h1.block b _ (.inr rfl)
  have hback' (r : Nat) (hx : IsBack u.chip r) : IsBack (restartBlocks u).chip r :=
    ⟨by rw [roomOf_of_rooms f1.rooms]; exact hx.1, by rw [getF_of_rawReg (f1.regs _ _ (by decide) (by decide))]; exact hx.2.1,
      fun n hn => by rw [coreOf_of_cores f1.cores]; exact hx.2.2 n hn⟩
  refine ⟨?_, by rw [hw]; rfl, ?_, fun hb => ⟨fun d hd => ?_, fun r hm hp => ?_⟩, fun hb => ⟨fun hlt => ?_, fun r hp => ?_⟩, fun n hn => ?_,
    fun k hk => ?_, ?_⟩
  · rw [hw]; exact f5.trans (hr.before.trans h7)
  · unfold RunAgain at hrun ⊢
    rw [hc, show (wokenUp code s).dev.warden.lateStart = (restartBlocks u).dev.warden.lateStart by rw [hw]; rfl]
    exact hrun
  · rw [hc, f1.meshOn, hr.meshOn]; exact h4 hb d hd
  · rw [hc]; exact hback' r (hback r hb hm hp)
  · have hp : (wokenUp code s).dev.power = u.dev.power := by rw [hw]; exact f2
    rw [hp]; exact hr.counts _ _ _ (h5 hb hlt)
  · rw [hc, roomOf_of_rooms f1.rooms]; exact hstay r hb hp
  · rw [hc, f1.portOff, hr.portOff]; exact h2 n hn
  · rw [hc, stackOf, f1.stk, hr.stk]; exact h3 k hk
  · rw [hc, f1.mem, hr.mem, h1.mem]

/-- The wake is logged with its source, if the log has room. -/
theorem wokenUp_logged {s : State} (h : LogHasRoom s) (code : Nat) :
    ∃ e ∈ (logEvent 0 0x0503 [code] (wokenUp code s)).dev.warden.waiting, e.code = 0x0503 ∧ e.data = [code] := by
  have h0 : Waits 0x0502 (0x0510 + code) [] s := by
    refine ⟨fun e he => absurd he List.not_mem_nil, ?_⟩
    have := Bool.toNat_le (refusalDue s 0x0502)
    have := Bool.toNat_le (refusalDue s (0x0510 + code))
    have : s.dev.warden.waiting.length < 120 := h
    simp only [logLoad]
    omega
  have h1 := h0.polders_back (by omega)
  have h2 : Waits 0x0502 (0x0510 + code) [] (s.dev.warden.rested.foldl (fun s r => roomBack code r s) (modChip powerUp (meshesBack s))) :=
    foldl_keeps (P := Waits 0x0502 (0x0510 + code) []) (fun t r ht => ht.roomBack r) _ _ h1
  have h3 : Waits 0x0502 (0x0510 + code) [] (wokenUp code s) := by
    refine h2.of_same rfl rfl ?_
    exact (restartBlocks_frame _).1.clock
  exact ⟨_, h3.mem_logEvent 0 0x0503 [code] _ (List.mem_cons_self ..), rfl, rfl⟩

theorem deviceWake_wakes {s : State} {code : Fin 16} (h4 : 4 ≤ code.val) (h8 : code.val ≤ 8) (h6 : dstate s = 6) :
    exec (.deviceWake code) s = .next (logEvent 0 0x0503 [code.val] (wokenUp code.val s)) := by
  have hx : exec (.deviceWake code) s = .next (if 4 ≤ code.val ∧ code.val ≤ 8 then deviceWake code.val s else s) := rfl
  rw [hx, if_pos ⟨h4, h8⟩, deviceWake_eq h6]

/-- Before the entry is complete a wake aborts it, and its command is refused. -/
theorem deviceWake_aborts {s : State} {code : Fin 16} {cmd : Cmd} (h4 : 4 ≤ code.val) (h8 : code.val ≤ 8) (h6 : dstate s ≠ 6)
    (hc : sleepCmd s = some cmd) (hd : (pigeonOf s cmd.ph).drop = false) : Answers (.deviceWake code) s (fun t =>
      HasAnswer s t cmd.ph 9 [] [] ∧ t.dev.warden.cur = none ∧ dstate t = dstate s ∧ RunAgain s t s.dev.warden.restart ∧
      t.chip.mem = s.chip.mem ∧ Counted s t (0x0510 + code.val) 4 1) := by
  obtain ⟨u, hu⟩ : ∃ u, u = restartBlocks s := ⟨_, rfl⟩
  obtain ⟨f1, f2, f3, f4, -, -⟩ := restartBlocks_frame s
  have hrun := restartBlocks_runs (s := s) (t := s) rfl fun _ _ => ⟨rfl, rfl⟩
  rw [← hu] at f1 f2 f3 f4 hrun
  have hl := LogsOnly.countRefusal (0x0510 + code.val) 4 1 u
  have hx : exec (.deviceWake code) s = .next (finish cmd (sayStatus stRefused) (countRefusal (0x0510 + code.val) 4 1 u)) := by
    have hx : exec (.deviceWake code) s = .next (if 4 ≤ code.val ∧ code.val ≤ 8 then deviceWake code.val s else s) := rfl
    rw [hx, if_pos ⟨h4, h8⟩, deviceWake, if_neg h6, hc, hu]
  obtain ⟨a1, a2, a3, -⟩ := finish_answers (c := cmd) (r := sayStatus stRefused) (s := s) (t := countRefusal (0x0510 + code.val) 4 1 u) hd
    ((hl.pigeon _).trans (f3 _)) (by decide)
  obtain ⟨-, -, w1, w2, -⟩ := answer_frame cmd.ph false (sayStatus stRefused)
    (modWarden (fun w => { w with cur := none }) (countRefusal (0x0510 + code.val) 4 1 u))
  have hch : (finish cmd (sayStatus stRefused) (countRefusal (0x0510 + code.val) 4 1 u)).chip = u.chip := a3.trans hl.chip
  refine ⟨_, hx, a1, a2, ?_, ?_, by rw [hch, f1.mem], fun hlt => ?_⟩
  · rw [dstate, finish, w1]; exact hl.dstate.trans f4
  · unfold RunAgain at hrun ⊢
    have hls : (finish cmd (sayStatus stRefused) (countRefusal (0x0510 + code.val) 4 1 u)).dev.warden.lateStart = u.dev.warden.lateStart := by
      rw [finish, w1]; exact hl.lateStart
    rw [hch, hls]
    exact hrun
  · rw [finish, w2, modWarden_power, countRefusal_refusals, f2]
    exact inCounts_counted hlt

theorem deviceSleepAndWake_holds : DeviceSleepAndWake := by
  intro s c w
  refine ⟨fun p h cmd hc h4 => ⟨powerStateSleep_refused hc h4, powerStateSleep_enters hc h4⟩, fun code => ⟨fun h4 h8 h6 => ?_, fun h => ?_, fun h6 hn => ?_,
    fun cmd h4 h8 h6 hc hd => deviceWake_aborts h4 h8 h6 hc hd⟩⟩
  · obtain ⟨k1, k2, k3, k4, k5, k6, k7, k8⟩ := wokenUp_holds code.val s
    have hl := LogsOnly.logEvent 0 0x0503 [code.val] (wokenUp code.val s)
    refine ⟨_, deviceWake_wakes h4 h8 h6, hl.dstate.trans k1, hl.rested.trans k2, fun hr => wokenUp_logged hr _, ?_, ?_, ?_, ?_⟩
    · unfold RunAgain at k3 ⊢
      rw [hl.chip, hl.lateStart]
      exact k3
    · rw [hl.chip]
      refine fun hb => ⟨(k4 hb).1, fun r hm hp => ?_⟩
      obtain ⟨b1, b2, b3⟩ := (k4 hb).2 r hm hp
      exact ⟨b1, b2, fun q hq => b3 _ (by omega)⟩
    · rw [hl.chip]
      refine fun hb => ⟨fun hlt => ?_, (k5 hb).2⟩
      rw [logEvent_power]
      exact (k5 hb).1 hlt
    · rw [hl.chip]
      exact ⟨k6, k7, k8⟩
  · refine congrArg Host.Outcome.next (show (if 4 ≤ code.val ∧ code.val ≤ 8 then deviceWake code.val s else s) = s from if_neg ?_)
    omega
  · refine congrArg Host.Outcome.next (show (if 4 ≤ code.val ∧ code.val ≤ 8 then deviceWake code.val s else s) = s from ?_)
    split
    · rw [deviceWake, if_neg h6, hn]
    · rfl

end Sys2Proof.Machine

/-- Settles O59: pause and recess by what a change of power leaves alone, POWER_STATE by its steps through the classrooms, each
of which leaves the others alone, device sleep by blocks that stop at once and polders that go down and come back. -/
theorem sleepAndWake : Obligations.SleepAndWake := ⟨pauseAndRecess_holds, powerStateCommand_holds, deviceSleepAndWake_holds⟩
end

section
/-! PROOFS. What keeps every MODE legal and the settings of running classrooms agreed (spec/02 R91, spec/01 R57, spec/09 R315): the
rules of the operations on the package. -/

-- One after another: started side by side, this many short proofs take more memory than the check has.
set_option Elab.async false

open Sys2Proof Sys2Proof.Machine
namespace Sys2Proof.Machine

/-! ### The two invariants, each where it is asked for -/

/-- The settings agree where A, and every MODE is legal where B. -/
def Kept (A B : Prop) (c : Chip) : Prop := (A → SettingsAgree c) ∧ (B → ModesLegal c)

/-- The settings of one classroom agree. -/
def Agrees (c : Chip) (b : BlockId) : Prop :=
  getF c b 0x010 31 16 &&& getF c b 0x010 15 0 = getF c b 0x010 31 16 ∧
  (getF c b 0x01E 14 0 = 0 ∨ getF c b 0x01A 16 0 + getF c b 0x01E 14 0 ≤ getF c b 0x01C 16 0 ∨
    getF c b 0x01C 16 0 + getF c b 0x01E 14 0 ≤ getF c b 0x01A 16 0) ∧ getF c b 0x01E 14 0 ≤ 16384 ∧
  getF c b 0x01A 16 0 + getF c b 0x01E 14 0 ≤ 0x1FC00 ∧ getF c b 0x01C 16 0 + getF c b 0x01E 14 0 ≤ 0x1FC00

/-- The settings registers of a classroom. -/
def isSetting (n : Nat) : Bool := n == 0x010 || n == 0x01A || n == 0x01C || n == 0x01E

theorem Agrees.of_same {c d : Chip} {b : BlockId} (h : Agrees c b) (hr : ∀ n, isSetting n = true → rawReg d b n = rawReg c b n) : Agrees d b := by
  unfold Agrees
  rw [getF_of_rawReg (hr 0x010 rfl), getF_of_rawReg (hr 0x010 rfl), getF_of_rawReg (hr 0x01A rfl), getF_of_rawReg (hr 0x01C rfl),
    getF_of_rawReg (hr 0x01E rfl)]
  exact h

/-- A classroom that runs after a change ran before it with these settings, or agrees now. -/
theorem settingsAgree_step {c d : Chip} (h : SettingsAgree c)
    (hd : ∀ r : Fin 64, 2 ≤ bState d (.cls r) → (2 ≤ bState c (.cls r) ∧ ∀ n, isSetting n = true → rawReg d (.cls r) n = rawReg c (.cls r) n) ∨
      Agrees d (.cls r)) : SettingsAgree d := fun r hr => by
  rcases hd r hr with ⟨hs, hn⟩ | ha
  · exact Agrees.of_same (h r hs) hn
  · exact ha

/-- Offsets that are neither a state nor a setting. -/
theorem unwatched {b : BlockId} {n : Nat} (h : n ≠ 0x002 ∧ n ≠ 0x010 ∧ n ≠ 0x01A ∧ n ≠ 0x01C ∧ n ≠ 0x01E) : ¬ Watched b n := by
  obtain ⟨h1, h2, h3, h4, h5⟩ := h
  rintro (h | ⟨-, h | h | h | h⟩)
  exacts [h1 h, h2 h, h3 h, h4 h, h5 h]

/-- No register of another kind of block but its state. -/
theorem unwatched_off {b : BlockId} {n : Nat} (hb : ∀ r, b ≠ .cls r) (h : n ≠ 0x002) : ¬ Watched b n := by
  rintro (hn | ⟨⟨r, hr⟩, -⟩)
  exacts [h hn, hb r hr]

namespace Kept
variable {A B : Prop} {c d : Chip}

/-- What changes no watched register and keeps every strand's legal MODE. -/
theorem step (h : Kept A B c) (hr : ∀ b n, Watched b n → rawReg d b n = rawReg c b n)
    (hm : ∀ u, StrandLegal (strandOf c u) → StrandLegal (strandOf d u)) : Kept A B d := by
  refine ⟨fun ha => settingsAgree_step (h.1 ha) fun r hs => .inl ⟨?_, fun n hn => hr _ n (.inr ⟨⟨r, rfl⟩, ?_⟩)⟩, fun hb u => hm u (h.2 hb u)⟩
  · rwa [bState, getF_of_rawReg (hr (.cls r) 0x002 (.inl rfl))] at hs
  · simpa [isSetting, or_assoc] using hn

theorem quiet (h : Kept A B c) (q : Quiet c d) : Kept A B d := h.step q.regs q.legal

theorem same (h : Kept A B c) (hr : d.regs = c.regs := by rfl) (hc : d.cores = c.cores := by rfl) : Kept A B d :=
  h.step (fun b n _ => rawReg_of_regs hr b n) fun u hl => by rwa [strandOf_of_cores hc]

theorem ite {p : Prop} [Decidable p] (h : Kept A B c) (k : Kept A B d) : Kept A B (if p then c else d) := by
  split
  · exact h
  · exact k

theorem foldl {α : Type} {f : Chip → α → Chip} (h : Kept A B c) (l : List α) (hf : ∀ d x, Kept A B d → Kept A B (f d x)) :
    Kept A B (l.foldl f c) := foldl_keeps hf l c h

/-! ### Records of the package -/

theorem modRoom (h : Kept A B c) (r : Nat) (f : Room → Room) : Kept A B (modRoom c r f) := h.same

theorem modDma (h : Kept A B c) (r : Nat) (f : Dma → Dma) : Kept A B (modDma c r f) := h.same

theorem modStack (h : Kept A B c) (k : Nat) (f : Stack → Stack) : Kept A B (modStack c k f) := h.same

theorem fresh (h : Kept A B c) (n : Nat) : Kept A B { c with fresh := n } := h.same

theorem modStrand (h : Kept A B c) (u : StrandId) {f : Strand → Strand} (hf : StrandLegal (strandOf c u) → StrandLegal (f (strandOf c u))) :
    Kept A B (modStrand c u f) := by
  refine h.step (fun _ _ _ => rfl) fun v hv => ?_
  by_cases hu : v = u
  · subst hu; rw [strandOf_modStrand_self]; exact hf hv
  · rwa [strandOf_modStrand_ne _ _ hu]

/-- A change of a core beside its strands. -/
theorem modCore (h : Kept A B c) (n : Nat) {f : Core → Core} (hs : ∀ k, (f k).strands = k.strands := by exact fun _ => rfl) :
    Kept A B (modCore c n f) :=
  h.step (fun _ _ _ => rfl) fun u hl => by rwa [strandOf_modCore_strands c n f hs]

/-- A strand's control registers and pending writes as they were. -/
theorem modStrandSame (h : Kept A B c) (u : StrandId) {f : Strand → Strand} (hc : ∀ st, (f st).c = st.c := by exact fun _ => rfl)
    (hp : ∀ st, (f st).pend = st.pend := by exact fun _ => rfl) : Kept A B (Machine.modStrand c u f) :=
  h.modStrand u fun hl => hl.of_same (hc _) (hp _)

/-! ### Registers (R14, R42) -/

theorem setRaw (h : Kept A B c) {b : BlockId} {n : Nat} (hw : ¬ Watched b n) (v : W32) : Kept A B (setRaw c b n v) :=
  h.step (fun b' n' hw' => rawReg_setRaw_ne _ _ (by by_contra hc; push Not at hc; obtain ⟨rfl, rfl⟩ := hc; exact hw hw')) fun _ hl => hl

theorem setF (h : Kept A B c) {b : BlockId} {n : Nat} (hw : ¬ Watched b n) (hi lo v : Nat) : Kept A B (setF c b n hi lo v) :=
  h.quiet ((Quiet.refl c).setF hi lo v hw)

theorem bumpF (h : Kept A B c) {b : BlockId} {n : Nat} (hw : ¬ Watched b n) (hi lo d : Nat) : Kept A B (bumpF c b n hi lo d) := h.setF hw _ _ _

theorem orF (h : Kept A B c) {b : BlockId} {n : Nat} (hw : ¬ Watched b n) (hi lo v : Nat) : Kept A B (orF c b n hi lo v) := h.setF hw _ _ _

/-! ### The state of a block (R44, R47) -/

/-- A field of the state register that is not the state. -/
theorem setMark (h : Kept A B c) (b : BlockId) {hi lo : Nat} (hl : 1 < lo ∧ lo ≤ hi ∧ hi < 32) (v : Nat) : Kept A B (Machine.setF c b 0x002 hi lo v) := by
  refine ⟨fun ha => settingsAgree_step (h.1 ha) fun r hs => .inl ⟨?_, fun n hn => rawReg_setF_ne _ _ _ _ (.inr ?_)⟩, h.2⟩
  · by_cases hb : .cls r = b
    · subst hb
      rwa [bState, getF_setF_field _ _ _ _ _ _ _ _ (by omega) (by omega) (.inl (by omega))] at hs
    · rwa [bState_setF_ne _ _ _ _ (.inl hb)] at hs
  · rintro rfl; cases hn

/-- A block goes to a state in which its settings may change. -/
theorem setState (h : Kept A B c) (b : BlockId) {v : Nat} (hv : v < 2) : Kept A B (setState c b v) := by
  refine ⟨fun ha => settingsAgree_step (h.1 ha) fun r hs => .inl ⟨?_, fun n hn => rawReg_setF_ne _ _ _ _ (.inr ?_)⟩, h.2⟩
  · by_cases hb : .cls r = b
    · subst hb
      rw [bState_setState_self] at hs
      omega
    · rwa [bState_setState_ne _ _ hb] at hs
  · rintro rfl; cases hn

/-- A block that was RUNNING or STOPPING, or whose settings agree. -/
theorem setStateAgreed (h : Kept A B c) {b : BlockId} (hb : ∀ r, b = .cls r → 2 ≤ bState c b ∨ Agrees c b) (v : Nat) : Kept A B (Machine.setState c b v) := by
  have hn (r : Fin 64) (n : Nat) (hn : isSetting n = true) : rawReg (Machine.setState c b v) (.cls r) n = rawReg c (.cls r) n :=
    rawReg_setF_ne _ _ _ _ (.inr (by rintro rfl; cases hn))
  refine ⟨fun ha => settingsAgree_step (h.1 ha) fun r hs => ?_, h.2⟩
  by_cases he : .cls r = b
  · rcases hb r he.symm with hk | hk
    · exact .inl ⟨by rw [he]; exact hk, hn r⟩
    · exact .inr (Agrees.of_same (he ▸ hk) (hn r))
  · rw [bState_setState_ne _ _ he] at hs
    exact .inl ⟨hs, hn r⟩

end Kept

end Sys2Proof.Machine
end

section
/-! PROOFS. What keeps every MODE legal and the settings agreed: starts, stops and checks of blocks (spec/01 R47, R57). -/

-- One after another: started side by side, this many short proofs take more memory than the check has.
set_option Elab.async false

open Sys2Proof Sys2Proof.Machine
namespace Sys2Proof.Machine

theorem firstBad_none : ∀ l : List (Nat × Nat × Bool), firstBad l = none → ∀ x ∈ l, x.2.2 = true
  | [], _ => fun _ h => absurd h List.not_mem_nil
  | (a, b, ok) :: l, h => by
    unfold firstBad at h
    split at h
    · next hk => exact List.forall_mem_cons.mpr ⟨hk, firstBad_none l h⟩
    · cases h

/-- The classroom's own checks are the settings that must agree (R46, R57, R315). -/
theorem agrees_of_pairsCls {c : Chip} {b : BlockId} (h : firstBad (pairsCls c b) = none) : Agrees c b := by
  have hall := firstBad_none _ h
  simp only [pairsCls, List.forall_mem_cons, beq_iff_eq, Bool.or_eq_true, Bool.and_eq_true, decide_eq_true_eq, or_assoc] at hall
  obtain ⟨-, hp, hs, hh, hw, -⟩ := hall
  exact ⟨hp, hs, hh.1, hh.2, hw⟩

namespace Kept
variable {A B : Prop} {c d : Chip}

theorem settle (h : Kept A B c) (b : BlockId) : Kept A B (settle b c) := by
  unfold Machine.settle
  split
  · exact h.setState b (by decide)
  · split
    · next hs =>
      have h2 : Kept A B (Machine.setState c b 3) := h.setStateAgreed (fun _ _ => .inl (by rw [hs.1])) 3
      generalize Machine.setState c b 3 = e at h2
      exact h2.same
    · exact h

theorem hwStop (h : Kept A B c) (b : BlockId) : Kept A B (hwStop c b) := by
  unfold Machine.hwStop
  split
  · exact h
  · have h1 : Kept A B { c with hung := tput (fun _ => false) c.hung (blockKey b) false } := h.same
    exact ((h1.setState b (by decide)).setMark b (by decide) 1).setF (unwatched (by decide)) _ _ _

theorem agreementCheck (h : Kept A B c) (b : BlockId) : Kept A B (agreementCheck b c) := by
  have hd : Kept A B (disagreement c b).2 := by
    cases b with
    | syl k =>
      simp only [disagreement]
      split
      · exact h.setF (unwatched_off (by simp) (by decide)) _ _ _
      · exact h
    | _ => exact h
  simp only [Machine.agreementCheck]
  split
  · exact h
  · split
    · exact ((((hd.setState b (by decide)).setF (unwatched (by decide)) _ _ _).setMark b (by decide) 1)).setRaw (unwatched (by decide)) _
    · next hn =>
      refine (h.setStateAgreed (fun r hr => .inr ?_) 2).settle b
      subst hr
      have hf : firstBad (pairsCls c (.cls r)) = none := hn
      exact agrees_of_pairsCls hf

end Kept
end Sys2Proof.Machine
end

section
/-! PROOFS. What keeps every MODE legal and the settings agreed: registers and their fields (spec/01 R14, R15, R50, R57). -/

-- One after another: started side by side, this many short proofs take more memory than the check has.
set_option Elab.async false

open Sys2Proof Sys2Proof.Machine
namespace Sys2Proof.Machine

/-! ### The watched fields of the register table -/

/-- Whether a register of a kind of block is watched. -/
def watchedOff (k : BKind) (n : Nat) : Bool := n == 0x002 || (k == .cls && isSetting n)

theorem watchedOff_of {b : BlockId} {n : Nat} (h : Watched b n) : watchedOff (blockKind b) n = true := by
  rcases h with rfl | ⟨⟨r, rfl⟩, hn⟩
  · rfl
  · simpa [watchedOff, isSetting, blockKind, or_assoc] using .inr hn

/-- A field of a watched register: read only, a mark of the state register, or a setting that only a STOPPED block takes. -/
def watchedField (f : FieldRow) : Bool :=
  f.acc == .ro || (f.off == 2 && f.acc == .w1c && decide (1 < f.lo ∧ f.lo ≤ f.hi ∧ f.hi < 32)) || (f.off != 2 && f.acc == .rws)

theorem fieldsOf_watched (k : BKind) : ∀ f ∈ fieldsOf k, watchedOff k f.off = true → watchedField f = true := by
  cases k <;> decide

/-- The windows of PMP and SYL show no watched register (R365, R388). -/
theorem regKey_watched {c : Chip} {b : BlockId} {off : Nat} (h : Watched b (regKey c b off)) : regKey c b off = off := by
  cases b with
  | pmp k | syl k =>
    have h2 : regKey c _ off = 2 := h.resolve_right fun h => by obtain ⟨⟨r, hr⟩, -⟩ := h; cases hr
    revert h2
    simp only [regKey, blockKind]
    split
    · omega
    · exact fun _ => rfl
  | _ => rfl

theorem fieldsAt_watched {c : Chip} {b : BlockId} {off : Nat} {f : FieldRow} (hf : f ∈ fieldsAt (blockKind b) off) (h : Watched b (regKey c b off)) :
    f.acc = .ro ∨ (regKey c b off = 2 ∧ f.acc = .w1c ∧ 1 < f.lo ∧ f.lo ≤ f.hi ∧ f.hi < 32) ∨ (regKey c b off ≠ 2 ∧ f.acc = .rws) := by
  have hk := regKey_watched h
  rw [hk] at h ⊢
  obtain ⟨hm, ho⟩ := List.mem_filter.mp hf
  have ho : f.off = off := by simpa using ho
  have hw := fieldsOf_watched _ f hm (ho ▸ watchedOff_of h)
  rw [← ho]
  simpa [watchedField, and_assoc, or_assoc] using hw

namespace Kept
variable {A B : Prop} {c d : Chip}

/-- A field that is unwatched, a mark of the state register, or a setting of a block that does not run. -/
theorem setField (h : Kept A B c) {b : BlockId} {n hi lo : Nat} (v : Nat)
    (hs : Watched b n → (n = 2 ∧ 1 < lo ∧ lo ≤ hi ∧ hi < 32) ∨ (n ≠ 2 ∧ bState c b < 2)) : Kept A B (Machine.setF c b n hi lo v) := by
  by_cases hw : Watched b n
  · rcases hs hw with ⟨rfl, hl⟩ | ⟨hn, hk⟩
    · exact h.setMark b hl v
    · have hst (q : BlockId) : bState (Machine.setF c b n hi lo v) q = bState c q := bState_setF_ne _ _ _ _ (.inr (Ne.symm hn))
      refine ⟨fun ha => settingsAgree_step (h.1 ha) fun r hr => .inl ?_, h.2⟩
      rw [hst] at hr
      refine ⟨hr, fun m hm => rawReg_setF_ne _ _ _ _ (.inl ?_)⟩
      rintro rfl
      omega
  · exact h.setF hw _ _ _

end Kept

/-- A write of a mark of the state register leaves the state. -/
theorem bState_setMark (c : Chip) (b q : BlockId) {hi lo : Nat} (hl : 1 < lo ∧ lo ≤ hi ∧ hi < 32) (v : Nat) :
    bState (Machine.setF c b 0x002 hi lo v) q = bState c q := by
  by_cases hb : q = b
  · subst hb
    rw [bState, getF_setF_field _ _ _ _ _ _ _ _ (by omega) (by omega) (.inl (by omega))]; rfl
  · exact bState_setF_ne _ _ _ _ (.inl hb)

theorem bState_fieldWrite {c d : Chip} {v : Nat} {b : BlockId} {off : Nat} {stopped : Bool} {f : FieldRow} (hf : f ∈ fieldsAt (blockKind b) off) :
    bState (fieldWrite v b (regKey c b off) stopped d f) b = bState d b := by
  have hset (x : Nat) (hr : f.acc ≠ .ro) : bState (setF d b (regKey c b off) f.hi f.lo x) b = bState d b := by
    by_cases h2 : regKey c b off = 2
    · rcases fieldsAt_watched hf (.inl h2) with ha | ⟨-, -, hl⟩ | ⟨hn, -⟩
      · exact absurd ha hr
      · rw [h2]; exact bState_setMark _ _ _ hl _
      · exact absurd h2 hn
    · exact bState_setF_ne _ _ _ _ (.inr (Ne.symm h2))
  unfold fieldWrite
  split
  · next ha => exact hset _ (by rw [ha]; simp)
  · next ha => exact hset _ (by rw [ha]; simp)
  · next ha =>
    split
    · exact hset _ (by rw [ha]; simp)
    · rfl
  · rfl

namespace Kept
variable {A B : Prop} {c d : Chip}

theorem regReadClear (h : Kept A B c) (b : BlockId) (off : Nat) : Kept A B (Machine.regReadClear c b off) := by
  unfold Machine.regReadClear
  refine List.foldlRecOn _ _ h fun d hd f hf => ?_
  split
  · next ha =>
    refine hd.setField 0 fun hw => ?_
    rcases fieldsAt_watched hf hw with hr | ⟨-, hr, -⟩ | ⟨-, hr⟩ <;> rw [hr] at ha <;> cases ha
  · exact hd

/-- A field of a register that a bus write names: an RWS field is written in a STOPPED block only. -/
theorem fieldWrite (h : Kept A B d) (v : Nat) {b : BlockId} {off : Nat} {stopped : Bool} (hst : stopped = true → bState d b < 2) {f : FieldRow}
    (hf : f ∈ fieldsAt (blockKind b) off) : Kept A B (Machine.fieldWrite v b (regKey c b off) stopped d f) := by
  have hset (x : Nat) (hr : f.acc ≠ .ro) (hs : f.acc = .rws → bState d b < 2) : Kept A B (Machine.setF d b (regKey c b off) f.hi f.lo x) := by
    refine h.setField x fun hw => ?_
    rcases fieldsAt_watched hf hw with ha | ⟨h2, -, hl⟩ | ⟨hn, ha⟩
    · exact absurd ha hr
    · exact .inl ⟨h2, hl⟩
    · exact .inr ⟨hn, hs ha⟩
  unfold Machine.fieldWrite
  split
  · next ha => exact hset _ (by rw [ha]; simp) (by rw [ha]; simp)
  · next ha => exact hset _ (by rw [ha]; simp) (by rw [ha]; simp)
  · next ha =>
    split
    · next hs => exact hset _ (by rw [ha]; simp) fun _ => hst hs
    · exact h
  · exact h

theorem cfgReject (h : Kept A B c) (b : BlockId) (code : Nat) : Kept A B (Machine.cfgReject c b code) := by
  unfold Machine.cfgReject
  exact ((Kept.ite (h.setF (unwatched (by decide)) _ _ _) h).setMark b (by decide) 1).bumpF (unwatched (by decide)) _ _ _

theorem regWrite (h : Kept A B c) (b : BlockId) (off : Nat) (v : W32) : Kept A B (Machine.regWrite c b off v) := by
  have hw : Kept A B ((fieldsAt (blockKind b) off).foldl (Machine.fieldWrite v.toNat b (regKey c b off) (decide (bState c b = 0))) c) := by
    have hall : Kept A B ((fieldsAt (blockKind b) off).foldl (Machine.fieldWrite v.toNat b (regKey c b off) (decide (bState c b = 0))) c) ∧
        bState ((fieldsAt (blockKind b) off).foldl (Machine.fieldWrite v.toNat b (regKey c b off) (decide (bState c b = 0))) c) b = bState c b := by
      refine List.foldlRecOn (motive := fun d => Kept A B d ∧ bState d b = bState c b) _ _ ⟨h, rfl⟩ fun d ⟨hd, hs⟩ f hf => ?_
      refine ⟨hd.fieldWrite _ (fun hk => ?_) hf, (bState_fieldWrite hf).trans hs⟩
      rw [hs, of_decide_eq_true hk]
      decide
    exact hall.1
  simp only [Machine.regWrite]
  split
  · exact hw
  · exact hw.cfgReject _ _

end Kept
end Sys2Proof.Machine
end

section
/-! PROOFS. What keeps every MODE legal and the settings agreed: strands, their pending writes and their exceptions (spec/02). -/

-- One after another: started side by side, this many short proofs take more memory than the check has.
set_option Elab.async false

open Sys2Proof Sys2Proof.Machine
namespace Sys2Proof.Machine

/-! ### Legal strands (R91) -/

namespace StrandLegal
variable {st : Strand}

theorem setCreg (h : StrandLegal st) {n : Nat} (hn : n ≠ 0) (v : W64) : StrandLegal (setCreg st n v) := by
  refine ⟨?_, h.2⟩
  rw [creg, Machine.setCreg, tget_tput_ne _ _ _ (Ne.symm hn)]
  exact h.1

theorem setMode (h : StrandLegal st) {v : W64} (hv : LegalMode v) : StrandLegal (Machine.setCreg st 0 v) := by
  refine ⟨?_, h.2⟩
  rw [creg, Machine.setCreg, tget_tput_self]
  exact hv

theorem addPend (h : StrandLegal st) {w : PendW} (hw : w.reg = 64 → LegalMode w.val) (n : Nat) :
    StrandLegal { st with pend := st.pend ++ [w], nextId := n } :=
  ⟨h.1, fun x hx => (List.mem_append.mp hx).elim (h.2 x) fun hm => by rw [List.mem_singleton.mp hm]; exact hw⟩

theorem countSlot (h : StrandLegal st) : StrandLegal (countSlot st) := h.setCreg (by decide) _

theorem tickPend (h : StrandLegal st) : StrandLegal (tickPend st) :=
  h.mapPend rfl (f := fun w => { w with k := w.k - 1 }) rfl fun _ => ⟨rfl, fun _ => rfl⟩

theorem advance (h : StrandLegal st) (f : Flow) : StrandLegal (advance f st) := by
  unfold Machine.advance
  split
  · exact h
  · exact h.of_same rfl rfl
  · exact h.of_same rfl rfl
  · split
    · split
      · exact h.of_same rfl rfl
      · exact h.of_same rfl rfl
    · split
      · split
        · exact (h.setCreg (n := 5) (by decide) 0).of_same rfl rfl
        · exact (h.setCreg (n := 5) (by decide) _).of_same rfl rfl
      · exact h.of_same rfl rfl

theorem atHandler (h : StrandLegal st) {mode : Nat} (hm : LegalMode (BitVec.ofNat 64 mode)) (frame splim priv pc : Nat) :
    StrandLegal (atHandler st frame splim priv mode pc) :=
  (((((h.setCreg (n := 30) (by decide) _).setCreg (n := 1) (by decide) _).setCreg (n := 16) (by decide) _).setMode hm).setCreg (n := 5)
    (by decide) 0).of_same rfl rfl

theorem legalMode_zero : LegalMode 0 := by unfold LegalMode; decide

theorem reset (n : Nat) : StrandLegal (strandReset n) := ⟨legalMode_zero, fun _ hw => absurd hw List.not_mem_nil⟩

end StrandLegal

namespace Kept
variable {A B : Prop} {c d : Chip}

theorem ofWrites (h : Kept A B c) (k : WritesMemory c d) : Kept A B d := h.quiet ((Quiet.refl c).ofWrites k)

theorem wrOwn (h : Kept A B c) (own : Option (Nat × Nat)) (spec : Bool) (l : List (Nat × Word × Bool)) : Kept A B (Machine.wrOwn own c spec l) :=
  h.ofWrites (.wrOwn own c spec l)

/-- A change at one strand, its place in its core aside. -/
theorem atStrand (h : Kept A B c) {u : StrandId} (k : AtStrand u c d) (hl : StrandLegal (strandOf c u) → StrandLegal (strandOf d u)) : Kept A B d :=
  h.quiet ((Quiet.refl c).atStrand k hl)

/-! ### What instructions write -/

theorem putReg (h : Kept A B c) (u : StrandId) {reg : Nat} (hr : reg ≠ 64) (d : Nat) (v : W64) : Kept A B (Machine.putReg c u reg d v) :=
  h.modStrand u fun hl => hl.addPend (fun h => absurd h hr) _

theorem putLate (h : Kept A B c) (u : StrandId) {reg : Nat} (hr : reg ≠ 64) (d : Nat) (v : W64) (pois late : Bool) (waits : Nat) (fillw : Bool) :
    Kept A B (Machine.putLate c u reg d v pois late waits fillw) :=
  h.modStrand u fun hl => hl.addPend (fun h => absurd h hr) _

theorem putCtl (h : Kept A B c) (u : StrandId) {n : Nat} {v : W64} (hv : n = 0 → LegalMode v) (d : Nat) : Kept A B (Machine.putCtl c u n d v) :=
  h.modStrand u fun hl => hl.addPend (fun h => hv (by simpa using h)) _

theorem putVec (h : Kept A B c) (u : StrandId) (reg d : Nat) (v : VReg) (pois late : Bool) (waits : Nat) :
    Kept A B (Machine.putVec c u reg d v pois late waits) := h.modStrandSame u

theorem putFlags (h : Kept A B c) (u : StrandId) (reg d flags : Nat) : Kept A B (Machine.putFlags c u reg d flags) :=
  .ite h (h.modStrandSame u)

theorem tookSlot (h : Kept A B c) (u : StrandId) : Kept A B (Machine.tookSlot c u) := h.modCore _

theorem retire (h : Kept A B c) (u : StrandId) (f : Flow) : Kept A B (Machine.retire c u f) := by
  have hc := h.tookSlot u
  have hd : Kept A B (Machine.modStrand (Machine.tookSlot c u) u (fun st => tickPend (advance f (countSlot st)))) :=
    hc.modStrand u fun hl => (hl.countSlot.advance f).tickPend
  simp only [Machine.retire]
  split
  · exact hc.modStrand u fun hl => hl.countSlot
  · exact hd.quiet ((Quiet.refl _).commitDue u)

theorem faultSlot (h : Kept A B c) (u : StrandId) : Kept A B (Machine.faultSlot c u) := (h.tookSlot u).modStrand u fun hl => hl.countSlot

theorem earlySlot (h : Kept A B c) (u : StrandId) : Kept A B (Machine.earlySlot c u) := by
  simp only [Machine.earlySlot]
  exact .ite (h.modStrandSame u) (.ite h (h.faultSlot u))

theorem passTurn (h : Kept A B c) (u : StrandId) : Kept A B (Machine.passTurn c u) := h.modCore _

theorem takeExc (h : Kept A B c) (u : StrandId) (e : Exc) (insn : W32) : Kept A B (Machine.takeExc c u e insn) := by
  simp only [Machine.takeExc]
  exact Kept.foldl (h.modStrandSame u) _ fun _ _ hd => hd.quiet ((Quiet.refl _).askReads _ _ _ _ _)

/-- An instruction at its slot: its effect happens only when none of R152's conditions holds. -/
theorem issue (h : Kept A B c) (u : StrandId) (i : Insn) (hask : Kept A B (i.ask c)) (hact : insnFault c u i = none → Kept A B (i.act c)) :
    Kept A B (Machine.issue c u i) := by
  unfold Machine.issue
  split
  · exact h
  split
  · exact (h.earlySlot u).takeExc u _ _
  split
  · exact hask.passTurn u
  split
  · exact (h.faultSlot u).takeExc u _ _
  · next hn =>
    split
    · exact ((hact hn).faultSlot u).takeExc u _ _
    · exact (hact hn).retire u _

end Kept
end Sys2Proof.Machine
end

section
/-! PROOFS. What keeps every MODE legal and the settings agreed: exceptions, resets of a core, starts of a strand (spec/02, spec/12). -/

-- One after another: started side by side, this many short proofs take more memory than the check has.
set_option Elab.async false

open Sys2Proof Sys2Proof.Machine
namespace Sys2Proof.Machine

theorem legalMode_ie : LegalMode (BitVec.ofNat 64 (2 ^ 15)) := by unfold LegalMode; decide

theorem StrandLegal.coreReset (k : Core) (n : Nat) : StrandLegal (tget strandReset (coreAfterReset k).strands n) := StrandLegal.reset n

theorem mem_insK {w x : PendW} : ∀ {l : List PendW}, w ∈ insK x l → w = x ∨ w ∈ l
  | [], h => .inl (List.mem_singleton.mp h)
  | y :: l, h => by
    unfold insK at h
    split at h
    · exact List.mem_cons.mp h
    · rcases List.mem_cons.mp h with h | h
      · exact .inr (h ▸ List.mem_cons_self ..)
      · exact (mem_insK h).imp id (List.mem_cons_of_mem _)

theorem mem_sortK {w : PendW} : ∀ {l : List PendW}, w ∈ sortK l → w ∈ l
  | [], h => h
  | _ :: _, h => (mem_insK h).elim (fun he => he ▸ List.mem_cons_self ..) fun hm => List.mem_cons_of_mem _ (mem_sortK hm)

theorem mem_sortPend {w : PendW} {l : List PendW} (h : w ∈ sortPend l) : w ∈ l := List.mem_reverse.mp (mem_sortK h)

theorem StrandLegal.dfCause {st : Strand} (h : StrandLegal st) (k : Nat) : StrandLegal { st with dfCause := k } := h.of_same rfl rfl

/-- The stack pointer of a level is no MODE. -/
theorem stackReg_ne (p : Nat) : (if p = 1 then 18 else 19) ≠ 0 := by split <;> decide

namespace Kept
variable {A B : Prop} {c d : Chip}

/-- A core whose strands are all at reset. -/
theorem modCoreReset (h : Kept A B c) (n : Nat) {f : Core → Core} (hf : ∀ k i, StrandLegal (tget strandReset (f k).strands i)) :
    Kept A B (Machine.modCore c n f) := by
  refine h.step (fun _ _ _ => rfl) fun u hl => ?_
  rw [strandOf, coreOf_modCore]
  split
  · exact hf _ _
  · exact hl

theorem coreWoke (h : Kept A B c) (core code : Nat) : Kept A B (Machine.coreWoke core code c) := by
  simp only [Machine.coreWoke]
  refine h.setF (unwatched ?_) _ _ _
  split <;> decide

theorem coreReset (h : Kept A B c) (n : Nat) : Kept A B (Machine.coreReset c n) :=
  Kept.coreWoke (((h.quiet ((Quiet.refl _).cutCommits n)).modCoreReset n StrandLegal.coreReset).quiet ((Quiet.refl _).orphanReqs n)) n 1

theorem report (h : Kept A B c) (node code : Nat) (items : List Nat) : Kept A B (Machine.report c node code items) := h.same

theorem thirdFault (h : Kept A B c) (u : StrandId) (cause1 cause3 : Nat) : Kept A B (Machine.thirdFault c u cause1 cause3) := by
  have hr := h.coreReset u.core.val
  simp only [Machine.thirdFault]
  exact Kept.report (.ite hr (hr.setRaw (unwatched (by decide)) _)) _ _ _

theorem unaskOps (h : Kept A B c) (u : StrandId) (ops : List TileOp) : Kept A B (Machine.unaskOps u ops c) :=
  h.quiet ((Quiet.refl _).mapReaders _)

theorem tileAbandon (h : Kept A B c) (u : StrandId) : Kept A B (Machine.tileAbandon c u) :=
  Kept.modStrandSame (Kept.unaskOps (h.quiet ((Quiet.refl _).abandonAll u)) u _) u

theorem parkFlags (u : StrandId) : ∀ (l : List PendF) (ws : List PendW) {c : Chip}, Kept A B c → Kept A B (Machine.parkFlags c u l ws).1
  | [], _, _, h => h
  | f :: l, ws, c, h => by
    unfold Machine.parkFlags
    split
    · exact parkFlags u l _ h
    · exact parkFlags u l _ (h.quiet ((Quiet.refl _).commitF u f))

/-- Writes of a strand become visible, the strand's own list of them emptied. -/
theorem commits (h : Kept A B c) (u : StrandId) {st : Strand} (hs : st.c = (strandOf c u).c) (hp : st.pend = []) (hr : st.run = (strandOf c u).run)
    {lw : List PendW} (hw : ∀ w ∈ lw, w ∈ (strandOf c u).pend) (lv : List PendV) (lf : List PendF) :
    Kept A B (lf.foldl (commitF u) (lv.foldl (commitV u) (lw.foldl (commitW u) (setStrand c u st)))) := by
  refine h.atStrand (u := u) ?_ fun hl => Quiet.legal_commits (st := st) ⟨by rw [creg, hs]; exact hl.1, by rw [hp]; exact fun _ h => absurd h List.not_mem_nil⟩
    (fun w hm => hl.2 w (hw w hm)) lv lf
  have h0 : AtStrand u c (setStrand c u st) := (AtStrand.refl u c).setStrand hr
  generalize setStrand c u st = d at h0
  have h1 := h0.foldl (f := commitW u) (fun w k => k.commitW w) lw
  have h2 := h1.foldl (f := commitV u) (fun w k => k.commitV w) lv
  exact h2.foldl (f := commitF u) (fun w k => k.commitF w) lf

theorem parkPend (h : Kept A B c) (u : StrandId) : Kept A B (Machine.parkPend c u).1 := by
  simp only [Machine.parkPend]
  exact parkFlags u _ _ (h.commits (st := { strandOf c u with pend := [], pendV := [], pendF := [] }) u rfl rfl rfl
    (fun w hw => (List.mem_filter.mp hw).1) _ [])

theorem commitAll (h : Kept A B c) (u : StrandId) : Kept A B (Machine.commitAll c u) := by
  simp only [Machine.commitAll]
  exact h.commits (st := { strandOf c u with pend := [], pendV := [], pendF := [] }) u rfl rfl rfl (fun _ hw => mem_sortPend hw) _ _

theorem cacheStore (h : Kept A B c) (core : Nat) (ws : List (Nat × Word × Bool)) : Kept A B (Machine.cacheStore c core ws) :=
  .ite (h.modCore _) h

theorem coreStore (h : Kept A B c) (u : StrandId) (a : Nat) (ws : List Word) : Kept A B (Machine.coreStore c u a ws) :=
  (h.cacheStore _ _).quiet ((Quiet.refl _).coreWrite _ _ _ _)

theorem doubleFault (h : Kept A B c) (u : StrandId) (e : Exc) (reason : Nat) (fail : Option Nat) (insn : W32) (rec : List Word) :
    Kept A B (Machine.doubleFault c u e reason fail insn rec) := by
  simp only [Machine.doubleFault]
  split
  · exact h.thirdFault _ _ _
  split
  · exact h.thirdFault _ _ _
  · exact (h.coreStore _ _ _).modStrand u fun hl => (hl.atHandler StrandLegal.legalMode_zero _ _ _ _).dfCause _

theorem enter (h : Kept A B c) (u : StrandId) (e : Exc) (insn : W32) (rec : List Word) : Kept A B (Machine.enter c u e insn rec) := by
  unfold Machine.enter
  extract_lets st k tb ea
  split
  · exact h.doubleFault _ _ _ _ _ _
  split
  · exact h.doubleFault _ _ _ _ _ _
  split
  · exact h.doubleFault _ _ _ _ _ _
  split
  · exact h.doubleFault _ _ _ _ _ _
  split
  · exact h.doubleFault _ _ _ _ _ _
  split
  · exact h.doubleFault _ _ _ _ _ _
  · refine Kept.modStrand (h.coreStore _ _ _) u fun hl => (hl.setCreg (stackReg_ne _) _).atHandler ?_ _ _ _ _
    split
    · rw [Nat.one_mul]; exact legalMode_ie
    · rw [Nat.zero_mul]; exact StrandLegal.legalMode_zero

theorem completeEntry (h : Kept A B c) (u : StrandId) (e : Exc) (insn : W32) : Kept A B (Machine.completeEntry c u e insn) := by
  simp only [Machine.completeEntry]
  split
  · exact h.thirdFault _ _ _
  · exact ((h.tileAbandon u).parkPend u).enter _ _ _ _

theorem strandRun (h : Kept A B c) (u : StrandId) (code : Nat) : Kept A B (Machine.strandRun u code c) := by
  simp only [Machine.strandRun]
  exact ((Kept.ite (h.coreWoke _ _) h).modCore _).modStrandSame u

end Kept
end Sys2Proof.Machine
end

section
/-! PROOFS. What keeps every MODE legal and the settings agreed: memory, its stacks and engines, votes and updates (spec/08 to spec/10). -/

-- One after another: started side by side, this many short proofs take more memory than the check has.
set_option Elab.async false

open Sys2Proof Sys2Proof.Machine
namespace Sys2Proof.Machine
variable {A B : Prop}

/-! ### The parts of the state beside the package -/

namespace Kept
variable {s : State}

theorem modChip {f : Chip → Chip} (h : Kept A B (f s.chip)) : Kept A B (modChip f s).chip := h

theorem modDev (h : Kept A B s.chip) (f : Dev → Dev) : Kept A B (modDev f s).chip := h

theorem modBoot (h : Kept A B s.chip) (f : Boot → Boot) : Kept A B (modBoot f s).chip := h

theorem modWarden (h : Kept A B s.chip) (f : Warden → Warden) : Kept A B (modWarden f s).chip := h

theorem modBell (h : Kept A B s.chip) (f : Bell → Bell) : Kept A B (modBell f s).chip := h

theorem modPower (h : Kept A B s.chip) (f : Power → Power) : Kept A B (modPower f s).chip := h

theorem modFlash (h : Kept A B s.chip) (f : Flash → Flash) : Kept A B (modFlash f s).chip := h

theorem modPcie (h : Kept A B s.chip) (p : Nat) (f : Pcie → Pcie) : Kept A B (modPcie p f s).chip := h

theorem modEth (h : Kept A B s.chip) (p : Nat) (f : EthPort → EthPort) : Kept A B (modEth p f s).chip := h

theorem modPigeon (h : Kept A B s.chip) (ph : Nat) (f : Pigeon → Pigeon) : Kept A B (modPigeon ph f s).chip := h

theorem modQp (h : Kept A B s.chip) (n : Nat) (f : Qp → Qp) : Kept A B (modQp n f s).chip := h

theorem modWin (h : Kept A B s.chip) (k : Nat) (f : WinSt → WinSt) : Kept A B (modWin k f s).chip := h

theorem modSide (h : Kept A B s.chip) (f : Side → Side) : Kept A B (modSide f s).chip := h

theorem setDstate (h : Kept A B s.chip) (v : Nat) : Kept A B (setDstate v s).chip := h

theorem foldlS {α : Type} {f : State → α → State} (h : Kept A B s.chip) (l : List α) (hf : ∀ t x, Kept A B t.chip → Kept A B (f t x).chip) :
    Kept A B (l.foldl f s).chip := foldl_keeps (P := fun t : State => Kept A B t.chip) hf l s h

theorem iteS {p : Prop} [Decidable p] {t : State} (h : Kept A B s.chip) (k : Kept A B t.chip) : Kept A B (if p then s else t).chip := by
  split
  · exact h
  · exact k

end Kept

/-- The next state, where an instruction completes, keeps both. -/
def KeptAns (A B : Prop) (a : Ans) : Prop := ∀ t, a = .next t → Kept A B t.chip

namespace KeptAns
variable {s : State}

theorem next (h : Kept A B s.chip) : KeptAns A B (.next s) := fun t ht => by cases ht; exact h

theorem refused (r : Refusal) : KeptAns A B (.refused r) := fun _ ht => nomatch ht

theorem onChip {f : Chip → Chip} (h : Kept A B (f s.chip)) : KeptAns A B (onChip s f) := next h

theorem onMod {f : State → State} (h : Kept A B (f s).chip) : KeptAns A B (onMod s f) := next h

end KeptAns

/-! ### Loads and stores (R119, R286, R324) -/

theorem Kept.askRun {c : Chip} (h : Kept A B c) (core a n : Nat) (who : Reader) (sgn : Bool) : Kept A B (Machine.askRun c core a n who sgn) :=
  h.quiet ((Quiet.refl _).askWords _ _ _ _ _)

theorem Kept.loadAct {c : Chip} (h : Kept A B c) (u : StrandId) {dst : Nat} (hd : dst ≠ 64) (a : Nat) (f : LoadForm) (late : Bool) :
    Kept A B (Machine.loadAct u dst a f late c) := by
  simp only [Machine.loadAct]
  split
  · exact (h.modCore _).putReg u hd _ _
  · exact ((Kept.ite (h.modCore _) h).putLate u hd _ _ _ _ _ _).askRun _ _ _ _ _

theorem Kept.baseUpdate {c : Chip} (h : Kept A B c) (u : StrandId) {ra : Nat} (hr : ra ≠ 64) (v : Option W64) : Kept A B (Machine.baseUpdate u ra v c) := by
  unfold Machine.baseUpdate
  split
  · exact h.putReg u hr _ _
  · exact h

theorem Kept.load {c : Chip} (h : Kept A B c) (w : W32) (u : StrandId) {dst : Nat} (hd : dst ≠ 64) (fregs : List Nat) (ra : Fin 32) (m : AMode)
    (f : LoadForm) (late : Bool) : Kept A B (Machine.load w u dst fregs ra m f late c) := by
  refine h.issue u _ h fun _ => ?_
  exact (h.loadAct u hd _ _ _).baseUpdate u (by omega) _

theorem Kept.store {c : Chip} (h : Kept A B c) (w : W32) (u : StrandId) (src : Nat) (fregs : List Nat) (ra : Fin 32) (m : AMode) (n : Nat) :
    Kept A B (Machine.store w u src fregs ra m n c) := by
  refine h.issue u _ h fun _ => ?_
  exact (h.coreStore u _ _).baseUpdate u (by omega) _

/-! ### Memory, its stacks and its engines (spec/08, spec/09) -/
theorem unwatched_hmcB {k n : Nat} (h : n ≠ 2) : ¬ Watched (hmcB k) n := unwatched_off (by simp [hmcB]) h

theorem unwatched_dmaB {k n : Nat} (h : n ≠ 2) : ¬ Watched (dmaB k) n := unwatched_off (by simp [dmaB]) h

theorem unwatched_pmpB {k n : Nat} (h : n ≠ 2) : ¬ Watched (pmpB k) n := unwatched_off (by simp [pmpB]) h

theorem unwatched_ethB {k n : Nat} (h : n ≠ 2) : ¬ Watched (ethB k) n := unwatched_off (by simp [ethB]) h

theorem unwatched_meshB {k n : Nat} (h : n ≠ 2) : ¬ Watched (meshB k) n := unwatched_off (by simp [meshB]) h

theorem Kept.setPois {c : Chip} (h : Kept A B c) (b : Nat) (p : Bool) : Kept A B (Machine.setPois c b p) := by
  unfold Machine.setPois
  exact Kept.same h

theorem Kept.setPhys {c : Chip} (h : Kept A B c) (a : Nat) (w : Word) : Kept A B (Machine.setPhys c a w) := by
  unfold Machine.setPhys
  exact Kept.same h

theorem Kept.recrypt {c : Chip} (h : Kept A B c) (a : Nat) : Kept A B (Machine.recrypt c a) := by
  unfold Machine.recrypt
  exact .ite (Kept.same h) h

theorem Kept.copyWords {c : Chip} (h : Kept A B c) (src dst n : Nat) : Kept A B (Machine.copyWords c src dst n) := h.ofWrites (.copyWords n c src dst)

theorem Kept.setGroup {c : Chip} (h : Kept A B c) (a : Nat) (keep : List Nat) (g : Nat) (ws : List Word) : Kept A B (Machine.setGroup c a keep g ws) := by
  unfold Machine.setGroup
  exact Kept.foldl h _ fun _ _ hd => Kept.ite hd (hd.setPhys _ _)

theorem Kept.ceCount {c : Chip} (h : Kept A B c) (cl : Nat) : Kept A B (Machine.ceCount c cl) := by
  unfold Machine.ceCount
  exact h.bumpF (unwatched (by decide)) _ _ _

theorem Kept.ueRecord {c : Chip} (h : Kept A B c) (cl : Nat) (off : Nat) : Kept A B (Machine.ueRecord c cl off) := by
  unfold Machine.ueRecord
  extract_lets +onlyGivenNames b c1 c2
  have hc1 : Kept A B c1 := h.bumpF (unwatched (by decide)) _ _ _
  have hc2 : Kept A B c2 := Kept.ite hc1 (hc1.setRaw (unwatched (by decide)) _)
  clear_value c1 c2
  exact hc2.report _ _ _

theorem Kept.groupErr {c : Chip} (h : Kept A B c) (cl : Nat) (e : BankReq) (later : List BankReq) (x : Fin 8 × GroupErr) : Kept A B (Machine.groupErr cl e later c x) := by
  unfold Machine.groupErr
  extract_lets +onlyGivenNames g a after renewed hits
  split
  · exact h
  · extract_lets +onlyGivenNames keep
    split
    · exact h.ceCount _
    · exact Kept.ueRecord (Kept.quiet (Kept.ite h (h.setPois _ _)) ((Quiet.refl _).poisonReader _ _)) _ _
    · exact ((h.setGroup _ _ _ _).quiet ((Quiet.refl _).patchReader _ _ _ _ _ _)).ceCount _
    · exact (h.setGroup _ _ _ _).quiet ((Quiet.refl _).patchReader _ _ _ _ _ _)

theorem Kept.markGroups {c : Chip} (h : Kept A B c) (e : BankReq) (a : Nat) : Kept A B (Machine.markGroups e a c) := by
  unfold Machine.markGroups
  split
  · exact h
  · exact Kept.foldl h _ fun _ _ hd => Kept.ite (hd.quiet ((Quiet.refl _).poisonReader _ _)) hd

theorem Kept.bankAccess {c : Chip} (h : Kept A B c) (cl : Nat) (bank : Nat) (errs : List (Fin 8 × GroupErr)) : Kept A B (Machine.bankAccess cl bank errs c) := by
  unfold Machine.bankAccess
  extract_lets +onlyGivenNames q
  split
  · exact h
  · split
    · exact h
    · extract_lets +onlyGivenNames later c1
      have hc1 : Kept A B c1 := h.modRoom _ _
      clear_value c1
      exact Kept.quiet (Kept.quiet (Kept.foldl (hc1.markGroups _ _) _ fun _ _ hd => hd.groupErr _ _ _ _) ((Quiet.refl _).serveReader _)) ((Quiet.refl _).refillBanks)

theorem Kept.cacheFill {c : Chip} (h : Kept A B c) (core : Nat) : Kept A B (Machine.cacheFill core c) := by
  simp only [Machine.cacheFill]
  split
  · exact h
  split
  · exact h
  · next f _ _ =>
    have hf (w : PendW) : (if w.id = f.id then { w with fillw := false } else w).reg = w.reg ∧
        (w.reg = 64 → (if w.id = f.id then { w with fillw := false } else w).val = w.val) := by split <;> exact ⟨rfl, fun _ => rfl⟩
    refine Kept.quiet (Kept.modStrand (h.modCore _ fun k => ?_) _ fun hl => hl.mapPend rfl rfl hf) ((Quiet.refl _).commitDue _)
    split <;> rfl

theorem Kept.hbmRequest {c : Chip} (h : Kept A B c) (k : Nat) (src : Nat) (line : Nat) (wr : Bool) (mask : BitVec 32) (ws : List Word) : Kept A B (Machine.hbmRequest k src line wr mask ws c) := by
  unfold Machine.hbmRequest
  split
  · exact h
  · extract_lets +onlyGivenNames b d r
    split
    · split
      · exact (h.quiet ((Quiet.refl _).modDram _ _ _)).quiet ((Quiet.refl _).acceptLine _ _ _)
      · exact h
    · split
      · exact h.quiet ((Quiet.refl _).giveTicket _ _ _)
      · exact .ite h (h.quiet ((Quiet.refl _).acceptLine _ _ _))

theorem Kept.ticketRecall {c : Chip} (h : Kept A B c) (k : Nat) (b : Nat) : Kept A B (Machine.ticketRecall k b c) := by
  unfold Machine.ticketRecall
  extract_lets +onlyGivenNames d
  split
  · exact h
  · split
    · exact h
    · split
      · split
        · exact (h.quiet ((Quiet.refl _).modDram _ _ _)).quiet ((Quiet.refl _).acceptLine _ _ _)
        · exact h
      · exact h.quiet ((Quiet.refl _).modDram _ _ _)

theorem Kept.rowWeak {c : Chip} (h : Kept A B c) (k : Nat) (line : Nat) : Kept A B (Machine.rowWeak c k line) := by
  unfold Machine.rowWeak
  exact h.report _ _ _

theorem Kept.hbmCorrected {c : Chip} (h : Kept A B c) (k : Nat) : Kept A B (Machine.hbmCorrected c k) := by
  unfold Machine.hbmCorrected
  exact h.bumpF (unwatched (by decide)) _ _ _

theorem Kept.hbmUncorrectable {c : Chip} (h : Kept A B c) (k : Nat) (line : Nat) (wr : Bool) (fresh : Bool) : Kept A B (Machine.hbmUncorrectable c k line wr fresh) := by
  unfold Machine.hbmUncorrectable
  extract_lets +onlyGivenNames b a c1 c2
  have hc1 : Kept A B c1 := Kept.bumpF (Kept.ite h (h.setPois _ _)) (unwatched (by decide)) _ _ _
  have hc2 : Kept A B c2 := Kept.ite hc1 ((hc1.setRaw (unwatched (by decide)) _).setRaw (unwatched (by decide)) _)
  clear_value c1 c2
  exact (hc2.report _ _ _).rowWeak _ _

theorem Kept.setLine {c : Chip} (h : Kept A B c) (a : Nat) (keep : BitVec 32) (ws : List Word) : Kept A B (Machine.setLine c a keep ws) := by
  unfold Machine.setLine
  extract_lets +onlyGivenNames c1
  have hc1 : Kept A B c1 := h.recrypt _
  clear_value c1
  exact Kept.same hc1

theorem Kept.decodeLine {c : Chip} (h : Kept A B c) (k : Nat) (line : Nat) (wr : Bool) (back : Bool) (fresh : Bool) (keep : BitVec 32) (e : LineErr) : Kept A B (Machine.decodeLine c k line wr back fresh keep e) := by
  unfold Machine.decodeLine
  split
  · exact h
  · split
    · exact h
    · exact h.hbmCorrected _
    · exact h.hbmUncorrectable _ _ _ _
    · exact Kept.hbmCorrected (Kept.ite h (h.setLine _ _ _)) _

theorem Kept.returnLine {c : Chip} (h : Kept A B c) (k : Nat) (r : HReq) (e : LineErr) (marked : Bool) : Kept A B (Machine.returnLine c k r e marked) := by
  unfold Machine.returnLine
  extract_lets +onlyGivenNames a hits held out
  refine Kept.quiet ?_ ((Quiet.refl _).serveReader _)
  split
  · exact (h.quiet ((Quiet.refl _).poisonReader _ _)).modStack _ _
  · exact (h.quiet ((Quiet.refl _).poisonReader _ _)).modStack _ _
  · exact (h.quiet ((Quiet.refl _).patchReader _ _ _ _ _ _)).modStack _ _
  · exact h.modStack _ _

theorem Kept.dramAccess {c : Chip} (h : Kept A B c) (k : Nat) (b : Nat) (e : LineErr) : Kept A B (Machine.dramAccess k b e c) := by
  unfold Machine.dramAccess
  extract_lets +onlyGivenNames d
  split
  · exact h
  · extract_lets +onlyGivenNames c1 later whole
    have hc1 : Kept A B c1 := h.quiet ((Quiet.refl _).modDram _ _ _)
    clear_value c1
    refine Kept.quiet ?_ ((Quiet.refl _).restall _)
    split
    · exact hc1
    · extract_lets +onlyGivenNames c11
      have hc11 : Kept A B c11 := hc1.decodeLine _ _ _ _ _ _ _
      clear_value c11
      exact .ite hc11 (hc11.returnLine _ _ _ _)

theorem Kept.patrolScrub {c : Chip} (h : Kept A B c) (k : Nat) (e : LineErr) : Kept A B (Machine.patrolScrub k e c) := by
  unfold Machine.patrolScrub
  extract_lets +onlyGivenNames st line
  split
  · exact h
  · extract_lets +onlyGivenNames pz c1 fixed row c2
    have hc1 : Kept A B c1 := h.decodeLine _ _ _ _ _ _ _
    have hc2 : Kept A B c2 := Kept.ite (hc1.rowWeak _ _) hc1
    clear_value c1 c2
    exact hc2.modStack _ _

theorem Kept.refresh {c : Chip} (h : Kept A B c) (k : Nat) (b : Nat) : Kept A B (Machine.refresh k b c) := by
  unfold Machine.refresh
  exact .ite (h.quiet ((Quiet.refl _).modDram _ _ _)) h

theorem Kept.bandChange {c : Chip} (h : Kept A B c) (k : Nat) (t : Nat) : Kept A B (Machine.bandChange k t c) := by
  unfold Machine.bandChange
  extract_lets +onlyGivenNames b old new c1
  have hc1 : Kept A B c1 := (h.setF (unwatched (by decide)) _ _ _).setF (unwatched (by decide)) _ _ _
  clear_value c1
  exact .ite (hc1.report _ _ _) hc1

theorem Kept.wipe {c : Chip} (h : Kept A B c) (k : Nat) : Kept A B (Machine.wipe k c) := by
  unfold Machine.wipe
  extract_lets +onlyGivenNames b
  split
  · exact h.cfgReject _ _
  · exact .ite h ((h.setF (unwatched_hmcB (by decide)) _ _ _).modStack _ _)

theorem Kept.zeroLines {c : Chip} (h : Kept A B c) (k : Nat) (p : Nat → Bool) : Kept A B (Machine.zeroLines k p c) := by
  unfold Machine.zeroLines
  extract_lets +onlyGivenNames hit
  exact Kept.same h

theorem Kept.wipeAbandon {c : Chip} (h : Kept A B c) (k : Nat) : Kept A B (Machine.wipeAbandon k c) := by
  unfold Machine.wipeAbandon
  split
  · extract_lets +onlyGivenNames n c1
    have hc1 : Kept A B c1 := Kept.zeroLines (Kept.same h) _ _
    clear_value c1
    exact (hc1.setF (unwatched_hmcB (by decide)) _ _ _).modStack _ _
  · exact h

theorem Kept.clearKeys {c : Chip} (h : Kept A B c) (k : Nat) : Kept A B (Machine.clearKeys k c) := by
  unfold Machine.clearKeys
  extract_lets +onlyGivenNames c1
  have hc1 : Kept A B c1 := Kept.foldl h _ fun _ _ hd => hd.setRaw (unwatched_hmcB (by omega)) _
  clear_value c1
  exact (hc1.setF (unwatched_hmcB (by decide)) _ _ _).modStack _ _

theorem Kept.wipeEnd {c : Chip} (h : Kept A B c) (k : Nat) : Kept A B (Machine.wipeEnd k c) := by
  unfold Machine.wipeEnd
  split
  · extract_lets +onlyGivenNames c1 c2
    have hc1 : Kept A B c1 := h.zeroLines _ _
    have hc2 : Kept A B c2 := Kept.ite (hc1.clearKeys _) hc1
    clear_value c1 c2
    exact ((hc2.setF (unwatched_hmcB (by decide)) _ _ _).modStack _ _).settle _
  · exact h

theorem Kept.hmcKeyClear {c : Chip} (h : Kept A B c) (k : Nat) : Kept A B (Machine.hmcKeyClear k c) := by
  unfold Machine.hmcKeyClear
  exact .ite (h.cfgReject _ _) (h.clearKeys _)

theorem Kept.keyReject {c : Chip} (h : Kept A B c) (b : BlockId) (off : Nat) (v : W32) : Kept A B (Machine.keyReject b off v c) := by
  unfold Machine.keyReject
  exact .ite h (h.cfgReject _ _)

theorem Kept.hmcKeyWrite {c : Chip} (h : Kept A B c) (k : Nat) (i : Nat) (v : W32) : Kept A B (Machine.hmcKeyWrite k i v c) := by
  unfold Machine.hmcKeyWrite
  split
  · exact h.keyReject _ _ _
  · extract_lets +onlyGivenNames c1 c2
    have hc1 : Kept A B c1 := h.setRaw (unwatched_hmcB (by omega)) _
    have hc2 : Kept A B c2 := hc1.modStack _ _
    clear_value c1 c2
    exact .ite (hc2.setF (unwatched_hmcB (by decide)) _ _ _) hc2

theorem Kept.startList {c : Chip} (h : Kept A B c) (r : Nat) (addr : Nat) (n : Nat) : Kept A B (Machine.startList c r addr n) := by
  unfold Machine.startList
  exact h.modDma _ _

theorem Kept.dmaErrLoad {c : Chip} (h : Kept A B c) (r : Nat) (addr : Nat) (code : Nat) : Kept A B (Machine.dmaErrLoad c r addr code) := by
  unfold Machine.dmaErrLoad
  extract_lets +onlyGivenNames b
  split
  · exact h
  · extract_lets +onlyGivenNames c1
    have hc1 : Kept A B c1 := h.setRaw (unwatched (by decide)) _
    clear_value c1
    exact (hc1.setRaw (unwatched (by decide)) _).setRaw (unwatched (by decide)) _

theorem Kept.portAsk {c : Chip} (h : Kept A B c) (a : Nat) (n : Nat) (wr : Bool) (who : Reader) : Kept A B (Machine.portAsk c a n wr who) := by
  unfold Machine.portAsk
  exact .ite (h.quiet ((Quiet.refl _).enqBank _ _ _ _ _ _ _)) h

theorem Kept.meshAsk {c : Chip} (h : Kept A B c) (wr : Bool) (who : Reader) (as : List Nat) : Kept A B (Machine.meshAsk c wr who as) := by
  unfold Machine.meshAsk
  exact Kept.foldl h _ fun _ _ hd => hd.quiet ((Quiet.refl _).enqBank _ _ _ _ _ _ _)

theorem Kept.portReads {c : Chip} (h : Kept A B c) (who : Reader) (as : List Nat) : Kept A B (Machine.portReads c who as) := by
  unfold Machine.portReads
  exact h.meshAsk _ _ _

theorem Kept.meshRead {c : Chip} (h : Kept A B c) (as : List Nat) : Kept A B (Machine.meshRead c as) := by
  unfold Machine.meshRead
  exact h.portReads _ _

theorem Kept.meshWrite {c : Chip} (h : Kept A B c) (l : List (Nat × Word × Bool)) : Kept A B (Machine.meshWrite c l) := by
  unfold Machine.meshWrite
  exact (h.quiet ((Quiet.refl _).wrMarked _ _)).meshAsk _ _ _

theorem Kept.wardenWrite {c : Chip} (h : Kept A B c) (l : List (Nat × Word × Bool)) : Kept A B (Machine.wardenWrite c l) := by
  unfold Machine.wardenWrite
  exact h.meshWrite _

theorem Kept.engineWrite {c : Chip} (h : Kept A B c) (src : Nat) (spec : Bool) (who : Reader) (l : List (Nat × Word × Bool)) : Kept A B (Machine.engineWrite c src spec who l) := by
  unfold Machine.engineWrite
  split
  · exact h
  · split
    · exact h.quiet ((Quiet.refl _).sendHbm _ _ _ _ _)
    · exact (h.quiet ((Quiet.refl _).wrMarked _ _)).portAsk _ _ _ _

theorem Kept.putStatus {c : Chip} (h : Kept A B c) (r : Nat) (addr : Nat) (code : Nat) : Kept A B (Machine.putStatus c r addr code) := by
  unfold Machine.putStatus
  exact h.engineWrite _ _ _ _

theorem Kept.stopList {c : Chip} (h : Kept A B c) (r : Nat) (list : Nat) : Kept A B (Machine.stopList c r list) := by
  unfold Machine.stopList
  exact h.modDma _ _

theorem Kept.dmaFail {c : Chip} (h : Kept A B c) (r : Nat) (list : Nat) (addr : Nat) (code : Nat) : Kept A B (Machine.dmaFail c r list addr code) := by
  unfold Machine.dmaFail
  exact (((h.putStatus _ _ _).dmaErrLoad _ _ _).stopList _ _).report _ _ _

theorem Kept.dmaInterrupt {c : Chip} (h : Kept A B c) (r : Nat) (icores : Nat) (istrands : Nat) : Kept A B (Machine.dmaInterrupt c r icores istrands) := by
  unfold Machine.dmaInterrupt
  exact Kept.foldl h _ fun _ _ hd => hd.modStrand _ (fun hl => hl.setCreg (by decide) _)

theorem Kept.dmaFinish {c : Chip} (h : Kept A B c) (r : Nat) (d : DmaDesc) : Kept A B (Machine.dmaFinish c r d) := by
  unfold Machine.dmaFinish
  extract_lets +onlyGivenNames c1
  have hc1 : Kept A B c1 := h.modDma _ _
  clear_value c1
  split
  · exact hc1.dmaFail _ _ _ _
  · extract_lets +onlyGivenNames c2
    have hc2 : Kept A B c2 := hc1.putStatus _ _ _
    clear_value c2
    exact .ite (hc2.dmaInterrupt _ _ _) hc2

theorem Kept.dmaActivate {c : Chip} (h : Kept A B c) (r : Nat) : Kept A B (Machine.dmaActivate r c) := by
  unfold Machine.dmaActivate
  extract_lets +onlyGivenNames e
  split
  · exact h
  · split
    · exact h
    · extract_lets +onlyGivenNames who set c1
      have hc1 : Kept A B c1 := Kept.ite h (Kept.foldl (h.modDma _ _) _ fun _ _ hd => hd.portAsk _ _ _ _)
      clear_value c1
      split
      · exact hc1
      · extract_lets +onlyGivenNames x d c2
        have hc2 : Kept A B c2 := hc1.modDma _ _
        clear_value c2
        split
        · exact hc2.dmaFail _ _ _ _
        · extract_lets +onlyGivenNames desc c3
          have hc3 : Kept A B c3 := Kept.ite (hc2.setF (unwatched (by decide)) _ _ _) hc2
          clear_value c3
          exact hc3.modDma _ _

theorem Kept.setDesc {c : Chip} (h : Kept A B c) (r : Nat) (d : DmaDesc) : Kept A B (Machine.setDesc c r d) := by
  unfold Machine.setDesc
  exact h.modDma _ _

theorem Kept.pieceAsk {c : Chip} (h : Kept A B c) (r : Nat) (a : Nat) (n : Nat) (who : Reader) : Kept A B (Machine.pieceAsk c r a n who) := by
  unfold Machine.pieceAsk
  exact .ite (h.quiet ((Quiet.refl _).askHbm _ _ _ _ _)) (h.portAsk _ _ _ _)

theorem Kept.issuePiece {c : Chip} (h : Kept A B c) (r : Nat) (d : DmaDesc) : Kept A B (Machine.issuePiece c r d) := by
  unfold Machine.issuePiece
  extract_lets +onlyGivenNames p
  split
  · extract_lets +onlyGivenNames d1
    exact .ite (h.dmaFinish _ _) ((h.setDesc _ _).stopList _ _)
  · extract_lets +onlyGivenNames ws tag c1
    have hc1 : Kept A B c1 := (h.setDesc _ _).modDma _ _
    clear_value c1
    exact .ite hc1 (hc1.pieceAsk _ _ _ _)

theorem Kept.dmaPieceIssue {c : Chip} (h : Kept A B c) (r : Nat) : Kept A B (Machine.dmaPieceIssue r c) := by
  unfold Machine.dmaPieceIssue
  extract_lets +onlyGivenNames e
  split
  · exact h
  · extract_lets +onlyGivenNames ready c1
    have hc1 : Kept A B c1 := Kept.ite (h.bumpF (unwatched_dmaB (by decide)) _ _ _) h
    clear_value c1
    split
    · exact hc1
    · split
      · exact hc1
      · exact hc1.issuePiece _ _

theorem Kept.pieceDone {c : Chip} (h : Kept A B c) (r : Nat) (i : Nat) (p : DmaPiece) (d : DmaDesc) (ok : Bool) : Kept A B (Machine.pieceDone c r i p d ok) := by
  unfold Machine.pieceDone
  extract_lets +onlyGivenNames c1 c2 d1
  have hc1 : Kept A B c1 := h.quiet ((Quiet.refl _).mapReaders _)
  have hc2 : Kept A B c2 := hc1.modDma _ _
  clear_value c1 c2
  exact .ite (hc2.dmaFinish _ _) (Kept.ite (hc2.setDesc _ _) ((hc2.setDesc _ _).stopList _ _))

theorem Kept.dmaPieceWrite {c : Chip} (h : Kept A B c) (r : Nat) (i : Nat) : Kept A B (Machine.dmaPieceWrite r i c) := by
  unfold Machine.dmaPieceWrite
  extract_lets +onlyGivenNames e
  split
  · exact h
  · extract_lets +onlyGivenNames who
    split
    · exact h
    · split
      · exact h.modDma _ _
      · split
        · exact h.pieceDone _ _ _ _ _
        · split
          · exact h.pieceDone _ _ _ _ _
          · extract_lets +onlyGivenNames c1
            have hc1 : Kept A B c1 := h.engineWrite _ _ _ _
            clear_value c1
            exact .ite (hc1.modDma _ _) (hc1.pieceDone _ _ _ _ _)

theorem Kept.evalCurves {c : Chip} (h : Kept A B c) (k : Nat) (s : Nat) : Kept A B (Machine.evalCurves c k s) := by
  unfold Machine.evalCurves
  exact .ite h (Kept.foldl h _ fun _ _ hd => hd.modStack _ _)

theorem Kept.pass1 {c : Chip} (h : Kept A B c) (k : Nat) (s : Nat) : Kept A B (Machine.pass1 c k s).1 := by
  unfold Machine.pass1
  exact (h.quiet ((Quiet.refl _).wrWords _ _ _)).quiet ((Quiet.refl _).wrMarked _ _)

theorem Kept.pass2Skip {c : Chip} (h : Kept A B c) (k : Nat) (s : Nat) : Kept A B (Machine.pass2Skip c k s) := by
  unfold Machine.pass2Skip
  exact h.quiet ((Quiet.refl _).wrMarked _ _)

theorem Kept.pass2Signs {c : Chip} (h : Kept A B c) (k : Nat) (w : Pass2) : Kept A B (Machine.pass2Signs k w c) := by
  unfold Machine.pass2Signs
  extract_lets +onlyGivenNames b c1 c2 c3
  have hc1 : Kept A B c1 := ((h.orF (unwatched (by decide)) _ _ _).bumpF (unwatched (by decide)) _ _ _).bumpF (unwatched (by decide)) _ _ _
  have hc2 : Kept A B c2 := Kept.ite (hc1.report _ _ _) hc1
  have hc3 : Kept A B c3 := Kept.ite (hc2.modStack _ _) hc2
  clear_value c1 c2 c3
  exact Kept.foldl hc3 _ fun _ _ hd => hd.report _ _ _

theorem Kept.pass2Go {c : Chip} (h : Kept A B c) (k : Nat) (s : Nat) : Kept A B (Machine.pass2Go c k s) := by
  unfold Machine.pass2Go
  exact (h.quiet ((Quiet.refl _).wrMarked _ _)).pass2Signs _ _

theorem Kept.pumpProgress {c : Chip} (h : Kept A B c) (k : Nat) : Kept A B (Machine.pumpProgress k c) := by
  unfold Machine.pumpProgress
  exact Kept.ite h (Kept.fresh (h.setF (unwatched_pmpB (by decide)) _ _ _) _)

theorem Kept.pumpStart {c : Chip} (h : Kept A B c) (k : Nat) (pass : Nat) (s : Nat) : Kept A B (Machine.pumpStart c k pass s) := by
  unfold Machine.pumpStart
  extract_lets +onlyGivenNames b
  split
  · exact h
  · extract_lets +onlyGivenNames c1 c2
    have hc1 : Kept A B c1 := h.modStack _ _
    have hc2 : Kept A B c2 := (hc1.setF (unwatched_pmpB (by decide)) _ _ _).setF (unwatched_pmpB (by decide)) _ _ _
    clear_value c1 c2
    exact .ite ((hc2.setRaw (unwatched_pmpB (by decide)) _).evalCurves _ _) hc2

theorem Kept.pumpEnd {c : Chip} (h : Kept A B c) (k : Nat) : Kept A B (Machine.pumpEnd c k) := by
  unfold Machine.pumpEnd
  extract_lets +onlyGivenNames c1
  have hc1 : Kept A B c1 := (h.setF (unwatched_pmpB (by decide)) _ _ _).setF (unwatched_pmpB (by decide)) _ _ _
  clear_value c1
  exact hc1.modStack _ _

theorem Kept.voteReport {c : Chip} (h : Kept A B c) (k : Nat) (x : Vote) : Kept A B (Machine.voteReport c k x) := by
  unfold Machine.voteReport
  exact .ite (h.report _ _ _) h

theorem Kept.pass1Complete {c : Chip} (h : Kept A B c) (k : Nat) : Kept A B (Machine.pass1Complete k c) := by
  unfold Machine.pass1Complete
  extract_lets +onlyGivenNames p
  split
  · exact h
  · extract_lets +onlyGivenNames y fl c1
    have hc1 : Kept A B c1 := ((h.pass1 _ _).orF (unwatched (by decide)) _ _ _).setRaw (unwatched_pmpB (by decide)) _
    clear_value c1
    exact (hc1.pumpEnd _).voteReport _ _

theorem Kept.pass2Complete {c : Chip} (h : Kept A B c) (k : Nat) : Kept A B (Machine.pass2Complete k c) := by
  unfold Machine.pass2Complete
  extract_lets +onlyGivenNames p
  split
  · exact h
  · exact .ite ((h.pass2Go _ _).pumpEnd _) (Kept.ite ((h.pass2Skip _ _).pumpEnd _) h)

theorem Kept.pumpAbandon {c : Chip} (h : Kept A B c) (k : Nat) : Kept A B (Machine.pumpAbandon k c) := by
  unfold Machine.pumpAbandon
  extract_lets +onlyGivenNames p
  split
  · exact h
  · extract_lets +onlyGivenNames d w d1 d2
    have hd : Kept A B d := h.pumpProgress _
    have hd1 : Kept A B d1 := Kept.quiet (Kept.same hd) ((Quiet.refl _).wrMarked _ _)
    have hd2 : Kept A B d2 := Kept.ite (hd1.orF (unwatched (by decide)) _ _ _) (hd1.pass2Signs _ _)
    clear_value d d1 d2
    exact hd2.modStack _ _

end Sys2Proof.Machine
end

section
/-! PROOFS. What keeps every MODE legal and the settings agreed: the tile unit, the stops of blocks, the bus (spec/05, spec/01). -/

-- One after another: started side by side, this many short proofs take more memory than the check has.
set_option Elab.async false

open Sys2Proof Sys2Proof.Machine
namespace Sys2Proof.Machine
variable {A B : Prop}

/-! ### Work at a slot buffer (R263 to R271) -/

/-- Where work at a slot buffer succeeds, the package that its result holds keeps both. -/
def KeptBuf (A B : Prop) {α : Type} (g : α → Chip) (m : Buf α) : Prop := ∀ l r, m l = .ok r → Kept A B (g r.1)

namespace KeptBuf
variable {α β : Type} {g : α → Chip} {f : β → Chip}

theorem pure {x : α} (h : Kept A B (g x)) : KeptBuf A B g (Pure.pure x : Buf α) := fun _ r hr => by cases hr; exact h

theorem bind {m : Buf α} {k : α → Buf β} (h : KeptBuf A B g m) (hk : ∀ x, Kept A B (g x) → KeptBuf A B f (k x)) : KeptBuf A B f (m >>= k) := by
  intro l r hr
  cases hm : m l with
  | error e => rw [show (m >>= k) l = (m l >>= fun p => k p.1 p.2) from rfl, hm] at hr; cases hr
  | ok p => rw [show (m >>= k) l = (m l >>= fun p => k p.1 p.2) from rfl, hm] at hr; exact hk p.1 (h l p hm) p.2 r hr

/-- Work whose result holds no package. -/
theorem read {m : Buf α} {k : α → Buf β} (hk : ∀ x, KeptBuf A B f (k x)) : KeptBuf A B f (m >>= k) := by
  intro l r hr
  cases hm : m l with
  | error e => rw [show (m >>= k) l = (m l >>= fun p => k p.1 p.2) from rfl, hm] at hr; cases hr
  | ok p => rw [show (m >>= k) l = (m l >>= fun p => k p.1 p.2) from rfl, hm] at hr; exact hk p.1 p.2 r hr

variable {c : Chip}

theorem bufWr (h : Kept A B c) (x : BufAt) (a : Nat) (ws : List Word) : KeptBuf A B id (Machine.bufWr x c a ws) := by
  intro l r hr
  unfold Machine.bufWr at hr
  split at hr
  · cases hr
  · cases hr; exact h.wrOwn _ _ _

theorem wrEntry (h : Kept A B c) (x : BufAt) (sl : Slot) (e : Nat) (v : List Nat) : KeptBuf A B id (Machine.wrEntry x c sl e v) := bufWr h _ _ _

theorem wrDepth (h : Kept A B c) (x : BufAt) (sl : Slot) (d : Nat) : KeptBuf A B id (Machine.wrDepth x c sl d) := bufWr h _ _ _

theorem pushEntry (h : Kept A B c) (x : BufAt) (sl : Slot) (d l : Nat) (v : List Nat) : KeptBuf A B id (Machine.pushEntry x c sl d l v) :=
  (wrEntry h _ _ _ _).bind fun _ h1 => (bufWr h1 _ _ _).bind fun _ h2 => wrDepth h2 _ _ _

theorem promote (h : Kept A B c) (x : BufAt) (sl : Slot) (j : Nat) : KeptBuf A B Prod.fst (Machine.promote x c sl j) := by
  refine read fun d => ?_
  split
  · split
    · exact (pushEntry h _ _ _ _ _).bind fun _ h1 => pure h1
    · exact read fun _ => (wrEntry h _ _ _ _).bind fun _ h1 => pure h1
  · exact read fun _ => (pushEntry h _ _ _ _ _).bind fun _ h1 => pure h1

theorem closeSlot (h : Kept A B c) (x : BufAt) (sl : Slot) : KeptBuf A B Prod.fst (Machine.closeSlot x c sl) := by
  unfold Machine.closeSlot
  extract_lets p part
  refine read fun d => ?_
  extract_lets +onlyGivenNames jp
  have hjp (r : List Nat × Nat) : KeptBuf A B Prod.fst (jp r) := by
    refine (wrDepth h _ _ _).bind fun c1 h1 => ?_
    split
    · exact pure (Kept.fresh h1 _)
    · exact pure h1
  clear_value jp
  split
  · split
    · exact read hjp
    · refine read fun e => ?_
      split
      · exact read hjp
      · exact read hjp
  · exact read fun f => read hjp

theorem macBlocks (x : BufAt) (op : TileOp) (t : Tile) (bk : Bank) (sr : Bool) : ∀ (l : List (Nat × Nat)) {c : Chip} (sl : Slot) (fl : Nat),
    Kept A B c → KeptBuf A B Prod.fst (Machine.macBlocks x op t bk sr l c sl fl)
  | [], _, _, _, h => pure h
  | (g, k0) :: r, c, sl, fl, h => by
    have h1 : Kept A B { c with fresh := c.fresh + 1024 } := h.fresh _
    unfold Machine.macBlocks
    generalize ({ c with fresh := c.fresh + 1024 } : Chip) = d at h1
    extract_lets y j s1 f1
    split
    · exact (promote h1 _ _ _).bind fun _ h2 => macBlocks x op t bk sr r _ _ h2
    · exact macBlocks x op t bk sr r _ _ h1

end KeptBuf

theorem Kept.setSlot {c : Chip} (h : Kept A B c) (n : Nat) (key : Nat) (x : Slot) : Kept A B (Machine.setSlot c n key x) := by
  unfold Machine.setSlot
  exact h.modCore _

theorem Kept.setTile {c : Chip} (h : Kept A B c) (n : Nat) (t : Nat) (x : Tile) : Kept A B (Machine.setTile c n t x) := by
  unfold Machine.setTile
  exact h.modCore _

theorem Kept.askTile {c : Chip} (h : Kept A B c) (u : StrandId) (id : Nat) (a : Nat) (n : Nat) : Kept A B (Machine.askTile u id c a n) := by
  unfold Machine.askTile
  extract_lets +onlyGivenNames sp
  exact Kept.foldl h _ fun _ _ hd => hd.quiet ((Quiet.refl _).askWords _ _ _ _ _)

theorem Kept.askOp {c : Chip} (h : Kept A B c) (u : StrandId) (op : TileOp) : Kept A B (Machine.askOp u op c) := by
  unfold Machine.askOp
  exact Kept.foldl h _ fun _ _ hd => hd.askTile _ _ _ _

theorem Kept.launch {c : Chip} (h : Kept A B c) (u : StrandId) (k : TileKind) : Kept A B (Machine.launch u k c) := by
  unfold Machine.launch
  extract_lets +onlyGivenNames st op
  exact h.modStrandSame _

theorem Kept.tileIssue {c : Chip} (h : Kept A B c) (w : W32) (u : StrandId) (illegal : Bool) (srcs : List Nat) (bits : List Nat) (mid : List (Option Exc)) (rd : Option Nat) (wr : Bool) (segs : List Seg) (k : TileKind) : Kept A B (Machine.tileIssue w u illegal srcs bits mid rd wr segs k c) := by
  unfold Machine.tileIssue
  extract_lets +onlyGivenNames st
  exact h.issue _ _ h fun _ => h.launch _ _

theorem Kept.commitLoad {c : Chip} (h : Kept A B c) (u : StrandId) (op : TileOp) (t : Nat) (row : Nat → Tile × Bool → Tile × Bool) : Kept A B (Machine.commitLoad c u op t row) := by
  unfold Machine.commitLoad
  extract_lets +onlyGivenNames m x
  exact h.setTile _ _ _

theorem Kept.commitWeights {c : Chip} (h : Kept A B c) (u : StrandId) (op : TileOp) (a : Nat) (ra : W64) (rb : W64) (trans : Bool) : Kept A B (Machine.commitWeights c u op a ra rb trans) := by
  unfold Machine.commitWeights
  extract_lets +onlyGivenNames b
  exact h.modCore _

theorem Kept.orTflags {c : Chip} (h : Kept A B c) (u : StrandId) (fl : Nat) : Kept A B (Machine.orTflags c u fl) := by
  unfold Machine.orTflags
  exact h.modStrandSame _

theorem Kept.flipBank {c : Chip} (h : Kept A B c) (n a : Nat) :
    Kept A B (Machine.modCore c n (fun k => { k with active := tput (fun _ => false) k.active a (!tget (fun _ => false) k.active a) })) := h.modCore n

theorem KeptBuf.commitMac {c : Chip} (h : Kept A B c) (u : StrandId) (op : TileOp) (sl a t b : Nat) (swap sr : Bool) :
    KeptBuf A B id (Machine.commitMac c u op sl a t b swap sr) := by
  refine (KeptBuf.macBlocks _ _ _ _ _ _ _ _ h).bind fun x hx => .pure ?_
  have h1 := hx.setSlot u.core.val (slotKey a sl) { x.2.1 with spoiled := (slotOf x.1 u.core.val (slotKey a sl)).spoiled }
  exact Kept.orTflags (.ite (h1.flipBank _ _) h1) _ _

theorem KeptBuf.commitZero {c : Chip} (h : Kept A B c) (u : StrandId) (op : TileOp) (sl a : Nat) (desc buf : W64) :
    KeptBuf A B id (Machine.commitZero c u op sl a desc buf) := by
  unfold Machine.commitZero
  extract_lets +onlyGivenNames n key x
  split
  · exact .pure (h.setSlot _ _ _)
  · exact (KeptBuf.bufWr h _ _ _).bind fun _ h1 => .pure (h1.setSlot _ _ _)

theorem Kept.readTile {c : Chip} (h : Kept A B c) (u : StrandId) (n key t fl : Nat) (s : Slot) (y : Tile) :
    Kept A B (Machine.orTflags (Machine.setTile (Machine.setSlot c n key s) n t y) u fl) :=
  Kept.orTflags (Kept.setTile (h.setSlot _ _ _) _ _ _) _ _

theorem KeptBuf.commitRead {c : Chip} (h : Kept A B c) (u : StrandId) (sl a t fmt rm b : Nat) :
    KeptBuf A B id (Machine.commitRead c u sl a t fmt rm b) := by
  unfold Machine.commitRead
  extract_lets +onlyGivenNames n key s
  split
  · exact (KeptBuf.closeSlot h _ _).bind fun _ h1 => .pure (h1.readTile _ _ _ _ _ _ _)
  · exact .pure (h.readTile _ _ _ _ _ _ _)

theorem Kept.commitSpill {c : Chip} (h : Kept A B c) (u : StrandId) (op : TileOp) (sl : Nat) (a : Nat) (ra : W64) (z : Bool) : Kept A B (Machine.commitSpill c u op sl a ra z) := by
  unfold Machine.commitSpill
  extract_lets +onlyGivenNames n key s c1
  have hc1 : Kept A B c1 := h.quiet ((Quiet.refl _).coreWrite _ _ _ _)
  clear_value c1
  exact .ite (hc1.setSlot _ _ _) hc1

theorem KeptBuf.commitOp {c : Chip} (h : Kept A B c) (u : StrandId) (op : TileOp) : KeptBuf A B id (Machine.commitOp c u op) := by
  unfold Machine.commitOp
  extract_lets +onlyGivenNames sp
  split
  · exact .pure (h.commitLoad _ _ _ _)
  · exact .pure (h.commitLoad _ _ _ _)
  · exact .pure (h.quiet ((Quiet.refl _).coreWrite _ _ _ _))
  · exact .pure (h.commitWeights _ _ _ _ _ _)
  · exact .pure (h.commitWeights _ _ _ _ _ _)
  · exact .commitMac h _ _ _ _ _ _ _ _
  · exact .commitZero h _ _ _ _ _ _
  · exact .commitRead h _ _ _ _ _ _ _
  · exact .pure (h.commitSpill _ _ _ _ _ _)

theorem Kept.commitRun {c : Chip} (h : Kept A B c) {u : StrandId} {op : TileOp} {r : Chip × List BufAcc} (hr : Machine.commitRun c u op = .ok r) :
    Kept A B r.1 := KeptBuf.commitOp h u op [] r hr

theorem Kept.bufferFault {c : Chip} (h : Kept A B c) (u : StrandId) (op : TileOp) (f : Nat × Nat) : Kept A B (Machine.bufferFault c u op f) := by
  unfold Machine.bufferFault
  extract_lets +onlyGivenNames c1
  have hc1 : Kept A B c1 := by
    simp only [c1]
    split
    · exact Kept.setSlot (Kept.same (h.quiet ((Quiet.refl _).loseBuffer _ _))) _ _ _
    · exact h
  clear_value c1
  exact hc1.modStrandSame _

theorem Kept.askBuf {c : Chip} (h : Kept A B c) (u : StrandId) (op : TileOp) (l : List BufAcc) : Kept A B (Machine.askBuf u op l c) := by
  unfold Machine.askBuf
  exact Kept.foldl h _ fun _ _ hd => Kept.ite (hd.quiet ((Quiet.refl _).askClsWrites _ _ _)) (hd.askTile _ _ _ _)

theorem Kept.setAsked {c : Chip} (h : Kept A B c) (u : StrandId) (op : TileOp) : Kept A B (Machine.setAsked u op c) := by
  unfold Machine.setAsked
  exact h.quiet ((Quiet.refl _).modOp _ _ _ _)

theorem Kept.landOp {c : Chip} (h : Kept A B c) (u : StrandId) : Kept A B (Machine.landOp u c) := by
  unfold Machine.landOp
  exact h.modStrandSame _

theorem Kept.beginOp {c : Chip} (h : Kept A B c) (u : StrandId) (op : TileOp) : Kept A B (Machine.beginOp u op c) := by
  unfold Machine.beginOp
  split
  · exact (h.landOp _).bufferFault _ _ _
  · next hr => exact Kept.setAsked (Kept.ite (h.commitRun hr) ((h.askOp _ _).askBuf _ _ _)) _ _

theorem Kept.endOp {c : Chip} (h : Kept A B c) (u : StrandId) (op : TileOp) : Kept A B (Machine.endOp u op c) := by
  unfold Machine.endOp
  split
  · exact h.landOp _
  split
  · exact (h.landOp _).bufferFault _ _ _
  · next hr => exact (h.commitRun hr).landOp _

theorem Kept.tileCommit {c : Chip} (h : Kept A B c) (u : StrandId) : Kept A B (Machine.tileCommit u c) := by
  unfold Machine.tileCommit
  split
  · exact h
  · extract_lets +onlyGivenNames c1
    have hc1 : Kept A B c1 := Kept.ite h (h.beginOp _ _)
    clear_value c1
    split
    · exact hc1
    · exact .ite hc1 (hc1.endOp _ _)

theorem Kept.stopLoss {c : Chip} (h : Kept A B c) (b : BlockId) : Kept A B (Machine.stopLoss b c) := by
  unfold Machine.stopLoss
  split
  · exact Kept.quiet (Kept.foldl h _ fun _ _ hd => hd.quiet ((Quiet.refl _).tileDiscard _)) ((Quiet.refl _).specClose _ _)
  · exact h.quiet ((Quiet.refl _).dmaAbandon _)
  · exact h.pumpAbandon _
  · exact h.quiet ((Quiet.refl _).dropStack _)
  · exact h
  · exact h
  · exact h
  · exact h
  · exact h

theorem Kept.stopHard {c : Chip} (h : Kept A B c) (b : BlockId) : Kept A B (Machine.stopHard b c) := by
  unfold Machine.stopHard
  exact .ite h ((h.stopLoss _).hwStop _)

theorem Kept.drainLoss {c : Chip} (h : Kept A B c) (b : BlockId) : Kept A B (Machine.drainLoss b c) := by
  unfold Machine.drainLoss
  split
  · exact h.modDma _ _
  · exact h.pumpAbandon _
  · exact h

theorem Kept.blockDrained {c : Chip} (h : Kept A B c) (b : BlockId) : Kept A B (Machine.blockDrained b c) := by
  unfold Machine.blockDrained
  split
  · exact h
  extract_lets took late c1
  have hc1 : Kept A B c1 := (h.drainLoss b).setState b (by decide)
  clear_value c1
  have hl : Kept A B (Machine.setF c1 b 0x002 9 9 1) := hc1.setMark b (by decide) 1
  exact Kept.settle (.ite hl hc1) b

theorem Kept.stopHung {c : Chip} (h : Kept A B c) (b : BlockId) : Kept A B (Machine.stopHung b c) := by
  unfold Machine.stopHung
  split
  · exact h
  · extract_lets +onlyGivenNames c1
    have hc1 : Kept A B c1 := Kept.ite (h.setMark _ (hi := 9) (lo := 9) (by decide) _) h
    clear_value c1
    exact Kept.report (Kept.same hc1) _ _ _

theorem Kept.aimLevel {c : Chip} (h : Kept A B c) (r : Nat) : Kept A B (Machine.aimLevel r c) := by
  unfold Machine.aimLevel
  extract_lets +onlyGivenNames t
  exact h.modRoom _ _

theorem Kept.levelChangeDone {c : Chip} (h : Kept A B c) (r : Nat) : Kept A B (Machine.levelChangeDone r c) := by
  unfold Machine.levelChangeDone
  split
  · exact h
  · exact (h.setF (unwatched (by decide)) _ _ _).modRoom _ _

theorem Kept.scacheInv {c : Chip} (h : Kept A B c) (r : Nat) (mask : Nat) : Kept A B (Machine.scacheInv r mask c) := by
  unfold Machine.scacheInv
  exact Kept.foldl h _ fun _ _ hd => hd.modCore _

theorem Kept.padHold {c : Chip} (h : Kept A B c) (b : BlockId) : Kept A B (Machine.padHold b c) := by
  unfold Machine.padHold
  split
  · exact .ite h (h.setF (unwatched (by decide)) _ _ _)
  · exact .ite (h.setF (unwatched_off (by simp) (by decide)) _ _ _) h
  · exact h

theorem Kept.plReq {c : Chip} (h : Kept A B c) (r : Nat) (lvl : Nat) : Kept A B (Machine.plReq r lvl c) := by
  unfold Machine.plReq
  exact (h.setF (unwatched (by decide)) _ _ _).aimLevel _

theorem Kept.clkOn {c : Chip} (h : Kept A B c) (r : Nat) : Kept A B (Machine.clkOn r c) := by
  unfold Machine.clkOn
  exact h.setF (unwatched (by decide)) _ _ _

theorem Kept.ethClear {c : Chip} (h : Kept A B c) (n : Nat) : Kept A B (Machine.ethClear n c) := by
  unfold Machine.ethClear
  extract_lets +onlyGivenNames c1
  have hc1 : Kept A B c1 := Kept.foldl h _ fun _ _ hd => hd.setRaw (unwatched_ethB (by omega)) _
  clear_value c1
  exact Kept.setF (Kept.same hc1) (unwatched (by decide)) _ _ _

theorem Kept.ethKeyClear {c : Chip} (h : Kept A B c) (n : Nat) : Kept A B (Machine.ethKeyClear n c) := by
  unfold Machine.ethKeyClear
  exact .ite (h.cfgReject _ _) (h.ethClear _)

theorem Kept.ethKeyWrite {c : Chip} (h : Kept A B c) (n : Nat) (i : Nat) (v : W32) : Kept A B (Machine.ethKeyWrite n i v c) := by
  unfold Machine.ethKeyWrite
  split
  · exact h.keyReject _ _ _
  · extract_lets +onlyGivenNames m c1
    have hc1 : Kept A B c1 := Kept.setRaw (Kept.same h) (unwatched_ethB (by omega)) _
    clear_value c1
    exact .ite (hc1.setF (unwatched (by decide)) _ _ _) hc1

theorem Kept.hmcCmd {c : Chip} (h : Kept A B c) (k : Nat) (v : Nat) : Kept A B (Machine.hmcCmd k v c) := by
  unfold Machine.hmcCmd
  extract_lets +onlyGivenNames b
  split
  · exact .ite (h.cfgReject _ _) (Kept.ite (h.cfgReject _ _) h)
  · extract_lets +onlyGivenNames c1
    have hc1 : Kept A B c1 := Kept.ite (h.wipe _) h
    clear_value c1
    exact .ite (hc1.hmcKeyClear _) hc1

theorem Kept.busWrite {c : Chip} (h : Kept A B c) (b : BlockId) (off : Nat) (v : W32) : Kept A B (Machine.busWrite b off v c) := by
  unfold Machine.busWrite
  split
  · exact h
  · split
    · exact (h.regWrite _ _ _).settle _
    · split
      · split
        · exact (h.regWrite _ _ _).scacheInv _ _
        · exact .ite ((h.regWrite _ _ _).aimLevel _) (h.regWrite _ _ _)
      · exact .ite (h.hmcCmd _ _) (Kept.ite (h.hmcKeyWrite _ _ _) (h.regWrite _ _ _))
      · split
        · exact .ite (h.ethKeyClear _) h
        · exact .ite (Kept.ite (h.padHold _) h) (Kept.ite (h.ethKeyWrite _ _ _) (h.regWrite _ _ _))
      · exact .ite (Kept.ite (h.padHold _) h) (h.regWrite _ _ _)
      · exact h.regWrite _ _ _

theorem Kept.setRun1 {c : Chip} (h : Kept A B c) (b : BlockId) (v : Bool) : Kept A B (Machine.setRun1 b v c) := by
  unfold Machine.setRun1
  exact h.busWrite _ _ _

theorem Kept.busRead {c : Chip} (h : Kept A B c) (b : BlockId) (off : Nat) : Kept A B (Machine.busRead b off c) := by
  unfold Machine.busRead
  split
  · exact Kept.same h
  · extract_lets +onlyGivenNames c1
    have hc1 : Kept A B c1 := by
      simp only [c1]
      split
      · exact .ite (h.pumpProgress _) h
      · exact h
    clear_value c1
    exact Kept.regReadClear (Kept.same hc1) _ _

end Sys2Proof.Machine
end

section
/-! PROOFS. What keeps every MODE legal and the settings agreed: power, sleep, the event log, the ring and the schools' halts (spec/01, spec/11, spec/13). -/

-- One after another: started side by side, this many short proofs take more memory than the check has.
set_option Elab.async false

open Sys2Proof Sys2Proof.Machine
namespace Sys2Proof.Machine
variable {A B : Prop}

/-! ### Other parts of the package -/

namespace Kept
variable {c : Chip}

theorem mem (h : Kept A B c) (x) : Kept A B { c with mem := x } := h.same

theorem pois (h : Kept A B c) (x) : Kept A B { c with pois := x } := h.same

theorem crypt (h : Kept A B c) (x) : Kept A B { c with crypt := x } := h.same

theorem lost (h : Kept A B c) (x) : Kept A B { c with lost := x } := h.same

theorem since (h : Kept A B c) (x) : Kept A B { c with since := x } := h.same

theorem waiting (h : Kept A B c) (x) : Kept A B { c with waiting := x } := h.same

theorem stk (h : Kept A B c) (x) : Kept A B { c with stk := x } := h.same

theorem plls (h : Kept A B c) (x) : Kept A B { c with plls := x } := h.same

theorem meshOn (h : Kept A B c) (x) : Kept A B { c with meshOn := x } := h.same

theorem portOff (h : Kept A B c) (x) : Kept A B { c with portOff := x } := h.same

theorem ethKeys (h : Kept A B c) (x) : Kept A B { c with ethKeys := x } := h.same

theorem floors (h : Kept A B c) (x) : Kept A B { c with floors := x } := h.same

theorem plHold (h : Kept A B c) (x) : Kept A B { c with plHold := x } := h.same

theorem nowUs (h : Kept A B c) (x) : Kept A B { c with nowUs := x } := h.same

theorem stopAt (h : Kept A B c) (x) : Kept A B { c with stopAt := x } := h.same

theorem hung (h : Kept A B c) (x) : Kept A B { c with hung := x } := h.same

theorem readOut (h : Kept A B c) (x) : Kept A B { c with readOut := x } := h.same

theorem reports (h : Kept A B c) (x) : Kept A B { c with reports := x } := h.same

theorem seed (h : Kept A B c) (x) : Kept A B { c with seed := x } := h.same

theorem rooms (h : Kept A B c) (x) : Kept A B { c with rooms := x } := h.same

end Kept

theorem Kept.mendShard {s : State} (h : Kept A B s.chip) : Kept A B (Machine.mendShard s).chip := by
  unfold Machine.mendShard
  refine Kept.modBell (Kept.modChip ?_) _
  exact Kept.stk h _

theorem Kept.tickFresh {s : State} (h : Kept A B s.chip) (n : Nat) : Kept A B (Machine.tickFresh n s).chip := by
  unfold Machine.tickFresh
  refine Kept.modChip ?_
  exact Kept.fresh h _

theorem Kept.sendVector {s : State} (h : Kept A B s.chip) (p : Nat) (v : Nat) : Kept A B (Machine.sendVector p v s).chip := by
  unfold Machine.sendVector
  exact h.modPcie _ _

theorem Kept.flushLog {s : State} (h : Kept A B s.chip) : Kept A B (Machine.flushLog s).chip := by
  unfold Machine.flushLog
  extract_lets +onlyGivenNames w
  exact (h.modFlash _).modWarden _

theorem Kept.logEvent {s : State} (h : Kept A B s.chip) (src : Nat) (code : Nat) (data : List Nat) : Kept A B (Machine.logEvent src code data s).chip := by
  unfold Machine.logEvent
  extract_lets +onlyGivenNames w e s1 s2
  have hs1 : Kept A B s1.chip := h.modWarden _
  have hs2 : Kept A B s2.chip := Kept.iteS hs1.flushLog hs1
  clear_value s1 s2
  exact (hs2.sendVector _ _).sendVector _ _

theorem Kept.putSetting {s : State} (h : Kept A B s.chip) (key : Nat) (val : List Byte) : Kept A B (Machine.putSetting key val s).chip := by
  unfold Machine.putSetting
  exact h.modFlash _

theorem Kept.countRefusal {s : State} (h : Kept A B s.chip) (refuser : Nat) (req : Nat) (kind : Nat) : Kept A B (Machine.countRefusal refuser req kind s).chip := by
  unfold Machine.countRefusal
  extract_lets +onlyGivenNames hit rs rs1 s1 due
  have hs1 : Kept A B s1.chip := h.modPower _
  clear_value s1
  exact .iteS ((hs1.modPower _).logEvent _ _ _) hs1

theorem Kept.setIpend {c : Chip} (h : Kept A B c) (bits : W64) (u : StrandId) : Kept A B (Machine.setIpend bits u c) := by
  unfold Machine.setIpend
  exact h.modStrand _ (fun hl => hl.setCreg (by decide) _)

theorem Kept.queueCtl {s : State} (h : Kept A B s.chip) (p : Nat) (typ : Nat) (f : Frame) : Kept A B (Machine.queueCtl p typ f s).chip := by
  unfold Machine.queueCtl
  exact h.modEth _ _

theorem Kept.queueBell {s : State} (h : Kept A B s.chip) (typ : Nat) (f : Frame) : Kept A B (Machine.queueBell typ f s).chip := by
  unfold Machine.queueBell
  exact (h.queueCtl _ _ _).queueCtl _ _ _

theorem Kept.onBar {s : State} (h : Kept A B s.chip) (p : Nat) {f : State → State} (hf : Kept A B (f s).chip) : Kept A B (Machine.onBar p f s).chip := by
  unfold Machine.onBar
  exact .iteS h (.iteS (h.modPcie _ _) (.iteS h hf))

theorem Kept.hostWrite {s : State} (h : Kept A B s.chip) (p : Nat) (sp : HostSpace) (off : Nat) (bs : List Byte) : Kept A B (Machine.hostWrite p sp off bs s).chip := by
  unfold Machine.hostWrite
  split
  · exact h.onBar _ (h.modPigeon _ _)
  · exact h.onBar _ (h.modPcie _ _)
  · exact .iteS (h.modPcie _ _) h

theorem Kept.answer {s : State} (h : Kept A B s.chip) (ph : Nat) (long : Bool) (r : Reply) : Kept A B (Machine.answer ph long r s).chip := by
  unfold Machine.answer
  extract_lets +onlyGivenNames g
  exact .iteS (h.modPigeon _ _) (Kept.iteS ((h.modPigeon _ _).sendVector _ _) (h.modPigeon _ _))

theorem Kept.perform {s : State} (hk : Kept A B s.chip) (p : Fin 2) (h : Fin 8) (op : Nat) {f : Cmd → State → State}
    (hf : ∀ c, Kept A B (f c s).chip) : Kept A B (Machine.perform p h op s f).chip := by
  unfold Machine.perform
  split
  · exact .iteS (hf _) hk
  · exact hk

theorem Kept.finish {s : State} (h : Kept A B s.chip) (c : Cmd) (r : Reply) : Kept A B (Machine.finish c r s).chip := by
  unfold Machine.finish
  exact (h.modWarden _).answer _ _ _

theorem Kept.background {s : State} (h : Kept A B s.chip) (c : Cmd) (r : Option Reply) : Kept A B (Machine.background c r s).chip := by
  unfold Machine.background
  exact h.modWarden _

theorem Kept.longResult {s : State} (h : Kept A B s.chip) (r : Reply) : Kept A B (Machine.longResult r s).chip := by
  unfold Machine.longResult
  exact h.modWarden _

theorem Kept.setOwner {s : State} (h : Kept A B s.chip) (new : Nat) (reason : Nat) : Kept A B (Machine.setOwner new reason s).chip := by
  unfold Machine.setOwner
  extract_lets +onlyGivenNames old s1
  have hs1 : Kept A B s1.chip := h.modWarden _
  clear_value s1
  exact ((hs1.logEvent _ _ _).sendVector _ _).sendVector _ _

theorem Kept.linkChange {s : State} (h : Kept A B s.chip) (p : Nat) (link : Option PcieLink) : Kept A B (Machine.linkChange p link s).chip := by
  unfold Machine.linkChange
  exact .iteS h (h.modPcie _ _)

theorem Kept.ownerTimedOut {s : State} (h : Kept A B s.chip) : Kept A B (Machine.ownerTimedOut s).chip := by
  unfold Machine.ownerTimedOut
  split
  · exact h
  · exact .iteS (h.setOwner _ _) h

theorem Kept.pcieReset {s : State} (h : Kept A B s.chip) (p : Nat) (kind : PcieResetKind) : Kept A B (Machine.pcieReset p kind s).chip := by
  unfold Machine.pcieReset
  extract_lets +onlyGivenNames s1
  have hs1 : Kept A B s1.chip := Kept.iteS h (h.linkChange _ _)
  clear_value s1
  exact hs1.modPcie _ _

theorem Kept.waitEnd {c : Chip} (h : Kept A B c) (w : W32) (u : StrandId) : Kept A B (Machine.waitEnd w u c) := by
  unfold Machine.waitEnd
  split
  · exact h
  · split
    · exact (h.earlySlot _).takeExc _ _ _
    · split
      · exact (h.faultSlot _).takeExc _ _ _
      · exact (h.tookSlot _).modStrandSame _

theorem Kept.setPower {c : Chip} (h : Kept A B c) (r : Nat) (p : RoomPower) : Kept A B (Machine.setPower r p c) := by
  unfold Machine.setPower
  exact (((h.modRoom _ _).setF (unwatched (by decide)) _ _ _).settle _).settle _

theorem Kept.coreWake {c : Chip} (h : Kept A B c) (core : Nat) : Kept A B (Machine.coreWake core c) := by
  unfold Machine.coreWake
  exact .ite (Kept.foldl h _ fun _ _ hd => hd.strandRun _ _) h

theorem Kept.powerDone {s : State} (h : Kept A B s.chip) : Kept A B (Machine.powerDone s).chip := by
  unfold Machine.powerDone
  split
  · exact h
  · exact .iteS (h.finish _ _) h

theorem Kept.askReached {s : State} (h : Kept A B s.chip) (r : Nat) : Kept A B (Machine.askReached r s).chip := by
  unfold Machine.askReached
  split
  · split
    · refine Kept.powerDone (Kept.modChip ?_)
      exact h.modRoom _ _
    · exact h
  · exact h

theorem Kept.corePause {s : State} (h : Kept A B s.chip) (core : Nat) : Kept A B (Machine.corePause core s).chip := by
  unfold Machine.corePause
  split
  · refine Kept.askReached (Kept.modChip ?_) _
    exact h.modCore _
  · exact h

theorem Kept.dropCaches {c : Chip} (h : Kept A B c) (r : Nat) : Kept A B (Machine.dropCaches r c) := by
  unfold Machine.dropCaches
  exact Kept.foldl h _ fun _ _ hd => hd.modCore _

theorem Kept.recessNow {c : Chip} (h : Kept A B c) (r : Nat) : Kept A B (Machine.recessNow r c) := by
  unfold Machine.recessNow
  exact ((h.dropCaches _).modRoom _ _).setPower _ _

theorem Kept.recessEntry {s : State} (h : Kept A B s.chip) (r : Nat) : Kept A B (Machine.recessEntry r s).chip := by
  unfold Machine.recessEntry
  split
  · exact Kept.askReached (Kept.modChip (h.recessNow _)) _
  · split
    · exact h
    · split
      · exact h.countRefusal _ _ _
      · exact Kept.modChip (h.setPower _ _)
  · exact h

theorem Kept.loseMemory {c : Chip} (h : Kept A B c) (r : Nat) : Kept A B (Machine.loseMemory r c) := by
  unfold Machine.loseMemory
  extract_lets +onlyGivenNames a mine
  exact Kept.same h

theorem Kept.loseSlots {c : Chip} (h : Kept A B c) (n : Nat) : Kept A B (Machine.loseSlots n c) := by
  unfold Machine.loseSlots
  extract_lets +onlyGivenNames d
  have hd : Kept A B d := h.modCore _
  clear_value d
  exact hd.fresh _

theorem Kept.powerOff {c : Chip} (h : Kept A B c) (n : Nat) : Kept A B (Machine.modCore c n (fun _ => corePower)) :=
  h.modCoreReset n fun _ i => StrandLegal.reset i

theorem Kept.closeRoom {c : Chip} (h : Kept A B c) (r : Nat) : Kept A B (Machine.closeRoom r c) := by
  have h1 : Kept A B (Machine.stopHard (dmaB r) (Machine.stopHard (clsB r) c)) := (h.stopHard _).stopHard _
  have h2 := Kept.foldl (f := fun c p => Machine.loseSlots (16 * r + p) (Machine.modCore (orphanReqs c (16 * r + p)) (16 * r + p) (fun _ => corePower)))
    h1 (List.range 16) fun _ _ hd => ((hd.quiet ((Quiet.refl _).orphanReqs _)).powerOff _).loseSlots _
  unfold Machine.closeRoom
  exact Kept.setPower (Kept.modRoom (Kept.loseMemory (Kept.modDma (h2.quiet ((Quiet.refl _).dropRoom _)) _ _) _) _ _) _ _

theorem Kept.wakeCores {c : Chip} (h : Kept A B c) (r : Nat) : Kept A B (Machine.wakeCores r c) := by
  unfold Machine.wakeCores
  extract_lets +onlyGivenNames c1
  have hc1 : Kept A B c1 := (h.setPower _ _).setF (unwatched (by decide)) _ _ _
  clear_value c1
  exact Kept.foldl hc1 _ fun _ _ hd => hd.modCore _

theorem Kept.wakeRoom {c : Chip} (h : Kept A B c) (r : Nat) (code : Nat) : Kept A B (Machine.wakeRoom r code c) := by
  unfold Machine.wakeRoom
  extract_lets +onlyGivenNames c1
  have hc1 : Kept A B c1 := (h.wakeCores _).setF (unwatched (by decide)) _ _ _
  clear_value c1
  exact Kept.foldl hc1 _ fun _ _ hd => hd.coreWoke _ _

theorem Kept.abortEntry {s : State} (h : Kept A B s.chip) (r : Nat) (code : Nat) : Kept A B (Machine.abortEntry r code s).chip := by
  unfold Machine.abortEntry
  exact Kept.countRefusal (Kept.modChip (h.setPower _ _)) _ _ _

theorem Kept.wakeTo {s : State} (h : Kept A B s.chip) (r : Nat) (code : Nat) : Kept A B (Machine.wakeTo r code s).chip := by
  unfold Machine.wakeTo
  split
  · exact h
  · exact h.abortEntry _ _
  · exact .iteS (h.countRefusal _ _ _) (Kept.modChip (h.wakeRoom _ _))
  · exact .iteS (h.countRefusal _ _ _) (Kept.modChip (h.wakeRoom _ _))

theorem Kept.pgnWrite {c : Chip} (h : Kept A B c) (core : Nat) (i : Nat) (ws : List Word) : Kept A B (Machine.pgnWrite core i ws c) := by
  unfold Machine.pgnWrite
  exact .ite (h.quiet ((Quiet.refl _).wrWords _ _ _)) h

theorem Kept.askCore {c : Chip} (h : Kept A B c) (want : Nat) (core : Nat) : Kept A B (Machine.askCore want core c) := by
  unfold Machine.askCore
  exact (h.pgnWrite _ _ _).setIpend _ _

theorem Kept.askRoom {s : State} (h : Kept A B s.chip) (ph : Nat) (want : Nat) (r : Nat) : Kept A B (Machine.askRoom ph want r s).chip := by
  unfold Machine.askRoom
  extract_lets +onlyGivenNames b
  split
  · exact h.countRefusal _ _ _
  · split
    · exact Kept.modChip (h.closeRoom _)
    · extract_lets +onlyGivenNames busy s1 asked s2 s3
      have hs1 : Kept A B s1.chip := by
        simp only [s1]
        refine Kept.modChip ?_
        exact Kept.foldl h _ fun _ _ hd => Kept.ite (hd.modCore _) hd
      have hs2 : Kept A B s2.chip := by
        simp only [s2]
        refine Kept.modChip ?_
        exact Kept.foldl hs1 _ fun _ _ hd => hd.askCore _ _
      have hs3 : Kept A B s3.chip := by
        simp only [s3]
        split
        · split
          · exact hs2.countRefusal _ _ _
          · exact Kept.modChip (hs2.recessNow _)
        · exact hs2
      clear_value s1 s2 s3
      split
      · exact hs3
      · refine Kept.modChip ?_
        exact hs3.modRoom _ _

theorem Kept.powerState {s : State} (h : Kept A B s.chip) (want : Nat) (c : Cmd) : Kept A B (Machine.powerState want c s).chip := by
  unfold Machine.powerState
  exact .iteS h (Kept.powerDone (Kept.foldlS h _ fun _ _ hd => hd.askRoom _ _ _))

theorem Kept.unpause {c : Chip} (h : Kept A B c) (r : Nat) : Kept A B (Machine.unpause r c) := by
  unfold Machine.unpause
  exact Kept.foldl h _ fun _ _ hd => Kept.ite ((hd.modCore _).coreWoke _ _) hd

theorem Kept.lateRoom {s : State} (h : Kept A B s.chip) (r : Nat) : Kept A B (Machine.lateRoom r s).chip := by
  unfold Machine.lateRoom
  extract_lets +onlyGivenNames want s1 late
  have hs1 : Kept A B s1.chip := by
    simp only [s1]
    refine Kept.modChip ?_
    exact Kept.modRoom (Kept.foldl h _ fun _ _ hd => Kept.ite (hd.modCore _) hd) _ _
  clear_value s1
  split
  · split
    · exact Kept.modChip (hs1.closeRoom _)
    · split
      · split
        · exact Kept.countRefusal (Kept.modChip (hs1.setPower _ _)) _ _ _
        · exact Kept.modChip (hs1.recessNow _)
      · exact hs1
  · extract_lets +onlyGivenNames s2
    have hs2 : Kept A B s2.chip := Kept.iteS (Kept.modChip (hs1.setPower _ _)) hs1
    clear_value s2
    exact Kept.foldlS hs2 _ fun _ _ hd => hd.countRefusal _ _ _

theorem Kept.powerTimeout {s : State} (h : Kept A B s.chip) : Kept A B (Machine.powerTimeout s).chip := by
  unfold Machine.powerTimeout
  exact Kept.powerDone (Kept.foldlS h _ fun _ _ hd => hd.lateRoom _)

theorem Kept.sendHalt {s : State} (h : Kept A B s.chip) (j : Job) (origin : Nat) (step : Nat) (period : Nat) (reason : Nat) (except : Nat) : Kept A B (Machine.sendHalt j origin step period reason except s).chip := by
  unfold Machine.sendHalt
  exact Kept.foldlS (h.modBell _) _ fun _ _ hd => hd.queueBell _ _

theorem Kept.haltAt {s : State} (h : Kept A B s.chip) (origin : Nat) (step : Nat) (period : Nat) (reason : Nat) (except : Nat) : Kept A B (Machine.haltAt origin step period reason except s).chip := by
  unfold Machine.haltAt
  split
  · exact h
  · split
    · exact h
    · extract_lets +onlyGivenNames s1 us s2 s3
      have hs1 : Kept A B s1.chip := h.modBell _
      have hs2 : Kept A B s2.chip := by
        simp only [s2]
        refine Kept.modChip ?_
        exact Kept.foldl hs1 _ fun _ _ hd => hd.setIpend _ _
      have hs3 : Kept A B s3.chip := Kept.foldlS hs2 _ fun _ _ hd => hd.wakeTo _ _
      clear_value s1 s2 s3
      exact (hs3.logEvent _ _ _).sendHalt _ _ _ _ _ _

theorem Kept.haltSchool {s : State} (h : Kept A B s.chip) (origin : Nat) (reason : Nat) (except : Nat) : Kept A B (Machine.haltSchool origin reason except s).chip := by
  unfold Machine.haltSchool
  exact h.haltAt _ _ _ _ _

theorem Kept.failSchool {s : State} (h : Kept A B s.chip) (reason : Nat) : Kept A B (Machine.failSchool reason s).chip := by
  unfold Machine.failSchool
  split
  · exact h
  · exact .iteS (h.haltSchool _ _ _) h

theorem Kept.reset {s : State} (h : Kept A B s.chip) (c : Cmd) :
    Kept A B (if argOf c 0 = 0 then Machine.failSchool (Config.haltReason 256) s else s).chip := .iteS (h.failSchool _) h

theorem Kept.commandAccept {s : State} (h : Kept A B s.chip) : Kept A B (Machine.commandAccept s).chip := by
  unfold Machine.commandAccept
  split
  · exact h
  split
  · exact h
  extract_lets c bad s1 s2
  have hs1 : Kept A B s1.chip := (h.modWarden _).modPigeon _ _
  have hs2 : Kept A B s2.chip := Kept.iteS (hs1.modWarden _) hs1
  clear_value s1 s2 bad
  cases bad with
  | some st => exact .iteS ((hs2.modWarden _).answer _ _ _) (hs2.answer _ _ _)
  | none => exact .iteS (((hs2.reset c).modWarden _).answer _ _ _) (hs2.modWarden _)

theorem Kept.showBubbles {c : Chip} (h : Kept A B c) (p : Power) : Kept A B (Machine.showBubbles p c) := by
  unfold Machine.showBubbles
  exact Kept.foldl h _ fun _ _ hd => hd.setF (unwatched (by decide)) _ _ _

theorem Kept.spillwayLog {s : State} (h : Kept A B s.chip) (now : Nat) (old : Power) : Kept A B (Machine.spillwayLog now old s).chip := by
  unfold Machine.spillwayLog
  extract_lets +onlyGivenNames p b s1 s2 hotNow s3
  have hs1 : Kept A B s1.chip := Kept.iteS (h.logEvent _ _ _) h
  have hs2 : Kept A B s2.chip := Kept.iteS (hs1.logEvent _ _ _) hs1
  have hs3 : Kept A B s3.chip := Kept.foldlS hs2 _ fun _ _ hd => hd.logEvent _ _ _
  clear_value s1 s2 s3
  exact hs3.modPower _

theorem Kept.spillwayTick {s : State} (h : Kept A B s.chip) (m : Sample) : Kept A B (Machine.spillwayTick m s).chip := by
  unfold Machine.spillwayTick
  extract_lets +onlyGivenNames s1 old s2
  have hs1 : Kept A B s1.chip := by
    simp only [s1]
    refine Kept.modChip ?_
    exact Kept.nowUs h _
  have hs2 : Kept A B s2.chip := hs1.modPower _
  clear_value s1 s2
  exact Kept.spillwayLog (Kept.modChip (hs2.showBubbles _)) _ _

theorem Kept.aimDie {c : Chip} (h : Kept A B c) (d : Nat) : Kept A B (Machine.aimDie d c) := by
  unfold Machine.aimDie
  exact Kept.foldl h _ fun _ _ hd => hd.aimLevel _

theorem Kept.setFloor {s : State} (h : Kept A B s.chip) (d : Nat) (v : Nat) : Kept A B (Machine.setFloor d v s).chip := by
  unfold Machine.setFloor
  extract_lets +onlyGivenNames old
  refine Kept.logEvent (Kept.modChip ?_) _ _ _
  exact Kept.aimDie (Kept.floors h _) _

theorem Kept.floorDie {s : State} (h : Kept A B s.chip) (d : Nat) : Kept A B (Machine.floorDie d s).chip := by
  unfold Machine.floorDie
  extract_lets +onlyGivenNames f
  exact .iteS (Kept.iteS (h.setFloor _ _) h) (Kept.iteS (h.setFloor _ _) h)

theorem Kept.holdDie {s : State} (h : Kept A B s.chip) (d : Nat) : Kept A B (Machine.holdDie d s).chip := by
  unfold Machine.holdDie
  extract_lets +onlyGivenNames sum cores held
  split
  · split
    · exact h
    · refine Kept.logEvent (Kept.modChip ?_) _ _ _
      exact Kept.aimDie (Kept.plHold h _) _
  · split
    · refine Kept.modChip ?_
      exact Kept.aimDie (Kept.plHold h _) _
    · exact h

theorem Kept.nextHour {s : State} (h : Kept A B s.chip) : Kept A B (Machine.nextHour s).chip := by
  unfold Machine.nextHour
  extract_lets +onlyGivenNames h1 s1
  have hs1 : Kept A B s1.chip := h.putSetting _ _
  clear_value s1
  exact (hs1.modPower _).modWarden _

theorem Kept.residencyTick {s : State} (h : Kept A B s.chip) : Kept A B (Machine.residencyTick s).chip := by
  unfold Machine.residencyTick
  extract_lets +onlyGivenNames slot s1 s2
  have hs1 : Kept A B s1.chip := h.modPower _
  have hs2 : Kept A B s2.chip := Kept.foldlS hs1 _ fun _ _ hd => hd.holdDie _
  clear_value s1 s2
  exact .iteS hs2.nextHour hs2

theorem Kept.sluiceDroop {s : State} (h : Kept A B s.chip) (r : Nat) : Kept A B (Machine.sluiceDroop r s).chip := by
  unfold Machine.sluiceDroop
  split
  · exact h
  · refine Kept.modChip ?_
    extract_lets +onlyGivenNames c
    have hc : Kept A B c := (h.modRoom _ _).bumpF (unwatched (by decide)) _ _ _
    clear_value c
    exact hc.setF (unwatched (by decide)) _ _ _

theorem Kept.sluiceRelease {s : State} (h : Kept A B s.chip) (r : Nat) : Kept A B (Machine.sluiceRelease r s).chip := by
  unfold Machine.sluiceRelease
  refine Kept.modChip ?_
  extract_lets +onlyGivenNames c
  have hc : Kept A B c := h.modRoom _ _
  clear_value c
  exact hc.setF (unwatched (by decide)) _ _ _

theorem Kept.meshOff {c : Chip} (h : Kept A B c) (d : Nat) : Kept A B (Machine.meshOff d c) := by
  unfold Machine.meshOff
  extract_lets +onlyGivenNames c1 c2
  have hc1 : Kept A B c1 := h.stopHard _
  have hc2 : Kept A B c2 := Kept.ite (hc1.setF (unwatched_meshB (by decide)) _ _ _) hc1
  clear_value c1 c2
  exact Kept.same hc2

theorem Kept.stackOff {c : Chip} (h : Kept A B c) (k : Nat) : Kept A B (Machine.stackOff k c) := by
  unfold Machine.stackOff
  exact ((h.stopHard _).stopHard _).stopHard _

theorem Kept.breachTrip {s : State} (h : Kept A B s.chip) (node : Nat) (temp : Nat) : Kept A B (Machine.breachTrip node temp s).chip := by
  unfold Machine.breachTrip
  split
  · exact h
  · extract_lets +onlyGivenNames s1 s2
    have hs1 : Kept A B s1.chip := h.modPower _
    have hs2 : Kept A B s2.chip := by
      simp only [s2]
      refine Kept.modChip ?_
      exact Kept.foldl (Kept.foldl (Kept.foldl hs1 _ fun _ _ hd => hd.closeRoom _) _ fun _ _ hd => hd.meshOff _) _ fun _ _ hd => hd.stackOff _
    clear_value s1 s2
    exact (hs2.logEvent _ _ _).failSchool _

theorem Kept.breachClear {s : State} (h : Kept A B s.chip) : Kept A B (Machine.breachClear s).chip := by
  unfold Machine.breachClear
  exact .iteS ((h.modPower _).logEvent _ _ _) h

theorem Kept.pllLock {c : Chip} (h : Kept A B c) (x : PllId) : Kept A B (Machine.pllLock x c) := by
  unfold Machine.pllLock
  split
  · exact h
  · split
    · exact (h.modRoom _ _).settle _
    · extract_lets +onlyGivenNames c1
      have hc1 : Kept A B c1 := Kept.settle (Kept.plls h _) _
      clear_value c1
      exact Kept.foldl hc1 _ fun _ _ hd => hd.settle _
    · extract_lets +onlyGivenNames c1
      have hc1 : Kept A B c1 := h.modStack _ _
      clear_value c1
      exact ((hc1.settle _).settle _).settle _
    · exact Kept.settle (Kept.plls h _) _
    · exact Kept.settle (Kept.plls h _) _

theorem Kept.stopNow {c : Chip} (h : Kept A B c) (b : BlockId) : Kept A B (Machine.stopNow b c) := by
  unfold Machine.stopNow
  exact ((h.setRun1 _ _).agreementCheck _).blockDrained _

theorem Kept.stopAll {c : Chip} (h : Kept A B c) (l : List BlockId) : Kept A B (Machine.stopAll l c) := by
  unfold Machine.stopAll
  exact Kept.foldl h _ fun _ _ hd => hd.stopNow _

theorem Kept.startNow {c : Chip} (h : Kept A B c) (b : BlockId) : Kept A B (Machine.startNow b c) := by
  unfold Machine.startNow
  exact (h.setRun1 _ _).agreementCheck _

theorem Kept.startThese : ∀ (l : List BlockId) {c : Chip}, Kept A B c → Kept A B (Machine.startThese l c).1
  | [], _, h => h
  | b :: r, c, h => by
    unfold Machine.startThese
    split
    · exact startThese r (h.setRun1 _ _)
    · exact startThese r h

theorem Kept.portDown {c : Chip} (h : Kept A B c) (n : Nat) : Kept A B (Machine.portDown n c) := by
  unfold Machine.portDown
  split
  · exact h
  · extract_lets +onlyGivenNames c1
    have hc1 : Kept A B c1 := (h.setF (unwatched (by decide)) _ _ _).setF (unwatched_ethB (by decide)) _ _ _
    clear_value c1
    exact Kept.same hc1

theorem Kept.powerDown {c : Chip} (h : Kept A B c) : Kept A B (Machine.powerDown c) := by
  unfold Machine.powerDown
  extract_lets +onlyGivenNames c1 c2
  have hc1 : Kept A B c1 := Kept.foldl h _ fun _ _ hd => hd.meshOff _
  have hc2 : Kept A B c2 := Kept.foldl hc1 _ fun _ _ hd => hd.portDown _
  clear_value c1 c2
  exact Kept.foldl hc2 _ fun _ _ hd => hd.modStack _ _

theorem Kept.sleepEntry {s : State} (h : Kept A B s.chip) (c : Cmd) : Kept A B (Machine.sleepEntry c s).chip := by
  unfold Machine.sleepEntry
  split
  · exact h
  · split
    · exact (h.countRefusal _ _ _).finish _ _
    · extract_lets +onlyGivenNames run s1 s2
      have hs1 : Kept A B s1.chip := h.modWarden _
      have hs2 : Kept A B s2.chip := Kept.modChip (hs1.stopAll _)
      clear_value s1 s2
      split
      · exact hs2
      · extract_lets +onlyGivenNames rooms s3 s4 s5
        have hs3 : Kept A B s3.chip := by
          simp only [s3]
          refine Kept.modChip ?_
          exact Kept.powerDown (Kept.foldl hs2 _ fun _ _ hd => hd.recessNow _)
        have hs4 : Kept A B s4.chip := Kept.foldlS hs3 _ fun _ _ hd => hd.modEth _ _
        have hs5 : Kept A B s5.chip := hs4.finish _ _
        clear_value s3 s4 s5
        exact hs5.modWarden _

theorem Kept.meshUp {c : Chip} (h : Kept A B c) (d : Nat) : Kept A B (Machine.meshUp d c) := by
  unfold Machine.meshUp
  exact Kept.setF (Kept.meshOn h _) (unwatched_meshB (by decide)) _ _ _

theorem Kept.meshesBack {s : State} (h : Kept A B s.chip) : Kept A B (Machine.meshesBack s).chip := by
  unfold Machine.meshesBack
  exact Kept.foldlS h _ fun _ _ hd => Kept.iteS (hd.countRefusal _ _ _) (Kept.modChip (hd.meshUp _))

theorem Kept.powerUp {c : Chip} (h : Kept A B c) : Kept A B (Machine.powerUp c) := by
  unfold Machine.powerUp
  extract_lets +onlyGivenNames c1
  have hc1 : Kept A B c1 := Kept.foldl h _ fun _ _ hd => Kept.setF (Kept.portOff hd _) (unwatched (by decide)) _ _ _
  clear_value c1
  exact Kept.foldl hc1 _ fun _ _ hd => hd.modStack _ _

theorem Kept.restartBlocks {s : State} (h : Kept A B s.chip) : Kept A B (Machine.restartBlocks s).chip := by
  unfold Machine.restartBlocks
  extract_lets +onlyGivenNames x
  refine Kept.modWarden (Kept.modChip ?_) _
  exact h.startThese _

theorem Kept.startLate {s : State} (h : Kept A B s.chip) : Kept A B (Machine.startLate s).chip := by
  unfold Machine.startLate
  extract_lets +onlyGivenNames l x
  refine Kept.modWarden (Kept.modChip ?_) _
  exact h.startThese _

theorem Kept.roomBack {s : State} (h : Kept A B s.chip) (code : Nat) (r : Nat) : Kept A B (Machine.roomBack code r s).chip := by
  unfold Machine.roomBack
  exact .iteS (h.wakeTo _ _) (Kept.iteS (h.countRefusal _ _ _) (Kept.modChip (h.wakeCores _)))

theorem Kept.deviceWake {s : State} (h : Kept A B s.chip) (code : Nat) : Kept A B (Machine.deviceWake code s).chip := by
  unfold Machine.deviceWake
  split
  · extract_lets +onlyGivenNames rooms s1 s2 s3
    have hs1 : Kept A B s1.chip := Kept.modChip h.meshesBack.powerUp
    have hs2 : Kept A B s2.chip := Kept.foldlS hs1 _ fun _ _ hd => hd.roomBack _ _
    have hs3 : Kept A B s3.chip := hs2.restartBlocks.modWarden _
    clear_value s1 s2 s3
    exact hs3.logEvent _ _ _
  · split
    · exact h
    · exact (h.restartBlocks.countRefusal _ _ _).finish _ _

theorem Kept.breachAbort {s : State} (h : Kept A B s.chip) : Kept A B (Machine.breachAbort s).chip := by
  unfold Machine.breachAbort
  split
  · exact h
  · extract_lets +onlyGivenNames s1
    have hs1 : Kept A B s1.chip := h.modWarden _
    clear_value s1
    exact (hs1.restartBlocks.countRefusal _ _ _).finish _ _

theorem Kept.nodeAccess {c d : Chip} (h : Kept A B c) {node off : Nat} {wr : Option W32} (hd : Machine.nodeAccess node off wr c = some d) : Kept A B d := by
  unfold Machine.nodeAccess at hd
  split at hd
  · cases hd; exact h.busWrite _ _ _
  · cases hd; exact h.busRead _ _
  · cases hd

theorem Kept.ringAnswer {c : Chip} (h : Kept A B c) (q : RingReq) : Kept A B (Machine.ringAnswer q c).1 := by
  unfold Machine.ringAnswer
  split
  · exact h
  · next hd =>
    split at hd
    · exact h.nodeAccess hd
    · cases hd

theorem Kept.ringIssue {s : State} (h : Kept A B s.chip) (q : RingReq) : Kept A B (Machine.ringIssue q s).chip := by
  unfold Machine.ringIssue
  refine Kept.modDev ?_ _
  show Kept A B (if nodeInReset s q.node then (s.chip, ⟨q.origin, none, false, some q⟩) else Machine.ringAnswer q s.chip).1
  split
  · exact h
  · exact h.ringAnswer _

theorem Kept.ringResume {s : State} (h : Kept A B s.chip) : Kept A B (Machine.ringResume s).chip := by
  unfold Machine.ringResume
  refine Kept.modDev ?_ _
  refine foldl_keeps (P := fun x : Chip × List RingTx => Kept A B x.1) (fun x t hx => ?_) _ _ h
  split
  · exact hx
  · exact hx.ringAnswer _

theorem Kept.ringRequest {s : State} (h : Kept A B s.chip) (o : RingOrigin) (node : Nat) (off : Nat) (wr : Option W32) : Kept A B (Machine.ringRequest o node off wr s).chip := by
  unfold Machine.ringRequest
  extract_lets +onlyGivenNames q
  exact .iteS h (Kept.iteS (h.modDev _) (h.ringIssue _))

theorem Kept.ringNext {s : State} (h : Kept A B s.chip) (o : RingOrigin) : Kept A B (Machine.ringNext o s).chip := by
  unfold Machine.ringNext
  split
  · exact h
  · exact (h.modDev _).ringIssue _

theorem Kept.ringResponse {s : State} (h : Kept A B s.chip) (o : RingOrigin) : Kept A B (Machine.ringResponse o s).chip := by
  unfold Machine.ringResponse
  split
  · exact h
  · extract_lets +onlyGivenNames s1
    have hs1 : Kept A B s1.chip := (h.modDev _).ringNext _
    clear_value s1
    split
    · refine Kept.modChip ?_
      exact Kept.readOut hs1 _
    · exact hs1

theorem Kept.addCandidate {s : State} (h : Kept A B s.chip) (k : Nat) (row : Nat) : Kept A B (Machine.addCandidate k row s).chip := by
  unfold Machine.addCandidate
  extract_lets +onlyGivenNames l r rows
  exact .iteS h ((h.putSetting _ _).modFlash _)

theorem Kept.tornShard {s : State} (h : Kept A B s.chip) : Kept A B (Machine.tornShard s).chip := by
  unfold Machine.tornShard
  exact h.modBell _

theorem Kept.reportAct {s : State} (h : Kept A B s.chip) (r : Report) : Kept A B (Machine.reportAct r s).chip := by
  unfold Machine.reportAct
  exact .iteS (h.failSchool _) (Kept.iteS (h.addCandidate _ _) (Kept.iteS h.tornShard h))

theorem Kept.reportIn {s : State} (h : Kept A B s.chip) (node : Nat) : Kept A B (Machine.reportIn node s).chip := by
  unfold Machine.reportIn
  split
  · exact h
  · split
    · exact h
    · extract_lets +onlyGivenNames s1
      have hs1 : Kept A B s1.chip := by
        simp only [s1]
        refine Kept.modChip ?_
        exact Kept.reports h _
      clear_value s1
      exact (hs1.logEvent _ _ _).reportAct _

theorem StrandLegal.lessonRegs {st : Strand} (h : StrandLegal st) (i : Nat) {l : Les} (hl : LegalMode (BitVec.ofNat 64 l.mode)) :
    StrandLegal (lessonRegs i l st) :=
  (((h.setCreg (n := 16) (by decide) 0).setMode hl).setCreg (n := 5) (by decide) 0).of_same rfl rfl

theorem Kept.modStrandIf {c : Chip} (h : Kept A B c) (u : StrandId) {f : Strand → Strand}
    (hf : B → StrandLegal (strandOf c u) → StrandLegal (f (strandOf c u))) : Kept A B (Machine.modStrand c u f) := by
  refine ⟨fun ha => settingsAgree_step (h.1 ha) fun r hr => .inl ⟨hr, fun _ _ => rfl⟩, fun hb v => ?_⟩
  by_cases hv : v = u
  · rw [hv, strandOf_modStrand_self]; exact hf hb (h.2 hb u)
  · rw [strandOf_modStrand_ne _ _ hv]; exact h.2 hb v

theorem Kept.startLesson {c : Chip} (h : Kept A B c) (i : Nat) {l : Les} (hl : B → LegalMode (BitVec.ofNat 64 l.mode)) :
    Kept A B (Machine.startLesson i l c) := by
  have h1 : Kept A B (Machine.modStrand (Machine.commitAll c l.id) l.id (lessonRegs i l)) :=
    (h.commitAll l.id).modStrandIf l.id fun hb hs => hs.lessonRegs i (hl hb)
  unfold Machine.startLesson
  extract_lets u c1 c2
  have hc2 : Kept A B c2 := .ite (h1.setF (unwatched (by decide)) _ _ _) h1
  clear_value c2
  exact hc2.strandRun _ _

theorem Kept.dropLists {c : Chip} (h : Kept A B c) (r : Nat) : Kept A B (Machine.dropLists r c) := by
  unfold Machine.dropLists
  exact h.modDma _ _

theorem Kept.bellWrite {c : Chip} (h : Kept A B c) (a : Nat) (ws : List Word) : Kept A B (Machine.bellWrite c a ws) := by
  unfold Machine.bellWrite
  extract_lets +onlyGivenNames d
  have hd : Kept A B d := h.quiet ((Quiet.refl _).wrMarked _ _)
  clear_value d
  exact hd.fresh _

theorem Kept.stampAs {s : State} (h : Kept A B s.chip) (j : Job) (n : Nat) : Kept A B (Machine.stampAs j n s).chip := by
  unfold Machine.stampAs
  extract_lets +onlyGivenNames g
  refine Kept.modBell (Kept.modChip ?_) _
  exact h.bellWrite _ _

theorem Kept.stampWrite {s : State} (h : Kept A B s.chip) (j : Job) : Kept A B (Machine.stampWrite j s).chip := by
  unfold Machine.stampWrite
  exact h.stampAs _ _

theorem Kept.writeSegments {c : Chip} (h : Kept A B c) (l : List Word) : Kept A B (Machine.writeSegments l c) := by
  unfold Machine.writeSegments
  exact Kept.foldl h _ fun _ _ hd => hd.quiet ((Quiet.refl _).wrWords _ _ _)

theorem Kept.setSteps {c : Chip} (h : Kept A B c) (sr : Nat) : Kept A B (Machine.setSteps sr c) := by
  unfold Machine.setSteps
  exact h.quiet ((Quiet.refl _).wrMarked _ _)

theorem Kept.computeCopy {c : Chip} (h : Kept A B c) (k : Nat) (d : PDesc) : Kept A B (Machine.computeCopy k d c) := by
  unfold Machine.computeCopy
  extract_lets +onlyGivenNames blocks qe
  exact (h.quiet ((Quiet.refl _).wrMarked _ _)).orF (unwatched (by decide)) _ _ _

theorem Kept.computeCopies {c : Chip} (h : Kept A B c) : Kept A B (Machine.computeCopies c) := by
  unfold Machine.computeCopies
  exact Kept.foldl h _ fun _ _ hd => hd.computeCopy _ _

theorem Kept.writeStreams {c : Chip} (h : Kept A B c) (j : Job) (stamp : List (Word × Bool)) (sr : Nat) : Kept A B (Machine.writeStreams j stamp sr c) := by
  unfold Machine.writeStreams
  exact Kept.foldl h _ fun _ _ hd => hd.wardenWrite _

end Sys2Proof.Machine
end

section
/-! PROOFS. What keeps every MODE legal and the settings agreed: frames, windows, lessons and the bell tree (spec/10, spec/11). -/

-- One after another: started side by side, this many short proofs take more memory than the check has.
set_option Elab.async false

open Sys2Proof Sys2Proof.Machine
namespace Sys2Proof.Machine
variable {A B : Prop}

theorem periodNow_wakeTo (r : Nat) (s : State) : periodNow (wakeTo r 3 s) = periodNow s := by
  have hw : roomBack 3 r s = wakeTo r 3 s := if_pos (by decide)
  exact getF_of_rawReg (hw ▸ (RoomsWoken.roomBack 3 r s).regs .bel trivial 0x014) 11 0

/-- A register of a block that is no classroom. -/
theorem Kept.setRawOff {c : Chip} (h : Kept A B c) {b : BlockId} (hb : ∀ r, b ≠ .cls r) (n : Nat) (v : W32) : Kept A B (Machine.setRaw c b n v) := by
  have hn (r : Fin 64) (m : Nat) : rawReg (Machine.setRaw c b n v) (.cls r) m = rawReg c (.cls r) m := rawReg_setRaw_ne _ _ (.inl (hb r).symm)
  refine ⟨fun ha => settingsAgree_step (h.1 ha) fun r hr => .inl ⟨?_, fun m _ => hn r m⟩, h.2⟩
  rwa [bState, getF_of_rawReg (hn r 2)] at hr

/-- The registers that no write of which is one of MODE. -/
theorem StrandLegal.setCregs {st : Strand} (h : StrandLegal st) : ∀ (l : List (Nat × Nat)), (∀ x ∈ l, x.1 ≠ 0) →
    StrandLegal (l.foldl (fun st x => Machine.setCreg st x.1 (BitVec.ofNat 64 x.2)) st) := fun l hl =>
  List.foldlRecOn (motive := StrandLegal) l _ h fun _ hs x hx => hs.setCreg (hl x hx) _

theorem StrandLegal.protStrand {st : Strand} (h : StrandLegal st) (j : Job) (n p s : Nat) : StrandLegal (protStrand j n p s st) := by
  unfold Machine.protStrand
  extract_lets w sz lim put st1
  have h1 : StrandLegal st1 := h.setCregs _ (by simp)
  clear_value st1
  exact h1.of_same rfl rfl

theorem Kept.dropFrame {s : State} (h : Kept A B s.chip) (p : Nat) (icv : Bool) : Kept A B (Machine.dropFrame p icv s).chip := by
  unfold Machine.dropFrame
  refine Kept.modChip ?_
  extract_lets +onlyGivenNames c
  have hc : Kept A B c := h.bumpF (unwatched_ethB (by decide)) _ _ _
  clear_value c
  exact .ite (hc.bumpF (unwatched_ethB (by decide)) _ _ _) hc

theorem Kept.droppedFrame {s : State} (h : Kept A B s.chip) (p : Nat) (why : DropCause) : Kept A B (Machine.droppedFrame p why s).chip := by
  unfold Machine.droppedFrame
  split
  · refine Kept.dropFrame (Kept.modChip ?_) _ _
    exact h.bumpF (unwatched_ethB (by decide)) _ _ _
  · exact h

theorem Kept.flowControl {s : State} (h : Kept A B s.chip) (p : Nat) (prio : Nat) (pause : Bool) : Kept A B (Machine.flowControl p prio pause s).chip := by
  unfold Machine.flowControl
  exact .iteS (h.modEth _ _) h

theorem Kept.linkDown {s : State} (h : Kept A B s.chip) (p : Nat) : Kept A B (Machine.linkDown p s).chip := by
  unfold Machine.linkDown
  split
  · exact h
  · refine Kept.modEth (Kept.modChip ?_) _ _
    exact (h.setF (unwatched_ethB (by decide)) _ _ _).report _ _ _

theorem Kept.linkUp {s : State} (h : Kept A B s.chip) (p : Nat) : Kept A B (Machine.linkUp p s).chip := by
  unfold Machine.linkUp
  split
  · exact h
  · split
    · split
      · refine Kept.deviceWake (Kept.modEth (Kept.modChip ?_) _ _) _
        exact h.setF (unwatched_ethB (by decide)) _ _ _
      · exact h
    · split
      · refine Kept.modEth (Kept.modChip ?_) _ _
        exact h.setF (unwatched_ethB (by decide)) _ _ _
      · exact h

theorem Kept.wakeFrame {s : State} (h : Kept A B s.chip) (p : Nat) (own : Bool) : Kept A B (Machine.wakeFrame p own s).chip := by
  unfold Machine.wakeFrame
  exact .iteS (h.deviceWake _) h

theorem Kept.roceCnp {s : State} (h : Kept A B s.chip) (p : Nat) : Kept A B (Machine.roceCnp p s).chip := by
  unfold Machine.roceCnp
  extract_lets +onlyGivenNames e again
  exact .iteS (h.modEth _ _) h

theorem Kept.startXfer {s : State} (h : Kept A B s.chip) (n : Nat) (op : RoceOp) (raddr : Nat) (bytes : Nat) (data : List Byte) : Kept A B (Machine.startXfer n op raddr bytes data s).chip := by
  unfold Machine.startXfer
  exact h.modQp _ _

theorem Kept.roceTransmit {s : State} (h : Kept A B s.chip) (p : Nat) : Kept A B (Machine.roceTransmit p s).chip := by
  unfold Machine.roceTransmit
  extract_lets +onlyGivenNames e out
  split
  · exact h
  · split
    · exact (h.modEth _ _).modEth _ _
    · split
      · split
        · extract_lets +onlyGivenNames k
          exact (h.modQp _ _).modEth _ _
        · exact h
      · exact h

theorem Kept.releasePeriod {s : State} (h : Kept A B s.chip) (j : Job) (p : Nat) (st : Nat) (ns : Nat) : Kept A B (Machine.releasePeriod j p st ns s).chip := by
  unfold Machine.releasePeriod
  extract_lets +onlyGivenNames per runs lo s1 s2
  have hs1 : Kept A B s1.chip := by
    simp only [s1]
    refine Kept.modChip ?_
    exact (h.setRaw (unwatched (by decide)) _).setF (unwatched (by decide)) _ _ _
  have hs2 : Kept A B s2.chip := hs1.modDev _
  clear_value s1 s2
  exact hs2.modBell _

theorem Kept.classroomRelease {s : State} (h : Kept A B s.chip) (r : Nat)
    (hl : B → ∀ j, jobOf s = some j → ∀ l ∈ j.lessons (periodNow s), LegalMode (BitVec.ofNat 64 l.2.mode)) :
    Kept A B (Machine.classroomRelease r s).chip := by
  unfold Machine.classroomRelease
  split
  · exact h
  next j hj =>
  extract_lets +onlyGivenNames b
  split
  · exact h
  extract_lets +onlyGivenNames s1
  have hs1 : Kept A B s1.chip := h.wakeTo _ _
  have hp : periodNow s1 = periodNow s := periodNow_wakeTo r s
  clear_value s1
  split
  · exact hs1
  extract_lets +onlyGivenNames p s2
  have hs2 : Kept A B s2.chip := hs1.modBell _
  clear_value s2
  refine Kept.modChip ?_
  extract_lets +onlyGivenNames c c1
  have hc : Kept A B c := hs2.dropLists _
  have hc1 : Kept A B c1 := by
    refine List.foldlRecOn _ _ hc fun d hd l hm => hd.startLesson _ fun hb => hl hb j hj l ?_
    exact hp ▸ (List.mem_filter.mp hm).1
  clear_value c c1
  exact Kept.foldl hc1 _ fun _ _ hd => hd.startList _ _ _

theorem Kept.pumpRelease {s : State} (h : Kept A B s.chip) (k : Nat) : Kept A B (Machine.pumpRelease k s).chip := by
  unfold Machine.pumpRelease
  split
  · exact h
  · extract_lets +onlyGivenNames b
    split
    · exact h
    · extract_lets +onlyGivenNames pass
      refine Kept.modBell (Kept.modChip ?_) _
      exact h.pumpStart _ _ _

theorem Kept.foldDigest {c : Chip} (h : Kept A B c) (j : Job) (i : Nat) : Kept A B (Machine.foldDigest j i c) := by
  unfold Machine.foldDigest
  extract_lets +onlyGivenNames m
  exact .ite (Kept.fresh ((h.meshRead _).quiet ((Quiet.refl _).wrMarked _ _)) _) h

theorem StrandLegal.endLesson {st : Strand} (h : StrandLegal st) : StrandLegal { st with lesson := none, run := .idle, spec := false } := h.of_same rfl rfl

theorem Kept.lessonEnd {s : State} (h : Kept A B s.chip) (u : StrandId) : Kept A B (Machine.lessonEnd u s).chip := by
  unfold Machine.lessonEnd
  extract_lets +onlyGivenNames st
  split
  · split
    · exact h
    · refine Kept.modChip ?_
      extract_lets +onlyGivenNames c
      have hc : Kept A B c := (h.commitAll _).foldDigest _ _
      clear_value c
      exact hc.modStrand _ fun hl => (hl.countSlot.advance _).endLesson
  · exact h

theorem Kept.sendReady {s : State} (h : Kept A B s.chip) (j : Job) : Kept A B (Machine.sendReady j s).chip := by
  unfold Machine.sendReady
  split
  · exact h
  · extract_lets +onlyGivenNames v
    exact h.queueBell _ _

theorem Kept.sendRing {s : State} (h : Kept A B s.chip) (j : Job) (step : Nat) (period : Nat) (remain : Nat) (v : BVote) (q : Nat) : Kept A B (Machine.sendRing j step period remain v q s).chip := by
  unfold Machine.sendRing
  exact h.queueBell _ _

theorem Kept.setRing {s : State} (h : Kept A B s.chip) (j : Job) (remain : Nat) (v : BVote) : Kept A B (Machine.setRing j remain v s).chip := by
  unfold Machine.setRing
  extract_lets +onlyGivenNames s1
  have hs1 : Kept A B s1.chip := h.modBell _
  clear_value s1
  exact Kept.foldlS hs1 _ fun _ _ hd => hd.sendRing _ _ _ _ _ _

theorem Kept.bellProgress {s : State} (h : Kept A B s.chip) : Kept A B (Machine.bellProgress s).chip := by
  unfold Machine.bellProgress
  split
  · exact h
  · extract_lets +onlyGivenNames b all
    exact .iteS h (Kept.iteS (h.setRing _ _ _) ((h.modBell _).sendReady _))

theorem Kept.deviceReady {s : State} (h : Kept A B s.chip) : Kept A B (Machine.deviceReady s).chip := by
  unfold Machine.deviceReady
  split
  · exact h
  · exact .iteS h ((h.modBell _).bellProgress)

theorem Kept.readyRepeat {s : State} (h : Kept A B s.chip) : Kept A B (Machine.readyRepeat s).chip := by
  unfold Machine.readyRepeat
  split
  · exact h
  · exact .iteS (h.sendReady _) h

theorem Kept.stopJob {c : Chip} (h : Kept A B c) (j : Job) : Kept A B (Machine.stopJob j c) := by
  unfold Machine.stopJob
  exact Kept.foldl h _ fun _ _ hd => hd.setRun1 _ _

theorem Kept.stopPorts {c : Chip} (h : Kept A B c) (j : Job) : Kept A B (Machine.stopPorts j c) := by
  unfold Machine.stopPorts
  exact Kept.foldl h _ fun _ _ hd => (hd.stopNow _).ethKeyClear _

theorem Kept.endStalled {s : State} (h : Kept A B s.chip) : Kept A B (Machine.endStalled s).chip := by
  unfold Machine.endStalled
  split
  · exact h
  · exact .iteS ((h.longResult _).modBell _) h

theorem Kept.jobDone {s : State} (h : Kept A B s.chip) (j : Job) : Kept A B (Machine.jobDone j s).chip := by
  unfold Machine.jobDone
  extract_lets +onlyGivenNames s1 s2 s3
  have hs1 : Kept A B s1.chip := h.endStalled
  have hs2 : Kept A B s2.chip := by
    simp only [s2]
    refine Kept.modChip ?_
    exact (hs1.stopJob _).stopPorts _
  have hs3 : Kept A B s3.chip := hs2.modBell _
  clear_value s1 s2 s3
  exact (hs3.logEvent _ _ _).setDstate _

theorem Kept.replayDone {s : State} (h : Kept A B s.chip) (j : Job) : Kept A B (Machine.replayDone j s).chip := by
  unfold Machine.replayDone
  extract_lets +onlyGivenNames s1 s2 s3
  have hs1 : Kept A B s1.chip := h.logEvent _ _ _
  have hs2 : Kept A B s2.chip := hs1.longResult _
  have hs3 : Kept A B s3.chip := hs2.modBell _
  clear_value s1 s2 s3
  exact Kept.setDstate (Kept.modChip (hs3.stopJob _)) _

theorem Kept.closeEpochs {c : Chip} (h : Kept A B c) (go : Bool) : Kept A B (Machine.closeEpochs go c) := by
  unfold Machine.closeEpochs
  exact Kept.foldl h _ fun _ _ hd => hd.quiet ((Quiet.refl _).specClose _ _)

theorem Kept.replayCompare {s : State} (h : Kept A B s.chip) (j : Job) (p : Nat) : Kept A B (Machine.replayCompare j p s).chip := by
  unfold Machine.replayCompare
  split
  · exact h
  · refine Kept.foldlS h _ fun _ _ hd => ?_
    extract_lets +onlyGivenNames s1
    have hs1 : Kept A B s1.chip := hd.modBell _
    clear_value s1
    split
    · refine Kept.logEvent (Kept.modChip ?_) _ _ _
      exact hs1.setRaw (unwatched_off (by simp) (by decide)) _
    · exact hs1

theorem Kept.paceCount {s : State} (h : Kept A B s.chip) (j : Job) (p : Nat) (ns : Nat) : Kept A B (Machine.paceCount j p ns s).chip := by
  unfold Machine.paceCount
  extract_lets +onlyGivenNames b
  refine Kept.modChip ?_
  extract_lets +onlyGivenNames c
  have hc : Kept A B c := h.bumpF (unwatched_off (by simp) (by decide)) _ _ _
  clear_value c
  exact .ite (hc.bumpF (unwatched (by decide)) _ _ _) hc

theorem Kept.checkpointBell {s : State} (h : Kept A B s.chip) (j : Job) (p : Nat) (st : Nat) : Kept A B (Machine.checkpointBell j p st s).chip := by
  unfold Machine.checkpointBell
  split
  · exact h
  · exact .iteS (((h.tickFresh _).startXfer _ _ _ _ _).modBell _) h

theorem Kept.afterRing {s : State} (h : Kept A B s.chip) (j : Job) (p : Nat) (st : Nat) (ns : Nat) : Kept A B (Machine.afterRing j p st ns s).chip := by
  unfold Machine.afterRing
  extract_lets +onlyGivenNames last st' p' s1
  have hs1 : Kept A B s1.chip := by
    simp only [s1]
    refine Kept.modChip ?_
    exact h.setRaw (unwatched (by decide)) _
  clear_value s1
  split
  · exact hs1.replayDone _
  · split
    · exact (hs1.modBell _).haltSchool _ _ _
    · split
      · exact hs1.jobDone _
      · extract_lets +onlyGivenNames s2
        have hs2 : Kept A B s2.chip := hs1.releasePeriod _ _ _ _
        clear_value s2
        exact .iteS (hs2.stampWrite _) hs2

theorem Kept.abortRing {s : State} (h : Kept A B s.chip) (v : BVote) : Kept A B (Machine.abortRing v s).chip := by
  unfold Machine.abortRing
  extract_lets +onlyGivenNames s1
  have hs1 : Kept A B s1.chip := Kept.iteS (h.logEvent _ _ _) h
  clear_value s1
  exact (hs1.modBell _).haltSchool _ _ _

theorem Kept.bellRing {s : State} (h : Kept A B s.chip) (ns : Nat) : Kept A B (Machine.bellRing ns s).chip := by
  unfold Machine.bellRing
  split
  · split
    · exact h
    · extract_lets +onlyGivenNames p st s1 s2 s3 s4
      have hs1 : Kept A B s1.chip := (h.paceCount _ _ _).replayCompare _ _
      have hs2 : Kept A B s2.chip := hs1.modBell _
      have hs3 : Kept A B s3.chip := by
        simp only [s3]
        split
        · refine Kept.modChip ?_
          exact (hs2.setF (unwatched (by decide)) _ _ _).closeEpochs _
        · exact hs2
      have hs4 : Kept A B s4.chip := hs3.checkpointBell _ _ _
      clear_value s1 s2 s3 s4
      exact .iteS (hs4.abortRing _) (hs4.afterRing _ _ _ _)
  · exact h

theorem Kept.haltStop {s : State} (h : Kept A B s.chip) : Kept A B (Machine.haltStop s).chip := by
  unfold Machine.haltStop
  split
  · exact h
  · exact .iteS h (Kept.setDstate (Kept.modChip ((h.endStalled.modBell _).stopJob _)) _)

theorem Kept.logUnits (src code : Nat) : ∀ (us : List Nat) (n : Nat) {s : State}, Kept A B s.chip → Kept A B (Machine.logUnits src code us n s).chip
  | _, 0, _, h => h
  | us, n + 1, _, h => logUnits src code (us.drop 3) n (h.logEvent _ _ _)

theorem Kept.periodHang {s : State} (h : Kept A B s.chip) : Kept A B (Machine.periodHang s).chip := by
  unfold Machine.periodHang
  split
  · exact h
  · extract_lets +onlyGivenNames b
    exact .iteS h ((h.logUnits _ _ _ _).failSchool _)

theorem Kept.peerSilent {s : State} (h : Kept A B s.chip) (rank : Nat) : Kept A B (Machine.peerSilent rank s).chip := by
  unfold Machine.peerSilent
  split
  · exact h
  · extract_lets +onlyGivenNames b
    exact .iteS ((h.logEvent _ _ _).failSchool _) h

theorem Kept.loopInsn {c : Chip} (h : Kept A B c) (w : W32) (u : StrandId) (n : BitVec 11) (srcs : List Nat) (count : W64) :
    Kept A B (Machine.loopInsn w u n srcs count c) := by
  unfold Machine.loopInsn
  extract_lets +onlyGivenNames pc lend
  exact h.issue _ _ h fun _ => ((h.putCtl u (n := 3) (fun h => nomatch h) _).putCtl u (n := 4) (fun h => nomatch h) _).putCtl u (n := 5) (fun h => nomatch h) _

/-- Every core changed beside its strands. -/
theorem Kept.mapCores {c : Chip} (h : Kept A B c) {f : Nat → Core → Core} (hd : ∀ n, f n corePower = corePower)
    (hs : ∀ n k, (f n k).strands = k.strands) : Kept A B { c with cores := tmap (fun _ => corePower) f c.cores } := by
  refine h.step (fun _ _ _ => rfl) fun u hl => ?_
  have hu : strandOf { c with cores := tmap (fun _ => corePower) f c.cores } u = strandOf c u := by
    rw [strandOf, coreOf, tget_tmap (fun _ => corePower) f c.cores _ (hd _), hs]; rfl
  rwa [hu]

theorem Kept.dropLessons {c : Chip} (h : Kept A B c) : Kept A B (Machine.dropLessons c) := by
  unfold Machine.dropLessons
  exact Kept.mapCores (Kept.foldl h _ fun _ _ hd => hd.modStrandSame _) (fun _ => rfl) fun _ _ => rfl

theorem Kept.startJob {c : Chip} (h : Kept A B c) (j : Job) (dmode : Nat) : Kept A B (Machine.startJob j dmode c) := by
  unfold Machine.startJob
  extract_lets +onlyGivenNames c1
  have hc1 : Kept A B c1 := (h.dropLessons.stopNow _).setF (unwatched_off (by simp) (by decide)) _ _ _
  clear_value c1
  exact Kept.foldl hc1 _ fun _ _ hd => Kept.ite (hd.startNow _) hd

theorem Kept.raiseLevels {c : Chip} (h : Kept A B c) (j : Job) : Kept A B (Machine.raiseLevels j c) := by
  unfold Machine.raiseLevels
  exact Kept.foldl h _ fun _ _ hd => hd.plReq _ _

theorem Kept.runStep {s : State} (h : Kept A B s.chip) (j : Job) (step : Nat) : Kept A B (Machine.runStep j step s).chip := by
  unfold Machine.runStep
  extract_lets +onlyGivenNames s1 s2 s3
  have hs1 : Kept A B s1.chip := (h.modBell _).modDev _
  have hs2 : Kept A B s2.chip := hs1.releasePeriod _ _ _ _
  have hs3 : Kept A B s3.chip := Kept.iteS (hs2.stampWrite _) hs2
  clear_value s1 s2 s3
  exact hs3.setDstate _

theorem Kept.dropWins {s : State} (h : Kept A B s.chip) (lo : Nat) (hi : Nat) : Kept A B (Machine.dropWins lo hi s).chip := by
  unfold Machine.dropWins
  exact h.modDev _

theorem Kept.restoreShard {s : State} (h : Kept A B s.chip) (j : Job) (sr : Nat) : Kept A B (Machine.restoreShard j sr s).chip := by
  unfold Machine.restoreShard
  extract_lets +onlyGivenNames stamp
  refine Kept.mendShard (Kept.modChip ?_)
  exact (h.computeCopies.setSteps _).writeStreams _ _ _

theorem Kept.replayBegin {s : State} (h : Kept A B s.chip) : Kept A B (Machine.replayBegin s).chip := by
  unfold Machine.replayBegin
  split
  · exact .iteS (Kept.runStep (Kept.modChip ((h.restoreShard _ _).startJob _ _)) _ _) h
  · exact h

theorem Kept.wireFrame {s : State} (h : Kept A B s.chip) (j : Job) (p : Nat) (typ : Nat) (f : Frame) : Kept A B (Machine.wireFrame j p typ f s).chip := by
  unfold Machine.wireFrame
  extract_lets +onlyGivenNames f1
  exact h.modEth _ _

theorem Kept.windowStart {s : State} (h : Kept A B s.chip) (i : Nat) : Kept A B (Machine.windowStart i s).chip := by
  unfold Machine.windowStart
  split
  · exact h
  · extract_lets +onlyGivenNames b
    exact .iteS (h.modWin _ _) h

theorem Kept.windowFail {s : State} (h : Kept A B s.chip) (p : Nat) (key : Nat) (w : Win) : Kept A B (Machine.windowFail p key w s).chip := by
  unfold Machine.windowFail
  extract_lets +onlyGivenNames s1
  have hs1 : Kept A B s1.chip := (h.modWin _ _).logEvent _ _ _
  clear_value s1
  exact .iteS (hs1.failSchool _) ((hs1.modBell _).longResult _)

theorem Kept.frameAsk {s : State} (h : Kept A B s.chip) (p : Nat) (key : Nat) (w : Win) (n : Nat) : Kept A B (Machine.frameAsk p key w n s).chip := by
  unfold Machine.frameAsk
  split
  · exact h
  · refine Kept.modWin (Kept.modChip ?_) _ _
    exact h.portReads _ _

theorem Kept.sendData {s : State} (h : Kept A B s.chip) (j : Job) (p : Nat) (key : Nat) (w : Win) (n : Nat) : Kept A B (Machine.sendData j p key w n s).chip := by
  unfold Machine.sendData
  split
  · exact h.frameAsk _ _ _ _
  · extract_lets +onlyGivenNames x sent ws f s1 s2 s3
    have hs1 : Kept A B s1.chip := (h.tickFresh _).modWin _ _
    have hs2 : Kept A B s2.chip := by
      simp only [s2]
      split
      · refine Kept.modChip ?_
        exact hs1.bumpF (unwatched_ethB (by decide)) _ _ _
      · exact hs1
    have hs3 : Kept A B s3.chip := hs2.wireFrame _ _ _ _
    clear_value s1 s2 s3
    exact .iteS (hs3.windowFail _ _ _) hs3

theorem Kept.schoolTransmit {s : State} (h : Kept A B s.chip) (p : Nat) : Kept A B (Machine.schoolTransmit p s).chip := by
  unfold Machine.schoolTransmit
  split
  · exact h
  · split
    · exact h
    · split
      · exact (h.modEth _ _).wireFrame _ _ _ _
      · split
        · exact h
        · split
          · exact h
          · exact h.sendData _ _ _ _ _

theorem Kept.frameTransmit {s : State} (h : Kept A B s.chip) (p : Nat) : Kept A B (Machine.frameTransmit p s).chip := by
  unfold Machine.frameTransmit
  exact (h.roceTransmit _).schoolTransmit _

theorem Kept.onFrame {s : State} (h : Kept A B s.chip) (p typ : Nat) (f : Frame) {act : Job → State → State}
    (ha : ∀ j t, Kept A B t.chip → Kept A B (act j t).chip) : Kept A B (Machine.onFrame p typ f s act).chip := by
  unfold Machine.onFrame
  split
  · exact h
  split
  · exact h.dropFrame _ _
  split
  · exact h.dropFrame _ _
  extract_lets +onlyGivenNames r
  split
  · exact h.dropFrame _ _
  extract_lets +onlyGivenNames s1
  have hs1 : Kept A B s1.chip := h.modEth _ _
  clear_value s1
  exact .iteS (hs1.dropFrame _ _) (.iteS (hs1.dropFrame _ _) (ha _ _ hs1))

theorem Kept.putFrame {c : Chip} (h : Kept A B c) (p : Nat) (w : Win) (f : Frame) : Kept A B (Machine.putFrame p w f c) := by
  unfold Machine.putFrame
  extract_lets +onlyGivenNames a ws put
  exact .ite (((h.meshRead _).meshWrite _).orF (unwatched (by decide)) _ _ _) (h.meshWrite _)

theorem Kept.lateWindow {s : State} (h : Kept A B s.chip) (index : Nat) (lateNs : Nat) (w : Win) : Kept A B (Machine.lateWindow index lateNs w s).chip := by
  unfold Machine.lateWindow
  split
  · exact h
  · extract_lets +onlyGivenNames s1
    have hs1 : Kept A B s1.chip := by
      simp only [s1]
      refine Kept.modChip ?_
      split
      · exact (h.bumpF (unwatched (by decide)) _ _ _).bumpF (unwatched (by decide)) _ _ _
      · exact ((h.bumpF (unwatched (by decide)) _ _ _).bumpF (unwatched (by decide)) _ _ _).setRaw (unwatched_off (by simp) (by decide)) _
    clear_value s1
    exact hs1.logEvent _ _ _

theorem Kept.sendDone {s : State} (h : Kept A B s.chip) (j : Job) (p : Nat) (w : Win) (f : Frame) : Kept A B (Machine.sendDone j p w f s).chip := by
  unfold Machine.sendDone
  exact h.queueCtl _ _ _

theorem Kept.recovTurn {s : State} (h : Kept A B s.chip) (j : Job) (f : Frame) : Kept A B (Machine.recovTurn j f s).chip := by
  unfold Machine.recovTurn
  extract_lets +onlyGivenNames no
  split
  · exact h
  · split
    · exact .iteS h ((h.dropWins _ _).modBell _)
    · exact .iteS h ((h.dropWins _ _).modBell _)

theorem Kept.dataIn {s : State} (h : Kept A B s.chip) (p : Nat) (f : Frame) (lateNs : Nat) (j : Job) : Kept A B (Machine.dataIn p f lateNs j s).chip := by
  unfold Machine.dataIn
  extract_lets +onlyGivenNames s1
  have hs1 : Kept A B s1.chip := h.recovTurn _ _
  clear_value s1
  split
  · exact hs1.dropFrame _ _
  · extract_lets +onlyGivenNames x
    split
    · refine Kept.modChip ?_
      exact (hs1.dropFrame _ _).report _ _ _
    · split
      · exact (hs1.dropFrame _ _).sendDone _ _ _ _
      · split
        · exact hs1.dropFrame _ _
        · extract_lets +onlyGivenNames y full s2
          have hs2 : Kept A B s2.chip := Kept.modWin (Kept.modChip (hs1.putFrame _ _ _)) _ _
          clear_value s2
          exact .iteS (Kept.sendDone (Kept.iteS (hs2.lateWindow _ _ _) hs2.replayBegin) _ _ _ _) hs2

theorem Kept.recovDone {s : State} (h : Kept A B s.chip) : Kept A B (Machine.recovDone s).chip := by
  unfold Machine.recovDone
  extract_lets +onlyGivenNames n
  split
  · extract_lets +onlyGivenNames s1
    have hs1 : Kept A B s1.chip := (h.dropWins _ _).modBell _
    clear_value s1
    exact .iteS hs1.replayBegin (hs1.longResult _)
  · exact h

theorem Kept.snapNext {s : State} (h : Kept A B s.chip) : Kept A B (Machine.snapNext s).chip := by
  unfold Machine.snapNext
  extract_lets +onlyGivenNames n done go
  split
  · exact h
  · split
    · exact Kept.foldlS h _ fun _ _ hd => hd.modWin _ _
    · exact Kept.foldlS h _ fun _ _ hd => hd.modWin _ _

theorem Kept.doneIn {s : State} (h : Kept A B s.chip) (p : Nat) (f : Frame) (j : Job) : Kept A B (Machine.doneIn p f j s).chip := by
  unfold Machine.doneIn
  split
  · exact h
  · exact ((h.modWin _ _).snapNext).recovDone

theorem Kept.nakIn {s : State} (h : Kept A B s.chip) (p : Nat) (f : Frame) (j : Job) : Kept A B (Machine.nakIn p f j s).chip := by
  unfold Machine.nakIn
  split
  · exact h
  · exact h.modWin _ _

theorem Kept.nakTimer {s : State} (h : Kept A B s.chip) (p : Nat) (i : Nat) : Kept A B (Machine.nakTimer p i s).chip := by
  unfold Machine.nakTimer
  split
  · exact h
  · split
    · exact h
    · extract_lets +onlyGivenNames x
      exact .iteS h (h.queueCtl _ _ _)

theorem Kept.doneTimeout {s : State} (h : Kept A B s.chip) (p : Nat) (i : Nat) : Kept A B (Machine.doneTimeout p i s).chip := by
  unfold Machine.doneTimeout
  split
  · exact h
  · split
    · exact h
    · extract_lets +onlyGivenNames x
      exact .iteS h (h.modWin _ _)

theorem Kept.readyIn {s : State} (h : Kept A B s.chip) (f : Frame) (j : Job) : Kept A B (Machine.readyIn f j s).chip := by
  unfold Machine.readyIn
  extract_lets +onlyGivenNames b
  split
  · exact h
  · split
    · exact .iteS h ((h.modBell _).bellProgress)
    · split
      · exact .iteS (h.sendRing _ _ _ _ _ _) h
      · exact h

theorem Kept.ringIn {s : State} (h : Kept A B s.chip) (f : Frame) (j : Job) : Kept A B (Machine.ringIn f j s).chip := by
  unfold Machine.ringIn
  extract_lets +onlyGivenNames b
  exact .iteS (h.setRing _ _ _) h

theorem Kept.haltIn {s : State} (h : Kept A B s.chip) (f : Frame) (j : Job) : Kept A B (Machine.haltIn f j s).chip := by
  unfold Machine.haltIn
  exact .iteS (h.haltAt _ _ _ _ _) (Kept.iteS h (h.sendHalt _ _ _ _ _ _))

theorem Kept.probeIn {s : State} (h : Kept A B s.chip) (p : Nat) (f : Frame) (j : Job) : Kept A B (Machine.probeIn p f j s).chip := by
  unfold Machine.probeIn
  exact h.queueCtl _ _ _

theorem Kept.loadSegments {c : Chip} (h : Kept A B c) (j : Job) : Kept A B (Machine.loadSegments j c) := by
  unfold Machine.loadSegments
  exact Kept.foldl h _ fun _ _ hd => hd.wardenWrite _

theorem Kept.loadPumps {c : Chip} (h : Kept A B c) (j : Job) : Kept A B (Machine.loadPumps j c) := by
  unfold Machine.loadPumps
  extract_lets +onlyGivenNames c1
  have hc1 : Kept A B c1 := Kept.foldl h _ fun _ _ hd => hd.setRawOff (by simp [pmpB]) _ _
  clear_value c1
  exact Kept.foldl hc1 _ fun _ _ hd => hd.setRawOff (by simp [sylB]) _ _

theorem Kept.loadProtection {c : Chip} (h : Kept A B c) (j : Job) : Kept A B (Machine.loadProtection j c) := by
  unfold Machine.loadProtection
  refine Kept.foldl h _ fun d core hd => ?_
  extract_lets +onlyGivenNames n p on d1
  have h1 : Kept A B d1 := Kept.ite (hd.modCore _) hd
  clear_value d1
  refine Kept.foldl h1 _ fun e x he => he.modStrand _ fun hl => ?_
  split
  · exact hl.protStrand _ _ _ _
  · exact ((hl.setCreg (n := 17) (by decide) _).setCreg (n := 18) (by decide) _).setCreg (n := 19) (by decide) 0

theorem Kept.loadView {c : Chip} (h : Kept A B c) (j : Job) : Kept A B (Machine.loadView j c) := by
  unfold Machine.loadView
  exact (h.loadPumps _).loadSegments _

theorem Kept.roleHandover {s : State} (h : Kept A B s.chip) (c : Cmd) : Kept A B (Machine.roleHandover c s).chip := by
  unfold Machine.roleHandover
  extract_lets +onlyGivenNames other
  exact .iteS ((h.setOwner _ _).finish _ _) (h.finish _ _)

end Sys2Proof.Machine
end

section
/-! PROOFS. What keeps every MODE legal and the settings agreed: the firmware, resets and starts, jobs, shards and transfers (spec/11, spec/12, spec/13). -/

-- One after another: started side by side, this many short proofs take more memory than the check has.
set_option Elab.async false

open Sys2Proof Sys2Proof.Machine
namespace Sys2Proof.Machine
variable {A B : Prop}

theorem Kept.fusesS {s : State} (h : Kept A B s.chip) (f : Fuses) : Kept A B ({ s with fuses := f } : State).chip := h

/-! ### Blocks at reset (R18, R44, R577) -/

/-- A block whose registers all hold their reset values. -/
def blankBlock (b : BlockId) (c : Chip) : Chip :=
  { c with hung := tput (fun _ => false) c.hung (blockKey b) false, regs := tput (fun _ => []) c.regs (blockKey b) [] }

theorem regReset_state (k : BKind) : natBits (regReset k 0x002).toNat 1 0 = 0 := by cases k <;> decide

theorem bState_of_blank {c : Chip} {b : BlockId} (h : blkRegs c b = []) : bState c b = 0 := by
  rw [bState, getF, rawReg, h]
  exact regReset_state _

namespace Kept
variable {c : Chip}

theorem blankBlock (h : Kept A B c) (b : BlockId) : Kept A B (blankBlock b c) := by
  have hn {q : BlockId} (hq : q ≠ b) (n : Nat) : rawReg (Machine.blankBlock b c) q n = rawReg c q n := by
    have : blockKey q ≠ blockKey b := fun e => hq (blockKey_injective e)
    simp [rawReg, blkRegs, Machine.blankBlock, tget_tput_ne _ _ _ this]
  refine ⟨fun ha => settingsAgree_step (h.1 ha) fun r hr => .inl ?_, h.2⟩
  by_cases hb : .cls r = b
  · have h0 : bState (Machine.blankBlock b c) (.cls r) = 0 := bState_of_blank (by simp [blkRegs, Machine.blankBlock, hb])
    omega
  · exact ⟨by rwa [bState, getF_of_rawReg (hn hb 2)] at hr, fun n _ => hn hb n⟩

theorem resetBlock (h : Kept A B c) (b : BlockId) : Kept A B (Machine.resetBlock b c) := by
  have h1 := h.blankBlock b
  unfold Machine.resetBlock
  exact .ite (h1.setMark b (hi := 8) (lo := 8) (by decide) 1) h1

/-- A package of the same strands whose blocks are all at reset. -/
theorem blank {d : Chip} (h : Kept A B c) (hr : d.regs = []) (hc : d.cores = c.cores) : Kept A B d := by
  refine ⟨fun _ r hs => ?_, fun hb u => ?_⟩
  · have h0 : bState d (.cls r) = 0 := bState_of_blank (by rw [blkRegs, hr]; rfl)
    omega
  · rw [strandOf_of_cores hc]; exact h.2 hb u

theorem loadFuses (h : Kept A B c) : Kept A B (Machine.loadFuses c) := by
  unfold Machine.loadFuses
  refine Kept.foldl h _ fun d r hd => List.foldlRecOn _ _ hd fun e he off ho => he.setRaw (unwatched ?_) _
  simp only [List.mem_cons, List.not_mem_nil, or_false] at ho
  omega

theorem keepFuses (h : Kept A B c) (old : Chip) (r : Nat) : Kept A B (Machine.keepFuses old r c) := by
  unfold Machine.keepFuses
  refine List.foldlRecOn _ _ h fun e he off ho => he.setRaw (unwatched ?_) _
  simp only [List.mem_cons, List.not_mem_nil, or_false] at ho
  omega

end Kept

theorem Kept.roleClaim {s : State} (h : Kept A B s.chip) (c : Cmd) : Kept A B (Machine.roleClaim c s).chip := by
  unfold Machine.roleClaim
  extract_lets +onlyGivenNames me
  split
  · exact h.finish _ _
  · exact .iteS (h.finish _ _) (Kept.iteS ((h.setOwner _ _).finish _ _) (h.finish _ _))

theorem Kept.eventRead {s : State} (h : Kept A B s.chip) (c : Cmd) : Kept A B (Machine.eventRead c s).chip := by
  unfold Machine.eventRead
  extract_lets +onlyGivenNames l
  exact h.finish _ _

theorem Kept.eventLogFlush {s : State} (h : Kept A B s.chip) : Kept A B (Machine.eventLogFlush s).chip := by
  unfold Machine.eventLogFlush
  exact .iteS h.flushLog h

theorem Kept.rcCounterSweep {s : State} (h : Kept A B s.chip) : Kept A B (Machine.rcCounterSweep s).chip := by
  unfold Machine.rcCounterSweep
  split
  · exact h
  extract_lets +onlyGivenNames one r
  have hr : Kept A B r.1.chip := foldl_keeps (P := fun x : State × List Nat => Kept A B x.1.chip) (fun x off hx => hx.busRead _ _) _ _ h
  clear_value r
  exact hr.logEvent _ _ _

theorem Kept.flashBad {s : State} (h : Kept A B s.chip) (b : Nat) : Kept A B (Machine.flashBad b s).chip := by
  unfold Machine.flashBad
  split
  · exact h
  · extract_lets +onlyGivenNames s1 low
    have hs1 : Kept A B s1.chip := (h.modFlash _).logEvent _ _ _
    clear_value s1
    exact .iteS (hs1.logEvent _ _ _) hs1

theorem Kept.settingsRead {s : State} (h : Kept A B s.chip) (c : Cmd) : Kept A B (Machine.settingsRead c s).chip := by
  unfold Machine.settingsRead
  extract_lets +onlyGivenNames x
  exact h.finish _ _

theorem Kept.settingsWrite {s : State} (h : Kept A B s.chip) (c : Cmd) : Kept A B (Machine.settingsWrite c s).chip := by
  unfold Machine.settingsWrite
  exact .iteS ((h.putSetting _ _).finish _ _) (h.finish _ _)

theorem Kept.regReadCmd {s : State} (h : Kept A B s.chip) (c : Cmd) : Kept A B (Machine.regReadCmd c s).chip := by
  unfold Machine.regReadCmd
  split
  · exact h.finish _ _
  · exact .iteS h (Kept.finish (Kept.modChip (h.busRead _ _)) _ _)

theorem Kept.regWriteCmd {s : State} (h : Kept A B s.chip) (c : Cmd) : Kept A B (Machine.regWriteCmd c s).chip := by
  unfold Machine.regWriteCmd
  split
  · exact h.finish _ _
  · exact .iteS h (Kept.finish (Kept.modChip (h.busWrite _ _ _)) _ _)

theorem Kept.attest {s : State} (h : Kept A B s.chip) (c : Cmd) : Kept A B (Machine.attest c s).chip := by
  unfold Machine.attest
  extract_lets +onlyGivenNames body
  exact h.finish _ _

theorem Kept.authFail {s : State} (h : Kept A B s.chip) (c : Cmd) (res : List Nat) : Kept A B (Machine.authFail c res s).chip := by
  unfold Machine.authFail
  exact (h.logEvent _ _ _).finish _ _

theorem Kept.ideKeyx {s : State} (h : Kept A B s.chip) (c : Cmd) : Kept A B (Machine.ideKeyx c s).chip := by
  unfold Machine.ideKeyx
  extract_lets +onlyGivenNames ek
  exact .iteS (h.authFail _ _) (((h.tickFresh _).modPcie _ _).finish _ _)

theorem Kept.ideStart {s : State} (h : Kept A B s.chip) (c : Cmd) : Kept A B (Machine.ideStart c s).chip := by
  unfold Machine.ideStart
  extract_lets +onlyGivenNames p
  split
  · exact h.finish _ _
  · exact (h.modPcie _ _).finish _ _

theorem Kept.ideFail {s : State} (h : Kept A B s.chip) (p : Nat) : Kept A B (Machine.ideFail p s).chip := by
  unfold Machine.ideFail
  exact .iteS (Kept.iteS ((h.modPcie _ _).logEvent _ _ _) (h.modPcie _ _)) h

theorem Kept.fwBlock {s : State} (h : Kept A B s.chip) (c : Cmd) : Kept A B (Machine.fwBlock c s).chip := by
  unfold Machine.fwBlock
  exact .iteS ((h.logEvent _ _ _).finish _ _) (((h.modFlash _).modWarden _).finish _ _)

theorem Kept.emptyStaging {s : State} (h : Kept A B s.chip) : Kept A B (Machine.emptyStaging s).chip := by
  unfold Machine.emptyStaging
  exact h.modWarden _

theorem Kept.fwCommit {s : State} (h : Kept A B s.chip) (c : Cmd) : Kept A B (Machine.fwCommit c s).chip := by
  unfold Machine.fwCommit
  extract_lets +onlyGivenNames len
  split
  · exact h.background _ _
  · extract_lets +onlyGivenNames slot img
    split
    · exact ((h.logEvent _ _ _).emptyStaging).background _ _
    · extract_lets +onlyGivenNames s1
      have hs1 : Kept A B s1.chip := (h.modFlash _).logEvent _ _ _
      clear_value s1
      exact ((hs1.modWarden _).emptyStaging).background _ _

theorem Kept.flashRefresh {s : State} (h : Kept A B s.chip) (worn : Bool) : Kept A B (Machine.flashRefresh worn s).chip := by
  unfold Machine.flashRefresh
  split
  · exact h
  · split
    · exact h
    · extract_lets +onlyGivenNames slot img
      exact .iteS (h.logEvent _ _ _) (Kept.iteS h (((h.modFlash _).modWarden _).logEvent _ _ _))

/-- What a cold reset leaves of a package whose classrooms are closed. -/
def coldOf (c : Chip) : Chip :=
  { chipReset with
    fresh := c.fresh, mem := c.mem, pois := c.pois, crypt := c.crypt, lost := c.lost, since := c.since, cores := c.cores, plHold := c.plHold
    stk := tmap (fun _ => stackReset) (fun _ x => { stackReset with failed := x.failed }) c.stk }

theorem Kept.coldOf {c : Chip} (h : Kept A B c) : Kept A B (coldOf c) := h.blank rfl rfl

theorem Kept.coldChip {c : Chip} (h : Kept A B c) : Kept A B (Machine.coldChip c) := by
  have h1 := Kept.foldl (f := fun c r => Machine.closeRoom r c) (Kept.foldl (f := fun c k => Machine.wipeAbandon k c) h (List.range 8)
    fun _ _ hd => hd.wipeAbandon _) (List.range 64) fun _ _ hd => hd.closeRoom _
  exact Kept.foldl h1.coldOf _ fun _ _ hd => hd.setMark _ (hi := 8) (lo := 8) (by decide) _

theorem Kept.coldState {s : State} (h : Kept A B s.chip) (ph : Nat) : Kept A B (Machine.coldState ph s).chip := by
  unfold Machine.coldState
  exact h.coldChip

theorem Kept.die {s : State} (h : Kept A B s.chip) (reason : Nat) : Kept A B (Machine.die reason s).chip := by
  unfold Machine.die
  exact (h.modBoot _).tickFresh _

theorem Kept.startFirmware {s : State} (h : Kept A B s.chip) (img : List Byte) (m1 : List Byte) : Kept A B (Machine.startFirmware img m1 s).chip := by
  unfold Machine.startFirmware
  extract_lets +onlyGivenNames s1 seq s2 s3
  have hs1 : Kept A B s1.chip := h.modFlash _
  have hs2 : Kept A B s2.chip := hs1.modWarden _
  have hs3 : Kept A B s3.chip := hs2.modBoot _
  clear_value s1 s2 s3
  refine Kept.logEvent (Kept.modChip ?_) _ _ _
  exact Kept.nowUs hs3 _

theorem Kept.romFlow {s : State} (h : Kept A B s.chip) : Kept A B (Machine.romFlow s).chip := by
  unfold Machine.romFlow
  extract_lets +onlyGivenNames n
  split
  · exact h.die _
  · split
    · exact h.die _
    · split
      · exact h.die _
      · extract_lets +onlyGivenNames img
        split
        · exact (h.modBoot _).die _
        · exact h.startFirmware _ _

theorem Kept.fuseSense {s : State} (h : Kept A B s.chip) : Kept A B (Machine.fuseSense s).chip := by
  unfold Machine.fuseSense
  exact .iteS h (Kept.romFlow (Kept.modBoot (Kept.modChip h.loadFuses) _))

theorem Kept.coldReset {s : State} (h : Kept A B s.chip) : Kept A B (Machine.coldReset s).chip := by
  unfold Machine.coldReset
  exact .iteS ((h.coldState _).fuseSense) (h.coldState _)

theorem Kept.romWatchdog {s : State} (h : Kept A B s.chip) : Kept A B (Machine.romWatchdog s).chip := by
  unfold Machine.romWatchdog
  exact .iteS (h.die _) h

theorem Kept.beginStart {s : State} (h : Kept A B s.chip) : Kept A B (Machine.beginStart s).chip := by
  unfold Machine.beginStart
  exact .iteS (h.modBoot _) h

theorem Kept.rstFall {s : State} (h : Kept A B s.chip) : Kept A B (Machine.rstFall s).chip := by
  unfold Machine.rstFall
  extract_lets +onlyGivenNames s1
  have hs1 : Kept A B s1.chip := h.modBoot _
  clear_value s1
  exact .iteS (hs1.coldState _) hs1

theorem Kept.migrateOne {s : State} (h : Kept A B s.chip) (r : Setting) : Kept A B (Machine.migrateOne s r).chip := by
  unfold Machine.migrateOne
  split
  · exact h
  · exact .iteS ((h.putSetting _ _).logEvent _ _ _) (Kept.iteS (h.logEvent _ _ _) h)

theorem Kept.migrateLog {s : State} (h : Kept A B s.chip) (b : Nat) : Kept A B (Machine.migrateLog s b).chip := by
  unfold Machine.migrateLog
  extract_lets +onlyGivenNames old new
  exact .iteS ((h.modFlash _).logEvent _ _ _) h

theorem Kept.migrateAll {s : State} (h : Kept A B s.chip) : Kept A B (Machine.migrateAll s).chip := by
  unfold Machine.migrateAll
  extract_lets +onlyGivenNames m1
  split
  · exact h
  · extract_lets +onlyGivenNames s1
    have hs1 : Kept A B s1.chip := Kept.foldlS h _ fun _ _ hd => hd.migrateOne _
    clear_value s1
    exact Kept.putSetting (Kept.foldlS hs1 _ fun _ _ hd => hd.migrateLog _) _ _

theorem Kept.settingsMount {s : State} (h : Kept A B s.chip) : Kept A B (Machine.settingsMount s).chip := by
  unfold Machine.settingsMount
  exact .iteS h (((h.migrateAll.modBoot _).modPower _).setOwner _ _)

theorem Kept.putRows {s : State} (h : Kept A B s.chip) (key : Nat) (l : List Nat) : Kept A B (Machine.putRows key l s).chip := by
  unfold Machine.putRows
  exact h.putSetting _ _

theorem Kept.retireRow {s : State} (h : Kept A B s.chip) (k : Nat) (row : Nat) : Kept A B (Machine.retireRow k row s).chip := by
  unfold Machine.retireRow
  extract_lets +onlyGivenNames l
  split
  · exact h
  · split
    · refine Kept.modChip ?_
      exact (h.modStack _ _).report _ _ _
    · exact h.putRows _ _

theorem Kept.repairRow {s : State} (h : Kept A B s.chip) (k row left : Nat) : Kept A B (Machine.repairRow k row left s).1.chip := by
  unfold Machine.repairRow
  extract_lets +onlyGivenNames bank
  split
  · exact h.retireRow _ _
  split
  · exact h
  · exact Kept.putSetting (h.fusesS _) _ _

theorem Kept.dropCandidate {s : State} (h : Kept A B s.chip) (k : Nat) (row : Nat) : Kept A B (Machine.dropCandidate k row s).chip := by
  unfold Machine.dropCandidate
  extract_lets +onlyGivenNames s1
  have hs1 : Kept A B s1.chip := h.putRows _ _
  clear_value s1
  exact hs1.modFlash _

theorem Kept.repairRows : ∀ (l : List (Nat × Nat)) (left : Nat) {s : State}, Kept A B s.chip → Kept A B (Machine.repairRows l left s).chip
  | [], _, _, h => h
  | (k, row) :: l, left, s, h => by
    have hr := h.repairRow k row left
    unfold Machine.repairRows
    exact repairRows l _ (.iteS hr (hr.dropCandidate k row))

theorem Kept.loadRepair {c : Chip} (h : Kept A B c) (f : Flash) (k : Nat) : Kept A B (Machine.loadRepair f k c) := by
  unfold Machine.loadRepair
  exact h.setRaw (unwatched_hmcB (by decide)) _

theorem Kept.hbmBringup {s : State} (h : Kept A B s.chip) : Kept A B (Machine.hbmBringup s).chip := by
  unfold Machine.hbmBringup
  split
  · exact h
  · extract_lets +onlyGivenNames s1 s2
    have hs1 : Kept A B s1.chip := h.repairRows _ _
    have hs2 : Kept A B s2.chip := by
      simp only [s2]
      refine Kept.modChip ?_
      exact Kept.foldl hs1 _ fun _ _ hd => (((hd.modStack _ _).zeroLines _ _).loadRepair _ _).pllLock _
    clear_value s1 s2
    exact hs2.modBoot _

theorem Kept.zeroRooms {c : Chip} (h : Kept A B c) : Kept A B (Machine.zeroRooms c) := by
  unfold Machine.zeroRooms
  exact Kept.same h

theorem Kept.roomUp {c : Chip} (h : Kept A B c) (r : Nat) : Kept A B (Machine.roomUp r c) := by
  unfold Machine.roomUp
  exact ((h.modRoom _ _).setPower _ _).setF (unwatched (by decide)) _ _ _

theorem Kept.stagingErase {s : State} (h : Kept A B s.chip) : Kept A B (Machine.stagingErase s).chip := by
  unfold Machine.stagingErase
  exact .iteS h (((h.modFlash _).emptyStaging).modBoot _)

theorem Kept.svnAdvance {s : State} (h : Kept A B s.chip) : Kept A B (Machine.svnAdvance s).chip := by
  unfold Machine.svnAdvance
  exact .iteS (Kept.logEvent (Kept.fusesS h _) _ _ _) h

theorem Kept.dstateReady {s : State} (h : Kept A B s.chip) : Kept A B (Machine.dstateReady s).chip := by
  unfold Machine.dstateReady
  extract_lets +onlyGivenNames b
  exact .iteS (Kept.svnAdvance (Kept.foldlS (h.modWarden _) _ fun _ _ hd => hd.modPcie _ _)) h

theorem Kept.owe {c : Chip} (h : Kept A B c) (w : W32) (u : StrandId) (e : Exc) : Kept A B (Machine.owe w u e c) := by
  unfold Machine.owe
  exact h.issue _ _ h fun _ => h.modStrandSame _

theorem Kept.resetDone {s : State} (h : Kept A B s.chip) (kind : Nat) (arg : Nat) : Kept A B (Machine.resetDone kind arg s).chip := by
  unfold Machine.resetDone
  exact h.modWarden _

theorem Kept.resetHalt {s : State} (h : Kept A B s.chip) (kind : Nat) (used : Job → Bool) : Kept A B (Machine.resetHalt kind used s).chip := by
  unfold Machine.resetHalt
  split
  · exact .iteS (h.failSchool _) h
  · exact h

theorem Kept.roomRegs {c : Chip} (h : Kept A B c) (r : Nat) : Kept A B (Machine.roomRegs r c) := by
  unfold Machine.roomRegs
  exact (h.resetBlock _).resetBlock _

theorem Kept.computeRoom {c : Chip} (h : Kept A B c) (breach : Bool) (r : Nat) : Kept A B (Machine.computeRoom breach r c) := by
  unfold Machine.computeRoom
  extract_lets +onlyGivenNames c1 c2 c3
  have hc1 : Kept A B c1 := Kept.foldl (h.quiet ((Quiet.refl _).dmaAbandon _)) _ fun _ _ hd => hd.quiet ((Quiet.refl _).tileDiscard _)
  have hc2 : Kept A B c2 := (hc1.roomRegs _).closeRoom _
  have hc3 : Kept A B c3 := Kept.setPower (Kept.rooms hc2 _) _ _
  clear_value c1 c2 c3
  exact .ite (hc3.setPower _ _) hc3

theorem Kept.computeReset1 {s : State} (h : Kept A B s.chip) : Kept A B (Machine.computeReset1 s).chip := by
  unfold Machine.computeReset1
  extract_lets +onlyGivenNames s1 b s2 s3
  have hs1 : Kept A B s1.chip := h.resetHalt _ _
  have hs2 : Kept A B s2.chip := by
    simp only [s2]
    refine Kept.modChip ?_
    exact Kept.loadFuses (Kept.same (Kept.foldl (Kept.foldl hs1 _ fun _ _ hd => hd.computeRoom _ _) _ fun _ _ hd => hd.resetBlock _))
  have hs3 : Kept A B s3.chip := (hs2.modPower _).modBoot _
  clear_value s1 s2 s3
  exact (hs3.resetDone _ _).powerDone

theorem Kept.computeReset {s : State} (h : Kept A B s.chip) : Kept A B (Machine.computeReset s).chip := by
  unfold Machine.computeReset
  exact .iteS h (Kept.iteS (h.modBoot _) h.computeReset1)

theorem Kept.computeBringup {s : State} (h : Kept A B s.chip) : Kept A B (Machine.computeBringup s).chip := by
  unfold Machine.computeBringup
  split
  · exact h
  · split
    · exact h.countRefusal _ _ _
    · extract_lets +onlyGivenNames s1 s2
      have hs1 : Kept A B s1.chip := by
        simp only [s1]
        refine Kept.modChip ?_
        exact Kept.foldl (Kept.foldl h.zeroRooms _ fun _ _ hd => hd.roomUp _) _ fun _ _ hd => Kept.pllLock (Kept.meshOn hd _) _
      have hs2 : Kept A B s2.chip := (hs1.modBoot _).ringResume
      clear_value s1 s2
      exact .iteS hs2 ((hs2.modBoot _).computeReset1)

theorem Kept.resetRoom {c : Chip} (h : Kept A B c) (r : Nat) : Kept A B (Machine.resetRoom r c) := by
  unfold Machine.resetRoom
  extract_lets +onlyGivenNames off d d1 d2
  have hd : Kept A B d := ((h.quiet ((Quiet.refl _).dropRoom _)).quiet ((Quiet.refl _).dmaAbandon _)).quiet ((Quiet.refl _).specClose _ _)
  have hd1 : Kept A B d1 := Kept.foldl hd _ fun _ _ hd => hd.coreReset _
  have hd2 : Kept A B d2 := (hd1.roomRegs _).keepFuses _ _
  clear_value d d1 d2
  exact hd2.modRoom _ _

theorem Kept.classroomReset1 {s : State} (h : Kept A B s.chip) (r : Nat) : Kept A B (Machine.classroomReset1 r s).chip := by
  unfold Machine.classroomReset1
  extract_lets +onlyGivenNames off s1
  have hs1 : Kept A B s1.chip := Kept.modChip (h.resetRoom _)
  clear_value s1
  exact .iteS (Kept.countRefusal (Kept.modChip (hs1.setPower _ _)) _ _ _) hs1

theorem Kept.classroomReset {s : State} (h : Kept A B s.chip) (mask : Nat) : Kept A B (Machine.classroomReset mask s).chip := by
  unfold Machine.classroomReset
  split
  · exact h
  · split
    · exact h.resetDone _ _
    · extract_lets +onlyGivenNames rooms s1
      have hs1 : Kept A B s1.chip := h.resetHalt _ _
      clear_value s1
      exact Kept.powerDone (Kept.resetDone (Kept.foldlS hs1 _ fun _ _ hd => hd.classroomReset1 _) _ _)

theorem Kept.coreResetCmd {s : State} (h : Kept A B s.chip) (n : Nat) : Kept A B (Machine.coreResetCmd n s).chip := by
  unfold Machine.coreResetCmd
  split
  · exact h
  · split
    · exact h.resetDone _ _
    · extract_lets +onlyGivenNames s1
      have hs1 : Kept A B s1.chip := h.resetHalt _ _
      clear_value s1
      refine Kept.resetDone (Kept.modChip ?_) _ _
      exact hs1.coreReset _

theorem Kept.resetStack {c : Chip} (h : Kept A B c) (k : Nat) : Kept A B (Machine.resetStack k c) := by
  unfold Machine.resetStack
  extract_lets +onlyGivenNames c1 c2 c3
  have hc1 : Kept A B c1 := Kept.ite h (h.pumpAbandon _)
  have hc2 : Kept A B c2 := ((hc1.quiet ((Quiet.refl _).dropStack _)).wipeAbandon _).clearKeys _
  have hc3 : Kept A B c3 := ((hc2.resetBlock _).resetBlock _).resetBlock _
  clear_value c1 c2 c3
  exact hc3.modStack _ _

theorem Kept.stackReset1 {s : State} (h : Kept A B s.chip) (k : Nat) : Kept A B (Machine.stackReset1 k s).chip := by
  unfold Machine.stackReset1
  extract_lets +onlyGivenNames cut s1 s2
  have hs1 : Kept A B s1.chip := Kept.modChip (h.resetStack _)
  have hs2 : Kept A B s2.chip := Kept.iteS (hs1.modBell _) hs1
  clear_value s1 s2
  split
  · refine Kept.modChip ?_
    exact (hs2.loadRepair _ _).wipe _
  · exact hs2

theorem Kept.stackResetCmd {s : State} (h : Kept A B s.chip) (mask : Nat) : Kept A B (Machine.stackResetCmd mask s).chip := by
  unfold Machine.stackResetCmd
  split
  · exact h
  · extract_lets +onlyGivenNames s1
    have hs1 : Kept A B s1.chip := h.resetHalt _ _
    clear_value s1
    exact Kept.resetDone (Kept.foldlS hs1 _ fun _ _ hd => hd.stackReset1 _) _ _

theorem Kept.resetPort {s : State} (h : Kept A B s.chip) (n : Nat) : Kept A B (Machine.resetPort n s).chip := by
  unfold Machine.resetPort
  extract_lets +onlyGivenNames s1
  have hs1 : Kept A B s1.chip := by
    simp only [s1]
    refine Kept.modChip ?_
    exact Kept.resetBlock (Kept.ethKeys h _) _
  clear_value s1
  exact hs1.modEth _ _

theorem Kept.portReset {s : State} (h : Kept A B s.chip) (mask : Nat) : Kept A B (Machine.portReset mask s).chip := by
  unfold Machine.portReset
  split
  · exact h
  · extract_lets +onlyGivenNames s1 s2
    have hs1 : Kept A B s1.chip := Kept.foldlS h _ fun _ _ hd => hd.resetPort _
    have hs2 : Kept A B s2.chip := Kept.foldlS hs1 _ fun _ _ hd => hd.pcieReset _ _
    clear_value s1 s2
    exact hs2.resetDone _ _

theorem Kept.corePigeonMessage {s : State} (h : Kept A B s.chip) (core : Nat) : Kept A B (Machine.corePigeonMessage core s).chip := by
  unfold Machine.corePigeonMessage
  extract_lets +onlyGivenNames c w
  have hc : Kept A B c := h
  clear_value c
  split
  · exact h
  · extract_lets +onlyGivenNames len kind m
    refine Kept.modWarden (Kept.modChip ?_) _
    exact h.quiet ((Quiet.refl _).wrWords _ _ _)

theorem Kept.setReply {s : State} (h : Kept A B s.chip) (m : CoreMsg) (st : Nat) (ws : List Word) : Kept A B (Machine.setReply m st ws s).chip := by
  unfold Machine.setReply
  exact h.modWarden _

theorem Kept.pigeonLog {s : State} (h : Kept A B s.chip) (core : Nat) : Kept A B (Machine.pigeonLog core s).chip := by
  unfold Machine.pigeonLog
  split
  · exact h
  · split
    · exact h
    · extract_lets +onlyGivenNames us
      exact (h.logUnits _ _ _ _).setReply _ _ _

theorem Kept.pigeonQuery {s : State} (h : Kept A B s.chip) (core : Nat) : Kept A B (Machine.pigeonQuery core s).chip := by
  unfold Machine.pigeonQuery
  split
  · exact h
  · split
    · exact h
    · exact h.setReply _ _ _

theorem Kept.corePigeonReply {s : State} (h : Kept A B s.chip) (core : Nat) : Kept A B (Machine.corePigeonReply core s).chip := by
  unfold Machine.corePigeonReply
  split
  · exact h
  · extract_lets +onlyGivenNames r s1
    have hs1 : Kept A B s1.chip := h.modWarden _
    clear_value s1
    refine Kept.modChip ?_
    exact (hs1.pgnWrite _ _ _).setIpend _ _

theorem Kept.areaWrite {c : Chip} (h : Kept A B c) (a : Nat) (off : Nat) (bs : List Byte) : Kept A B (Machine.areaWrite a off bs c) := by
  unfold Machine.areaWrite
  extract_lets +onlyGivenNames l l1
  exact h.wardenWrite _

theorem Kept.bundleWrite {c : Chip} (h : Kept A B c) (off : Nat) (bs : List Byte) : Kept A B (Machine.bundleWrite off bs c) := by
  unfold Machine.bundleWrite
  exact h.areaWrite _ _ _

theorem Kept.stopStack {c : Chip} (h : Kept A B c) (k : Nat) : Kept A B (Machine.stopStack k c) := by
  unfold Machine.stopStack
  exact ((((h.quiet ((Quiet.refl _).dropStack _)).stopNow _).stopNow _).stopNow _).setF (unwatched_hmcB (by decide)) _ _ _

theorem Kept.keyStack {c : Chip} (h : Kept A B c) (k : Nat) (bs : List Byte) : Kept A B (Machine.keyStack k bs c) := by
  unfold Machine.keyStack
  extract_lets +onlyGivenNames c1
  have hc1 : Kept A B c1 := Kept.foldl (h.clearKeys _) _ fun _ _ hd => hd.hmcKeyWrite _ _ _
  clear_value c1
  exact (hc1.setF (unwatched_hmcB (by decide)) _ _ _).startNow _

theorem Kept.wipeStacks {c : Chip} (h : Kept A B c) : Kept A B (Machine.wipeStacks c) := by
  unfold Machine.wipeStacks
  exact Kept.foldl h _ fun _ _ hd => (hd.stopStack _).wipe _

theorem Kept.clearAfterWipes {c : Chip} (h : Kept A B c) : Kept A B (Machine.clearAfterWipes c) := by
  unfold Machine.clearAfterWipes
  exact Kept.foldl h _ fun _ _ hd => hd.modStack _ _

theorem Kept.clearStacks {c : Chip} (h : Kept A B c) : Kept A B (Machine.clearStacks c) := by
  unfold Machine.clearStacks
  exact Kept.foldl h _ fun _ _ hd => hd.clearKeys _

theorem Kept.jobBlock {s : State} (h : Kept A B s.chip) (c : Cmd) : Kept A B (Machine.jobBlock c s).chip := by
  unfold Machine.jobBlock
  extract_lets +onlyGivenNames n s1
  have hs1 : Kept A B s1.chip := by
    simp only [s1]
    split
    · refine Kept.setDstate (Kept.tickFresh (Kept.modChip ?_) _) _
      exact Kept.foldl h _ fun _ _ hd => (hd.stopStack _).keyStack _ _
    · exact h
  clear_value s1
  exact .iteS hs1 (Kept.finish (Kept.modWarden (Kept.modChip (hs1.bundleWrite _ _)) _) _ _)

theorem Kept.portMac {c : Chip} (h : Kept A B c) (j : Job) (n : Nat) : Kept A B (Machine.portMac j n c) := by
  unfold Machine.portMac
  extract_lets +onlyGivenNames m
  exact (h.setRaw (unwatched (by decide)) _).setRaw (unwatched (by decide)) _

theorem Kept.schoolPortUp {c : Chip} (h : Kept A B c) (j : Job) (n : Nat) : Kept A B (Machine.schoolPortUp j n c) := by
  unfold Machine.schoolPortUp
  extract_lets +onlyGivenNames c1 c2
  have hc1 : Kept A B c1 := ((h.stopNow _).ethClear _).portMac _ _
  have hc2 : Kept A B c2 := Kept.foldl hc1 _ fun _ _ hd => hd.ethKeyWrite _ _ _
  clear_value c1 c2
  exact ((hc2.setF (unwatched_ethB (by decide)) _ _ _).setF (unwatched_ethB (by decide)) _ _ _).startNow _

theorem Kept.rocePortUp {c : Chip} (h : Kept A B c) (j : Job) (n : Nat) : Kept A B (Machine.rocePortUp j n c) := by
  unfold Machine.rocePortUp
  extract_lets +onlyGivenNames c1
  have hc1 : Kept A B c1 := (h.stopNow _).portMac _ _
  clear_value c1
  exact ((hc1.setF (unwatched_ethB (by decide)) _ _ _).setF (unwatched_ethB (by decide)) _ _ _).startNow _

theorem Kept.portsUp {c : Chip} (h : Kept A B c) (j : Job) : Kept A B (Machine.portsUp j c) := by
  unfold Machine.portsUp
  exact Kept.foldl (Kept.foldl h _ fun _ _ hd => hd.schoolPortUp _ _) _ fun _ _ hd => hd.rocePortUp _ _

theorem Kept.portsDown {c : Chip} (h : Kept A B c) (j : Job) : Kept A B (Machine.portsDown j c) := by
  unfold Machine.portsDown
  exact Kept.foldl (h.stopPorts _) _ fun _ _ hd => hd.stopNow _

theorem Kept.dropTrial {s : State} (h : Kept A B s.chip) : Kept A B (Machine.dropTrial s).chip := by
  unfold Machine.dropTrial
  extract_lets +onlyGivenNames s1 s2 s3
  have hs1 : Kept A B s1.chip := by
    simp only [s1]
    split
    · exact Kept.modChip (h.portsDown _)
    · exact h
  have hs2 : Kept A B s2.chip := by
    simp only [s2]
    refine Kept.modChip ?_
    exact hs1.wipeStacks.clearAfterWipes
  have hs3 : Kept A B s3.chip := hs2.modBoot _
  clear_value s1 s2 s3
  exact hs3.modWarden _

theorem Kept.loadRefused {s : State} (h : Kept A B s.chip) (r : Rec) : Kept A B (Machine.loadRefused r s).chip := by
  unfold Machine.loadRefused
  exact (h.dropTrial.logEvent _ _ _).longResult _

theorem Kept.loadAccepted {s : State} (h : Kept A B s.chip) (t : Trial) : Kept A B (Machine.loadAccepted t s).chip := by
  unfold Machine.loadAccepted
  extract_lets +onlyGivenNames s1 paired good img j s2 s3 bell s4 s5 s6
  have hs1 : Kept A B s1.chip := by
    simp only [s1]
    refine Kept.modChip ?_
    exact Kept.loadProtection (Kept.seed (h.loadView _) _) _
  have hs2 : Kept A B s2.chip := hs1.modBoot _
  have hs3 : Kept A B s3.chip := hs2.modWarden _
  have hs4 : Kept A B s4.chip := (hs3.modBell _).mendShard
  have hs5 : Kept A B s5.chip := hs4.logEvent _ _ _
  have hs6 : Kept A B s6.chip := Kept.iteS (hs5.logEvent _ _ _) hs5
  clear_value s1 s2 s3 s4 s5 s6
  exact hs6.longResult _

theorem Kept.applyOutcome {s : State} (h : Kept A B s.chip) (o : Option (Nat × Nat)) (own : Option (Nat × Nat)) : Kept A B (Machine.applyOutcome o own s).chip := by
  unfold Machine.applyOutcome
  split
  · exact h
  · extract_lets +onlyGivenNames r
    split
    · split
      · exact h
      · exact h.loadAccepted _
      · exact (h.loadRefused _).longResult _
      · exact h.loadRefused _
    · split
      · split
        · exact (h.dropWins _ _).longResult _
        · exact h.longResult _
        · exact h.longResult _
      · exact h

theorem Kept.concludeAgree {s : State} (h : Kept A B s.chip) (j : Job) (o : Option (Nat × Nat)) : Kept A B (Machine.concludeAgree j o s).chip := by
  unfold Machine.concludeAgree
  extract_lets +onlyGivenNames own ws s1
  have hs1 : Kept A B s1.chip := Kept.foldlS h _ fun _ _ hd => hd.queueBell _ _
  clear_value s1
  exact (hs1.modBell _).applyOutcome _ _

theorem Kept.agreeProgress {s : State} (h : Kept A B s.chip) : Kept A B (Machine.agreeProgress s).chip := by
  unfold Machine.agreeProgress
  split
  · extract_lets +onlyGivenNames kids
    split
    · exact h
    · extract_lets +onlyGivenNames all
      split
      · exact h.concludeAgree _ _
      · exact h.queueBell _ _
  · exact h

theorem Kept.agreeIn {s : State} (h : Kept A B s.chip) (f : Frame) (j : Job) : Kept A B (Machine.agreeIn f j s).chip := by
  unfold Machine.agreeIn
  exact .iteS (Kept.iteS (h.concludeAgree _ _) h) (Kept.iteS ((h.modBell _).agreeProgress) h)

theorem Kept.ownChecks {s : State} (h : Kept A B s.chip) : Kept A B (Machine.ownChecks s).chip := by
  unfold Machine.ownChecks
  extract_lets +onlyGivenNames own
  split
  · exact (h.modBell _).agreeProgress
  · exact (h.modBell _).agreeProgress
  · exact h

theorem Kept.measure {s : State} (h : Kept A B s.chip) (j : Job) : Kept A B (Machine.measure j s).chip := by
  unfold Machine.measure
  extract_lets +onlyGivenNames dests s1 s2
  have hs1 : Kept A B s1.chip := h.modBell _
  have hs2 : Kept A B s2.chip := Kept.foldlS hs1 _ fun _ _ hd => Kept.foldlS hd _ fun _ _ hd => hd.queueCtl _ _ _
  clear_value s1 s2
  exact .iteS hs2.ownChecks hs2

theorem Kept.probeReplyIn {s : State} (h : Kept A B s.chip) (f : Frame) (rtt : Nat) : Kept A B (Machine.probeReplyIn f rtt s).chip := by
  unfold Machine.probeReplyIn
  exact .iteS h (Kept.iteS ((h.modBell _).ownChecks) (h.modBell _))

theorem Kept.jobLoad {s : State} (h : Kept A B s.chip) (c : Cmd) : Kept A B (Machine.jobLoad c s).chip := by
  unfold Machine.jobLoad
  extract_lets +onlyGivenNames len
  split
  · exact h.background _ _
  · split
    · exact (h.dropTrial.logEvent _ _ _).background _ _
    · extract_lets +onlyGivenNames s1
      have hs1 : Kept A B s1.chip := (h.modBell _).modWarden _
      clear_value s1
      exact Kept.measure (Kept.background (Kept.modChip (hs1.portsUp _)) _ _) _

theorem Kept.schoolRejoin {s : State} (h : Kept A B s.chip) (c : Cmd) : Kept A B (Machine.schoolRejoin c s).chip := by
  unfold Machine.schoolRejoin
  split
  · exact h.finish _ _
  · exact (h.background _ _).measure _

theorem Kept.jobStart {s : State} (h : Kept A B s.chip) (c : Cmd) : Kept A B (Machine.jobStart c s).chip := by
  unfold Machine.jobStart
  split
  · exact h.finish _ _
  · split
    · exact h.finish _ _
    · extract_lets +onlyGivenNames s1
      have hs1 : Kept A B s1.chip := by
        simp only [s1]
        split
        · exact h
        · refine Kept.modBell (Kept.modChip ?_) _
          exact (h.startJob _ _).raiseLevels _
      clear_value s1
      exact .iteS hs1 ((hs1.runStep _ _).finish _ _)

theorem Kept.jobAbort {s : State} (h : Kept A B s.chip) (c : Cmd) : Kept A B (Machine.jobAbort c s).chip := by
  unfold Machine.jobAbort
  split
  · exact h.finish _ _
  · exact ((h.haltSchool _ _ _).setDstate _).finish _ _

theorem Kept.unloadStart {s : State} (h : Kept A B s.chip) : Kept A B (Machine.unloadStart s).chip := by
  unfold Machine.unloadStart
  extract_lets +onlyGivenNames s1 s2 s3 s4
  have hs1 : Kept A B s1.chip := by
    simp only [s1]
    split
    · refine Kept.modChip ?_
      exact (h.stopAll _).portsDown _
    · exact h
  have hs2 : Kept A B s2.chip := by
    simp only [s2]
    refine Kept.modChip ?_
    exact Kept.foldl hs1.dropLessons.wipeStacks _ fun _ _ hd => hd.plReq _ _
  have hs3 : Kept A B s3.chip := hs2.modBoot _
  have hs4 : Kept A B s4.chip := hs3.modDev _
  clear_value s1 s2 s3 s4
  exact hs4.modWarden _

theorem Kept.jobUnload {s : State} (h : Kept A B s.chip) (c : Cmd) : Kept A B (Machine.jobUnload c s).chip := by
  unfold Machine.jobUnload
  extract_lets +onlyGivenNames s1
  have hs1 : Kept A B s1.chip := Kept.iteS h h.unloadStart
  clear_value s1
  exact .iteS hs1 (Kept.finish (Kept.modWarden (Kept.modChip hs1.clearStacks) _) _ _)

theorem Kept.sleeperStatus {s : State} (h : Kept A B s.chip) (c : Cmd) : Kept A B (Machine.sleeperStatus c s).chip := by
  unfold Machine.sleeperStatus
  exact (h.tickFresh _).finish _ _

theorem Kept.startRecov {s : State} (h : Kept A B s.chip) (ws : List Win) (n : Nat) : Kept A B (Machine.startRecov ws n s).chip := by
  unfold Machine.startRecov
  extract_lets +onlyGivenNames s1
  have hs1 : Kept A B s1.chip := h.modBell _
  clear_value s1
  exact Kept.foldlS hs1 _ fun _ _ hd => hd.modWin _ _

theorem Kept.refillStart {s : State} (h : Kept A B s.chip) (c : Cmd) : Kept A B (Machine.refillStart c s).chip := by
  unfold Machine.refillStart
  split
  · exact h.background _ _
  · extract_lets +onlyGivenNames q
    split
    · exact h.background _ _
    · extract_lets +onlyGivenNames code
      exact .iteS (h.background _ _) ((h.background _ _).startRecov _ _)

theorem Kept.shardResume {s : State} (h : Kept A B s.chip) (c : Cmd) : Kept A B (Machine.shardResume c s).chip := by
  unfold Machine.shardResume
  split
  · exact h.background _ _
  · extract_lets +onlyGivenNames sr
    split
    · extract_lets +onlyGivenNames stamp
      split
      · exact h.background _ _
      · extract_lets +onlyGivenNames s1
        have hs1 : Kept A B s1.chip := (h.restoreShard _ _).logEvent _ _ _
        clear_value s1
        exact hs1.background _ _
    · extract_lets +onlyGivenNames lost
      exact Kept.background (Kept.logEvent (Kept.modChip (h.setSteps _)) _ _ _) _ _

theorem Kept.shardRebuild {s : State} (h : Kept A B s.chip) (c : Cmd) : Kept A B (Machine.shardRebuild c s).chip := by
  unfold Machine.shardRebuild
  split
  · exact h.background _ _
  · split
    · exact h.background _ _
    · exact .iteS (h.background _ _) ((((h.tickFresh _).stampAs _ _).background _ _).startRecov _ _)

theorem Kept.replayStart {s : State} (h : Kept A B s.chip) (c : Cmd) : Kept A B (Machine.replayStart c s).chip := by
  unfold Machine.replayStart
  split
  · exact h.background _ _
  · extract_lets +onlyGivenNames st
    split
    · exact h.background _ _
    · split
      · exact h.background _ _
      · extract_lets +onlyGivenNames l code
        split
        · exact h.background _ _
        · exact .iteS (h.background _ _) (((h.background _ _).modBell _).startRecov _ _)

theorem Kept.roceQp {s : State} (h : Kept A B s.chip) (c : Cmd) : Kept A B (Machine.roceQp c s).chip := by
  unfold Machine.roceQp
  extract_lets +onlyGivenNames qs
  split
  · exact h.finish _ _
  · extract_lets +onlyGivenNames mtu
    exact .iteS (h.finish _ _) (Kept.iteS (h.finish _ _) (((h.tickFresh _).modDev _).finish _ _))

theorem Kept.stageInput {s : State} (h : Kept A B s.chip) (c : Cmd) : Kept A B (Machine.stageInput c s).chip := by
  unfold Machine.stageInput
  split
  · exact .iteS (h.finish _ _) ((h.background _ _).startXfer _ _ _ _ _)
  · exact h.finish _ _

theorem Kept.checkpointSave {s : State} (h : Kept A B s.chip) (c : Cmd) : Kept A B (Machine.checkpointSave c s).chip := by
  unfold Machine.checkpointSave
  split
  · exact .iteS (h.finish _ _) ((h.background _ _).modBell _)
  · exact h.finish _ _

theorem Kept.checkpointLoad {s : State} (h : Kept A B s.chip) (c : Cmd) : Kept A B (Machine.checkpointLoad c s).chip := by
  unfold Machine.checkpointLoad
  split
  · exact h.finish _ _
  · exact (h.background _ _).startXfer _ _ _ _ _

theorem Kept.objectAuth {s : State} (h : Kept A B s.chip) (i : Nat) : Kept A B (Machine.objectAuth i s).chip := by
  unfold Machine.objectAuth
  exact (h.logEvent _ _ _).longResult _

theorem Kept.inputArrived {s : State} (h : Kept A B s.chip) (c : Cmd) (j : Job) (data : List Byte) : Kept A B (Machine.inputArrived c j data s).chip := by
  unfold Machine.inputArrived
  split
  · exact h.objectAuth _
  · exact h.longResult _
  · exact Kept.longResult (Kept.modChip (h.areaWrite _ _ _)) _

theorem Kept.checkpointArrived {s : State} (h : Kept A B s.chip) (j : Job) (data : List Byte) : Kept A B (Machine.checkpointArrived j data s).chip := by
  unfold Machine.checkpointArrived
  split
  · exact h.objectAuth _
  · extract_lets +onlyGivenNames l code
    split
    · exact h.longResult _
    · extract_lets +onlyGivenNames sr s1
      have hs1 : Kept A B s1.chip := by
        simp only [s1]
        refine Kept.modChip ?_
        exact (((h.writeSegments _).computeCopies).setSteps _).writeStreams _ _ _
      clear_value s1
      exact hs1.mendShard.longResult _

theorem Kept.xferDone {s : State} (h : Kept A B s.chip) (n : Nat) (x : Xfer) : Kept A B (Machine.xferDone n x s).chip := by
  unfold Machine.xferDone
  extract_lets +onlyGivenNames s1
  have hs1 : Kept A B s1.chip := h.modQp _ _
  clear_value s1
  split
  · split
    · exact hs1.inputArrived _ _ _
    · exact .iteS (hs1.checkpointArrived _ _) (Kept.iteS (hs1.longResult _) hs1)
  · exact hs1

theorem Kept.xferFail {s : State} (h : Kept A B s.chip) (n : Nat) (syndrome : Nat) : Kept A B (Machine.xferFail n syndrome s).chip := by
  unfold Machine.xferFail
  exact (h.modQp _ _).longResult _

theorem Kept.xferRetry {s : State} (h : Kept A B s.chip) (n : Nat) (x : Xfer) : Kept A B (Machine.xferRetry n x s).chip := by
  unfold Machine.xferRetry
  exact .iteS ((h.tickFresh _).xferFail _ _) (h.modQp _ _)

theorem Kept.xferAdvance {s : State} (h : Kept A B s.chip) (n : Nat) (x : Xfer) : Kept A B (Machine.xferAdvance n x s).chip := by
  unfold Machine.xferAdvance
  exact .iteS (h.xferDone _ _) (h.modQp _ _)

theorem Kept.roceResponse {s : State} (h : Kept A B s.chip) (p : Nat) (n : Nat) (a : RoceAnswer) : Kept A B (Machine.roceResponse p n a s).chip := by
  unfold Machine.roceResponse
  split
  · exact h
  · split
    · exact h
    · split
      · exact .iteS h (h.xferAdvance _ _)
      · exact .iteS (h.xferRetry _ _) (h.xferFail _ _)
      · exact .iteS h (h.xferAdvance _ _)

theorem Kept.roceRetry {s : State} (h : Kept A B s.chip) (p : Nat) (n : Nat) : Kept A B (Machine.roceRetry p n s).chip := by
  unfold Machine.roceRetry
  split
  · exact h
  · exact .iteS (h.xferRetry _ _) h

theorem Kept.stepResync {s : State} (h : Kept A B s.chip) (c : Cmd) : Kept A B (Machine.stepResync c s).chip := by
  unfold Machine.stepResync
  extract_lets +onlyGivenNames g ks
  split
  · exact h.finish _ _
  · refine Kept.finish (Kept.modChip ?_) _ _
    exact h.quiet ((Quiet.refl _).wrMarked _ _)

theorem Kept.nextQueued {s : State} (h : Kept A B s.chip) : Kept A B (Machine.nextQueued s).chip := by
  unfold Machine.nextQueued
  split
  · exact h
  · extract_lets +onlyGivenNames s1
    have hs1 : Kept A B s1.chip := h.modWarden _
    clear_value s1
    exact .iteS (hs1.refillStart _) hs1

theorem Kept.longCommandDone {s : State} (h : Kept A B s.chip) : Kept A B (Machine.longCommandDone s).chip := by
  unfold Machine.longCommandDone
  split
  · exact h
  · split
    · exact h
    · extract_lets +onlyGivenNames s1 s2
      have hs1 : Kept A B s1.chip := h.modWarden _
      have hs2 : Kept A B s2.chip := Kept.iteS (hs1.setDstate _) hs1
      clear_value s1 s2
      exact Kept.nextQueued (Kept.iteS (hs2.answer _ _ _) hs2)

end Sys2Proof.Machine
end

section
/-! PROOFS. What keeps every MODE legal and the settings agreed: the effects of scalar, float and vector instructions, the sideband (spec/02 to spec/04, spec/13). -/

-- One after another: started side by side, this many short proofs take more memory than the check has.
set_option Elab.async false

open Sys2Proof Sys2Proof.Machine
namespace Sys2Proof.Machine
variable {A B : Prop}

theorem Kept.alu2 {c : Chip} (h : Kept A B c) (w : W32) (u : StrandId) (rd : Fin 32) (ra : Fin 32) (rb : Fin 32) (d : Nat) (f : W64 → W64 → W64) : Kept A B (Machine.alu2 w u rd ra rb d f c) := by
  unfold Machine.alu2
  exact h.issue _ _ h fun _ => h.putReg _ (by omega) _ _

theorem Kept.alu1 {c : Chip} (h : Kept A B c) (w : W32) (u : StrandId) (rd : Fin 32) (ra : Fin 32) (d : Nat) (f : W64 → W64) : Kept A B (Machine.alu1 w u rd ra d f c) := by
  unfold Machine.alu1
  exact h.issue _ _ h fun _ => h.putReg _ (by omega) _ _

theorem Kept.bitField {c : Chip} (h : Kept A B c) (w : W32) (u : StrandId) (rd : Fin 32) (srcs : List Nat) (pos : Nat) (len : Nat) (f : Chip → W64) : Kept A B (Machine.bitField w u rd srcs pos len f c) := by
  unfold Machine.bitField
  exact h.issue _ _ h fun _ => h.putReg _ (by omega) _ _

theorem Kept.divide {c : Chip} (h : Kept A B c) (w : W32) (u : StrandId) (rd : Fin 32) (ra : Fin 32) (rb : Fin 32) (late : Bool) (f : W64 → W64 → W64) : Kept A B (Machine.divide w u rd ra rb late f c) := by
  unfold Machine.divide
  exact h.issue _ _ h fun _ => h.putLate _ (by omega) _ _ _ _ _ _

theorem Kept.floatOp {c : Chip} (h : Kept A B c) (w : W32) (u : StrandId) {dst : Nat} (hd : dst ≠ 64) (d : Nat) (fsrcs fdst : List Nat) (late : Bool)
    (f : Chip → Nat × Nat) : Kept A B (Machine.floatOp w u dst d fsrcs fdst late f c) := by
  unfold Machine.floatOp
  exact h.issue _ _ h fun _ => (h.putLate _ hd _ _ _ _ _ _).putFlags _ _ _ _

theorem Kept.float2 {x6 : Chip} (h : Kept A B x6) (w : W32) (u : StrandId) (fd : Fin 32) (fa : Fin 32) (fb : Fin 32) (f : Nat → Nat → Nat → Nat × Nat) : Kept A B (Machine.float2 w u fd fa fb f x6) := by
  unfold Machine.float2
  exact h.floatOp _ _ (by simp only [fR]; omega) _ _ _ _ _

theorem Kept.float1 {c : Chip} (h : Kept A B c) (w : W32) (u : StrandId) {dst : Nat} (hd : dst ≠ 64) (fa : Fin 32) (fdst : List Nat)
    (f : Nat → Nat → Nat × Nat) : Kept A B (Machine.float1 w u dst fa fdst f c) := h.floatOp _ _ hd _ _ _ _ _

theorem Kept.floatCmp {x6 : Chip} (h : Kept A B x6) (w : W32) (u : StrandId) (gd : Fin 32) (fa : Fin 32) (fb : Fin 32) (f : Nat → Nat → Bool × Nat) : Kept A B (Machine.floatCmp w u gd fa fb f x6) := by
  unfold Machine.floatCmp
  exact h.floatOp _ _ (by omega) _ _ _ _ _

theorem Kept.chooseMode {s : State} (h : Kept A B s.chip) (m : BusMode) : Kept A B (Machine.chooseMode m s).chip := by
  unfold Machine.chooseMode
  exact .iteS (h.modSide _) h

theorem Kept.sideAnswer {s : State} (h : Kept A B s.chip) (l : List Nat) : Kept A B (Machine.sideAnswer l s).chip := by
  unfold Machine.sideAnswer
  exact h.modSide _

theorem Kept.setDyn {s : State} (h : Kept A B s.chip) (a : Nat) : Kept A B (Machine.setDyn a s).chip := by
  unfold Machine.setDyn
  extract_lets +onlyGivenNames s1
  have hs1 : Kept A B s1.chip := h.chooseMode _
  clear_value s1
  exact .iteS (hs1.modSide _) hs1

theorem Kept.getPdr {s : State} (h : Kept A B s.chip) (handle : Nat) : Kept A B (Machine.getPdr handle s).chip := by
  unfold Machine.getPdr
  split
  · exact (h.sideAnswer _).modSide _
  · exact h.sideAnswer _

theorem Kept.sensorAnswer {s : State} (h : Kept A B s.chip) (cmd : Nat) (id : Nat) (v : Option ℤ) : Kept A B (Machine.sensorAnswer cmd id v s).chip := by
  unfold Machine.sensorAnswer
  split
  · exact (h.sideAnswer _).modSide _
  · exact h.sideAnswer _

theorem Kept.vlsetInsn {c : Chip} (h : Kept A B c) (w : W32) (u : StrandId) (gd : Fin 32) (srcs : List Nat) (sew : Fin 4) (fmt : Bool) (avl : Chip → Nat) : Kept A B (Machine.vlsetInsn w u gd srcs sew fmt avl c) := by
  unfold Machine.vlsetInsn
  exact h.issue _ _ h fun _ => ((h.putReg _ (by simp only [vcR]; omega) _ _).putReg _ (by simp only [vcR]; omega) _ _).putReg _ (by omega) _ _

theorem Kept.vecWrite {c : Chip} (h : Kept A B c) (u : StrandId) (vd : Nat) (d : Nat) (v : VReg) (flags : Nat) : Kept A B (Machine.vecWrite u vd d v flags c) := by
  unfold Machine.vecWrite
  exact .ite h ((h.putVec _ _ _ _ _ _ _).putFlags _ _ _ _)

theorem Kept.vecOp {c : Chip} (h : Kept A B c) (w : W32) (u : StrandId) (vd : Fin 32) (vsrcs : List Nat) (gsrcs : List Nat) (m : Bool) (d : Nat) (ew : Nat) (mid : Option Exc) (f : Chip → Nat → Nat × Nat) : Kept A B (Machine.vecOp w u vd vsrcs gsrcs m d ew mid f c) := by
  unfold Machine.vecOp
  extract_lets +onlyGivenNames st
  exact h.issue _ _ h fun _ => h.vecWrite _ _ _ _ _

theorem Kept.vint2 {c : Chip} (h : Kept A B c) (w : W32) (u : StrandId) (vd : Fin 32) (va : Fin 32) (vb : Fin 32) (m : Bool) (f : Nat → Nat → Nat → Nat) : Kept A B (Machine.vint2 w u vd va vb m f c) := by
  unfold Machine.vint2
  extract_lets +onlyGivenNames sw
  exact h.vecOp _ _ _ _ _ _ _ _ _ _

theorem Kept.vcmp2 {c : Chip} (h : Kept A B c) (w : W32) (u : StrandId) (vd : Fin 32) (va : Fin 32) (vb : Fin 32) (m : Bool) (f : Nat → Nat → Nat → Bool) : Kept A B (Machine.vcmp2 w u vd va vb m f c) := by
  unfold Machine.vcmp2
  extract_lets +onlyGivenNames sw
  exact h.vecOp _ _ _ _ _ _ _ _ _ _

theorem Kept.vfixed {c : Chip} (h : Kept A B c) (w : W32) (u : StrandId) (vd : Fin 32) (va : Fin 32) (vb : Fin 32) (m : Bool) (x : ℤ → Nat → ℤ) (sh : Nat → Nat) : Kept A B (Machine.vfixed w u vd va vb m x sh c) := by
  unfold Machine.vfixed
  extract_lets +onlyGivenNames st
  exact h.vecOp _ _ _ _ _ _ _ _ _ _

theorem Kept.vfloat {c : Chip} (h : Kept A B c) (w : W32) (u : StrandId) (vd : Fin 32) (vsrcs : List Nat) (m : Bool) (ew : Nat → Nat) (f : Fmt → Nat → Chip → Nat → Nat × Nat) : Kept A B (Machine.vfloat w u vd vsrcs m ew f c) := by
  unfold Machine.vfloat
  extract_lets +onlyGivenNames st
  exact h.vecOp _ _ _ _ _ _ _ _ _ _

theorem Kept.vfloat2 {x7 : Chip} (h : Kept A B x7) (w : W32) (u : StrandId) (vd : Fin 32) (va : Fin 32) (vb : Fin 32) (m : Bool) (f : Fmt → Nat → Nat → Nat → Nat × Nat) : Kept A B (Machine.vfloat2 w u vd va vb m f x7) := by
  unfold Machine.vfloat2
  exact h.vfloat _ _ _ _ _ _ _

theorem Kept.vfloat1 {x6 : Chip} (h : Kept A B x6) (w : W32) (u : StrandId) (vd : Fin 32) (va : Fin 32) (m : Bool) (f : Fmt → Nat → Nat × Nat) : Kept A B (Machine.vfloat1 w u vd va m f x6) := by
  unfold Machine.vfloat1
  exact h.vfloat _ _ _ _ _ _ _

theorem Kept.vfloatCmp {x7 : Chip} (h : Kept A B x7) (w : W32) (u : StrandId) (vd : Fin 32) (va : Fin 32) (vb : Fin 32) (m : Bool) (f : Fmt → Nat → Nat → Bool × Nat) : Kept A B (Machine.vfloatCmp w u vd va vb m f x7) := by
  unfold Machine.vfloatCmp
  exact h.vfloat _ _ _ _ _ _ _

theorem Kept.vfred {c : Chip} (h : Kept A B c) (w : W32) (u : StrandId) (fd : Fin 32) (va : Fin 32) (m : Bool) (late : Bool) (op : Fmt → Nat → Nat → Nat → Nat × Nat) : Kept A B (Machine.vfred w u fd va m late op c) := by
  unfold Machine.vfred
  extract_lets +onlyGivenNames st
  exact h.issue _ _ h fun _ => (h.putLate _ (by simp only [fR]; omega) _ _ _ _ _ _).putFlags _ _ _ _

theorem Kept.vcvtElem {c : Chip} (h : Kept A B c) (w : W32) (u : StrandId) (vd : Fin 32) (va : Fin 32) (m : Bool) (rm : Fin 8) (sw : Nat) (dw : Nat) (f : Nat → Nat → Nat × Nat) : Kept A B (Machine.vcvtElem w u vd va m rm sw dw f c) := by
  unfold Machine.vcvtElem
  extract_lets +onlyGivenNames st
  exact h.issue _ _ h fun _ => h.vecWrite _ _ _ _ _

theorem Kept.vcvtPack {c : Chip} (h : Kept A B c) (w : W32) (u : StrandId) (vd : Fin 32) (va : Fin 32) (vb : Fin 32) (m : Bool) (rm : Fin 8) (f : QFmt) : Kept A B (Machine.vcvtPack w u vd va vb m rm f c) := by
  unfold Machine.vcvtPack
  extract_lets +onlyGivenNames st
  exact h.issue _ _ h fun _ => ((h.putVec _ _ _ _ _ _ _).putVec _ _ _ _ _ _ _).putFlags _ _ _ _

theorem Kept.vcvtUnpack {c : Chip} (h : Kept A B c) (w : W32) (u : StrandId) (vd : Fin 32) (va : Fin 32) (vb : Fin 32) (m : Bool) (rm : Fin 8) (f : QFmt) : Kept A B (Machine.vcvtUnpack w u vd va vb m rm f c) := by
  unfold Machine.vcvtUnpack
  extract_lets +onlyGivenNames st
  exact h.issue _ _ h fun _ => h.vecWrite _ _ _ _ _

theorem Kept.vFinish {c : Chip} (h : Kept A B c) (u : StrandId) (fail : Option (Nat × Exc)) : Kept A B (Machine.vFinish u fail c) := by
  unfold Machine.vFinish
  split
  · exact h.modStrandSame _
  · exact .ite h (h.putReg _ (by simp only [vcR]; omega) _ _)

theorem Kept.vAsk {c : Chip} (h : Kept A B c) (u : StrandId) (x : VMem) (es : List Nat) (who : Reader) : Kept A B (Machine.vAsk u x es who c) := by
  unfold Machine.vAsk
  exact Kept.foldl h _ fun _ _ hd => hd.quiet ((Quiet.refl _).askWords _ _ _ _ _)

theorem Kept.vLoadAct {c : Chip} (h : Kept A B c) (u : StrandId) (x : VMem) (late : Bool) (es : List Nat) (fail : Option (Nat × Exc)) : Kept A B (Machine.vLoadAct u x late es fail c) := by
  unfold Machine.vLoadAct
  extract_lets +onlyGivenNames st far vals pz waits c1
  have hc1 : Kept A B c1 := Kept.ite h ((h.modStrandSame _).vAsk _ _ _ _)
  clear_value c1
  exact hc1.vFinish _ _

theorem Kept.vStoreAct {c : Chip} (h : Kept A B c) (u : StrandId) (x : VMem) (es : List Nat) (fail : Option (Nat × Exc)) : Kept A B (Machine.vStoreAct u x es fail c) := by
  unfold Machine.vStoreAct
  exact (h.quiet ((Quiet.refl _).coreWrite _ _ _ _)).vFinish _ _

theorem Kept.vLoad {c : Chip} (h : Kept A B c) (w : W32) (u : StrandId) (vd : Fin 32) (m : Bool) (gsrcs : List Nat) (vsrcs : List Nat) (tyBad : Bool) (illegal : Bool) (x : VMem) (late : Bool) : Kept A B (Machine.vLoad w u vd m gsrcs vsrcs tyBad illegal x late c) := by
  unfold Machine.vLoad
  extract_lets +onlyGivenNames st p
  exact h.issue _ _ h fun _ => h.vLoadAct _ _ _ _ _

theorem Kept.vStore {c : Chip} (h : Kept A B c) (w : W32) (u : StrandId) (vs : Fin 32) (m : Bool) (gsrcs : List Nat) (vsrcs : List Nat) (tyBad : Bool) (illegal : Bool) (x : VMem) : Kept A B (Machine.vStore w u vs m gsrcs vsrcs tyBad illegal x c) := by
  unfold Machine.vStore
  extract_lets +onlyGivenNames st p
  exact h.issue _ _ h fun _ => h.vStoreAct _ _ _ _

end Sys2Proof.Machine
end

section
/-! PROOFS. What keeps every MODE legal and the settings agreed: values of MODE that an instruction writes or restores (spec/02 R91, R92, R169). -/

-- One after another: started side by side, this many short proofs take more memory than the check has.
set_option Elab.async false

open Sys2Proof Sys2Proof.Machine
namespace Sys2Proof.Machine
variable {A B : Prop}

/-! ### Values that MODE may hold -/

/-- A MODE made of its fields: IEN, SLEEP and FRM, each with a meaning. -/
theorem LegalMode.of_fields {n ien sleep frm : Nat} (hn : n = 2 ^ 15 * ien + 2 ^ 10 * sleep + frm) (hi : ien < 2) (hs : sleep < 3) (hf : frm < 5) :
    LegalMode (BitVec.ofNat 64 n) := by
  have hall : ∀ (i : Fin 2) (s : Fin 3) (f : Fin 5), LegalMode (BitVec.ofNat 64 (2 ^ 15 * i.val + 2 ^ 10 * s.val + f.val)) := by
    unfold LegalMode
    decide
  subst hn
  exact hall ⟨ien, hi⟩ ⟨sleep, hs⟩ ⟨frm, hf⟩

/-- What the checks of MODE let through (R91, R92, R169). -/
theorem LegalMode.of_checks {v : W64} (hm : v &&& ~~~(0x8C07 : W64) = 0) (hs : natBits v.toNat 11 10 ≠ 3) (hf : ¬ 4 < natBits v.toNat 2 0) :
    LegalMode v := by
  simp only [natBits, Nat.reduceAdd, Nat.reduceSub, Nat.reducePow, pow_zero, Nat.div_one] at hs hf
  exact ⟨hm, by simpa using hs, by omega⟩

/-- The same of a value whose low 64 bits are written. -/
theorem LegalMode.ofNat_of_checks {n : Nat} (hm : BitVec.ofNat 64 n &&& ~~~(0x8C07 : W64) = 0) (hs : natBits n 11 10 ≠ 3) (hf : ¬ 4 < natBits n 2 0) :
    LegalMode (BitVec.ofNat 64 n) := by
  refine .of_checks hm ?_ ?_ <;>
    simp only [natBits, BitVec.toNat_ofNat, Nat.reduceAdd, Nat.reduceSub, Nat.reducePow, pow_zero, Nat.div_one] at * <;> omega

/-- A value under the mask of MODE is made of its fields. -/
theorem modeFields_of_mask (v : W64) : ∃ ien sleep frm, (v &&& ctlMask 0).toNat = 2 ^ 15 * ien + 2 ^ 10 * sleep + frm ∧ ien < 2 ∧ sleep < 4 ∧ frm < 8 := by
  have hx : (v &&& ctlMask 0).toNat = v.toNat &&& 0x8C07 := by simp [ctlMask]
  have hle : v.toNat &&& 0x8C07 ≤ 0x8C07 := Nat.and_le_right
  have hlow : (v.toNat &&& 0x8C07) / 2 ^ 3 % 2 ^ 7 = 0 := by
    rw [Nat.and_div_two_pow, Nat.and_mod_two_pow]; simp
  have hhigh : (v.toNat &&& 0x8C07) / 2 ^ 12 % 2 ^ 3 = 0 := by
    rw [Nat.and_div_two_pow, Nat.and_mod_two_pow]; simp
  rw [hx]
  generalize v.toNat &&& 0x8C07 = x at hle hlow hhigh
  exact ⟨x / 2 ^ 15, x / 2 ^ 10 % 4, x % 8, by omega, by omega, by omega, by omega⟩

/-- A record's value of MODE, its codes without a meaning replaced. -/
theorem legalMode_legalMode (n : Nat) (v : W64) : LegalMode (BitVec.ofNat 64 (legalMode n (v &&& ctlMask 0).toNat)) := by
  obtain ⟨i, s, f, hx, hi, hs, hf⟩ := modeFields_of_mask v
  rw [hx]
  have hsleep : ∃ s', s' < 3 ∧ (if natBits (2 ^ 15 * i + 2 ^ 10 * s + f) 11 10 = 3 then
      natSetBits (2 ^ 15 * i + 2 ^ 10 * s + f) 11 10 (Config.freeNat n % 3) else 2 ^ 15 * i + 2 ^ 10 * s + f) = 2 ^ 15 * i + 2 ^ 10 * s' + f := by
    have hb : natBits (2 ^ 15 * i + 2 ^ 10 * s + f) 11 10 = s := by simp only [natBits]; omega
    rw [hb]
    split
    · exact ⟨Config.freeNat n % 3, Nat.mod_lt _ (by decide), by rw [natSetBits, hb]; omega⟩
    · exact ⟨s, by omega, rfl⟩
  obtain ⟨s', hs', he⟩ := hsleep
  have hb : natBits (2 ^ 15 * i + 2 ^ 10 * s' + f) 2 0 = f := by simp only [natBits]; omega
  simp only [legalMode, he, hb]
  split
  · exact .of_fields (ien := i) (sleep := s') (frm := Config.freeNat (n + 1) % 5) (by rw [natSetBits, hb]; omega) hi hs' (Nat.mod_lt _ (by decide))
  · exact .of_fields rfl hi hs' (by omega)

/-- An MTC that the checks of R90 and R92 let through writes a MODE that MODE may hold. -/
theorem legalMode_of_ctlIllegal {v : W64} (h : ctlIllegal 0 v = false) : LegalMode v := by
  simp only [ctlIllegal, Bool.or_eq_false_iff, bne_eq_false_iff_eq, beq_self_eq_true, Bool.true_and, beq_eq_false_iff_ne, decide_eq_false_iff_not] at h
  obtain ⟨⟨-, hm⟩, hs, hf⟩ := h
  exact .of_checks hm hs hf

/-- A frame that XRET accepts holds a MODE that MODE may hold (R169, reason 0x08). -/
theorem legalMode_of_frameFault {st : Strand} {ws : List Word} (h : frameFault st ws = none) : LegalMode (BitVec.ofNat 64 (fn ws 16 4)) := by
  simp only [frameFault, ite_eq_iff, reduceCtorEq, and_false, false_or, Bool.or_eq_true, not_or, bne_iff_ne, ne_eq, not_not, beq_iff_eq,
    decide_eq_true_eq] at h
  obtain ⟨-, -, -, -, -, -, -, ⟨⟨hm, hs⟩, hf⟩, -⟩ := h
  exact .ofNat_of_checks hm hs hf

/-! ### Strands -/

theorem mem_computeFirst {reg : Nat} {w : PendW} : ∀ {l : List PendW}, w ∈ computeFirst reg l → ∃ x ∈ l, w.reg = x.reg ∧ w.val = x.val
  | [], h => absurd h List.not_mem_nil
  | y :: l, h => by
    unfold computeFirst at h
    split at h
    · rcases List.mem_cons.mp h with rfl | h
      · exact ⟨y, List.mem_cons_self .., rfl, rfl⟩
      · exact ⟨w, List.mem_cons_of_mem _ h, rfl, rfl⟩
    · rcases List.mem_cons.mp h with rfl | h
      · exact ⟨w, List.mem_cons_self .., rfl, rfl⟩
      · obtain ⟨x, hx, hr⟩ := mem_computeFirst h
        exact ⟨x, List.mem_cons_of_mem _ hx, hr⟩

theorem StrandLegal.computeFirst {st : Strand} (h : StrandLegal st) (reg : Nat) : StrandLegal { st with pend := Machine.computeFirst reg st.pend } :=
  ⟨h.1, fun w hw hr => by
    obtain ⟨x, hx, hxr, hxv⟩ := mem_computeFirst hw
    rw [hxv]
    exact h.2 x hx (hxr ▸ hr)⟩

theorem legalMode_recPend {ws : List Word} {n id j : Nat} (h : (recPend ws n id j).reg = 64) : LegalMode (recPend ws n id j).val := by
  have hr : recReg ws j = 64 := h
  have hv : (recPend ws n id j).val = BitVec.ofNat 64 (legalMode (n + 2 * j) (BitVec.ofNat 64 (fn ws (42 + 5 * j) 4) &&& ctlMask 0).toNat) := by
    simp only [recPend, recVal, hr, lt_irrefl, if_false, if_true]
  rw [hv]
  exact legalMode_legalMode _ _

/-- XRET restores a frame's MODE and the record's pending writes (R170). -/
theorem StrandLegal.xretState {st : Strand} (h : StrandLegal st) (n : Nat) {ws : List Word} (hm : LegalMode (BitVec.ofNat 64 (fn ws 16 4))) :
    StrandLegal (Machine.xretState st n ws) := by
  unfold Machine.xretState
  extract_lets +onlyGivenNames status f st1 st2 st3 st4 st5 st6 st7 st8
  have h1 : StrandLegal st1 := by
    simp only [st1]
    split
    · exact h
    · exact h.setCreg (stackReg_ne _) _
  have h8 : StrandLegal st8 := (((((((h1.setCreg (by decide) _).setCreg (by decide) _).setMode hm).setCreg (by decide) _).setCreg (by decide) _).setCreg
    (by decide) _).setCreg (by decide) _)
  clear_value st8
  refine ⟨h8.1, fun w hw hr => ?_⟩
  obtain ⟨j, -, rfl⟩ := List.mem_map.mp hw
  exact legalMode_recPend hr

theorem bad_none {b : Bool} {code table i aux per : Nat} : bad b code table i aux per = none ↔ b = false := by
  cases b <;> simp [bad]

theorem findSome_none_cons {α β : Type} {f : α → Option β} {a : α} {l : List α} :
    (a :: l).findSome? f = none ↔ f a = none ∧ l.findSome? f = none := by
  rw [List.findSome?_cons]
  cases f a <;> simp

/-- A value of 16 bits that has 0 under the mask of FORMAT and a legal FRM. -/
theorem LegalMode.of_format {n : Nat} (hn : n < 65536) (hz : n &&& 0x7FF8 = 0) (hf : n % 8 ≤ 4) : LegalMode (BitVec.ofNat 64 n) := by
  have h12 : n / 2 ^ 3 % 2 ^ 12 = 0 := by
    have h := Nat.and_div_two_pow (a := n) (b := 0x7FF8) (n := 3)
    rw [hz, show (0x7FF8 : Nat) / 2 ^ 3 = 2 ^ 12 - 1 from rfl, Nat.and_two_pow_sub_one_eq_mod] at h
    exact h.symm
  exact .of_fields (ien := n / 2 ^ 15) (sleep := 0) (frm := n % 8) (by omega) (by omega) (by omega) (by omega)

/-- A lesson entry that the check FORMAT lets through brings a MODE that MODE may hold (R413). -/
theorem legalMode_of_formatLesson {j : Job} {i : Nat} (h : formatLesson j i = none) : LegalMode (BitVec.ofNat 64 (j.les i).mode) := by
  have hw : (j.les i).mode < 65536 := (j.img.getD (j.n 19 3 + 16 * i + 1) 0).isLt
  simp only [formatLesson, firstOf, zeroIn, findSome_none_cons, id, bad_none, bne_eq_false_iff_eq, decide_eq_false_iff_not] at h
  obtain ⟨⟨-, hz, -⟩, hf, -⟩ := h
  exact .of_format hw hz (by omega)

end Sys2Proof.Machine
end

section
/-! PROOFS. What keeps every MODE legal and the settings agreed: the commands whose effect has more than one part (spec/02, spec/08, spec/13). -/

-- One after another: started side by side, this many short proofs take more memory than the check has.
set_option Elab.async false

open Sys2Proof Sys2Proof.Machine
namespace Sys2Proof.Machine
variable {A B : Prop}

/-- An instruction without a fault is not an illegal one. -/
theorem illegal_of_insnFault {c : Chip} {u : StrandId} {i : Insn} (h : insnFault c u i = none) : i.illegal = false := by
  simp only [insnFault] at h
  split at h
  · cases h
  · next hi => exact Bool.eq_false_iff.mpr hi

/-- An instruction without a fault has none in the rest of the order either. -/
theorem last_of_insnFault {c : Chip} {u : StrandId} {i : Insn} (h : insnFault c u i = none) : i.last = none := by
  simp only [insnFault] at h
  repeat' split at h
  all_goals simp_all only [reduceCtorEq]

/-- A return without a fault restores a MODE that MODE may hold (R169). -/
theorem legalMode_of_xretFault {c : Chip} {u : StrandId} (h : xretFault c u = none) : LegalMode (BitVec.ofNat 64
    (fn ((rdWords c (strandOf c u).spec (creg (strandOf c u) 30).toNat 96).map Prod.fst) 16 4)) := by
  simp only [xretFault] at h
  split at h
  · cases h
  split at h
  · cases h
  next hn => exact legalMode_of_frameFault hn

/-- What XRET does once its frame is read (R170). -/
theorem Kept.xretAct {c : Chip} (h : Kept A B c) (u : StrandId) {ws : List Word} (hm : LegalMode (BitVec.ofNat 64 (fn ws 16 4))) :
    Kept A B (Machine.modStrand { c with fresh := c.fresh + 22 } u (fun st => Machine.xretState st c.fresh ws)) :=
  Kept.modStrand (h.fresh _) _ fun hl => hl.xretState _ hm

/-- A sideband request is taken by the firmware or not at all (R593). -/
theorem KeptAns.onSide {s : State} (h : Kept A B s.chip) {f : State → State} (hf : ∀ t : State, Kept A B t.chip → Kept A B (f t).chip) :
    KeptAns A B (Machine.onSide s f) := by
  unfold Machine.onSide
  exact KeptAns.onMod (.iteS (hf _ (h.chooseMode _)) (h.chooseMode _))

theorem Kept.exceptionEntry {c : Chip} (h : Kept A B c) (u : StrandId) (insn : W32) : Kept A B (Machine.exceptionEntry u insn c) := by
  unfold Machine.exceptionEntry
  extract_lets +onlyGivenNames st
  split
  · exact .ite ((h.modStrandSame _).completeEntry _ _ _) h
  · split
    · exact h
    · split
      · exact (h.earlySlot _).takeExc _ _ _
      · exact .ite h ((h.faultSlot _).takeExc _ _ _)

theorem Kept.resultComputed {c : Chip} (h : Kept A B c) (u : StrandId) (reg : Nat) : Kept A B (Machine.resultComputed u reg c) := by
  unfold Machine.resultComputed
  split
  · exact h.quiet ((Quiet.refl _).commitDue _)
  · split
    · exact h
    · refine (h.modStrand _ fun hl => ?_).quiet ((Quiet.refl _).commitDue _)
      split
      · exact hl.computeFirst reg
      · exact hl.of_same rfl rfl

theorem KeptAns.execWait {s : State} (h : Kept A B s.chip) (u : StrandId) : KeptAns A B (Machine.execWait u s) := by
  unfold Machine.execWait
  refine KeptAns.onChip ?_
  extract_lets +onlyGivenNames st w
  split
  · exact h.waitEnd _ _
  · exact h.issue _ _ h fun _ => h.modStrandSame _ (fun st => by split <;> rfl) (fun st => by split <;> rfl)

theorem KeptAns.execXret {s : State} (h : Kept A B s.chip) (u : StrandId) : KeptAns A B (Machine.execXret u s) := by
  unfold Machine.execXret
  refine KeptAns.onChip ?_
  extract_lets +onlyGivenNames st f who i
  refine h.issue _ _ (Kept.ite h ((h.modStrandSame _).quiet ((Quiet.refl _).askReads _ _ _ _ _))) fun hnone => ?_
  have hx : xretFault s.chip u = none := last_of_insnFault hnone
  refine Kept.xretAct h u ?_
  exact legalMode_of_xretFault hx

theorem KeptAns.execMtc {s : State} (h : Kept A B s.chip) (u : StrandId) (g : Fin 32) (c' : Fin 64) : KeptAns A B (Machine.execMtc u g c' s) := by
  unfold Machine.execMtc
  refine KeptAns.onChip ?_
  extract_lets +onlyGivenNames v st d
  refine h.issue _ _ h fun hnone => h.putCtl _ (fun h0 => legalMode_of_ctlIllegal ?_) _
  exact h0 ▸ illegal_of_insnFault hnone

theorem KeptAns.execPowerStateRun {s : State} (hk : Kept A B s.chip) (p : Fin 2) (h : Fin 8) : KeptAns A B (Machine.execPowerStateRun p h s) := by
  unfold Machine.execPowerStateRun
  refine KeptAns.onMod ?_
  refine hk.perform _ _ _ fun _ => ?_
  split
  · exact hk
  · extract_lets +onlyGivenNames rooms
    refine Kept.powerDone (Kept.foldlS hk _ fun _ _ hd => ?_)
    refine Kept.modChip ?_
    exact ((hd.wakeTo _ _).unpause _).modRoom _ _

theorem KeptAns.execBreach {s : State} (h : Kept A B s.chip) (node : Fin 128) (temp : Nat) : KeptAns A B (Machine.execBreach node temp s) := by
  unfold Machine.execBreach
  refine KeptAns.onMod ?_
  extract_lets +onlyGivenNames t
  have ht : Kept A B t.chip := h.breachTrip _ _
  clear_value t
  exact .iteS ht.breachAbort ht

end Sys2Proof.Machine
end

section
/-! PROOFS. What keeps every MODE legal and the settings agreed: every command (spec/01 to spec/13). -/

-- One after another: started side by side, this many short proofs take more memory than the check has.
set_option Elab.async false

open Sys2Proof Sys2Proof.Machine
namespace Sys2Proof.Machine
variable {A B : Prop}

/-- Every command keeps both invariants; CLASSROOM_RELEASE keeps every MODE legal where the period's lessons bring legal ones. -/
theorem KeptAns.exec {s : State} (h : Kept A B s.chip)
    (hl : B → ∀ j, jobOf s = some j → ∀ l ∈ j.lessons (periodNow s), LegalMode (BitVec.ofNat 64 l.2.mode)) (i : Instr) :
    KeptAns A B (Machine.exec i s) := by
  unfold Machine.exec
  cases i with
  | nop | isync | bc | b | jr | tfence => exact KeptAns.onChip (h.issue _ _ h fun _ => h)
  | wait => exact KeptAns.execWait h _
  | cinv => exact KeptAns.onChip (h.issue _ _ h fun _ => h.modCore _)
  | xret => exact KeptAns.execXret h _
  | pmask | movi | call | callr | mfc | fmvfg | vmfc | vmvxs | tmfc => exact KeptAns.onChip (h.issue _ _ h fun _ => h.putReg _ (by omega) _ _)
  | trap | brk => exact KeptAns.onChip (h.owe _ _ _)
  | add | sub | and | or | xor | shl | shr | sar | cmpeq | cmpne | cmplt | cmpltu | min | max | minu | maxu | bperm | mul | mulh | mulhu =>
    exact KeptAns.onChip (h.alu2 _ _ _ _ _ _ _)
  | addi | andi | ori | xori | shli | shri | sari | movk | cmpeqi | cmplti | clz => exact KeptAns.onChip (h.alu1 _ _ _ _ _ _)
  | bfx | bfxs | bfi => exact KeptAns.onChip (h.bitField _ _ _ _ _ _ _)
  | div | divu | rem | remu => exact KeptAns.onChip (h.divide _ _ _ _ _ _ _)
  | ldw | ldws | ldd | ldds | ldq => exact KeptAns.onChip (h.load _ _ (by omega) _ _ _ _ _)
  | ldf => exact KeptAns.onChip (h.load _ _ (by simp only [fR]; omega) _ _ _ _ _)
  | stw | std | stq | stf => exact KeptAns.onChip (h.store _ _ _ _ _ _ _)
  | loop | loopi => exact KeptAns.onChip (h.loopInsn _ _ _ _ _)
  | mtc => exact KeptAns.execMtc h _ _ _
  | fadd | fsub | fmul | fmin | fmax => exact KeptAns.onChip (h.float2 _ _ _ _ _ _)
  | fabs | fneg | fcvtFp32Bf16 | fcvtFp32Fp16 | fcvtBf16Fp32 | fcvtFp16Fp32 => exact KeptAns.onChip (h.float1 _ _ (by simp only [fR]; omega) _ _ _)
  | fcmpeq | fcmplt | fcmple => exact KeptAns.onChip (h.floatCmp _ _ _ _ _ _)
  | fmvgf => exact KeptAns.onChip (h.issue _ _ h fun _ => h.putReg _ (by simp only [fR]; omega) _ _)
  | fma | fdiv | fsqrt => exact KeptAns.onChip (h.floatOp _ _ (by simp only [fR]; omega) _ _ _ _ _)
  | fcvtFp32I16 => exact KeptAns.onChip (h.float1 _ _ (by omega) _ _ _)
  | fcvtI16Fp32 => exact KeptAns.onChip (h.issue _ _ h fun _ => (h.putReg _ (by simp only [fR]; omega) _ _).putFlags _ _ _ _)
  | resultComputed => exact KeptAns.onChip (h.resultComputed _ _)
  | exceptionEntry => exact KeptAns.onChip (h.exceptionEntry _ _)
  | vlset | vlseti => exact KeptAns.onChip (h.vlsetInsn _ _ _ _ _ _ _)
  | vmtc => exact KeptAns.onChip (h.issue _ _ h fun _ => h.putReg _ (by simp only [vcR]; omega) _ _)
  | vld | vlds | vldx | vlseg => exact KeptAns.onChip (h.vLoad _ _ _ _ _ _ _ _ _ _)
  | vst | vsts | vstx | vsseg => exact KeptAns.onChip (h.vStore _ _ _ _ _ _ _ _ _)
  | vadd | vsub | vand | vor | vxor | vshl | vshr | vsar | vmin | vmax | vminu | vmaxu | vmul => exact KeptAns.onChip (h.vint2 _ _ _ _ _ _ _)
  | vcmpeq | vcmplt | vcmpltu => exact KeptAns.onChip (h.vcmp2 _ _ _ _ _ _ _)
  | vmv | vsplat => exact KeptAns.onChip (h.vecOp _ _ _ _ _ _ _ _ _ _)
  | vsadd | vssub | vsmulr | vsshr | vsshl => exact KeptAns.onChip (h.vfixed _ _ _ _ _ _ _ _)
  | vfadd | vfsub | vfmul | vfmin | vfmax => exact KeptAns.onChip (h.vfloat2 _ _ _ _ _ _ _)
  | vfabs | vfneg => exact KeptAns.onChip (h.vfloat1 _ _ _ _ _ _)
  | vfcmpeq | vfcmplt | vfcmple => exact KeptAns.onChip (h.vfloatCmp _ _ _ _ _ _ _)
  | vfredsum | vfredmax => exact KeptAns.onChip (h.vfred _ _ _ _ _ _ _)
  | vfma => exact KeptAns.onChip (h.vfloat _ _ _ _ _ _ _)
  | vcvtFp32Bf16 | vcvtFp32Fp16 | vcvtBf16Fp32 | vcvtFp16Fp32 | vcvtFp32I16 | vcvtI16Fp32 => exact KeptAns.onChip (h.vcvtElem _ _ _ _ _ _ _ _ _)
  | vcvtFp32Q8 | vcvtFp32Q6 | vcvtFp32Q4 | vcvtFp32I8 => exact KeptAns.onChip (h.vcvtPack _ _ _ _ _ _ _ _)
  | vcvtQ8Fp32 | vcvtQ6Fp32 | vcvtQ4Fp32 | vcvtI8Fp32 => exact KeptAns.onChip (h.vcvtUnpack _ _ _ _ _ _ _ _)
  | tshape | tmtc => exact KeptAns.onChip (h.issue _ _ h fun _ => h.putReg _ (by simp only [tcR]; omega) _ _)
  | tqdrop => exact KeptAns.onChip (h.issue _ _ h fun _ => h.modStrandSame _)
  | tld | tldT | tst | twld | twldT | tmac | taccZero | taccRead | taccSpill => exact KeptAns.onChip (h.tileIssue _ _ _ _ _ _ _ _ _ _)
  | tileCommit => exact KeptAns.onChip (h.tileCommit _)
  | bankAccess => exact KeptAns.onChip (h.bankAccess _ _ _)
  | cacheFill => exact KeptAns.onChip (h.cacheFill _)
  | dmaActivate => exact KeptAns.onChip (h.dmaActivate _)
  | dmaPieceIssue => exact KeptAns.onChip (h.dmaPieceIssue _)
  | dmaPieceWrite => exact KeptAns.onChip (h.dmaPieceWrite _ _)
  | hbmRequest => exact KeptAns.onChip (h.hbmRequest _ _ _ _ _ _)
  | ticketRecall => exact KeptAns.onChip (h.ticketRecall _ _)
  | dramAccess => exact KeptAns.onChip (h.dramAccess _ _ _)
  | refresh => exact KeptAns.onChip (h.refresh _ _)
  | patrolScrub => exact KeptAns.onChip (h.patrolScrub _ _)
  | refreshBandChange => exact KeptAns.onChip (h.bandChange _ _)
  | wipe => exact KeptAns.onChip (h.wipe _)
  | wipeEnd => exact KeptAns.onChip (h.wipeEnd _)
  | hmcKeyClear => exact KeptAns.onChip (h.hmcKeyClear _)
  | hmcKeyWrite => exact KeptAns.onChip (h.hmcKeyWrite _ _ _)
  | ethKeyClear => exact KeptAns.onChip (h.ethKeyClear _)
  | ethKeyWrite => exact KeptAns.onChip (h.ethKeyWrite _ _ _)
  | scacheInv => exact KeptAns.onChip (h.scacheInv _ _)
  | padHold => exact KeptAns.onChip (h.padHold _)
  | plReq => exact KeptAns.onChip (h.plReq _ _)
  | levelChangeDone => exact KeptAns.onChip (h.levelChangeDone _)
  | clk => exact KeptAns.onChip (h.clkOn _)
  | run => exact KeptAns.onChip (h.setRun1 _ _)
  | agreementCheck => exact KeptAns.onMod (Kept.startLate (Kept.modChip (h.agreementCheck _)))
  | blockDrained => exact KeptAns.onChip (h.blockDrained _)
  | stopHung => exact KeptAns.onChip (h.stopHung _)
  | registerWrite => exact KeptAns.onChip (h.busWrite _ _ _)
  | rcRead => exact KeptAns.onChip (h.busRead _ _)
  | ringRequest => exact KeptAns.onMod (h.ringRequest _ _ _ _)
  | ringResponse => exact KeptAns.onMod (h.ringResponse _)
  | report => exact KeptAns.onMod (h.reportIn _)
  | classroomRelease => exact KeptAns.onMod (h.classroomRelease _ hl)
  | lessonEnd => exact KeptAns.onMod (h.lessonEnd _)
  | pumpRelease => exact KeptAns.onMod (h.pumpRelease _)
  | pass1Complete => exact KeptAns.next (h.pass1Complete _)
  | pass2Complete => exact KeptAns.next (h.pass2Complete _)
  | deviceReady => exact KeptAns.onMod h.deviceReady
  | bellRing => exact KeptAns.onMod (h.bellRing _)
  | haltStop => exact KeptAns.onMod h.haltStop
  | periodHang => exact KeptAns.onMod h.periodHang
  | peerSilent => exact KeptAns.onMod (h.peerSilent _)
  | readyRepeat => exact KeptAns.onMod h.readyRepeat
  | windowStart => exact KeptAns.onMod (h.windowStart _)
  | frameTransmit => exact KeptAns.onMod (h.frameTransmit _)
  | data => exact KeptAns.onMod (h.onFrame _ _ _ fun _ _ ht => ht.dataIn _ _ _ _)
  | done => exact KeptAns.onMod (h.onFrame _ _ _ fun _ _ ht => ht.doneIn _ _ _)
  | nak => exact KeptAns.onMod (h.onFrame _ _ _ fun _ _ ht => ht.nakIn _ _ _)
  | nakTimer => exact KeptAns.onMod (h.nakTimer _ _)
  | doneTimeout => exact KeptAns.onMod (h.doneTimeout _ _)
  | ready => exact KeptAns.onMod (h.onFrame _ _ _ fun _ _ ht => ht.readyIn _ _)
  | ring => exact KeptAns.onMod (h.onFrame _ _ _ fun _ _ ht => ht.ringIn _ _)
  | halt => exact KeptAns.onMod (h.onFrame _ _ _ fun _ _ ht => ht.haltIn _ _)
  | agree => exact KeptAns.onMod (h.onFrame _ _ _ fun _ _ ht => ht.agreeIn _ _)
  | probe => exact KeptAns.onMod (h.onFrame _ _ _ fun _ _ ht => ht.probeIn _ _ _)
  | probeReply => exact KeptAns.onMod (h.onFrame _ _ _ fun _ _ ht => ht.probeReplyIn _ _)
  | wake => exact KeptAns.onMod (h.wakeFrame _ _)
  | linkDown => exact KeptAns.onMod (h.linkDown _)
  | linkUp => exact KeptAns.onMod (h.linkUp _)
  | roceRequestIn | roceRateRise => exact KeptAns.onMod (.iteS (h.modEth _ _) h)
  | roceCnp => exact KeptAns.onMod (h.roceCnp _)
  | phFlag => exact KeptAns.onMod (h.onBar _ (h.modPigeon _ _))
  | commandAccept => exact KeptAns.onMod h.commandAccept
  | longCommandDone => exact KeptAns.onMod h.longCommandDone
  | ident | heartbeat | jobStatus | retiredRows => exact KeptAns.onMod (h.perform _ _ _ fun _ => h.finish _ _)
  | roleHandover => exact KeptAns.onMod (h.perform _ _ _ fun _ => h.roleHandover _)
  | roleClaim => exact KeptAns.onMod (h.perform _ _ _ fun _ => h.roleClaim _)
  | eventRead => exact KeptAns.onMod (h.perform _ _ _ fun _ => h.eventRead _)
  | settingsRead => exact KeptAns.onMod (h.perform _ _ _ fun _ => h.settingsRead _)
  | settingsWrite => exact KeptAns.onMod (h.perform _ _ _ fun _ => h.settingsWrite _)
  | regRead => exact KeptAns.onMod (h.perform _ _ _ fun _ => h.regReadCmd _)
  | regWrite => exact KeptAns.onMod (h.perform _ _ _ fun _ => h.regWriteCmd _)
  | powerStateRun => exact KeptAns.execPowerStateRun h _ _
  | powerStatePause | powerStateRecess | powerStateClosed => exact KeptAns.onMod (h.perform _ _ _ fun _ => h.powerState _ _)
  | powerStateSleep => exact KeptAns.onMod (h.perform _ _ _ fun _ => h.sleepEntry _)
  | attest => exact KeptAns.onMod (h.perform _ _ _ fun _ => h.attest _)
  | ideKeyx => exact KeptAns.onMod (h.perform _ _ _ fun _ => h.ideKeyx _)
  | ideStart => exact KeptAns.onMod (h.perform _ _ _ fun _ => h.ideStart _)
  | ideFail => exact KeptAns.onMod (h.ideFail _)
  | fwBlock => exact KeptAns.onMod (h.perform _ _ _ fun _ => h.fwBlock _)
  | fwCommit => exact KeptAns.onMod (h.perform _ _ _ fun _ => h.fwCommit _)
  | fwAbort => exact KeptAns.onMod (h.perform _ _ _ fun _ => (h.emptyStaging.setDstate _).finish _ _)
  | jobBlock => exact KeptAns.onMod (h.perform _ _ _ fun _ => h.jobBlock _)
  | jobLoad => exact KeptAns.onMod (h.perform _ _ _ fun _ => h.jobLoad _)
  | jobStart => exact KeptAns.onMod (h.perform _ _ _ fun _ => h.jobStart _)
  | jobAbort => exact KeptAns.onMod (h.perform _ _ _ fun _ => h.jobAbort _)
  | jobUnload => exact KeptAns.onMod (h.perform _ _ _ fun _ => h.jobUnload _)
  | schoolRejoin => exact KeptAns.onMod (h.perform _ _ _ fun _ => h.schoolRejoin _)
  | roceQp => exact KeptAns.onMod (h.perform _ _ _ fun _ => h.roceQp _)
  | stageInput => exact KeptAns.onMod (h.perform _ _ _ fun _ => h.stageInput _)
  | stepResync => exact KeptAns.onMod (h.perform _ _ _ fun _ => h.stepResync _)
  | sleeperStatus => exact KeptAns.onMod (h.perform _ _ _ fun _ => h.sleeperStatus _)
  | shardRefill => exact KeptAns.onMod (h.perform _ _ _ fun _ => h.refillStart _)
  | shardResume => exact KeptAns.onMod (h.perform _ _ _ fun _ => h.shardResume _)
  | shardRebuild => exact KeptAns.onMod (h.perform _ _ _ fun _ => h.shardRebuild _)
  | checkpointSave => exact KeptAns.onMod (h.perform _ _ _ fun _ => h.checkpointSave _)
  | checkpointLoad => exact KeptAns.onMod (h.perform _ _ _ fun _ => h.checkpointLoad _)
  | replay => exact KeptAns.onMod (h.perform _ _ _ fun _ => h.replayStart _)
  | corePigeonMessage => exact KeptAns.onMod (h.corePigeonMessage _)
  | log => exact KeptAns.onMod (h.pigeonLog _)
  | query => exact KeptAns.onMod (h.pigeonQuery _)
  | corePigeonReply => exact KeptAns.onMod (h.corePigeonReply _)
  | ownerTimeout => exact KeptAns.onMod h.ownerTimedOut
  | pcieLinkChange => exact KeptAns.onMod (h.linkChange _ _)
  | pcieReset => exact KeptAns.onMod (h.pcieReset _ _)
  | coldReset => exact KeptAns.onMod h.coldReset
  | computeReset => exact KeptAns.onMod h.computeReset
  | classroomReset => exact KeptAns.onMod (h.classroomReset _)
  | coreReset => exact KeptAns.onMod (h.coreResetCmd _)
  | stackReset => exact KeptAns.onMod (h.stackResetCmd _)
  | portReset => exact KeptAns.onMod (h.portReset _)
  | romWatchdog => exact KeptAns.onMod h.romWatchdog
  | inputInRange | moduleRstRise => exact KeptAns.onMod ((h.modBoot _).beginStart)
  | inputOutOfRange => exact KeptAns.onMod ((h.modBoot _).coldState _)
  | moduleRstFall => exact KeptAns.onMod h.rstFall
  | fuseSense => exact KeptAns.onMod h.fuseSense
  | settingsMount => exact KeptAns.onMod h.settingsMount
  | hbmBringup => exact KeptAns.onMod h.hbmBringup
  | computeBringup => exact KeptAns.onMod h.computeBringup
  | stagingErase => exact KeptAns.onMod h.stagingErase
  | dstateReady => exact KeptAns.onMod h.dstateReady
  | flashRefresh => exact KeptAns.onMod (h.flashRefresh _)
  | flashBad => exact KeptAns.onMod (h.flashBad _)
  | eventLogFlush => exact KeptAns.onMod h.eventLogFlush
  | refusalStore => exact KeptAns.onMod (.iteS (h.putSetting _ _) h)
  | pllLock => exact KeptAns.onChip (h.pllLock _)
  | spillwayTick => exact KeptAns.onMod (h.spillwayTick _)
  | floorTick => exact KeptAns.onMod (.iteS (Kept.foldlS h _ fun _ _ hd => hd.floorDie _) h)
  | pl0ResidencyTick => exact KeptAns.onMod (.iteS h.residencyTick h)
  | sluiceDroop => exact KeptAns.onMod (h.sluiceDroop _)
  | sluiceRelease => exact KeptAns.onMod (h.sluiceRelease _)
  | breach => exact KeptAns.execBreach h _ _
  | breachClear => exact KeptAns.onMod h.breachClear
  | corePause => exact KeptAns.onMod (h.corePause _)
  | coreWake => exact KeptAns.onChip (h.coreWake _)
  | recessEntry => exact KeptAns.onMod (h.recessEntry _)
  | recessWake => exact KeptAns.onMod (.iteS (h.wakeTo _ _) h)
  | powerStateTimeout => exact KeptAns.onMod h.powerTimeout
  | deviceWake => exact KeptAns.onMod (.iteS (h.deviceWake _) h)
  | getTid | getPldmVersion | getPldmTypes | getPldmCommands | getPdrRepositoryInfo | getEndpointId | getMctpVersionSupport |
    getMessageTypeSupport =>
    exact KeptAns.onSide h fun _ hs => hs.sideAnswer _
  | getPdr => exact KeptAns.onSide h fun _ hs => hs.getPdr _
  | getSensorReading | getStateSensorReadings => exact KeptAns.onSide h fun _ hs => hs.sensorAnswer _ _ _
  | pldmUnsupported => exact KeptAns.onSide h fun _ hs => .iteS hs (hs.sideAnswer _)
  | setEndpointId => exact KeptAns.onSide h fun _ hs => .iteS (hs.sideAnswer _) ((hs.modSide _).sideAnswer _)
  | setaasa | entdaa => exact KeptAns.onMod (h.setDyn _)
  | droppedFrame => exact KeptAns.onMod (h.droppedFrame _ _)
  | priorityFlowControl => exact KeptAns.onMod (h.flowControl _ _ _)
  | roceResponse => exact KeptAns.onMod (h.roceResponse _ _ _)
  | roceRetry => exact KeptAns.onMod (h.roceRetry _ _)
  | commandBlockWrite => exact KeptAns.onMod (h.hostWrite _ _ _ _)
  | rcCounterSweep => exact KeptAns.onMod h.rcCounterSweep

end Sys2Proof.Machine
end

section
/-! PROOFS. What keeps every MODE legal and the settings agreed: the step (O5). -/

-- One after another: started side by side, this many short proofs take more memory than the check has.
set_option Elab.async false

open Sys2Proof Sys2Proof.Machine
namespace Sys2Proof.Machine
variable {A B : Prop}

/-- A step takes the queue's front command, or idles: both keep the invariants. -/
theorem KeptAns.step {s : State} (h : Kept A B s.chip)
    (hl : B → ∀ j, jobOf s = some j → ∀ l ∈ j.lessons (periodNow s), LegalMode (BitVec.ofNat 64 l.2.mode)) : KeptAns A B (Machine.step s) := by
  unfold Machine.step
  split
  · exact KeptAns.next h
  next c rest _ => exact KeptAns.exec (s := { s with pending := rest }) h hl c

end Sys2Proof.Machine

/-- Settles O5: every command keeps both invariants (`KeptAns.exec`), each where it is asked for. -/
theorem stepKeepsModesAndSettings : Obligations.StepKeepsModesAndSettings := by
  unfold Obligations.StepKeepsModesAndSettings
  refine ⟨fun s t hs ht => ?_, fun s t hs hl ht => ?_, fun j i h => legalMode_of_formatLesson h⟩
  · have h : Kept True False s.chip := ⟨fun _ => hs, False.elim⟩
    exact (KeptAns.step h False.elim t ht).1 trivial
  · have h : Kept False True s.chip := ⟨False.elim, fun _ => hs⟩
    exact (KeptAns.step h (fun _ => hl) t ht).2 trivial

end
